-- ==== Sys2Proof/Word.lean ====
section
/-!
DEFINITION. The word types of the MF9 (R8, R24, R57): bit vectors for what the manual treats as bits.
-/
namespace Sys2Proof

/-- A 64-bit value: an s or a register, a control register, a loop register (R24). -/
abbrev Word := BitVec 64

/-- One 32-bit element of a per-lane register (R16). -/
abbrev Lane := BitVec 32

/-- One byte of any memory (R8). -/
abbrev Byte := BitVec 8

/-- An 80-bit slot field of a control word (R59). -/
abbrev SlotBits := BitVec 80

/-- A 256-bit control word (R57). -/
abbrev ControlWord := BitVec 256

end Sys2Proof
end

