-- ==== Sys2Proof/Syntax.lean ====
section
/-!
DEFINITION. The abstract syntax: operand forms (R60, R65) and one constructor of Instr per row of
spec/opcode_table.json. A slot operation carries its slot field's operands; a step of the device carries the
parameters that name where it happens.
-/
namespace Sys2Proof

/-- Operand selector (R60). -/
inductive Sel where
  | reg (n : BitVec 6)
  | queue (h k : BitVec 3)
  | imm (j : BitVec 2)
  | whole
  | const (c : BitVec 5)
  deriving DecidableEq, Repr, Inhabited

/-- Destination file codes DF (R65), also RD.FILE (R55). -/
inductive RFile where
  | s | a | va | vb | vm | f
  deriving DecidableEq, Repr, Inhabited

/-- Rounding code of a slot (R65). -/
inductive Rm where
  | fmode | rne | rz | ru | rd
  deriving DecidableEq, Repr, Inhabited

/-- Scopes (R65, R231). -/
inductive Scope where
  | core | bench | dev | sys
  deriving DecidableEq, Repr, Inhabited

/-- Integer condition codes 0001 to 1010 (R65). -/
inductive Cond where
  | eq | ne | lt | ge | ltu | geu | gt | le | gtu | leu
  deriving DecidableEq, Repr, Inhabited

/-- Floating-point condition codes (R65). -/
inductive FCond where
  | eq | ne | lt | ge | gt | le | un | ord
  deriving DecidableEq, Repr, Inhabited

/-- Which loop register su.lrd and su.lwr name (R133). -/
inductive LoopReg where
  | lc | ls | le
  deriving DecidableEq, Repr, Inhabited

/-- Which stream counter su.srd reads (R134). -/
inductive Counter where
  | issued | completed
  deriving DecidableEq, Repr, Inhabited

/-- Conversion selectors of va.cvt (R162). -/
inductive Cvt where
  | f32ToF16 | f32ToBf16 | f16ToF32 | bf16ToF32 | f16ToBf16 | bf16ToF16 | f32ToInt32 | f32ToUint32
  | int32ToF32 | uint32ToF32 | f32ToInt8 | f32ToUint8 | int8ToF32 | uint8ToF32 | f32Rint
  deriving DecidableEq, Repr, Inhabited

/-- Tiered-scale formats (R102). -/
inductive TsFmt where
  | ts2 | ts4 | ts7
  deriving DecidableEq, Repr, Inhabited

/-- Forms of va.xfer and vb.xfer (R176). -/
inductive XferForm where
  | copy | first | first64 | ballot
  deriving DecidableEq, Repr, Inhabited

/-- Reduction and scan functions (R174). -/
inductive RedFn where
  | add | min | max | minu | maxu | and | or | xor
  deriving DecidableEq, Repr, Inhabited

/-- Atomic functions (R191). -/
inductive AtomFn where
  | add | min | max | minu | maxu | and | or | xor | xchg | cas
  deriving DecidableEq, Repr, Inhabited

/-- Queue side: consumer (head) or producer (tail) (R195, R196). -/
inductive QSide where
  | c | p
  deriving DecidableEq, Repr, Inhabited

/-- The five engine kinds (R58), in the order of TF.HELD and of the held repeats (R53, R67). -/
inductive Kind where
  | su | va | vb | mu | xu
  deriving DecidableEq, Repr, Inhabited

/-- Mask of a per-lane slot: the base register when ME = 1 (R17). -/
abbrev Mask := Option (BitVec 6)

/-- The stream fields STR, PM and SCP of an operation marked M (R63, R64). -/
structure Strm where
  str : BitVec 3
  pm : BitVec 8
  scp : Scope
  deriving DecidableEq, Repr, Inhabited

/-- Kinds of translated access (R280, R281). -/
inductive AccKind where
  | read | write | fetch | atomic
  deriving DecidableEq, Repr, Inhabited

/-- The two masters of R2 and R407. -/
inductive Master where
  | host | mgmt
  deriving DecidableEq, Repr, Inhabited

/-- Stores that hold error codes (R288): physical memory (by address), scratchpad (by key), accumulators (by key), a team slot's
register file (by register, or per-lane element), a core's L1 (by address), a partition's decode table (by entry), and a core's
translations (by virtual page number). -/
inductive Store where
  | mem | spad | acc | reg (z : Nat) (file : RFile) | l1 (core : Nat) | table (part : Nat) | tlb (core : Nat)
  deriving DecidableEq, Repr, Inhabited

/-- What a scrub read finds in a granule (R288, R290). -/
inductive SoftErr where
  | none | corrected | uncorrectable
  deriving DecidableEq, Repr, Inhabited

/-- The path an SPDM request arrives by (R413). -/
inductive Via where
  | mgmt
  | session (n : Nat)
  deriving DecidableEq, Repr, Inhabited

/-- A received or sent Bolcen Host Transport packet as it is on the wire (R358, R359, R415): the header fields, the encrypted payload, the
GCM tag, the peer's address and port and the device's, the MAC address it is sent to, and what its frame says: a fragment, options or
extension headers, DF, the TTL or hop limit, how many VLAN tags with the identifier and priority of the one, the UDP checksum. -/
structure Packet where
  ver : BitVec 4
  typ : BitVec 4
  sess : BitVec 16
  seq : BitVec 32
  ack : BitVec 32
  len : BitVec 32
  addr : BitVec 64
  arg : BitVec 32
  payload : List Byte
  peer : BitVec 128
  port : BitVec 16
  tag : BitVec 128
  frag : Bool
  opts : Bool
  df : Bool
  ttl : BitVec 8
  vlans : Nat
  vid : BitVec 12
  pcp : BitVec 3
  own : BitVec 128
  ownPort : BitVec 16
  mac : BitVec 48
  sum : BitVec 16
  deriving DecidableEq, Repr, Inhabited

/-- One constructor per row of spec/opcode_table.json: the slot operations of R87 to R91, then the steps of the device. -/
inductive Instr where
  /-- SU_NOP, R148. -/
  | suNop
  /-- SU_END, R149. -/
  | suEnd
  /-- SU_ADD, R126. -/
  | suAdd (sd : BitVec 6) (sa : Sel) (sb : Sel)
  /-- SU_SUB, R126. -/
  | suSub (sd : BitVec 6) (sa : Sel) (sb : Sel)
  /-- SU_MUL, R126. -/
  | suMul (sd : BitVec 6) (sa : Sel) (sb : Sel)
  /-- SU_MULH, R126. -/
  | suMulh (sd : BitVec 6) (sa : Sel) (sb : Sel)
  /-- SU_MULHU, R126. -/
  | suMulhu (sd : BitVec 6) (sa : Sel) (sb : Sel)
  /-- SU_AND, R126. -/
  | suAnd (sd : BitVec 6) (sa : Sel) (sb : Sel)
  /-- SU_OR, R126. -/
  | suOr (sd : BitVec 6) (sa : Sel) (sb : Sel)
  /-- SU_XOR, R126. -/
  | suXor (sd : BitVec 6) (sa : Sel) (sb : Sel)
  /-- SU_ANDN, R126. -/
  | suAndn (sd : BitVec 6) (sa : Sel) (sb : Sel)
  /-- SU_SHL, R126. -/
  | suShl (sd : BitVec 6) (sa : Sel) (sb : Sel)
  /-- SU_SHR, R126. -/
  | suShr (sd : BitVec 6) (sa : Sel) (sb : Sel)
  /-- SU_SAR, R126. -/
  | suSar (sd : BitVec 6) (sa : Sel) (sb : Sel)
  /-- SU_MIN, R126. -/
  | suMin (sd : BitVec 6) (sa : Sel) (sb : Sel)
  /-- SU_MAX, R126. -/
  | suMax (sd : BitVec 6) (sa : Sel) (sb : Sel)
  /-- SU_MINU, R126. -/
  | suMinu (sd : BitVec 6) (sa : Sel) (sb : Sel)
  /-- SU_MAXU, R126. -/
  | suMaxu (sd : BitVec 6) (sa : Sel) (sb : Sel)
  /-- SU_POPC, R126. -/
  | suPopc (sd : BitVec 6) (sa : Sel)
  /-- SU_CLZ, R126. -/
  | suClz (sd : BitVec 6) (sa : Sel)
  /-- SU_CTZ, R126. -/
  | suCtz (sd : BitVec 6) (sa : Sel)
  /-- SU_CMP, R126. -/
  | suCmp (cc : Cond) (sd : BitVec 6) (sa : Sel) (sb : Sel)
  /-- SU_SEL, R126. -/
  | suSel (sd : BitVec 6) (sa : Sel) (sb : Sel) (sc : Sel)
  /-- SU_MOV, R126. -/
  | suMov (sd : BitVec 6) (sa : Sel)
  /-- SU_BFX, R126. -/
  | suBfx (sd : BitVec 6) (sa : Sel) (sb : Sel) (sc : Sel)
  /-- SU_BMSK, R126. -/
  | suBmsk (sd : BitVec 6) (sa : Sel) (sb : Sel)
  /-- SU_BR, R127. -/
  | suBr (occ : Option Cond) (sa : Sel) (sb : Sel) (sc : Sel)
  /-- SU_CALL, R128. -/
  | suCall (sd : BitVec 6) (sc : Sel)
  /-- SU_CALLI, R129. -/
  | suCalli (sd : BitVec 6) (sa : Sel)
  /-- SU_JMPI, R129. -/
  | suJmpi (sa : Sel)
  /-- SU_LOOP, R130. -/
  | suLoop (lv : BitVec 3) (sa : Sel) (sc : Sel)
  /-- SU_LBRK, R132. -/
  | suLbrk (lv : BitVec 3)
  /-- SU_LRD, R133. -/
  | suLrd (sd : BitVec 6) (lv : BitVec 3) (lr : LoopReg)
  /-- SU_LWR, R133. -/
  | suLwr (lv : BitVec 3) (lr : LoopReg) (sa : Sel)
  /-- SU_SWAIT, R135. -/
  | suSwait (str : BitVec 3) (sb : Sel)
  /-- SU_SRD, R134. -/
  | suSrd (sd : BitVec 6) (str : BitVec 3) (ctr : Counter)
  /-- SU_BAR, R136. -/
  | suBar (lv : BitVec 3)
  /-- SU_SWPT, R138. -/
  | suSwpt (sa : Sel)
  /-- SU_BCAST, R139. -/
  | suBcast (df : RFile) (sd : BitVec 6) (sa : Sel)
  /-- SU_XFER, R140. -/
  | suXfer (sd : BitVec 6) (sa : Sel)
  /-- SU_CSRR, R141. -/
  | suCsrr (sd : BitVec 6) (csr : BitVec 12)
  /-- SU_CSRW, R142. -/
  | suCsrw (csr : BitVec 12) (sa : Sel)
  /-- SU_TRAP, R143. -/
  | suTrap (sa : Sel)
  /-- SU_ERET, R144. -/
  | suEret
  /-- SU_DPF, R145. -/
  | suDpf (sa : Sel) (sb : Sel)
  /-- SU_DINV, R146. -/
  | suDinv
  /-- SU_HCLR, R147. -/
  | suHclr (sa : Sel)
  /-- VA_ADD, R156. -/
  | vaAdd (mk : Mask) (vd : BitVec 6) (oa : Sel) (ob : Sel)
  /-- VA_SUB, R156. -/
  | vaSub (mk : Mask) (vd : BitVec 6) (oa : Sel) (ob : Sel)
  /-- VA_MUL, R156. -/
  | vaMul (mk : Mask) (vd : BitVec 6) (oa : Sel) (ob : Sel)
  /-- VA_MULH, R156. -/
  | vaMulh (mk : Mask) (vd : BitVec 6) (oa : Sel) (ob : Sel)
  /-- VA_MULHU, R156. -/
  | vaMulhu (mk : Mask) (vd : BitVec 6) (oa : Sel) (ob : Sel)
  /-- VA_AND, R156. -/
  | vaAnd (mk : Mask) (vd : BitVec 6) (oa : Sel) (ob : Sel)
  /-- VA_OR, R156. -/
  | vaOr (mk : Mask) (vd : BitVec 6) (oa : Sel) (ob : Sel)
  /-- VA_XOR, R156. -/
  | vaXor (mk : Mask) (vd : BitVec 6) (oa : Sel) (ob : Sel)
  /-- VA_ANDN, R156. -/
  | vaAndn (mk : Mask) (vd : BitVec 6) (oa : Sel) (ob : Sel)
  /-- VA_SHL, R156. -/
  | vaShl (mk : Mask) (vd : BitVec 6) (oa : Sel) (ob : Sel)
  /-- VA_SHR, R156. -/
  | vaShr (mk : Mask) (vd : BitVec 6) (oa : Sel) (ob : Sel)
  /-- VA_SAR, R156. -/
  | vaSar (mk : Mask) (vd : BitVec 6) (oa : Sel) (ob : Sel)
  /-- VA_MIN, R156. -/
  | vaMin (mk : Mask) (vd : BitVec 6) (oa : Sel) (ob : Sel)
  /-- VA_MAX, R156. -/
  | vaMax (mk : Mask) (vd : BitVec 6) (oa : Sel) (ob : Sel)
  /-- VA_MINU, R156. -/
  | vaMinu (mk : Mask) (vd : BitVec 6) (oa : Sel) (ob : Sel)
  /-- VA_MAXU, R156. -/
  | vaMaxu (mk : Mask) (vd : BitVec 6) (oa : Sel) (ob : Sel)
  /-- VA_CMP, R156. -/
  | vaCmp (mk : Mask) (cc : Cond) (vd : BitVec 6) (oa : Sel) (ob : Sel)
  /-- VA_SEL, R156. -/
  | vaSel (mk : Mask) (vd : BitVec 6) (oa : Sel) (ob : Sel) (oc : Sel)
  /-- VA_MOV, R156. -/
  | vaMov (mk : Mask) (vd : BitVec 6) (oa : Sel)
  /-- VA_ADDS, R156. -/
  | vaAdds (mk : Mask) (vd : BitVec 6) (oa : Sel) (ob : Sel)
  /-- VA_SUBS, R156. -/
  | vaSubs (mk : Mask) (vd : BitVec 6) (oa : Sel) (ob : Sel)
  /-- VA_ADD64, R157. -/
  | vaAdd64 (mk : Mask) (vd : BitVec 6) (oa : Sel) (ob : Sel)
  /-- VA_SUB64, R157. -/
  | vaSub64 (mk : Mask) (vd : BitVec 6) (oa : Sel) (ob : Sel)
  /-- VA_SHL64, R157. -/
  | vaShl64 (mk : Mask) (vd : BitVec 6) (oa : Sel) (ob : Sel)
  /-- VA_SHR64, R157. -/
  | vaShr64 (mk : Mask) (vd : BitVec 6) (oa : Sel) (ob : Sel)
  /-- VA_SAR64, R157. -/
  | vaSar64 (mk : Mask) (vd : BitVec 6) (oa : Sel) (ob : Sel)
  /-- VA_CMP64, R157. -/
  | vaCmp64 (mk : Mask) (cc : Cond) (vd : BitVec 6) (oa : Sel) (ob : Sel)
  /-- VA_FADD, R158. -/
  | vaFadd (mk : Mask) (rm : Rm) (vd : BitVec 6) (oa : Sel) (ob : Sel)
  /-- VA_FSUB, R158. -/
  | vaFsub (mk : Mask) (rm : Rm) (vd : BitVec 6) (oa : Sel) (ob : Sel)
  /-- VA_FMUL, R158. -/
  | vaFmul (mk : Mask) (rm : Rm) (vd : BitVec 6) (oa : Sel) (ob : Sel)
  /-- VA_FMA, R158. -/
  | vaFma (mk : Mask) (rm : Rm) (vd : BitVec 6) (oa : Sel) (ob : Sel) (oc : Sel)
  /-- VA_FNMA, R158. -/
  | vaFnma (mk : Mask) (rm : Rm) (vd : BitVec 6) (oa : Sel) (ob : Sel) (oc : Sel)
  /-- VA_FMIN, R160. -/
  | vaFmin (mk : Mask) (vd : BitVec 6) (oa : Sel) (ob : Sel)
  /-- VA_FMAX, R160. -/
  | vaFmax (mk : Mask) (vd : BitVec 6) (oa : Sel) (ob : Sel)
  /-- VA_FABS, R161. -/
  | vaFabs (mk : Mask) (vd : BitVec 6) (oa : Sel)
  /-- VA_FNEG, R161. -/
  | vaFneg (mk : Mask) (vd : BitVec 6) (oa : Sel)
  /-- VA_FCMP, R161. -/
  | vaFcmp (mk : Mask) (fc : FCond) (vd : BitVec 6) (oa : Sel) (ob : Sel)
  /-- VA_FCLS, R161. -/
  | vaFcls (mk : Mask) (vd : BitVec 6) (oa : Sel)
  /-- VA_CVT, R162. -/
  | vaCvt (mk : Mask) (cv : Cvt) (rm : Rm) (vd : BitVec 6) (oa : Sel)
  /-- VA_TSQ, R163. -/
  | vaTsq (mk : Mask) (ts : TsFmt) (rm : Rm) (vd : BitVec 6) (oa : Sel)
  /-- VA_TSDQ, R164. -/
  | vaTsdq (mk : Mask) (ts : TsFmt) (vd : BitVec 6) (oa : Sel) (ob : Sel)
  /-- VA_XFER, R176. -/
  | vaXfer (mk : Mask) (xf : XferForm) (df : RFile) (vd : BitVec 6) (oa : Sel)
  /-- VB_ADD, R156. -/
  | vbAdd (mk : Mask) (vd : BitVec 6) (oa : Sel) (ob : Sel)
  /-- VB_SUB, R156. -/
  | vbSub (mk : Mask) (vd : BitVec 6) (oa : Sel) (ob : Sel)
  /-- VB_AND, R156. -/
  | vbAnd (mk : Mask) (vd : BitVec 6) (oa : Sel) (ob : Sel)
  /-- VB_OR, R156. -/
  | vbOr (mk : Mask) (vd : BitVec 6) (oa : Sel) (ob : Sel)
  /-- VB_XOR, R156. -/
  | vbXor (mk : Mask) (vd : BitVec 6) (oa : Sel) (ob : Sel)
  /-- VB_SHL, R156. -/
  | vbShl (mk : Mask) (vd : BitVec 6) (oa : Sel) (ob : Sel)
  /-- VB_SHR, R156. -/
  | vbShr (mk : Mask) (vd : BitVec 6) (oa : Sel) (ob : Sel)
  /-- VB_MIN, R156. -/
  | vbMin (mk : Mask) (vd : BitVec 6) (oa : Sel) (ob : Sel)
  /-- VB_MAX, R156. -/
  | vbMax (mk : Mask) (vd : BitVec 6) (oa : Sel) (ob : Sel)
  /-- VB_CMP, R156. -/
  | vbCmp (mk : Mask) (cc : Cond) (vd : BitVec 6) (oa : Sel) (ob : Sel)
  /-- VB_SEL, R156. -/
  | vbSel (mk : Mask) (vd : BitVec 6) (oa : Sel) (ob : Sel) (oc : Sel)
  /-- VB_MOV, R156. -/
  | vbMov (mk : Mask) (vd : BitVec 6) (oa : Sel)
  /-- VB_POPC, R156. -/
  | vbPopc (mk : Mask) (vd : BitVec 6) (oa : Sel)
  /-- VB_CLZ, R156. -/
  | vbClz (mk : Mask) (vd : BitVec 6) (oa : Sel)
  /-- VB_FADD, R158. -/
  | vbFadd (mk : Mask) (rm : Rm) (vd : BitVec 6) (oa : Sel) (ob : Sel)
  /-- VB_FMUL, R158. -/
  | vbFmul (mk : Mask) (rm : Rm) (vd : BitVec 6) (oa : Sel) (ob : Sel)
  /-- VB_FMA, R158. -/
  | vbFma (mk : Mask) (rm : Rm) (vd : BitVec 6) (oa : Sel) (ob : Sel) (oc : Sel)
  /-- VB_RCP, R166. -/
  | vbRcp (mk : Mask) (vd : BitVec 6) (oa : Sel)
  /-- VB_RSQRT, R167. -/
  | vbRsqrt (mk : Mask) (vd : BitVec 6) (oa : Sel)
  /-- VB_SQRT, R168. -/
  | vbSqrt (mk : Mask) (vd : BitVec 6) (oa : Sel)
  /-- VB_EXP2, R169. -/
  | vbExp2 (mk : Mask) (vd : BitVec 6) (oa : Sel)
  /-- VB_LOG2, R170. -/
  | vbLog2 (mk : Mask) (vd : BitVec 6) (oa : Sel)
  /-- VB_SIN, R171. -/
  | vbSin (mk : Mask) (vd : BitVec 6) (oa : Sel)
  /-- VB_COS, R171. -/
  | vbCos (mk : Mask) (vd : BitVec 6) (oa : Sel)
  /-- VB_TANH, R172. -/
  | vbTanh (mk : Mask) (vd : BitVec 6) (oa : Sel)
  /-- VB_PERM, R173. -/
  | vbPerm (mk : Mask) (vd : BitVec 6) (oa : Sel) (ob : Sel)
  /-- VB_SHFL, R173. -/
  | vbShfl (mk : Mask) (vd : BitVec 6) (oa : Sel) (ob : Sel)
  /-- VB_ROT, R173. -/
  | vbRot (mk : Mask) (vd : BitVec 6) (oa : Sel) (ob : Sel)
  /-- VB_BCL, R173. -/
  | vbBcl (mk : Mask) (vd : BitVec 6) (oa : Sel) (ob : Sel)
  /-- VB_RED, R174. -/
  | vbRed (mk : Mask) (rf : RedFn) (vd : BitVec 6) (oa : Sel)
  /-- VB_SCAN, R174. -/
  | vbScan (mk : Mask) (rf : RedFn) (vd : BitVec 6) (oa : Sel)
  /-- VB_MATCH, R175. -/
  | vbMatch (mk : Mask) (vd : BitVec 6) (oa : Sel)
  /-- VB_XFER, R176. -/
  | vbXfer (mk : Mask) (xf : XferForm) (df : RFile) (vd : BitVec 6) (oa : Sel)
  /-- MU_LDS, R187. -/
  | muLds (mk : Mask) (df : RFile) (md : BitVec 6) (ab : BitVec 5) (oa : Sel) (st : Strm)
  /-- MU_STS, R187. -/
  | muSts (mk : Mask) (ab : BitVec 5) (oa : Sel) (ob : Sel) (st : Strm)
  /-- MU_GTHS, R187. -/
  | muGths (mk : Mask) (df : RFile) (md : BitVec 6) (ab : BitVec 5) (ob : Sel) (st : Strm)
  /-- MU_SCTS, R187. -/
  | muScts (mk : Mask) (ab : BitVec 5) (oa : Sel) (ob : Sel) (st : Strm)
  /-- MU_LDSA, R187. -/
  | muLdsa (md : BitVec 6) (ab : BitVec 5) (oa : Sel) (st : Strm)
  /-- MU_STSA, R187. -/
  | muStsa (md : BitVec 6) (ab : BitVec 5) (oa : Sel) (st : Strm)
  /-- MU_LDR, R188. -/
  | muLdr (mk : Mask) (df : RFile) (md : BitVec 6) (ab : BitVec 5) (oa : Sel) (ob : Sel) (st : Strm)
  /-- MU_STR, R188. -/
  | muStr (mk : Mask) (ab : BitVec 5) (oa : Sel) (ob : Sel) (st : Strm)
  /-- MU_ATMR, R188. -/
  | muAtmr (mk : Mask) (af : AtomFn) (md : BitVec 6) (ab : BitVec 5) (oa : Sel) (ob : Sel) (st : Strm)
  /-- MU_LDG, R189. -/
  | muLdg (mk : Mask) (df : RFile) (md : BitVec 6) (ab : BitVec 5) (oa : Sel) (st : Strm)
  /-- MU_STG, R189. -/
  | muStg (mk : Mask) (ab : BitVec 5) (oa : Sel) (ob : Sel) (st : Strm)
  /-- MU_GTHG, R189. -/
  | muGthg (mk : Mask) (df : RFile) (md : BitVec 6) (ab : BitVec 5) (ob : Sel) (st : Strm)
  /-- MU_SCTG, R189. -/
  | muSctg (mk : Mask) (ab : BitVec 5) (oa : Sel) (ob : Sel) (st : Strm)
  /-- MU_LDGA, R189. -/
  | muLdga (md : BitVec 6) (ab : BitVec 5) (oa : Sel) (st : Strm)
  /-- MU_STGA, R189. -/
  | muStga (md : BitVec 6) (ab : BitVec 5) (oa : Sel) (st : Strm)
  /-- MU_PFG, R189. -/
  | muPfg (ab : BitVec 5) (oa : Sel) (st : Strm)
  /-- MU_ATMS, R190. -/
  | muAtms (mk : Mask) (af : AtomFn) (md : BitVec 6) (ab : BitVec 5) (oa : Sel) (ob : Sel) (st : Strm)
  /-- MU_ATMG, R190. -/
  | muAtmg (mk : Mask) (af : AtomFn) (md : BitVec 6) (ab : BitVec 5) (oa : Sel) (ob : Sel) (st : Strm)
  /-- MU_QBIND, R194. -/
  | muQbind (qh : BitVec 3) (md : BitVec 6)
  /-- MU_QWAIT, R195. -/
  | muQwait (qs : QSide) (qh : BitVec 3) (oa : Sel)
  /-- MU_QADV, R196. -/
  | muQadv (qs : QSide) (qh : BitVec 3) (oa : Sel)
  /-- MU_TFULL, R197. -/
  | muTfull (oa : Sel)
  /-- MU_TGATE, R197. -/
  | muTgate (gate : Bool) (oa : Sel)
  /-- MU_TCLR, R197. -/
  | muTclr (oa : Sel)
  /-- MU_CWAIT, R197. -/
  | muCwait (oa : Sel) (ob : Sel)
  /-- MU_TSTAT, R197. -/
  | muTstat (md : BitVec 6) (oa : Sel)
  /-- MU_CPROG, R198. -/
  | muCprog (cp : BitVec 4) (ab : BitVec 5) (oa : Sel) (st : Strm)
  /-- MU_COPY, R200. -/
  | muCopy (cp : BitVec 4) (oa : Sel) (ob : Sel) (st : Strm)
  /-- MU_MSEND, R205. -/
  | muMsend (ab : BitVec 5) (oa : Sel) (ob : Sel) (st : Strm)
  /-- MU_MPOST, R206. -/
  | muMpost (ab : BitVec 5) (oa : Sel) (ob : Sel) (st : Strm)
  /-- MU_MPROBE, R208. -/
  | muMprobe (md : BitVec 6) (oa : Sel)
  /-- MU_CPOST, R209. -/
  | muCpost (ab : BitVec 5) (oa : Sel) (st : Strm)
  /-- MU_TGET, R210. -/
  | muTget (md : BitVec 6) (ab : BitVec 5) (oa : Sel) (st : Strm)
  /-- MU_ADDA, R193. -/
  | muAdda (md : BitVec 6) (ab : BitVec 5) (oa : Sel)
  /-- MU_MOVA, R193. -/
  | muMova (md : BitVec 6) (oa : Sel)
  /-- MU_XFER, R193. -/
  | muXfer (md : BitVec 6) (oa : Sel)
  /-- MU_XFER_PER_LANE, R193. -/
  | muXferPerLane (mk : Mask) (df : RFile) (md : BitVec 6) (oa : Sel)
  /-- XU_FMT, R220. -/
  | xuFmt (fa : BitVec 3) (oa : Sel) (st : Strm)
  /-- XU_MMA, R223. -/
  | xuMma (acc : BitVec 3) (fa : BitVec 3) (fb : BitVec 3) (oa : Sel) (ob : Sel) (oc : Sel) (st : Strm)
  /-- XU_MMAT, R223. -/
  | xuMmat (acc : BitVec 3) (fa : BitVec 3) (fb : BitVec 3) (oa : Sel) (ob : Sel) (oc : Sel) (st : Strm)
  /-- XU_DIST, R223. -/
  | xuDist (acc : BitVec 3) (fa : BitVec 3) (fb : BitVec 3) (oa : Sel) (ob : Sel) (oc : Sel) (st : Strm)
  /-- XU_TOPK, R228. -/
  | xuTopk (largest : Bool) (i32 : Bool) (acc : BitVec 3) (oa : Sel) (ob : Sel) (st : Strm)
  /-- XU_ACCST, R225. -/
  | xuAccst (i32 : Bool) (rm : Rm) (acc : BitVec 3) (fa : BitVec 3) (oa : Sel) (st : Strm)
  /-- XU_ACCLD, R226. -/
  | xuAccld (acc : BitVec 3) (fa : BitVec 3) (oa : Sel) (st : Strm)
  /-- XU_ACCZR, R227. -/
  | xuAcczr (acc : BitVec 3) (st : Strm)
  /-- XU_ACCADD, R227. -/
  | xuAccadd (acc : BitVec 3) (acb : BitVec 3) (st : Strm)
  /-- XU_ACCSCL, R227. -/
  | xuAccscl (acc : BitVec 3) (oc : Sel) (st : Strm)
  /-- XU_ACCMV, R227. -/
  | xuAccmv (acc : BitVec 3) (acb : BitVec 3) (st : Strm)
  /-- XU_ACCTR, R227. -/
  | xuAcctr (acc : BitVec 3) (acb : BitVec 3) (st : Strm)
  /-- WORD_FETCH, R71. -/
  | wordFetch (z : Nat)
  /-- DICT_REFILL, R74. -/
  | dictRefill (part : Nat) (k : Nat)
  /-- TEAM_SELECTION, R313. -/
  | teamSelection (part : Nat)
  /-- LANDING, R29. -/
  | landing (z : Nat)
  /-- BLOCKED_SLOT_COMMIT, R32. -/
  | blockedSlotCommit (z : Nat) (k : Nat)
  /-- ERET_RESUME, R144. -/
  | eretResume (z : Nat)
  /-- LOAD_REPLY, R185. -/
  | loadReply (id : Nat)
  /-- MISS_STATUS_RELEASE, R264. -/
  | missStatusRelease (core : Nat) (n : Nat)
  /-- TRANSLATION_WALK, R283. -/
  | translationWalk (core : Nat) (asid : BitVec 16) (va : BitVec 64) (acc : AccKind)
  /-- OPERATION_COMPLETION, R238. -/
  | operationCompletion (id : Nat)
  /-- QUEUE_HANDLE_UPDATE, R37. -/
  | queueHandleUpdate (core : Nat)
  /-- COPY_CHUNK_COMPLETE, R202. -/
  | copyChunkComplete (id : Nat)
  /-- COPY_COMPLETION, R202. -/
  | copyCompletion (id : Nat)
  /-- COPY_FAULT_SUSPEND, R203. -/
  | copyFaultSuspend (id : Nat)
  /-- OWNERSHIP_RECALL, R246. -/
  | ownershipRecall (line : Nat)
  /-- XU_ACCEPTANCE, R212. -/
  | xuAcceptance (core : Nat)
  /-- MATRIX_COMMAND_BEGIN, R214. -/
  | matrixCommandBegin (core : Nat)
  /-- MATRIX_COMMAND_COMPLETION, R216. -/
  | matrixCommandCompletion (core : Nat)
  /-- TRAP_ENTRY, R318. -/
  | trapEntry (z : Nat)
  /-- BLOCK_END, R149. -/
  | blockEnd (blk : Nat)
  /-- LAUNCH_COMPLETION, R302. -/
  | launchCompletion (launch : Nat)
  /-- MESSAGE_DELIVERY, R340. -/
  | messageDelivery (k : Nat)
  /-- MULTICAST_FORK, R347. -/
  | multicastFork (router : Nat) (k : Nat) (room : Nat)
  /-- TASK_POST_ACCEPT, R311. -/
  | taskPostAccept (id : Nat)
  /-- NOTIFY_WPTR, R294. -/
  | notifyWptr (q : Nat) (wptr : BitVec 16)
  /-- QDIS_GO, R293. -/
  | qdisGo (value : BitVec 64)
  /-- QUEUE_MAPPING, R296. -/
  | queueMapping (slot : Nat)
  /-- LAUNCH_START, R298. -/
  | launchStart (slot : Nat)
  /-- DEPENDENCE_READ, R301. -/
  | dependenceRead (slot : Nat)
  /-- BLOCK_PLACEMENT, R304. -/
  | blockPlacement (leaf : Nat)
  /-- DRAIN_HOLD, R307. -/
  | drainHold (part : Nat)
  /-- STARVATION_HOLD, R307. -/
  | starvationHold (leaf : Nat)
  /-- SWITCH_FLAG, R309. -/
  | switchFlag (leaf : Nat)
  /-- FUSION_CHANGE, R263. -/
  | fusionChange (bench : Nat)
  /-- SAVE, R326. -/
  | save (master : Master) (value : BitVec 64)
  /-- RESTORE, R333. -/
  | restore (master : Master) (value : BitVec 64)
  /-- TEAM_HALT, R327. -/
  | teamHalt (core : Nat)
  /-- BLOCK_SETTLE, R330. -/
  | blockSettle (blk : Nat)
  /-- RESTORE_PLACEMENT, R333. -/
  | restorePlacement (leaf : Nat)
  /-- CONTEXT_EVENT, R325. -/
  | contextEvent
  /-- DEBUG_HALT, R368. -/
  | debugHalt (z : Nat)
  /-- BENCH_STOP, R369. -/
  | benchStop (bench : Nat)
  /-- STEP_TIMEOUT, R372. -/
  | stepTimeout (z : Nat)
  /-- TRACE_SAMPLE, R389. -/
  | traceSample (part : Nat)
  /-- BANK_ARBITRATION, R258. -/
  | bankArbitration (core : Nat) (bank : Nat)
  /-- PORT_SLOT_SERVICE, R273. -/
  | portSlotService (core : Nat) (bank : Nat)
  /-- ARTCTL_GO, R268. -/
  | artctlGo (value : BitVec 64)
  /-- ART_COMMIT_COMPLETE, R268. -/
  | artCommitComplete
  /-- WMASK_WRITE, R270. -/
  | wmaskWrite (slice : Nat) (value : BitVec 64)
  /-- WAY_CONVERSION_COMPLETE, R270. -/
  | wayConversionComplete (slice : Nat) (way : Nat)
  /-- INVCTL_GO, R285. -/
  | invctlGo (value : BitVec 64)
  /-- INVALIDATION_COMPLETE, R285. -/
  | invalidationComplete
  /-- DTCTL_GO, R287. -/
  | dtctlGo
  /-- FILTER_EMPTIED, R287. -/
  | filterEmptied
  /-- SCRUB_READ, R290. -/
  | scrubRead (store : Store) (addr : Nat) (err : SoftErr)
  /-- FLIT_RECEIVE, R351. -/
  | flitReceive (port : Nat) (flit : BitVec 512)
  /-- TRANSLATION_PROBE, R355. -/
  | translationProbe (set : BitVec 16) (va : BitVec 64) (acc : AccKind)
  /-- LEVEL_4_ARRIVAL, R357. -/
  | level4Arrival (e : Nat)
  /-- LEVEL_4_RELEASE, R357. -/
  | level4Release (e : Nat)
  /-- WRITE, R360. -/
  | write (p : Packet)
  /-- READ, R360. -/
  | read (p : Packet)
  /-- NOTIFY, R360. -/
  | notify (p : Packet)
  /-- ACK, R362. -/
  | ack (p : Packet)
  /-- CTRL_READ, R360. -/
  | ctrlRead (p : Packet)
  /-- CTRL_WRITE, R360. -/
  | ctrlWrite (p : Packet)
  /-- RETRANSMISSION_TIMEOUT, R362. -/
  | retransmissionTimeout (sess : Nat)
  /-- ACK_TIMER, R362. -/
  | ackTimer (sess : Nat)
  /-- ARP_REQUEST, R415. -/
  | arpRequest (ip : BitVec 32)
  /-- NEIGHBOR_SOLICITATION, R415. -/
  | neighborSolicitation (ip6 : BitVec 128)
  /-- NETCFG_WRITE, R415. -/
  | netcfgWrite (master : Master) (off : Nat) (value : BitVec 64)
  /-- DEVICE_RESET, R410. -/
  | deviceReset
  /-- REGISTER_READ, R416. -/
  | registerRead (off : Nat)
  /-- REGISTER_WRITE, R416. -/
  | registerWrite (off : Nat) (value : BitVec 64)
  /-- INSTALL_SESSION, R416. -/
  | installSession (sess : Nat) (key : BitVec 256) (words : List (BitVec 64))
  /-- WRITE_FIRMWARE_IMAGE_CHUNK, R416. -/
  | writeFirmwareImageChunk (off : Nat) (bytes : List (BitVec 8))
  /-- COMMIT_IMAGE, R412. -/
  | commitImage
  /-- RAISE_SVN_MINIMUM, R416. -/
  | raiseSvnMinimum
  /-- RESET_DEVICE, R416. -/
  | resetDevice
  /-- READ_PLATFORM_EVENT_LOG, R416. -/
  | readPlatformEventLog
  /-- GET_DIGESTS, R413. -/
  | getDigests (via : Via)
  /-- GET_CERTIFICATE, R413. -/
  | getCertificate (via : Via) (slot : Nat) (off : Nat) (len : Nat)
  /-- CHALLENGE, R413. -/
  | challenge (via : Via) (slot : Nat) (nonce : BitVec 256)
  /-- GET_MEASUREMENTS, R413. -/
  | getMeasurements (via : Via) (index : Nat) (nonce : Option (BitVec 256))
  /-- PCAP_WRITE, R420. -/
  | pcapWrite (value : BitVec 64)
  /-- POWER_CAP_STEP, R420. -/
  | powerCapStep (leaf : Nat) (watts : Nat)
  /-- THERMAL_THROTTLING, R420. -/
  | thermalThrottling (leaf : Nat)
  /-- THERMAL_SHUTDOWN, R420. -/
  | thermalShutdown
  /-- COOLANT_LIMIT, R421. -/
  | coolantLimit
  /-- SYSTEM_REGISTER_WRITE, R12. -/
  | systemRegisterWrite (master : Master) (off : Nat) (value : BitVec 64)
  /-- QUEUE_DISABLE_COMPLETE, R293. -/
  | queueDisableComplete
  /-- ETHERNET_LINK_CHANGE, R411. -/
  | ethernetLinkChange (up : Bool)
  /-- COOLANT_RECOVERY, R421. -/
  | coolantRecovery
  /-- EVENT_COUNTER_INCREMENT, R391. -/
  | eventCounterIncrement
  /-- PRIORITY_FLOW_CONTROL_FRAME, R358. -/
  | priorityFlowControlFrame (paused : BitVec 8)
  /-- TDBG_STOP, R367. -/
  | tdbgStop (z : Nat)
  /-- TDBG_RESUME, R371. -/
  | tdbgResume (z : Nat)
  /-- TDBG_STEPGO, R372. -/
  | tdbgStepgo (z : Nat)
  /-- BENCHCMD_STOP, R369. -/
  | benchcmdStop (bench : Nat)
  /-- BENCHCMD_RESUME, R371. -/
  | benchcmdResume (bench : Nat)
  /-- DUMP, R381. -/
  | dump (core : Nat) (slot : Nat)
  /-- LOAD, R381. -/
  | load (core : Nat) (slot : Nat)
  /-- TRBASE_WRITE, R383. -/
  | trbaseWrite (core : Nat) (value : BitVec 64)
  /-- CNT_WRITE, R392. -/
  | cntWrite (core : Nat) (k : Nat) (sel : Bool) (value : BitVec 64)
  /-- RPL_BEGIN, R394. -/
  | rplBegin
  /-- RPL_RESTORE, R394. -/
  | rplRestore
  /-- RPL_RESET, R395. -/
  | rplReset
  /-- RPL_END, R396. -/
  | rplEnd
  deriving DecidableEq, Repr

end Sys2Proof
end

