-- ==== Sys2Proof/WellFormed.lean ====
section
/-!
DEFINITION. Which instruction terms have an encoding: the register limits, selector ranges, destination files and
function codes of R60 to R65 and R87 to R91, with the operand rules of the entries (R139, R140, R157, R176, R179,
R193). What depends on the team (budgets, allotments, mask ranges, privilege) is checked at issue and is not here
(R80).
-/
namespace Sys2Proof

/-- A selector whose register number is below lim; queue reads only where q holds (R60, R62 to R64, R157, R179). -/
def Sel.ok (lim : Nat) (q : Bool) : Sel → Bool
  | .reg n => decide (n.toNat < lim)
  | .queue _ _ => q
  | .imm _ => true
  | .whole => true
  | .const _ => true

/-- Registers of each file (R24). -/
def RFile.size : RFile → Nat
  | .s => 64
  | .a => 32
  | .va => 64
  | .vb => 32
  | .vm => 16
  | .f => 8

/-- A per-lane file (R24). -/
def RFile.perLane : RFile → Bool
  | .va => true
  | .vb => true
  | .vm => true
  | .s => false
  | .a => false
  | .f => false

/-- The forms of xfer that R176 accepts: own is the issuing kind's file. -/
def XferForm.ok (own : RFile) (df : RFile) : XferForm → Bool
  | .copy => df.perLane && df != own
  | .first => df == .s
  | .first64 => df == .s && own == .va
  | .ballot => df == .s

/-- The operand checks of one instruction; a step of the device has no encoding and nothing to check. -/
def Instr.wf : Instr → Bool
  | .suNop => true
  | .suEnd => true
  | .suAdd _ _ _ => true
  | .suSub _ _ _ => true
  | .suMul _ _ _ => true
  | .suMulh _ _ _ => true
  | .suMulhu _ _ _ => true
  | .suAnd _ _ _ => true
  | .suOr _ _ _ => true
  | .suXor _ _ _ => true
  | .suAndn _ _ _ => true
  | .suShl _ _ _ => true
  | .suShr _ _ _ => true
  | .suSar _ _ _ => true
  | .suMin _ _ _ => true
  | .suMax _ _ _ => true
  | .suMinu _ _ _ => true
  | .suMaxu _ _ _ => true
  | .suPopc _ _ => true
  | .suClz _ _ => true
  | .suCtz _ _ => true
  | .suCmp _ _ _ _ => true
  | .suSel _ _ _ _ => true
  | .suMov _ _ => true
  | .suBfx _ _ _ _ => true
  | .suBmsk _ _ _ => true
  | .suBr _ _ _ _ => true
  | .suCall _ _ => true
  | .suCalli _ _ => true
  | .suJmpi _ => true
  | .suLoop lv _ _ => decide (lv.toNat < 2)
  | .suLbrk lv => decide (lv.toNat < 2)
  | .suLrd _ lv _ => decide (lv.toNat < 2)
  | .suLwr lv _ _ => decide (lv.toNat < 2)
  | .suSwait _ _ => true
  | .suSrd _ _ _ => true
  | .suBar lv => decide (lv.toNat < 5)
  | .suSwpt _ => true
  | .suBcast df sd _ => (df == .va || df == .vb || df == .vm) && decide (sd.toNat < df.size)
  | .suXfer sd _ => decide (sd.toNat < 32)
  | .suCsrr _ _ => true
  | .suCsrw _ _ => true
  | .suTrap _ => true
  | .suEret => true
  | .suDpf _ _ => true
  | .suDinv => true
  | .suHclr _ => true
  | .vaAdd _ _ _ _ => true
  | .vaSub _ _ _ _ => true
  | .vaMul _ _ _ _ => true
  | .vaMulh _ _ _ _ => true
  | .vaMulhu _ _ _ _ => true
  | .vaAnd _ _ _ _ => true
  | .vaOr _ _ _ _ => true
  | .vaXor _ _ _ _ => true
  | .vaAndn _ _ _ _ => true
  | .vaShl _ _ _ _ => true
  | .vaShr _ _ _ _ => true
  | .vaSar _ _ _ _ => true
  | .vaMin _ _ _ _ => true
  | .vaMax _ _ _ _ => true
  | .vaMinu _ _ _ _ => true
  | .vaMaxu _ _ _ _ => true
  | .vaCmp _ _ _ _ _ => true
  | .vaSel _ _ _ _ _ => true
  | .vaMov _ _ _ => true
  | .vaAdds _ _ _ _ => true
  | .vaSubs _ _ _ _ => true
  | .vaAdd64 _ _ oa ob => oa.ok 64 false && ob.ok 64 false
  | .vaSub64 _ _ oa ob => oa.ok 64 false && ob.ok 64 false
  | .vaShl64 _ _ oa _ => oa.ok 64 false
  | .vaShr64 _ _ oa _ => oa.ok 64 false
  | .vaSar64 _ _ oa _ => oa.ok 64 false
  | .vaCmp64 _ _ _ oa ob => oa.ok 64 false && ob.ok 64 false
  | .vaFadd _ _ _ _ _ => true
  | .vaFsub _ _ _ _ _ => true
  | .vaFmul _ _ _ _ _ => true
  | .vaFma _ _ _ _ _ _ => true
  | .vaFnma _ _ _ _ _ _ => true
  | .vaFmin _ _ _ _ => true
  | .vaFmax _ _ _ _ => true
  | .vaFabs _ _ _ => true
  | .vaFneg _ _ _ => true
  | .vaFcmp _ _ _ _ _ => true
  | .vaFcls _ _ _ => true
  | .vaCvt _ _ _ _ _ => true
  | .vaTsq _ _ _ _ _ => true
  | .vaTsdq _ _ _ _ _ => true
  | .vaXfer _ xf df vd oa => xf.ok .va df && decide (vd.toNat < df.size) && (xf != .first64 || oa.ok 64 false)
  | .vbAdd _ vd oa ob => oa.ok 32 true && ob.ok 32 true && decide (vd.toNat < 32)
  | .vbSub _ vd oa ob => oa.ok 32 true && ob.ok 32 true && decide (vd.toNat < 32)
  | .vbAnd _ vd oa ob => oa.ok 32 true && ob.ok 32 true && decide (vd.toNat < 32)
  | .vbOr _ vd oa ob => oa.ok 32 true && ob.ok 32 true && decide (vd.toNat < 32)
  | .vbXor _ vd oa ob => oa.ok 32 true && ob.ok 32 true && decide (vd.toNat < 32)
  | .vbShl _ vd oa ob => oa.ok 32 true && ob.ok 32 true && decide (vd.toNat < 32)
  | .vbShr _ vd oa ob => oa.ok 32 true && ob.ok 32 true && decide (vd.toNat < 32)
  | .vbMin _ vd oa ob => oa.ok 32 true && ob.ok 32 true && decide (vd.toNat < 32)
  | .vbMax _ vd oa ob => oa.ok 32 true && ob.ok 32 true && decide (vd.toNat < 32)
  | .vbCmp _ _ vd oa ob => oa.ok 32 true && ob.ok 32 true && decide (vd.toNat < 32)
  | .vbSel _ vd oa ob oc => oa.ok 32 true && ob.ok 32 true && oc.ok 32 true && decide (vd.toNat < 32)
  | .vbMov _ vd oa => oa.ok 32 true && decide (vd.toNat < 32)
  | .vbPopc _ vd oa => oa.ok 32 true && decide (vd.toNat < 32)
  | .vbClz _ vd oa => oa.ok 32 true && decide (vd.toNat < 32)
  | .vbFadd _ _ vd oa ob => oa.ok 32 true && ob.ok 32 true && decide (vd.toNat < 32)
  | .vbFmul _ _ vd oa ob => oa.ok 32 true && ob.ok 32 true && decide (vd.toNat < 32)
  | .vbFma _ _ vd oa ob oc => oa.ok 32 true && ob.ok 32 true && oc.ok 32 true && decide (vd.toNat < 32)
  | .vbRcp _ vd oa => oa.ok 32 true && decide (vd.toNat < 32)
  | .vbRsqrt _ vd oa => oa.ok 32 true && decide (vd.toNat < 32)
  | .vbSqrt _ vd oa => oa.ok 32 true && decide (vd.toNat < 32)
  | .vbExp2 _ vd oa => oa.ok 32 true && decide (vd.toNat < 32)
  | .vbLog2 _ vd oa => oa.ok 32 true && decide (vd.toNat < 32)
  | .vbSin _ vd oa => oa.ok 32 true && decide (vd.toNat < 32)
  | .vbCos _ vd oa => oa.ok 32 true && decide (vd.toNat < 32)
  | .vbTanh _ vd oa => oa.ok 32 true && decide (vd.toNat < 32)
  | .vbPerm _ vd oa ob => oa.ok 32 true && ob.ok 32 true && decide (vd.toNat < 32)
  | .vbShfl _ vd oa ob => oa.ok 32 true && ob.ok 32 true && decide (vd.toNat < 32)
  | .vbRot _ vd oa ob => oa.ok 32 true && ob.ok 32 true && decide (vd.toNat < 32)
  | .vbBcl _ vd oa ob => oa.ok 32 true && ob.ok 32 true && decide (vd.toNat < 32)
  | .vbRed _ _ vd oa => oa.ok 32 true && decide (vd.toNat < 32)
  | .vbScan _ _ vd oa => oa.ok 32 true && decide (vd.toNat < 32)
  | .vbMatch _ vd oa => oa.ok 32 true && decide (vd.toNat < 32)
  | .vbXfer _ xf df vd oa => oa.ok 32 true && xf.ok .vb df && decide (vd.toNat < df.size)
  | .muLds _ df md _ oa _ => oa.ok 0 true && (df == .va || df == .vb || df == .vm) && decide (md.toNat < df.size)
  | .muSts _ _ oa ob _ => oa.ok 0 true && ob.ok 16 true
  | .muGths _ df md _ ob _ => ob.ok 16 true && (df == .va || df == .vb || df == .vm) && decide (md.toNat < df.size)
  | .muScts _ _ oa ob _ => oa.ok 16 true && ob.ok 16 true
  | .muLdsa md _ oa _ => oa.ok 32 true && decide (md.toNat < 32)
  | .muStsa md _ oa _ => oa.ok 32 true && decide (md.toNat < 32)
  | .muLdr _ df md _ oa ob _ => oa.ok 16 false && ob.ok 16 true && (df == .va || df == .vb || df == .vm) && decide (md.toNat < df.size)
  | .muStr _ _ oa ob _ => oa.ok 16 false && ob.ok 16 true
  | .muAtmr _ _ md _ oa ob _ => oa.ok 16 false && ob.ok 16 true && decide (md.toNat < 16)
  | .muLdg _ df md _ oa _ => oa.ok 0 false && (df == .va || df == .vb || df == .vm) && decide (md.toNat < df.size)
  | .muStg _ _ oa ob _ => oa.ok 0 false && ob.ok 16 true
  | .muGthg _ df md _ ob _ => ob.ok 16 false && (df == .va || df == .vb || df == .vm) && decide (md.toNat < df.size)
  | .muSctg _ _ oa ob _ => oa.ok 16 true && ob.ok 16 false
  | .muLdga md _ oa _ => oa.ok 32 false && decide (md.toNat < 32)
  | .muStga md _ oa _ => oa.ok 32 false && decide (md.toNat < 32)
  | .muPfg _ oa _ => oa.ok 32 false
  | .muAtms _ _ md _ oa ob _ => oa.ok 16 true && ob.ok 16 true && decide (md.toNat < 16)
  | .muAtmg _ _ md _ oa ob _ => oa.ok 16 false && ob.ok 16 true && decide (md.toNat < 16)
  | .muQbind _ md => decide (md.toNat < 32)
  | .muQwait _ _ oa => oa.ok 32 true
  | .muQadv _ _ oa => oa.ok 32 true
  | .muTfull oa => oa.ok 32 true
  | .muTgate _ oa => oa.ok 32 true
  | .muTclr oa => oa.ok 32 true
  | .muCwait oa ob => oa.ok 32 true && ob.ok 32 true
  | .muTstat md oa => oa.ok 32 true && decide (md.toNat < 32)
  | .muCprog _ _ oa _ => oa.ok 32 true
  | .muCopy _ oa ob _ => oa.ok 32 true && ob.ok 32 true
  | .muMsend _ oa ob _ => oa.ok 32 true && ob.ok 32 true
  | .muMpost _ oa ob _ => oa.ok 32 true && ob.ok 32 true
  | .muMprobe md oa => oa.ok 32 true && decide (md.toNat < 32)
  | .muCpost _ oa _ => oa.ok 32 true
  | .muTget md _ oa _ => oa.ok 32 true && decide (md.toNat < 32)
  | .muAdda md _ oa => oa.ok 32 true && decide (md.toNat < 32)
  | .muMova md oa => oa.ok 32 true && decide (md.toNat < 32)
  | .muXfer _ oa => oa.ok 32 true
  | .muXferPerLane _ df md oa => oa.ok 16 true && (df == .va || df == .vb) && decide (md.toNat < df.size)
  | .xuFmt _ oa _ => oa.ok 0 true
  | .xuMma _ _ _ oa ob oc _ => oa.ok 0 true && ob.ok 0 true && oc.ok 0 true
  | .xuMmat _ _ _ oa ob oc _ => oa.ok 0 true && ob.ok 0 true && oc.ok 0 true
  | .xuDist _ _ _ oa ob oc _ => oa.ok 0 true && ob.ok 0 true && oc.ok 0 true
  | .xuTopk _ _ _ oa ob _ => oa.ok 0 true && ob.ok 0 true
  | .xuAccst _ _ _ _ oa _ => oa.ok 0 true
  | .xuAccld _ _ oa _ => oa.ok 0 true
  | .xuAcczr _ _ => true
  | .xuAccadd _ _ _ => true
  | .xuAccscl _ oc _ => oc.ok 0 true
  | .xuAccmv _ _ _ => true
  | .xuAcctr _ _ _ => true
  | .wordFetch _ => true
  | .dictRefill _ _ => true
  | .teamSelection _ => true
  | .landing _ => true
  | .blockedSlotCommit _ _ => true
  | .eretResume _ => true
  | .loadReply _ => true
  | .missStatusRelease _ _ => true
  | .translationWalk _ _ _ _ => true
  | .operationCompletion _ => true
  | .queueHandleUpdate _ => true
  | .copyChunkComplete _ => true
  | .copyCompletion _ => true
  | .copyFaultSuspend _ => true
  | .ownershipRecall _ => true
  | .xuAcceptance _ => true
  | .matrixCommandBegin _ => true
  | .matrixCommandCompletion _ => true
  | .trapEntry _ => true
  | .blockEnd _ => true
  | .launchCompletion _ => true
  | .messageDelivery _ => true
  | .multicastFork _ _ _ => true
  | .taskPostAccept _ => true
  | .notifyWptr _ _ => true
  | .qdisGo _ => true
  | .queueMapping _ => true
  | .launchStart _ => true
  | .dependenceRead _ => true
  | .blockPlacement _ => true
  | .drainHold _ => true
  | .starvationHold _ => true
  | .switchFlag _ => true
  | .fusionChange _ => true
  | .save _ _ => true
  | .restore _ _ => true
  | .teamHalt _ => true
  | .blockSettle _ => true
  | .restorePlacement _ => true
  | .contextEvent => true
  | .tdbgStop _ => true
  | .tdbgResume _ => true
  | .tdbgStepgo _ => true
  | .benchcmdStop _ => true
  | .benchcmdResume _ => true
  | .debugHalt _ => true
  | .benchStop _ => true
  | .stepTimeout _ => true
  | .dump _ _ => true
  | .load _ _ => true
  | .traceSample _ => true
  | .trbaseWrite _ _ => true
  | .cntWrite _ _ _ _ => true
  | .rplBegin => true
  | .rplRestore => true
  | .rplReset => true
  | .rplEnd => true
  | .bankArbitration _ _ => true
  | .portSlotService _ _ => true
  | .artctlGo _ => true
  | .artCommitComplete => true
  | .wmaskWrite _ _ => true
  | .wayConversionComplete _ _ => true
  | .invctlGo _ => true
  | .invalidationComplete => true
  | .dtctlGo => true
  | .filterEmptied => true
  | .scrubRead _ _ _ => true
  | .flitReceive _ _ => true
  | .translationProbe _ _ _ => true
  | .level4Arrival _ => true
  | .level4Release _ => true
  | .write _ => true
  | .read _ => true
  | .notify _ => true
  | .ack _ => true
  | .ctrlRead _ => true
  | .ctrlWrite _ => true
  | .retransmissionTimeout _ => true
  | .ackTimer _ => true
  | .arpRequest _ => true
  | .neighborSolicitation _ => true
  | .netcfgWrite _ _ _ => true
  | .deviceReset => true
  | .registerRead _ => true
  | .registerWrite _ _ => true
  | .installSession _ _ _ => true
  | .writeFirmwareImageChunk _ _ => true
  | .commitImage => true
  | .raiseSvnMinimum => true
  | .resetDevice => true
  | .readPlatformEventLog => true
  | .getDigests _ => true
  | .getCertificate _ _ _ _ => true
  | .challenge _ _ _ => true
  | .getMeasurements _ _ _ => true
  | .pcapWrite _ => true
  | .powerCapStep _ _ => true
  | .thermalThrottling _ => true
  | .thermalShutdown => true
  | .coolantLimit => true
  | .systemRegisterWrite _ _ _ => true
  | .queueDisableComplete => true
  | .ethernetLinkChange _ => true
  | .coolantRecovery => true
  | .eventCounterIncrement => true
  | .priorityFlowControlFrame _ => true

/-- A well-formed instruction. -/
abbrev Instr.WellFormed (i : Instr) : Prop := i.wf = true

end Sys2Proof
end

