-- ==== Sys2Proof/Decode.lean ====
section
/-!
DEFINITION. The control word (R57 to R65), the opcode maps (R87 to R91), the structural hazard filter (R79, R80), and
the encoder. A dictionary entry is read by decodeEntry, which answers the word or the check that refuses it, with the
SUB reason of R320. Parcels (R69, R70) are at the end.
-/
namespace Sys2Proof

/-! ## Field codes (R60, R65) -/

/-- A selector from its eight bits; none in the reserved ranges 0x40–0x7F and 0xC5–0xDF (R60). -/
def Sel.dec (b : BitVec 8) : Option Sel :=
  if b < 0x40 then some (.reg (b.extractLsb' 0 6))
  else if b < 0x80 then none
  else if b < 0xC0 then some (.queue (b.extractLsb' 3 3) (b.extractLsb' 0 3))
  else if b < 0xC4 then some (.imm (b.extractLsb' 0 2))
  else if b = 0xC4 then some .whole
  else if b < 0xE0 then none
  else some (.const (b.extractLsb' 0 5))

/-- A selector of su.br without a condition, whose SA and SB are ignored (R127): a reserved value names nothing. -/
def Sel.decOr (b : BitVec 8) : Sel := (Sel.dec b).getD (.reg 0)

/-- The eight bits of a selector (R60). -/
def Sel.enc : Sel → BitVec 8
  | .reg n => 0b00#2 ++ n
  | .queue h k => 0b10#2 ++ (h ++ k)
  | .imm j => 0b110000#6 ++ j
  | .whole => 0xC4#8
  | .const c => 0b111#3 ++ c

/-- Destination file codes (R65). -/
def RFile.enc : RFile → BitVec 3
  | .s => 0 | .a => 1 | .va => 2 | .vb => 3 | .vm => 4 | .f => 5

/-- R65; 110 and 111 are reserved. -/
def RFile.dec (b : BitVec 3) : Option RFile :=
  match b.toNat with
  | 0 => some .s | 1 => some .a | 2 => some .va | 3 => some .vb | 4 => some .vm | 5 => some .f | _ => none

/-- The size of the file a DF code names; 64 for a reserved code, which is refused as a code (R65). -/
def dfSize (b : BitVec 3) : Nat :=
  match RFile.dec b with
  | some r => r.size
  | none => 64

/-- Rounding codes (R65). -/
def Rm.enc : Rm → BitVec 3
  | .fmode => 0 | .rne => 1 | .rz => 2 | .ru => 3 | .rd => 4

/-- R65; 101 to 111 are reserved. -/
def Rm.dec (b : BitVec 3) : Option Rm :=
  match b.toNat with
  | 0 => some .fmode | 1 => some .rne | 2 => some .rz | 3 => some .ru | 4 => some .rd | _ => none

/-- Scope codes (R65). -/
def Scope.enc : Scope → BitVec 2
  | .core => 0 | .bench => 1 | .dev => 2 | .sys => 3

/-- R65. -/
def Scope.dec (b : BitVec 2) : Scope :=
  match b.toNat with
  | 0 => .core | 1 => .bench | 2 => .dev | _ => .sys

/-- Integer condition codes (R65). -/
def Cond.enc : Cond → BitVec 4
  | .eq => 1 | .ne => 2 | .lt => 3 | .ge => 4 | .ltu => 5 | .geu => 6 | .gt => 7 | .le => 8 | .gtu => 9 | .leu => 10

/-- R65; 0000 and 1011 to 1111 are refused here. -/
def Cond.dec (b : BitVec 4) : Option Cond :=
  match b.toNat with
  | 1 => some .eq | 2 => some .ne | 3 => some .lt | 4 => some .ge | 5 => some .ltu | 6 => some .geu
  | 7 => some .gt | 8 => some .le | 9 => some .gtu | 10 => some .leu | _ => none

/-- The condition of su.br, where 0000 is always (R65, R127). -/
def Cond.decBr (b : BitVec 4) : Option (Option Cond) :=
  if b = 0 then some none else (Cond.dec b).map some

/-- R127. -/
def Cond.encBr : Option Cond → BitVec 4
  | none => 0
  | some c => c.enc

/-- Floating-point condition codes (R65). -/
def FCond.enc : FCond → BitVec 4
  | .eq => 1 | .ne => 2 | .lt => 3 | .ge => 4 | .gt => 7 | .le => 8 | .un => 11 | .ord => 12

/-- R65. -/
def FCond.dec (b : BitVec 4) : Option FCond :=
  match b.toNat with
  | 1 => some .eq | 2 => some .ne | 3 => some .lt | 4 => some .ge | 7 => some .gt | 8 => some .le
  | 11 => some .un | 12 => some .ord | _ => none

/-- Loop register selectors (R133). -/
def LoopReg.enc : LoopReg → BitVec 4
  | .lc => 0 | .ls => 1 | .le => 2

/-- R133; 3 to 15 are refused. -/
def LoopReg.dec (b : BitVec 4) : Option LoopReg :=
  match b.toNat with
  | 0 => some .lc | 1 => some .ls | 2 => some .le | _ => none

/-- Counter selectors (R134). -/
def Counter.enc : Counter → BitVec 4
  | .issued => 0 | .completed => 1

/-- R134; 2 to 15 are refused. -/
def Counter.dec (b : BitVec 4) : Option Counter :=
  match b.toNat with
  | 0 => some .issued | 1 => some .completed | _ => none

/-- Conversion selectors (R162). -/
def Cvt.enc : Cvt → BitVec 4
  | .f32ToF16 => 0 | .f32ToBf16 => 1 | .f16ToF32 => 2 | .bf16ToF32 => 3 | .f16ToBf16 => 4 | .bf16ToF16 => 5
  | .f32ToInt32 => 6 | .f32ToUint32 => 7 | .int32ToF32 => 8 | .uint32ToF32 => 9 | .f32ToInt8 => 10
  | .f32ToUint8 => 11 | .int8ToF32 => 12 | .uint8ToF32 => 13 | .f32Rint => 14

/-- R162; 1111 is refused. -/
def Cvt.dec (b : BitVec 4) : Option Cvt :=
  match b.toNat with
  | 0 => some .f32ToF16 | 1 => some .f32ToBf16 | 2 => some .f16ToF32 | 3 => some .bf16ToF32 | 4 => some .f16ToBf16
  | 5 => some .bf16ToF16 | 6 => some .f32ToInt32 | 7 => some .f32ToUint32 | 8 => some .int32ToF32
  | 9 => some .uint32ToF32 | 10 => some .f32ToInt8 | 11 => some .f32ToUint8 | 12 => some .int8ToF32
  | 13 => some .uint8ToF32 | 14 => some .f32Rint | _ => none

/-- Tiered-scale selectors (R163). -/
def TsFmt.enc : TsFmt → BitVec 4
  | .ts2 => 0 | .ts4 => 1 | .ts7 => 2

/-- R163; 3 to 15 are refused. -/
def TsFmt.dec (b : BitVec 4) : Option TsFmt :=
  match b.toNat with
  | 0 => some .ts2 | 1 => some .ts4 | 2 => some .ts7 | _ => none

/-- Forms of xfer (R176). -/
def XferForm.enc : XferForm → BitVec 4
  | .copy => 0 | .first => 1 | .first64 => 2 | .ballot => 3

/-- R176; 0100 to 1111 are refused. -/
def XferForm.dec (b : BitVec 4) : Option XferForm :=
  match b.toNat with
  | 0 => some .copy | 1 => some .first | 2 => some .first64 | 3 => some .ballot | _ => none

/-- Reduction functions (R174). -/
def RedFn.enc : RedFn → BitVec 4
  | .add => 0 | .min => 1 | .max => 2 | .minu => 3 | .maxu => 4 | .and => 5 | .or => 6 | .xor => 7

/-- R174; 1000 to 1111 are refused. -/
def RedFn.dec (b : BitVec 4) : Option RedFn :=
  match b.toNat with
  | 0 => some .add | 1 => some .min | 2 => some .max | 3 => some .minu | 4 => some .maxu | 5 => some .and
  | 6 => some .or | 7 => some .xor | _ => none

/-- Atomic functions (R191). -/
def AtomFn.enc : AtomFn → BitVec 4
  | .add => 0 | .min => 1 | .max => 2 | .minu => 3 | .maxu => 4 | .and => 5 | .or => 6 | .xor => 7 | .xchg => 8
  | .cas => 9

/-- R191; 1010 to 1111 are refused. -/
def AtomFn.dec (b : BitVec 4) : Option AtomFn :=
  match b.toNat with
  | 0 => some .add | 1 => some .min | 2 => some .max | 3 => some .minu | 4 => some .maxu | 5 => some .and
  | 6 => some .or | 7 => some .xor | 8 => some .xchg | 9 => some .cas | _ => none

/-- Queue sides (R195). -/
def QSide.enc : QSide → BitVec 4
  | .c => 0 | .p => 1

/-- R195; 2 to 15 are refused. -/
def QSide.dec (b : BitVec 4) : Option QSide :=
  match b.toNat with
  | 0 => some .c | 1 => some .p | _ => none

/-- FN of mu.tgate: bits 3:1 must be 0 (R197). -/
def gateDec (b : BitVec 4) : Option Bool :=
  if b < 2 then some (b = 1) else none

/-- FN of xu.topk: bit 0 largest, bit 1 the INT32 mode, bits 3:2 must be 0 (R228). -/
def topkDec (b : BitVec 4) : Option (Bool × Bool) :=
  if b < 4 then some (b.getLsbD 0, b.getLsbD 1) else none

/-! ## Slot fields (R61 to R64) -/

/-- The fields of a slot, of every kind together: each kind's layout has its own subset, and rsv holds the layout's
reserved bits. d is SD, VD or MD; a, b, c the selectors; code is CC or FN. -/
structure SlotF where
  op : BitVec 8 := 0
  d : BitVec 6 := 0
  a : BitVec 8 := 0
  b : BitVec 8 := 0
  c : BitVec 8 := 0
  code : BitVec 4 := 0
  csr : BitVec 12 := 0
  str : BitVec 3 := 0
  lv : BitVec 3 := 0
  df : BitVec 3 := 0
  mb : BitVec 6 := 0
  me : Bool := false
  rm : BitVec 3 := 0
  ab : BitVec 5 := 0
  pm : BitVec 8 := 0
  scp : BitVec 2 := 0
  qh : BitVec 3 := 0
  acc : BitVec 3 := 0
  fa : BitVec 3 := 0
  fb : BitVec 3 := 0
  acb : BitVec 3 := 0
  rsv : BitVec 25 := 0
  deriving DecidableEq, Repr

/-- Names of the fields of SlotF, for the Fields column of the maps. -/
inductive Fld where
  | d | a | b | c | code | csr | str | lv | df | mb | me | rm | ab | pm | scp | qh | acc | fa | fb | acb
  deriving DecidableEq, Repr

/-- A field is zero. -/
def SlotF.isZero (f : SlotF) : Fld → Bool
  | .d => f.d == 0 | .a => f.a == 0 | .b => f.b == 0 | .c => f.c == 0 | .code => f.code == 0 | .csr => f.csr == 0
  | .str => f.str == 0 | .lv => f.lv == 0 | .df => f.df == 0 | .mb => f.mb == 0 | .me => !f.me | .rm => f.rm == 0
  | .ab => f.ab == 0 | .pm => f.pm == 0 | .scp => f.scp == 0 | .qh => f.qh == 0 | .acc => f.acc == 0
  | .fa => f.fa == 0 | .fb => f.fb == 0 | .acb => f.acb == 0

/-- Every field name. -/
def Fld.all : List Fld :=
  [.d, .a, .b, .c, .code, .csr, .str, .lv, .df, .mb, .me, .rm, .ab, .pm, .scp, .qh, .acc, .fa, .fb, .acb]

/-- The mask of a per-lane slot (R17). -/
def SlotF.mask (f : SlotF) : Mask := if f.me then some f.mb else none

/-- The stream fields of an operation marked M. -/
def SlotF.strm (f : SlotF) : Strm := ⟨f.str, f.pm, Scope.dec f.scp⟩

/-- The layout of each kind, from bit 79 down (R61 to R64). -/
def SlotF.pack (k : Kind) (f : SlotF) : SlotBits :=
  match k with
  | .su => (f.op ++ f.d ++ f.a ++ f.b ++ f.c ++ f.code ++ f.csr ++ f.str ++ f.lv ++ f.df ++ f.rsv.setWidth 17).cast rfl
  | .va => (f.op ++ f.d ++ f.a ++ f.b ++ f.c ++ f.mb ++ BitVec.ofBool f.me ++ f.rm ++ f.code ++ f.df ++ f.rsv).cast rfl
  | .vb => (f.op ++ f.d ++ f.a ++ f.b ++ f.c ++ f.mb ++ BitVec.ofBool f.me ++ f.rm ++ f.code ++ f.df ++ f.rsv).cast rfl
  | .mu => (f.op ++ f.d ++ f.df ++ f.ab ++ f.a ++ f.b ++ f.mb ++ BitVec.ofBool f.me ++ f.str ++ f.pm ++ f.scp ++ f.code
      ++ f.qh ++ f.rsv.setWidth 15).cast rfl
  | .xu => (f.op ++ f.acc ++ f.fa ++ f.fb ++ f.a ++ f.b ++ f.c ++ f.str ++ f.pm ++ f.scp ++ f.code ++ f.acb
      ++ f.rsv.setWidth 19).cast rfl

/-- The fields of a slot of each kind, at the bits of R61 to R64. -/
def SlotF.unpack (k : Kind) (x : SlotBits) : SlotF :=
  match k with
  | .su =>
    { op := x.extractLsb' 72 8, d := x.extractLsb' 66 6, a := x.extractLsb' 58 8, b := x.extractLsb' 50 8,
      c := x.extractLsb' 42 8, code := x.extractLsb' 38 4, csr := x.extractLsb' 26 12, str := x.extractLsb' 23 3,
      lv := x.extractLsb' 20 3, df := x.extractLsb' 17 3, rsv := (x.extractLsb' 0 17).setWidth 25 }
  | .va =>
    { op := x.extractLsb' 72 8, d := x.extractLsb' 66 6, a := x.extractLsb' 58 8, b := x.extractLsb' 50 8,
      c := x.extractLsb' 42 8, mb := x.extractLsb' 36 6, me := x.getLsbD 35, rm := x.extractLsb' 32 3,
      code := x.extractLsb' 28 4, df := x.extractLsb' 25 3, rsv := x.extractLsb' 0 25 }
  | .vb =>
    { op := x.extractLsb' 72 8, d := x.extractLsb' 66 6, a := x.extractLsb' 58 8, b := x.extractLsb' 50 8,
      c := x.extractLsb' 42 8, mb := x.extractLsb' 36 6, me := x.getLsbD 35, rm := x.extractLsb' 32 3,
      code := x.extractLsb' 28 4, df := x.extractLsb' 25 3, rsv := x.extractLsb' 0 25 }
  | .mu =>
    { op := x.extractLsb' 72 8, d := x.extractLsb' 66 6, df := x.extractLsb' 63 3, ab := x.extractLsb' 58 5,
      a := x.extractLsb' 50 8, b := x.extractLsb' 42 8, mb := x.extractLsb' 36 6, me := x.getLsbD 35,
      str := x.extractLsb' 32 3, pm := x.extractLsb' 24 8, scp := x.extractLsb' 22 2, code := x.extractLsb' 18 4,
      qh := x.extractLsb' 15 3, rsv := (x.extractLsb' 0 15).setWidth 25 }
  | .xu =>
    { op := x.extractLsb' 72 8, acc := x.extractLsb' 69 3, fa := x.extractLsb' 66 3, fb := x.extractLsb' 63 3,
      a := x.extractLsb' 55 8, b := x.extractLsb' 47 8, c := x.extractLsb' 39 8, str := x.extractLsb' 36 3,
      pm := x.extractLsb' 28 8, scp := x.extractLsb' 26 2, code := x.extractLsb' 22 4, acb := x.extractLsb' 19 3,
      rsv := (x.extractLsb' 0 19).setWidth 25 }

/-! ## Opcode maps (R87 to R91) -/

/-- One row of a map, read at given fields. -/
structure Row where
  known : Bool
  hold : Bool
  used : List Fld
  sels : List (BitVec 8 × Nat × Bool)
  regLim : Nat
  ins : Option Instr
  deriving DecidableEq, Repr

/-- A listed opcode. -/
def row (hold : Bool) (used : List Fld) (sels : List (BitVec 8 × Nat × Bool)) (regLim : Nat) (ins : Option Instr) : Row :=
  ⟨true, hold, used, sels, regLim, ins⟩

/-- An opcode absent from the map. -/
def noRow : Row := ⟨false, false, [], [], 64, none⟩

/-- The SU opcode map (R87): for each opcode its H column, its fields, its selectors with their register limit and
whether a queue read may stand there, the size of its destination file, and the instruction. -/
def suRow (f : SlotF) : Row :=
  match f.op.toNat with
  | 0x00 => row false [] [] (64) <| some .suNop
  | 0x01 => row false [] [] (64) <| some .suEnd
  | 0x02 => row true [.d, .a, .b] [(f.a, 64, true), (f.b, 64, true)] (64) <| (Sel.dec f.a).bind fun sa => (Sel.dec f.b).bind fun sb => some (.suAdd f.d sa sb)
  | 0x03 => row true [.d, .a, .b] [(f.a, 64, true), (f.b, 64, true)] (64) <| (Sel.dec f.a).bind fun sa => (Sel.dec f.b).bind fun sb => some (.suSub f.d sa sb)
  | 0x04 => row true [.d, .a, .b] [(f.a, 64, true), (f.b, 64, true)] (64) <| (Sel.dec f.a).bind fun sa => (Sel.dec f.b).bind fun sb => some (.suMul f.d sa sb)
  | 0x05 => row true [.d, .a, .b] [(f.a, 64, true), (f.b, 64, true)] (64) <| (Sel.dec f.a).bind fun sa => (Sel.dec f.b).bind fun sb => some (.suMulh f.d sa sb)
  | 0x06 => row true [.d, .a, .b] [(f.a, 64, true), (f.b, 64, true)] (64) <| (Sel.dec f.a).bind fun sa => (Sel.dec f.b).bind fun sb => some (.suMulhu f.d sa sb)
  | 0x07 => row true [.d, .a, .b] [(f.a, 64, true), (f.b, 64, true)] (64) <| (Sel.dec f.a).bind fun sa => (Sel.dec f.b).bind fun sb => some (.suAnd f.d sa sb)
  | 0x08 => row true [.d, .a, .b] [(f.a, 64, true), (f.b, 64, true)] (64) <| (Sel.dec f.a).bind fun sa => (Sel.dec f.b).bind fun sb => some (.suOr f.d sa sb)
  | 0x09 => row true [.d, .a, .b] [(f.a, 64, true), (f.b, 64, true)] (64) <| (Sel.dec f.a).bind fun sa => (Sel.dec f.b).bind fun sb => some (.suXor f.d sa sb)
  | 0x0A => row true [.d, .a, .b] [(f.a, 64, true), (f.b, 64, true)] (64) <| (Sel.dec f.a).bind fun sa => (Sel.dec f.b).bind fun sb => some (.suAndn f.d sa sb)
  | 0x0B => row true [.d, .a, .b] [(f.a, 64, true), (f.b, 64, true)] (64) <| (Sel.dec f.a).bind fun sa => (Sel.dec f.b).bind fun sb => some (.suShl f.d sa sb)
  | 0x0C => row true [.d, .a, .b] [(f.a, 64, true), (f.b, 64, true)] (64) <| (Sel.dec f.a).bind fun sa => (Sel.dec f.b).bind fun sb => some (.suShr f.d sa sb)
  | 0x0D => row true [.d, .a, .b] [(f.a, 64, true), (f.b, 64, true)] (64) <| (Sel.dec f.a).bind fun sa => (Sel.dec f.b).bind fun sb => some (.suSar f.d sa sb)
  | 0x0E => row true [.d, .a, .b] [(f.a, 64, true), (f.b, 64, true)] (64) <| (Sel.dec f.a).bind fun sa => (Sel.dec f.b).bind fun sb => some (.suMin f.d sa sb)
  | 0x0F => row true [.d, .a, .b] [(f.a, 64, true), (f.b, 64, true)] (64) <| (Sel.dec f.a).bind fun sa => (Sel.dec f.b).bind fun sb => some (.suMax f.d sa sb)
  | 0x10 => row true [.d, .a, .b] [(f.a, 64, true), (f.b, 64, true)] (64) <| (Sel.dec f.a).bind fun sa => (Sel.dec f.b).bind fun sb => some (.suMinu f.d sa sb)
  | 0x11 => row true [.d, .a, .b] [(f.a, 64, true), (f.b, 64, true)] (64) <| (Sel.dec f.a).bind fun sa => (Sel.dec f.b).bind fun sb => some (.suMaxu f.d sa sb)
  | 0x12 => row true [.d, .a] [(f.a, 64, true)] (64) <| (Sel.dec f.a).bind fun sa => some (.suPopc f.d sa)
  | 0x13 => row true [.d, .a] [(f.a, 64, true)] (64) <| (Sel.dec f.a).bind fun sa => some (.suClz f.d sa)
  | 0x14 => row true [.d, .a] [(f.a, 64, true)] (64) <| (Sel.dec f.a).bind fun sa => some (.suCtz f.d sa)
  | 0x15 => row true [.code, .d, .a, .b] [(f.a, 64, true), (f.b, 64, true)] (64) <| (Cond.dec f.code).bind fun cc => (Sel.dec f.a).bind fun sa => (Sel.dec f.b).bind fun sb => some (.suCmp cc f.d sa sb)
  | 0x16 => row true [.d, .a, .b, .c] [(f.a, 64, true), (f.b, 64, true), (f.c, 64, true)] (64) <| (Sel.dec f.a).bind fun sa => (Sel.dec f.b).bind fun sb => (Sel.dec f.c).bind fun sc => some (.suSel f.d sa sb sc)
  | 0x17 => row true [.d, .a] [(f.a, 64, true)] (64) <| (Sel.dec f.a).bind fun sa => some (.suMov f.d sa)
  | 0x18 => row true [.d, .a, .b, .c] [(f.a, 64, true), (f.b, 64, true), (f.c, 64, true)] (64) <| (Sel.dec f.a).bind fun sa => (Sel.dec f.b).bind fun sb => (Sel.dec f.c).bind fun sc => some (.suBfx f.d sa sb sc)
  | 0x19 => row true [.d, .a, .b] [(f.a, 64, true), (f.b, 64, true)] (64) <| (Sel.dec f.a).bind fun sa => (Sel.dec f.b).bind fun sb => some (.suBmsk f.d sa sb)
  | 0x20 => row false [.code, .a, .b, .c] (if f.code = 0 then [(f.c, 64, true)] else [(f.a, 64, true), (f.b, 64, true), (f.c, 64, true)]) (64) <| (Cond.decBr f.code).bind fun occ => (Sel.dec f.c).bind fun sc => some (.suBr occ (Sel.decOr f.a) (Sel.decOr f.b) sc)
  | 0x21 => row false [.d, .c] [(f.c, 64, true)] (64) <| (Sel.dec f.c).bind fun sc => some (.suCall f.d sc)
  | 0x22 => row false [.d, .a] [(f.a, 64, true)] (64) <| (Sel.dec f.a).bind fun sa => some (.suCalli f.d sa)
  | 0x23 => row false [.a] [(f.a, 64, true)] (64) <| (Sel.dec f.a).bind fun sa => some (.suJmpi sa)
  | 0x24 => row false [.lv, .a, .c] [(f.a, 64, true), (f.c, 64, true)] (64) <| (Sel.dec f.a).bind fun sa => (Sel.dec f.c).bind fun sc => if f.lv.toNat < 2 then some (.suLoop f.lv sa sc) else none
  | 0x25 => row false [.lv] [] (64) <| if f.lv.toNat < 2 then some (.suLbrk f.lv) else none
  | 0x26 => row false [.d, .lv, .code] [] (64) <| (LoopReg.dec f.code).bind fun lr => if f.lv.toNat < 2 then some (.suLrd f.d f.lv lr) else none
  | 0x27 => row false [.lv, .code, .a] [(f.a, 64, true)] (64) <| (LoopReg.dec f.code).bind fun lr => (Sel.dec f.a).bind fun sa => if f.lv.toNat < 2 then some (.suLwr f.lv lr sa) else none
  | 0x28 => row false [.str, .b] [(f.b, 64, true)] (64) <| (Sel.dec f.b).bind fun sb => some (.suSwait f.str sb)
  | 0x29 => row false [.d, .str, .code] [] (64) <| (Counter.dec f.code).bind fun ctr => some (.suSrd f.d f.str ctr)
  | 0x2A => row false [.lv] [] (64) <| if f.lv.toNat < 5 then some (.suBar f.lv) else none
  | 0x2B => row false [.a] [(f.a, 64, true)] (64) <| (Sel.dec f.a).bind fun sa => some (.suSwpt sa)
  | 0x2C => row false [.df, .d, .a] [(f.a, 64, true)] (dfSize f.df) <| (RFile.dec f.df).bind fun df => (Sel.dec f.a).bind fun sa => if (df = .va ∨ df = .vb ∨ df = .vm) then some (.suBcast df f.d sa) else none
  | 0x2D => row false [.d, .a, .df] [(f.a, 64, true)] (32) <| (Sel.dec f.a).bind fun sa => if f.df = 1 then some (.suXfer f.d sa) else none
  | 0x30 => row false [.d, .csr] [] (64) <| some (.suCsrr f.d f.csr)
  | 0x31 => row false [.csr, .a] [(f.a, 64, true)] (64) <| (Sel.dec f.a).bind fun sa => some (.suCsrw f.csr sa)
  | 0x32 => row false [.a] [(f.a, 64, true)] (64) <| (Sel.dec f.a).bind fun sa => some (.suTrap sa)
  | 0x33 => row false [] [] (64) <| some .suEret
  | 0x34 => row false [.a, .b] [(f.a, 64, true), (f.b, 64, true)] (64) <| (Sel.dec f.a).bind fun sa => (Sel.dec f.b).bind fun sb => some (.suDpf sa sb)
  | 0x35 => row false [] [] (64) <| some .suDinv
  | 0x36 => row false [.a] [(f.a, 64, true)] (64) <| (Sel.dec f.a).bind fun sa => some (.suHclr sa)
  | _ => noRow

/-- The VA opcode map (R88): for each opcode its H column, its fields, its selectors with their register limit and
whether a queue read may stand there, the size of its destination file, and the instruction. -/
def vaRow (f : SlotF) : Row :=
  match f.op.toNat with
  | 0x01 => row true [.mb, .me, .d, .a, .b] [(f.a, 64, true), (f.b, 64, true)] (64) <| (Sel.dec f.a).bind fun oa => (Sel.dec f.b).bind fun ob => some (.vaAdd f.mask f.d oa ob)
  | 0x02 => row true [.mb, .me, .d, .a, .b] [(f.a, 64, true), (f.b, 64, true)] (64) <| (Sel.dec f.a).bind fun oa => (Sel.dec f.b).bind fun ob => some (.vaSub f.mask f.d oa ob)
  | 0x03 => row true [.mb, .me, .d, .a, .b] [(f.a, 64, true), (f.b, 64, true)] (64) <| (Sel.dec f.a).bind fun oa => (Sel.dec f.b).bind fun ob => some (.vaMul f.mask f.d oa ob)
  | 0x04 => row true [.mb, .me, .d, .a, .b] [(f.a, 64, true), (f.b, 64, true)] (64) <| (Sel.dec f.a).bind fun oa => (Sel.dec f.b).bind fun ob => some (.vaMulh f.mask f.d oa ob)
  | 0x05 => row true [.mb, .me, .d, .a, .b] [(f.a, 64, true), (f.b, 64, true)] (64) <| (Sel.dec f.a).bind fun oa => (Sel.dec f.b).bind fun ob => some (.vaMulhu f.mask f.d oa ob)
  | 0x06 => row true [.mb, .me, .d, .a, .b] [(f.a, 64, true), (f.b, 64, true)] (64) <| (Sel.dec f.a).bind fun oa => (Sel.dec f.b).bind fun ob => some (.vaAnd f.mask f.d oa ob)
  | 0x07 => row true [.mb, .me, .d, .a, .b] [(f.a, 64, true), (f.b, 64, true)] (64) <| (Sel.dec f.a).bind fun oa => (Sel.dec f.b).bind fun ob => some (.vaOr f.mask f.d oa ob)
  | 0x08 => row true [.mb, .me, .d, .a, .b] [(f.a, 64, true), (f.b, 64, true)] (64) <| (Sel.dec f.a).bind fun oa => (Sel.dec f.b).bind fun ob => some (.vaXor f.mask f.d oa ob)
  | 0x09 => row true [.mb, .me, .d, .a, .b] [(f.a, 64, true), (f.b, 64, true)] (64) <| (Sel.dec f.a).bind fun oa => (Sel.dec f.b).bind fun ob => some (.vaAndn f.mask f.d oa ob)
  | 0x0A => row true [.mb, .me, .d, .a, .b] [(f.a, 64, true), (f.b, 64, true)] (64) <| (Sel.dec f.a).bind fun oa => (Sel.dec f.b).bind fun ob => some (.vaShl f.mask f.d oa ob)
  | 0x0B => row true [.mb, .me, .d, .a, .b] [(f.a, 64, true), (f.b, 64, true)] (64) <| (Sel.dec f.a).bind fun oa => (Sel.dec f.b).bind fun ob => some (.vaShr f.mask f.d oa ob)
  | 0x0C => row true [.mb, .me, .d, .a, .b] [(f.a, 64, true), (f.b, 64, true)] (64) <| (Sel.dec f.a).bind fun oa => (Sel.dec f.b).bind fun ob => some (.vaSar f.mask f.d oa ob)
  | 0x0D => row true [.mb, .me, .d, .a, .b] [(f.a, 64, true), (f.b, 64, true)] (64) <| (Sel.dec f.a).bind fun oa => (Sel.dec f.b).bind fun ob => some (.vaMin f.mask f.d oa ob)
  | 0x0E => row true [.mb, .me, .d, .a, .b] [(f.a, 64, true), (f.b, 64, true)] (64) <| (Sel.dec f.a).bind fun oa => (Sel.dec f.b).bind fun ob => some (.vaMax f.mask f.d oa ob)
  | 0x0F => row true [.mb, .me, .d, .a, .b] [(f.a, 64, true), (f.b, 64, true)] (64) <| (Sel.dec f.a).bind fun oa => (Sel.dec f.b).bind fun ob => some (.vaMinu f.mask f.d oa ob)
  | 0x10 => row true [.mb, .me, .d, .a, .b] [(f.a, 64, true), (f.b, 64, true)] (64) <| (Sel.dec f.a).bind fun oa => (Sel.dec f.b).bind fun ob => some (.vaMaxu f.mask f.d oa ob)
  | 0x11 => row true [.mb, .me, .code, .d, .a, .b] [(f.a, 64, true), (f.b, 64, true)] (64) <| (Cond.dec f.code).bind fun cc => (Sel.dec f.a).bind fun oa => (Sel.dec f.b).bind fun ob => some (.vaCmp f.mask cc f.d oa ob)
  | 0x12 => row true [.mb, .me, .d, .a, .b, .c] [(f.a, 64, true), (f.b, 64, true), (f.c, 64, true)] (64) <| (Sel.dec f.a).bind fun oa => (Sel.dec f.b).bind fun ob => (Sel.dec f.c).bind fun oc => some (.vaSel f.mask f.d oa ob oc)
  | 0x13 => row true [.mb, .me, .d, .a] [(f.a, 64, true)] (64) <| (Sel.dec f.a).bind fun oa => some (.vaMov f.mask f.d oa)
  | 0x14 => row true [.mb, .me, .d, .a, .b] [(f.a, 64, true), (f.b, 64, true)] (64) <| (Sel.dec f.a).bind fun oa => (Sel.dec f.b).bind fun ob => some (.vaAdds f.mask f.d oa ob)
  | 0x15 => row true [.mb, .me, .d, .a, .b] [(f.a, 64, true), (f.b, 64, true)] (64) <| (Sel.dec f.a).bind fun oa => (Sel.dec f.b).bind fun ob => some (.vaSubs f.mask f.d oa ob)
  | 0x18 => row true [.mb, .me, .d, .a, .b] [(f.a, 64, false), (f.b, 64, false)] (64) <| (Sel.dec f.a).bind fun oa => (Sel.dec f.b).bind fun ob => some (.vaAdd64 f.mask f.d oa ob)
  | 0x19 => row true [.mb, .me, .d, .a, .b] [(f.a, 64, false), (f.b, 64, false)] (64) <| (Sel.dec f.a).bind fun oa => (Sel.dec f.b).bind fun ob => some (.vaSub64 f.mask f.d oa ob)
  | 0x1A => row true [.mb, .me, .d, .a, .b] [(f.a, 64, false), (f.b, 64, true)] (64) <| (Sel.dec f.a).bind fun oa => (Sel.dec f.b).bind fun ob => some (.vaShl64 f.mask f.d oa ob)
  | 0x1B => row true [.mb, .me, .d, .a, .b] [(f.a, 64, false), (f.b, 64, true)] (64) <| (Sel.dec f.a).bind fun oa => (Sel.dec f.b).bind fun ob => some (.vaShr64 f.mask f.d oa ob)
  | 0x1C => row true [.mb, .me, .d, .a, .b] [(f.a, 64, false), (f.b, 64, true)] (64) <| (Sel.dec f.a).bind fun oa => (Sel.dec f.b).bind fun ob => some (.vaSar64 f.mask f.d oa ob)
  | 0x1D => row true [.mb, .me, .code, .d, .a, .b] [(f.a, 64, false), (f.b, 64, false)] (64) <| (Cond.dec f.code).bind fun cc => (Sel.dec f.a).bind fun oa => (Sel.dec f.b).bind fun ob => some (.vaCmp64 f.mask cc f.d oa ob)
  | 0x20 => row true [.mb, .me, .rm, .d, .a, .b] [(f.a, 64, true), (f.b, 64, true)] (64) <| (Rm.dec f.rm).bind fun rm => (Sel.dec f.a).bind fun oa => (Sel.dec f.b).bind fun ob => some (.vaFadd f.mask rm f.d oa ob)
  | 0x21 => row true [.mb, .me, .rm, .d, .a, .b] [(f.a, 64, true), (f.b, 64, true)] (64) <| (Rm.dec f.rm).bind fun rm => (Sel.dec f.a).bind fun oa => (Sel.dec f.b).bind fun ob => some (.vaFsub f.mask rm f.d oa ob)
  | 0x22 => row true [.mb, .me, .rm, .d, .a, .b] [(f.a, 64, true), (f.b, 64, true)] (64) <| (Rm.dec f.rm).bind fun rm => (Sel.dec f.a).bind fun oa => (Sel.dec f.b).bind fun ob => some (.vaFmul f.mask rm f.d oa ob)
  | 0x23 => row true [.mb, .me, .rm, .d, .a, .b, .c] [(f.a, 64, true), (f.b, 64, true), (f.c, 64, true)] (64) <| (Rm.dec f.rm).bind fun rm => (Sel.dec f.a).bind fun oa => (Sel.dec f.b).bind fun ob => (Sel.dec f.c).bind fun oc => some (.vaFma f.mask rm f.d oa ob oc)
  | 0x24 => row true [.mb, .me, .rm, .d, .a, .b, .c] [(f.a, 64, true), (f.b, 64, true), (f.c, 64, true)] (64) <| (Rm.dec f.rm).bind fun rm => (Sel.dec f.a).bind fun oa => (Sel.dec f.b).bind fun ob => (Sel.dec f.c).bind fun oc => some (.vaFnma f.mask rm f.d oa ob oc)
  | 0x25 => row true [.mb, .me, .d, .a, .b] [(f.a, 64, true), (f.b, 64, true)] (64) <| (Sel.dec f.a).bind fun oa => (Sel.dec f.b).bind fun ob => some (.vaFmin f.mask f.d oa ob)
  | 0x26 => row true [.mb, .me, .d, .a, .b] [(f.a, 64, true), (f.b, 64, true)] (64) <| (Sel.dec f.a).bind fun oa => (Sel.dec f.b).bind fun ob => some (.vaFmax f.mask f.d oa ob)
  | 0x27 => row true [.mb, .me, .d, .a] [(f.a, 64, true)] (64) <| (Sel.dec f.a).bind fun oa => some (.vaFabs f.mask f.d oa)
  | 0x28 => row true [.mb, .me, .d, .a] [(f.a, 64, true)] (64) <| (Sel.dec f.a).bind fun oa => some (.vaFneg f.mask f.d oa)
  | 0x29 => row true [.mb, .me, .code, .d, .a, .b] [(f.a, 64, true), (f.b, 64, true)] (64) <| (FCond.dec f.code).bind fun fc => (Sel.dec f.a).bind fun oa => (Sel.dec f.b).bind fun ob => some (.vaFcmp f.mask fc f.d oa ob)
  | 0x2A => row true [.mb, .me, .d, .a] [(f.a, 64, true)] (64) <| (Sel.dec f.a).bind fun oa => some (.vaFcls f.mask f.d oa)
  | 0x30 => row true [.mb, .me, .code, .rm, .d, .a] [(f.a, 64, true)] (64) <| (Cvt.dec f.code).bind fun cv => (Rm.dec f.rm).bind fun rm => (Sel.dec f.a).bind fun oa => some (.vaCvt f.mask cv rm f.d oa)
  | 0x31 => row true [.mb, .me, .code, .rm, .d, .a] [(f.a, 64, true)] (64) <| (TsFmt.dec f.code).bind fun ts => (Rm.dec f.rm).bind fun rm => (Sel.dec f.a).bind fun oa => some (.vaTsq f.mask ts rm f.d oa)
  | 0x32 => row true [.mb, .me, .code, .d, .a, .b] [(f.a, 64, true), (f.b, 64, true)] (64) <| (TsFmt.dec f.code).bind fun ts => (Sel.dec f.a).bind fun oa => (Sel.dec f.b).bind fun ob => some (.vaTsdq f.mask ts f.d oa ob)
  | 0x38 => row true [.mb, .me, .code, .df, .d, .a] [(f.a, 64, f.code != 2)] (dfSize f.df) <| (XferForm.dec f.code).bind fun xf => (RFile.dec f.df).bind fun df => (Sel.dec f.a).bind fun oa => if xf.ok .va df = true then some (.vaXfer f.mask xf df f.d oa) else none
  | _ => noRow

/-- The VB opcode map (R89): for each opcode its H column, its fields, its selectors with their register limit and
whether a queue read may stand there, the size of its destination file, and the instruction. -/
def vbRow (f : SlotF) : Row :=
  match f.op.toNat with
  | 0x01 => row true [.mb, .me, .d, .a, .b] [(f.a, 32, true), (f.b, 32, true)] (32) <| (Sel.dec f.a).bind fun oa => (Sel.dec f.b).bind fun ob => some (.vbAdd f.mask f.d oa ob)
  | 0x02 => row true [.mb, .me, .d, .a, .b] [(f.a, 32, true), (f.b, 32, true)] (32) <| (Sel.dec f.a).bind fun oa => (Sel.dec f.b).bind fun ob => some (.vbSub f.mask f.d oa ob)
  | 0x06 => row true [.mb, .me, .d, .a, .b] [(f.a, 32, true), (f.b, 32, true)] (32) <| (Sel.dec f.a).bind fun oa => (Sel.dec f.b).bind fun ob => some (.vbAnd f.mask f.d oa ob)
  | 0x07 => row true [.mb, .me, .d, .a, .b] [(f.a, 32, true), (f.b, 32, true)] (32) <| (Sel.dec f.a).bind fun oa => (Sel.dec f.b).bind fun ob => some (.vbOr f.mask f.d oa ob)
  | 0x08 => row true [.mb, .me, .d, .a, .b] [(f.a, 32, true), (f.b, 32, true)] (32) <| (Sel.dec f.a).bind fun oa => (Sel.dec f.b).bind fun ob => some (.vbXor f.mask f.d oa ob)
  | 0x0A => row true [.mb, .me, .d, .a, .b] [(f.a, 32, true), (f.b, 32, true)] (32) <| (Sel.dec f.a).bind fun oa => (Sel.dec f.b).bind fun ob => some (.vbShl f.mask f.d oa ob)
  | 0x0B => row true [.mb, .me, .d, .a, .b] [(f.a, 32, true), (f.b, 32, true)] (32) <| (Sel.dec f.a).bind fun oa => (Sel.dec f.b).bind fun ob => some (.vbShr f.mask f.d oa ob)
  | 0x0D => row true [.mb, .me, .d, .a, .b] [(f.a, 32, true), (f.b, 32, true)] (32) <| (Sel.dec f.a).bind fun oa => (Sel.dec f.b).bind fun ob => some (.vbMin f.mask f.d oa ob)
  | 0x0E => row true [.mb, .me, .d, .a, .b] [(f.a, 32, true), (f.b, 32, true)] (32) <| (Sel.dec f.a).bind fun oa => (Sel.dec f.b).bind fun ob => some (.vbMax f.mask f.d oa ob)
  | 0x11 => row true [.mb, .me, .code, .d, .a, .b] [(f.a, 32, true), (f.b, 32, true)] (32) <| (Cond.dec f.code).bind fun cc => (Sel.dec f.a).bind fun oa => (Sel.dec f.b).bind fun ob => some (.vbCmp f.mask cc f.d oa ob)
  | 0x12 => row true [.mb, .me, .d, .a, .b, .c] [(f.a, 32, true), (f.b, 32, true), (f.c, 32, true)] (32) <| (Sel.dec f.a).bind fun oa => (Sel.dec f.b).bind fun ob => (Sel.dec f.c).bind fun oc => some (.vbSel f.mask f.d oa ob oc)
  | 0x13 => row true [.mb, .me, .d, .a] [(f.a, 32, true)] (32) <| (Sel.dec f.a).bind fun oa => some (.vbMov f.mask f.d oa)
  | 0x16 => row true [.mb, .me, .d, .a] [(f.a, 32, true)] (32) <| (Sel.dec f.a).bind fun oa => some (.vbPopc f.mask f.d oa)
  | 0x17 => row true [.mb, .me, .d, .a] [(f.a, 32, true)] (32) <| (Sel.dec f.a).bind fun oa => some (.vbClz f.mask f.d oa)
  | 0x20 => row true [.mb, .me, .rm, .d, .a, .b] [(f.a, 32, true), (f.b, 32, true)] (32) <| (Rm.dec f.rm).bind fun rm => (Sel.dec f.a).bind fun oa => (Sel.dec f.b).bind fun ob => some (.vbFadd f.mask rm f.d oa ob)
  | 0x22 => row true [.mb, .me, .rm, .d, .a, .b] [(f.a, 32, true), (f.b, 32, true)] (32) <| (Rm.dec f.rm).bind fun rm => (Sel.dec f.a).bind fun oa => (Sel.dec f.b).bind fun ob => some (.vbFmul f.mask rm f.d oa ob)
  | 0x23 => row true [.mb, .me, .rm, .d, .a, .b, .c] [(f.a, 32, true), (f.b, 32, true), (f.c, 32, true)] (32) <| (Rm.dec f.rm).bind fun rm => (Sel.dec f.a).bind fun oa => (Sel.dec f.b).bind fun ob => (Sel.dec f.c).bind fun oc => some (.vbFma f.mask rm f.d oa ob oc)
  | 0x38 => row true [.mb, .me, .code, .df, .d, .a] [(f.a, 32, true)] (dfSize f.df) <| (XferForm.dec f.code).bind fun xf => (RFile.dec f.df).bind fun df => (Sel.dec f.a).bind fun oa => if xf.ok .vb df = true then some (.vbXfer f.mask xf df f.d oa) else none
  | 0x40 => row true [.mb, .me, .d, .a] [(f.a, 32, true)] (32) <| (Sel.dec f.a).bind fun oa => some (.vbRcp f.mask f.d oa)
  | 0x41 => row true [.mb, .me, .d, .a] [(f.a, 32, true)] (32) <| (Sel.dec f.a).bind fun oa => some (.vbRsqrt f.mask f.d oa)
  | 0x42 => row true [.mb, .me, .d, .a] [(f.a, 32, true)] (32) <| (Sel.dec f.a).bind fun oa => some (.vbSqrt f.mask f.d oa)
  | 0x43 => row true [.mb, .me, .d, .a] [(f.a, 32, true)] (32) <| (Sel.dec f.a).bind fun oa => some (.vbExp2 f.mask f.d oa)
  | 0x44 => row true [.mb, .me, .d, .a] [(f.a, 32, true)] (32) <| (Sel.dec f.a).bind fun oa => some (.vbLog2 f.mask f.d oa)
  | 0x45 => row true [.mb, .me, .d, .a] [(f.a, 32, true)] (32) <| (Sel.dec f.a).bind fun oa => some (.vbSin f.mask f.d oa)
  | 0x46 => row true [.mb, .me, .d, .a] [(f.a, 32, true)] (32) <| (Sel.dec f.a).bind fun oa => some (.vbCos f.mask f.d oa)
  | 0x47 => row true [.mb, .me, .d, .a] [(f.a, 32, true)] (32) <| (Sel.dec f.a).bind fun oa => some (.vbTanh f.mask f.d oa)
  | 0x50 => row true [.mb, .me, .d, .a, .b] [(f.a, 32, true), (f.b, 32, true)] (32) <| (Sel.dec f.a).bind fun oa => (Sel.dec f.b).bind fun ob => some (.vbPerm f.mask f.d oa ob)
  | 0x51 => row true [.mb, .me, .d, .a, .b] [(f.a, 32, true), (f.b, 32, true)] (32) <| (Sel.dec f.a).bind fun oa => (Sel.dec f.b).bind fun ob => some (.vbShfl f.mask f.d oa ob)
  | 0x52 => row true [.mb, .me, .d, .a, .b] [(f.a, 32, true), (f.b, 32, true)] (32) <| (Sel.dec f.a).bind fun oa => (Sel.dec f.b).bind fun ob => some (.vbRot f.mask f.d oa ob)
  | 0x53 => row true [.mb, .me, .d, .a, .b] [(f.a, 32, true), (f.b, 32, true)] (32) <| (Sel.dec f.a).bind fun oa => (Sel.dec f.b).bind fun ob => some (.vbBcl f.mask f.d oa ob)
  | 0x54 => row true [.mb, .me, .code, .d, .a] [(f.a, 32, true)] (32) <| (RedFn.dec f.code).bind fun rf => (Sel.dec f.a).bind fun oa => some (.vbRed f.mask rf f.d oa)
  | 0x55 => row true [.mb, .me, .code, .d, .a] [(f.a, 32, true)] (32) <| (RedFn.dec f.code).bind fun rf => (Sel.dec f.a).bind fun oa => some (.vbScan f.mask rf f.d oa)
  | 0x56 => row true [.mb, .me, .d, .a] [(f.a, 32, true)] (32) <| (Sel.dec f.a).bind fun oa => some (.vbMatch f.mask f.d oa)
  | _ => noRow

/-- The MU opcode map (R90): for each opcode its H column, its fields, its selectors with their register limit and
whether a queue read may stand there, the size of its destination file, and the instruction. -/
def muRow (f : SlotF) : Row :=
  match f.op.toNat with
  | 0x01 => row true [.mb, .me, .df, .d, .ab, .a, .str, .pm, .scp] [(f.a, 0, true)] (dfSize f.df) <| (RFile.dec f.df).bind fun df => (Sel.dec f.a).bind fun oa => if (df = .va ∨ df = .vb ∨ df = .vm) then some (.muLds f.mask df f.d f.ab oa f.strm) else none
  | 0x02 => row true [.mb, .me, .ab, .a, .b, .str, .pm, .scp] [(f.a, 0, true), (f.b, 16, true)] (64) <| (Sel.dec f.a).bind fun oa => (Sel.dec f.b).bind fun ob => some (.muSts f.mask f.ab oa ob f.strm)
  | 0x03 => row true [.mb, .me, .df, .d, .ab, .b, .str, .pm, .scp] [(f.b, 16, true)] (dfSize f.df) <| (RFile.dec f.df).bind fun df => (Sel.dec f.b).bind fun ob => if (df = .va ∨ df = .vb ∨ df = .vm) then some (.muGths f.mask df f.d f.ab ob f.strm) else none
  | 0x04 => row true [.mb, .me, .ab, .a, .b, .str, .pm, .scp] [(f.a, 16, true), (f.b, 16, true)] (64) <| (Sel.dec f.a).bind fun oa => (Sel.dec f.b).bind fun ob => some (.muScts f.mask f.ab oa ob f.strm)
  | 0x05 => row true [.d, .ab, .a, .str, .pm, .scp, .df] [(f.a, 32, true)] (32) <| (Sel.dec f.a).bind fun oa => if f.df = 1 then some (.muLdsa f.d f.ab oa f.strm) else none
  | 0x06 => row false [.d, .ab, .a, .str, .pm, .scp] [(f.a, 32, true)] (32) <| (Sel.dec f.a).bind fun oa => some (.muStsa f.d f.ab oa f.strm)
  | 0x08 => row false [.mb, .me, .df, .d, .ab, .a, .b, .str, .pm, .scp] [(f.a, 16, false), (f.b, 16, true)] (dfSize f.df) <| (RFile.dec f.df).bind fun df => (Sel.dec f.a).bind fun oa => (Sel.dec f.b).bind fun ob => if (df = .va ∨ df = .vb ∨ df = .vm) then some (.muLdr f.mask df f.d f.ab oa ob f.strm) else none
  | 0x09 => row false [.mb, .me, .ab, .a, .b, .str, .pm, .scp] [(f.a, 16, false), (f.b, 16, true)] (64) <| (Sel.dec f.a).bind fun oa => (Sel.dec f.b).bind fun ob => some (.muStr f.mask f.ab oa ob f.strm)
  | 0x0A => row false [.mb, .me, .code, .d, .ab, .a, .b, .str, .pm, .scp] [(f.a, 16, false), (f.b, 16, true)] (16) <| (AtomFn.dec f.code).bind fun af => (Sel.dec f.a).bind fun oa => (Sel.dec f.b).bind fun ob => some (.muAtmr f.mask af f.d f.ab oa ob f.strm)
  | 0x10 => row true [.mb, .me, .df, .d, .ab, .a, .str, .pm, .scp] [(f.a, 0, false)] (dfSize f.df) <| (RFile.dec f.df).bind fun df => (Sel.dec f.a).bind fun oa => if (df = .va ∨ df = .vb ∨ df = .vm) then some (.muLdg f.mask df f.d f.ab oa f.strm) else none
  | 0x11 => row true [.mb, .me, .ab, .a, .b, .str, .pm, .scp] [(f.a, 0, false), (f.b, 16, true)] (64) <| (Sel.dec f.a).bind fun oa => (Sel.dec f.b).bind fun ob => some (.muStg f.mask f.ab oa ob f.strm)
  | 0x12 => row true [.mb, .me, .df, .d, .ab, .b, .str, .pm, .scp] [(f.b, 16, false)] (dfSize f.df) <| (RFile.dec f.df).bind fun df => (Sel.dec f.b).bind fun ob => if (df = .va ∨ df = .vb ∨ df = .vm) then some (.muGthg f.mask df f.d f.ab ob f.strm) else none
  | 0x13 => row true [.mb, .me, .ab, .a, .b, .str, .pm, .scp] [(f.a, 16, true), (f.b, 16, false)] (64) <| (Sel.dec f.a).bind fun oa => (Sel.dec f.b).bind fun ob => some (.muSctg f.mask f.ab oa ob f.strm)
  | 0x14 => row true [.d, .ab, .a, .str, .pm, .scp, .df] [(f.a, 32, false)] (32) <| (Sel.dec f.a).bind fun oa => if f.df = 1 then some (.muLdga f.d f.ab oa f.strm) else none
  | 0x15 => row false [.d, .ab, .a, .str, .pm, .scp] [(f.a, 32, false)] (32) <| (Sel.dec f.a).bind fun oa => some (.muStga f.d f.ab oa f.strm)
  | 0x16 => row true [.ab, .a, .str, .pm, .scp] [(f.a, 32, false)] (64) <| (Sel.dec f.a).bind fun oa => some (.muPfg f.ab oa f.strm)
  | 0x18 => row true [.mb, .me, .code, .d, .ab, .a, .b, .str, .pm, .scp] [(f.a, 16, true), (f.b, 16, true)] (16) <| (AtomFn.dec f.code).bind fun af => (Sel.dec f.a).bind fun oa => (Sel.dec f.b).bind fun ob => some (.muAtms f.mask af f.d f.ab oa ob f.strm)
  | 0x19 => row true [.mb, .me, .code, .d, .ab, .a, .b, .str, .pm, .scp] [(f.a, 16, false), (f.b, 16, true)] (16) <| (AtomFn.dec f.code).bind fun af => (Sel.dec f.a).bind fun oa => (Sel.dec f.b).bind fun ob => some (.muAtmg f.mask af f.d f.ab oa ob f.strm)
  | 0x20 => row false [.qh, .d] [] (32) <| some (.muQbind f.qh f.d)
  | 0x21 => row false [.code, .qh, .a] [(f.a, 32, true)] (64) <| (QSide.dec f.code).bind fun qs => (Sel.dec f.a).bind fun oa => some (.muQwait qs f.qh oa)
  | 0x22 => row true [.code, .qh, .a] [(f.a, 32, true)] (64) <| (QSide.dec f.code).bind fun qs => (Sel.dec f.a).bind fun oa => some (.muQadv qs f.qh oa)
  | 0x28 => row false [.a] [(f.a, 32, true)] (64) <| (Sel.dec f.a).bind fun oa => some (.muTfull oa)
  | 0x29 => row false [.code, .a] [(f.a, 32, true)] (64) <| (gateDec f.code).bind fun gate => (Sel.dec f.a).bind fun oa => some (.muTgate gate oa)
  | 0x2A => row false [.a] [(f.a, 32, true)] (64) <| (Sel.dec f.a).bind fun oa => some (.muTclr oa)
  | 0x2B => row false [.a, .b] [(f.a, 32, true), (f.b, 32, true)] (64) <| (Sel.dec f.a).bind fun oa => (Sel.dec f.b).bind fun ob => some (.muCwait oa ob)
  | 0x2C => row false [.d, .a] [(f.a, 32, true)] (32) <| (Sel.dec f.a).bind fun oa => some (.muTstat f.d oa)
  | 0x30 => row false [.code, .ab, .a, .str, .pm, .scp] [(f.a, 32, true)] (64) <| (Sel.dec f.a).bind fun oa => some (.muCprog f.code f.ab oa f.strm)
  | 0x31 => row false [.code, .a, .b, .str, .pm, .scp] [(f.a, 32, true), (f.b, 32, true)] (64) <| (Sel.dec f.a).bind fun oa => (Sel.dec f.b).bind fun ob => some (.muCopy f.code oa ob f.strm)
  | 0x38 => row false [.ab, .a, .b, .str, .pm, .scp] [(f.a, 32, true), (f.b, 32, true)] (64) <| (Sel.dec f.a).bind fun oa => (Sel.dec f.b).bind fun ob => some (.muMsend f.ab oa ob f.strm)
  | 0x39 => row false [.ab, .a, .b, .str, .pm, .scp] [(f.a, 32, true), (f.b, 32, true)] (64) <| (Sel.dec f.a).bind fun oa => (Sel.dec f.b).bind fun ob => some (.muMpost f.ab oa ob f.strm)
  | 0x3A => row false [.d, .a] [(f.a, 32, true)] (32) <| (Sel.dec f.a).bind fun oa => some (.muMprobe f.d oa)
  | 0x3B => row false [.ab, .a, .str, .pm, .scp] [(f.a, 32, true)] (64) <| (Sel.dec f.a).bind fun oa => some (.muCpost f.ab oa f.strm)
  | 0x3C => row false [.d, .ab, .a, .str, .pm, .scp] [(f.a, 32, true)] (32) <| (Sel.dec f.a).bind fun oa => some (.muTget f.d f.ab oa f.strm)
  | 0x40 => row true [.d, .ab, .a] [(f.a, 32, true)] (32) <| (Sel.dec f.a).bind fun oa => some (.muAdda f.d f.ab oa)
  | 0x41 => row false [.d, .a] [(f.a, 32, true)] (32) <| (Sel.dec f.a).bind fun oa => some (.muMova f.d oa)
  | 0x48 =>
    if f.df = 0 then row true [.d, .a, .df] [(f.a, 32, true)] (64) <| (Sel.dec f.a).bind fun oa => some (.muXfer f.d oa)
    else row true [.mb, .me, .df, .d, .a] [(f.a, 16, true)] (dfSize f.df) <| (RFile.dec f.df).bind fun df => (Sel.dec f.a).bind fun oa => if (df = .va ∨ df = .vb) then some (.muXferPerLane f.mask df f.d oa) else none
  | _ => noRow

/-- The XU opcode map (R91): for each opcode its H column, its fields, its selectors with their register limit and
whether a queue read may stand there, the size of its destination file, and the instruction. -/
def xuRow (f : SlotF) : Row :=
  match f.op.toNat with
  | 0x01 => row false [.fa, .a, .str, .pm, .scp] [(f.a, 0, true)] (64) <| (Sel.dec f.a).bind fun oa => some (.xuFmt f.fa oa f.strm)
  | 0x02 => row false [.acc, .fa, .fb, .a, .b, .c, .str, .pm, .scp] [(f.a, 0, true), (f.b, 0, true), (f.c, 0, true)] (64) <| (Sel.dec f.a).bind fun oa => (Sel.dec f.b).bind fun ob => (Sel.dec f.c).bind fun oc => some (.xuMma f.acc f.fa f.fb oa ob oc f.strm)
  | 0x03 => row false [.acc, .fa, .fb, .a, .b, .c, .str, .pm, .scp] [(f.a, 0, true), (f.b, 0, true), (f.c, 0, true)] (64) <| (Sel.dec f.a).bind fun oa => (Sel.dec f.b).bind fun ob => (Sel.dec f.c).bind fun oc => some (.xuMmat f.acc f.fa f.fb oa ob oc f.strm)
  | 0x04 => row false [.acc, .fa, .fb, .a, .b, .c, .str, .pm, .scp] [(f.a, 0, true), (f.b, 0, true), (f.c, 0, true)] (64) <| (Sel.dec f.a).bind fun oa => (Sel.dec f.b).bind fun ob => (Sel.dec f.c).bind fun oc => some (.xuDist f.acc f.fa f.fb oa ob oc f.strm)
  | 0x05 => row false [.code, .acc, .a, .b, .str, .pm, .scp] [(f.a, 0, true), (f.b, 0, true)] (64) <| (topkDec f.code).bind fun lg => (Sel.dec f.a).bind fun oa => (Sel.dec f.b).bind fun ob => some (.xuTopk lg.1 lg.2 f.acc oa ob f.strm)
  | 0x08 => row false [.code, .acc, .fa, .a, .str, .pm, .scp] [(f.a, 0, true)] (64) <| (Rm.dec (f.code.extractLsb' 0 3)).bind fun rm => (Sel.dec f.a).bind fun oa => some (.xuAccst (f.code.getLsbD 3) rm f.acc f.fa oa f.strm)
  | 0x09 => row false [.acc, .fa, .a, .str, .pm, .scp] [(f.a, 0, true)] (64) <| (Sel.dec f.a).bind fun oa => some (.xuAccld f.acc f.fa oa f.strm)
  | 0x0A => row false [.acc, .str, .pm, .scp] [] (64) <| some (.xuAcczr f.acc f.strm)
  | 0x0B => row false [.acc, .acb, .str, .pm, .scp] [] (64) <| some (.xuAccadd f.acc f.acb f.strm)
  | 0x0C => row false [.acc, .c, .str, .pm, .scp] [(f.c, 0, true)] (64) <| (Sel.dec f.c).bind fun oc => some (.xuAccscl f.acc oc f.strm)
  | 0x0D => row false [.acc, .acb, .str, .pm, .scp] [] (64) <| some (.xuAccmv f.acc f.acb f.strm)
  | 0x0E => row false [.acc, .acb, .str, .pm, .scp] [] (64) <| some (.xuAcctr f.acc f.acb f.strm)
  | _ => noRow

/-- The row of a kind's map at given fields. -/
def mapRow (k : Kind) (f : SlotF) : Row :=
  match k with
  | .su => suRow f
  | .va => vaRow f
  | .vb => vbRow f
  | .mu => muRow f
  | .xu => xuRow f

/-! ## Check 2 of R79 at one position -/

/-- A selector is in none of the reserved ranges of R60 and R62 to R64 and names an operand form the operation takes. -/
def selRangeOk (x : BitVec 8 × Nat × Bool) : Bool :=
  match Sel.dec x.1 with
  | some s => s.ok x.2.1 x.2.2
  | none => false

/-- What check 2 finds in a slot: the instruction, or the lowest SUB reason of R320 (4 hold bit, 5 opcode, 6 reserved bit
or unused field, 7 selector range, 8 register number, 9 RM, CC, DF or function code). A mask register number
without ME is a nonzero unused field (R150). -/
def decodeSlot (k : Kind) (hold : Bool) (x : SlotBits) : Except Nat Instr :=
  let f := SlotF.unpack k x
  let r := mapRow k f
  if !r.known then .error 5
  else if hold && !r.hold then .error 4
  else if f.rsv != 0 || (!f.me && f.mb != 0) || Fld.all.any (fun g => !r.used.contains g && !f.isZero g) then .error 6
  else if r.sels.any (fun y => !selRangeOk y) then .error 7
  else if decide (r.regLim ≤ f.d.toNat) then .error 8
  else
    match r.ins with
    | some i => .ok i
    | none => .error 9


/-- The fields of a slot operation (R61 to R64, R87 to R91); a step of the device has none. -/
def Instr.fields : Instr → SlotF
  | .suNop => { op := 0x00 }
  | .suEnd => { op := 0x01 }
  | .suAdd sd sa sb => { op := 0x02, d := sd, a := sa.enc, b := sb.enc }
  | .suSub sd sa sb => { op := 0x03, d := sd, a := sa.enc, b := sb.enc }
  | .suMul sd sa sb => { op := 0x04, d := sd, a := sa.enc, b := sb.enc }
  | .suMulh sd sa sb => { op := 0x05, d := sd, a := sa.enc, b := sb.enc }
  | .suMulhu sd sa sb => { op := 0x06, d := sd, a := sa.enc, b := sb.enc }
  | .suAnd sd sa sb => { op := 0x07, d := sd, a := sa.enc, b := sb.enc }
  | .suOr sd sa sb => { op := 0x08, d := sd, a := sa.enc, b := sb.enc }
  | .suXor sd sa sb => { op := 0x09, d := sd, a := sa.enc, b := sb.enc }
  | .suAndn sd sa sb => { op := 0x0A, d := sd, a := sa.enc, b := sb.enc }
  | .suShl sd sa sb => { op := 0x0B, d := sd, a := sa.enc, b := sb.enc }
  | .suShr sd sa sb => { op := 0x0C, d := sd, a := sa.enc, b := sb.enc }
  | .suSar sd sa sb => { op := 0x0D, d := sd, a := sa.enc, b := sb.enc }
  | .suMin sd sa sb => { op := 0x0E, d := sd, a := sa.enc, b := sb.enc }
  | .suMax sd sa sb => { op := 0x0F, d := sd, a := sa.enc, b := sb.enc }
  | .suMinu sd sa sb => { op := 0x10, d := sd, a := sa.enc, b := sb.enc }
  | .suMaxu sd sa sb => { op := 0x11, d := sd, a := sa.enc, b := sb.enc }
  | .suPopc sd sa => { op := 0x12, d := sd, a := sa.enc }
  | .suClz sd sa => { op := 0x13, d := sd, a := sa.enc }
  | .suCtz sd sa => { op := 0x14, d := sd, a := sa.enc }
  | .suCmp cc sd sa sb => { op := 0x15, code := cc.enc, d := sd, a := sa.enc, b := sb.enc }
  | .suSel sd sa sb sc => { op := 0x16, d := sd, a := sa.enc, b := sb.enc, c := sc.enc }
  | .suMov sd sa => { op := 0x17, d := sd, a := sa.enc }
  | .suBfx sd sa sb sc => { op := 0x18, d := sd, a := sa.enc, b := sb.enc, c := sc.enc }
  | .suBmsk sd sa sb => { op := 0x19, d := sd, a := sa.enc, b := sb.enc }
  | .suBr occ sa sb sc => { op := 0x20, code := Cond.encBr occ, a := sa.enc, b := sb.enc, c := sc.enc }
  | .suCall sd sc => { op := 0x21, d := sd, c := sc.enc }
  | .suCalli sd sa => { op := 0x22, d := sd, a := sa.enc }
  | .suJmpi sa => { op := 0x23, a := sa.enc }
  | .suLoop lv sa sc => { op := 0x24, lv := lv, a := sa.enc, c := sc.enc }
  | .suLbrk lv => { op := 0x25, lv := lv }
  | .suLrd sd lv lr => { op := 0x26, d := sd, lv := lv, code := lr.enc }
  | .suLwr lv lr sa => { op := 0x27, lv := lv, code := lr.enc, a := sa.enc }
  | .suSwait str sb => { op := 0x28, str := str, b := sb.enc }
  | .suSrd sd str ctr => { op := 0x29, d := sd, str := str, code := ctr.enc }
  | .suBar lv => { op := 0x2A, lv := lv }
  | .suSwpt sa => { op := 0x2B, a := sa.enc }
  | .suBcast df sd sa => { op := 0x2C, df := df.enc, d := sd, a := sa.enc }
  | .suXfer sd sa => { op := 0x2D, d := sd, a := sa.enc, df := 1 }
  | .suCsrr sd csr => { op := 0x30, d := sd, csr := csr }
  | .suCsrw csr sa => { op := 0x31, csr := csr, a := sa.enc }
  | .suTrap sa => { op := 0x32, a := sa.enc }
  | .suEret => { op := 0x33 }
  | .suDpf sa sb => { op := 0x34, a := sa.enc, b := sb.enc }
  | .suDinv => { op := 0x35 }
  | .suHclr sa => { op := 0x36, a := sa.enc }
  | .vaAdd mk vd oa ob => { op := 0x01, mb := mk.getD 0, me := mk.isSome, d := vd, a := oa.enc, b := ob.enc }
  | .vaSub mk vd oa ob => { op := 0x02, mb := mk.getD 0, me := mk.isSome, d := vd, a := oa.enc, b := ob.enc }
  | .vaMul mk vd oa ob => { op := 0x03, mb := mk.getD 0, me := mk.isSome, d := vd, a := oa.enc, b := ob.enc }
  | .vaMulh mk vd oa ob => { op := 0x04, mb := mk.getD 0, me := mk.isSome, d := vd, a := oa.enc, b := ob.enc }
  | .vaMulhu mk vd oa ob => { op := 0x05, mb := mk.getD 0, me := mk.isSome, d := vd, a := oa.enc, b := ob.enc }
  | .vaAnd mk vd oa ob => { op := 0x06, mb := mk.getD 0, me := mk.isSome, d := vd, a := oa.enc, b := ob.enc }
  | .vaOr mk vd oa ob => { op := 0x07, mb := mk.getD 0, me := mk.isSome, d := vd, a := oa.enc, b := ob.enc }
  | .vaXor mk vd oa ob => { op := 0x08, mb := mk.getD 0, me := mk.isSome, d := vd, a := oa.enc, b := ob.enc }
  | .vaAndn mk vd oa ob => { op := 0x09, mb := mk.getD 0, me := mk.isSome, d := vd, a := oa.enc, b := ob.enc }
  | .vaShl mk vd oa ob => { op := 0x0A, mb := mk.getD 0, me := mk.isSome, d := vd, a := oa.enc, b := ob.enc }
  | .vaShr mk vd oa ob => { op := 0x0B, mb := mk.getD 0, me := mk.isSome, d := vd, a := oa.enc, b := ob.enc }
  | .vaSar mk vd oa ob => { op := 0x0C, mb := mk.getD 0, me := mk.isSome, d := vd, a := oa.enc, b := ob.enc }
  | .vaMin mk vd oa ob => { op := 0x0D, mb := mk.getD 0, me := mk.isSome, d := vd, a := oa.enc, b := ob.enc }
  | .vaMax mk vd oa ob => { op := 0x0E, mb := mk.getD 0, me := mk.isSome, d := vd, a := oa.enc, b := ob.enc }
  | .vaMinu mk vd oa ob => { op := 0x0F, mb := mk.getD 0, me := mk.isSome, d := vd, a := oa.enc, b := ob.enc }
  | .vaMaxu mk vd oa ob => { op := 0x10, mb := mk.getD 0, me := mk.isSome, d := vd, a := oa.enc, b := ob.enc }
  | .vaCmp mk cc vd oa ob => { op := 0x11, mb := mk.getD 0, me := mk.isSome, code := cc.enc, d := vd, a := oa.enc, b := ob.enc }
  | .vaSel mk vd oa ob oc => { op := 0x12, mb := mk.getD 0, me := mk.isSome, d := vd, a := oa.enc, b := ob.enc, c := oc.enc }
  | .vaMov mk vd oa => { op := 0x13, mb := mk.getD 0, me := mk.isSome, d := vd, a := oa.enc }
  | .vaAdds mk vd oa ob => { op := 0x14, mb := mk.getD 0, me := mk.isSome, d := vd, a := oa.enc, b := ob.enc }
  | .vaSubs mk vd oa ob => { op := 0x15, mb := mk.getD 0, me := mk.isSome, d := vd, a := oa.enc, b := ob.enc }
  | .vaAdd64 mk vd oa ob => { op := 0x18, mb := mk.getD 0, me := mk.isSome, d := vd, a := oa.enc, b := ob.enc }
  | .vaSub64 mk vd oa ob => { op := 0x19, mb := mk.getD 0, me := mk.isSome, d := vd, a := oa.enc, b := ob.enc }
  | .vaShl64 mk vd oa ob => { op := 0x1A, mb := mk.getD 0, me := mk.isSome, d := vd, a := oa.enc, b := ob.enc }
  | .vaShr64 mk vd oa ob => { op := 0x1B, mb := mk.getD 0, me := mk.isSome, d := vd, a := oa.enc, b := ob.enc }
  | .vaSar64 mk vd oa ob => { op := 0x1C, mb := mk.getD 0, me := mk.isSome, d := vd, a := oa.enc, b := ob.enc }
  | .vaCmp64 mk cc vd oa ob => { op := 0x1D, mb := mk.getD 0, me := mk.isSome, code := cc.enc, d := vd, a := oa.enc, b := ob.enc }
  | .vaFadd mk rm vd oa ob => { op := 0x20, mb := mk.getD 0, me := mk.isSome, rm := rm.enc, d := vd, a := oa.enc, b := ob.enc }
  | .vaFsub mk rm vd oa ob => { op := 0x21, mb := mk.getD 0, me := mk.isSome, rm := rm.enc, d := vd, a := oa.enc, b := ob.enc }
  | .vaFmul mk rm vd oa ob => { op := 0x22, mb := mk.getD 0, me := mk.isSome, rm := rm.enc, d := vd, a := oa.enc, b := ob.enc }
  | .vaFma mk rm vd oa ob oc => { op := 0x23, mb := mk.getD 0, me := mk.isSome, rm := rm.enc, d := vd, a := oa.enc, b := ob.enc, c := oc.enc }
  | .vaFnma mk rm vd oa ob oc => { op := 0x24, mb := mk.getD 0, me := mk.isSome, rm := rm.enc, d := vd, a := oa.enc, b := ob.enc, c := oc.enc }
  | .vaFmin mk vd oa ob => { op := 0x25, mb := mk.getD 0, me := mk.isSome, d := vd, a := oa.enc, b := ob.enc }
  | .vaFmax mk vd oa ob => { op := 0x26, mb := mk.getD 0, me := mk.isSome, d := vd, a := oa.enc, b := ob.enc }
  | .vaFabs mk vd oa => { op := 0x27, mb := mk.getD 0, me := mk.isSome, d := vd, a := oa.enc }
  | .vaFneg mk vd oa => { op := 0x28, mb := mk.getD 0, me := mk.isSome, d := vd, a := oa.enc }
  | .vaFcmp mk fc vd oa ob => { op := 0x29, mb := mk.getD 0, me := mk.isSome, code := fc.enc, d := vd, a := oa.enc, b := ob.enc }
  | .vaFcls mk vd oa => { op := 0x2A, mb := mk.getD 0, me := mk.isSome, d := vd, a := oa.enc }
  | .vaCvt mk cv rm vd oa => { op := 0x30, mb := mk.getD 0, me := mk.isSome, code := cv.enc, rm := rm.enc, d := vd, a := oa.enc }
  | .vaTsq mk ts rm vd oa => { op := 0x31, mb := mk.getD 0, me := mk.isSome, code := ts.enc, rm := rm.enc, d := vd, a := oa.enc }
  | .vaTsdq mk ts vd oa ob => { op := 0x32, mb := mk.getD 0, me := mk.isSome, code := ts.enc, d := vd, a := oa.enc, b := ob.enc }
  | .vaXfer mk xf df vd oa => { op := 0x38, mb := mk.getD 0, me := mk.isSome, code := xf.enc, df := df.enc, d := vd, a := oa.enc }
  | .vbAdd mk vd oa ob => { op := 0x01, mb := mk.getD 0, me := mk.isSome, d := vd, a := oa.enc, b := ob.enc }
  | .vbSub mk vd oa ob => { op := 0x02, mb := mk.getD 0, me := mk.isSome, d := vd, a := oa.enc, b := ob.enc }
  | .vbAnd mk vd oa ob => { op := 0x06, mb := mk.getD 0, me := mk.isSome, d := vd, a := oa.enc, b := ob.enc }
  | .vbOr mk vd oa ob => { op := 0x07, mb := mk.getD 0, me := mk.isSome, d := vd, a := oa.enc, b := ob.enc }
  | .vbXor mk vd oa ob => { op := 0x08, mb := mk.getD 0, me := mk.isSome, d := vd, a := oa.enc, b := ob.enc }
  | .vbShl mk vd oa ob => { op := 0x0A, mb := mk.getD 0, me := mk.isSome, d := vd, a := oa.enc, b := ob.enc }
  | .vbShr mk vd oa ob => { op := 0x0B, mb := mk.getD 0, me := mk.isSome, d := vd, a := oa.enc, b := ob.enc }
  | .vbMin mk vd oa ob => { op := 0x0D, mb := mk.getD 0, me := mk.isSome, d := vd, a := oa.enc, b := ob.enc }
  | .vbMax mk vd oa ob => { op := 0x0E, mb := mk.getD 0, me := mk.isSome, d := vd, a := oa.enc, b := ob.enc }
  | .vbCmp mk cc vd oa ob => { op := 0x11, mb := mk.getD 0, me := mk.isSome, code := cc.enc, d := vd, a := oa.enc, b := ob.enc }
  | .vbSel mk vd oa ob oc => { op := 0x12, mb := mk.getD 0, me := mk.isSome, d := vd, a := oa.enc, b := ob.enc, c := oc.enc }
  | .vbMov mk vd oa => { op := 0x13, mb := mk.getD 0, me := mk.isSome, d := vd, a := oa.enc }
  | .vbPopc mk vd oa => { op := 0x16, mb := mk.getD 0, me := mk.isSome, d := vd, a := oa.enc }
  | .vbClz mk vd oa => { op := 0x17, mb := mk.getD 0, me := mk.isSome, d := vd, a := oa.enc }
  | .vbFadd mk rm vd oa ob => { op := 0x20, mb := mk.getD 0, me := mk.isSome, rm := rm.enc, d := vd, a := oa.enc, b := ob.enc }
  | .vbFmul mk rm vd oa ob => { op := 0x22, mb := mk.getD 0, me := mk.isSome, rm := rm.enc, d := vd, a := oa.enc, b := ob.enc }
  | .vbFma mk rm vd oa ob oc => { op := 0x23, mb := mk.getD 0, me := mk.isSome, rm := rm.enc, d := vd, a := oa.enc, b := ob.enc, c := oc.enc }
  | .vbRcp mk vd oa => { op := 0x40, mb := mk.getD 0, me := mk.isSome, d := vd, a := oa.enc }
  | .vbRsqrt mk vd oa => { op := 0x41, mb := mk.getD 0, me := mk.isSome, d := vd, a := oa.enc }
  | .vbSqrt mk vd oa => { op := 0x42, mb := mk.getD 0, me := mk.isSome, d := vd, a := oa.enc }
  | .vbExp2 mk vd oa => { op := 0x43, mb := mk.getD 0, me := mk.isSome, d := vd, a := oa.enc }
  | .vbLog2 mk vd oa => { op := 0x44, mb := mk.getD 0, me := mk.isSome, d := vd, a := oa.enc }
  | .vbSin mk vd oa => { op := 0x45, mb := mk.getD 0, me := mk.isSome, d := vd, a := oa.enc }
  | .vbCos mk vd oa => { op := 0x46, mb := mk.getD 0, me := mk.isSome, d := vd, a := oa.enc }
  | .vbTanh mk vd oa => { op := 0x47, mb := mk.getD 0, me := mk.isSome, d := vd, a := oa.enc }
  | .vbPerm mk vd oa ob => { op := 0x50, mb := mk.getD 0, me := mk.isSome, d := vd, a := oa.enc, b := ob.enc }
  | .vbShfl mk vd oa ob => { op := 0x51, mb := mk.getD 0, me := mk.isSome, d := vd, a := oa.enc, b := ob.enc }
  | .vbRot mk vd oa ob => { op := 0x52, mb := mk.getD 0, me := mk.isSome, d := vd, a := oa.enc, b := ob.enc }
  | .vbBcl mk vd oa ob => { op := 0x53, mb := mk.getD 0, me := mk.isSome, d := vd, a := oa.enc, b := ob.enc }
  | .vbRed mk rf vd oa => { op := 0x54, mb := mk.getD 0, me := mk.isSome, code := rf.enc, d := vd, a := oa.enc }
  | .vbScan mk rf vd oa => { op := 0x55, mb := mk.getD 0, me := mk.isSome, code := rf.enc, d := vd, a := oa.enc }
  | .vbMatch mk vd oa => { op := 0x56, mb := mk.getD 0, me := mk.isSome, d := vd, a := oa.enc }
  | .vbXfer mk xf df vd oa => { op := 0x38, mb := mk.getD 0, me := mk.isSome, code := xf.enc, df := df.enc, d := vd, a := oa.enc }
  | .muLds mk df md ab oa st => { op := 0x01, mb := mk.getD 0, me := mk.isSome, df := df.enc, d := md, ab := ab, a := oa.enc, str := st.str, pm := st.pm, scp := st.scp.enc }
  | .muSts mk ab oa ob st => { op := 0x02, mb := mk.getD 0, me := mk.isSome, ab := ab, a := oa.enc, b := ob.enc, str := st.str, pm := st.pm, scp := st.scp.enc }
  | .muGths mk df md ab ob st => { op := 0x03, mb := mk.getD 0, me := mk.isSome, df := df.enc, d := md, ab := ab, b := ob.enc, str := st.str, pm := st.pm, scp := st.scp.enc }
  | .muScts mk ab oa ob st => { op := 0x04, mb := mk.getD 0, me := mk.isSome, ab := ab, a := oa.enc, b := ob.enc, str := st.str, pm := st.pm, scp := st.scp.enc }
  | .muLdsa md ab oa st => { op := 0x05, d := md, ab := ab, a := oa.enc, str := st.str, pm := st.pm, scp := st.scp.enc, df := 1 }
  | .muStsa md ab oa st => { op := 0x06, d := md, ab := ab, a := oa.enc, str := st.str, pm := st.pm, scp := st.scp.enc }
  | .muLdr mk df md ab oa ob st => { op := 0x08, mb := mk.getD 0, me := mk.isSome, df := df.enc, d := md, ab := ab, a := oa.enc, b := ob.enc, str := st.str, pm := st.pm, scp := st.scp.enc }
  | .muStr mk ab oa ob st => { op := 0x09, mb := mk.getD 0, me := mk.isSome, ab := ab, a := oa.enc, b := ob.enc, str := st.str, pm := st.pm, scp := st.scp.enc }
  | .muAtmr mk af md ab oa ob st => { op := 0x0A, mb := mk.getD 0, me := mk.isSome, code := af.enc, d := md, ab := ab, a := oa.enc, b := ob.enc, str := st.str, pm := st.pm, scp := st.scp.enc }
  | .muLdg mk df md ab oa st => { op := 0x10, mb := mk.getD 0, me := mk.isSome, df := df.enc, d := md, ab := ab, a := oa.enc, str := st.str, pm := st.pm, scp := st.scp.enc }
  | .muStg mk ab oa ob st => { op := 0x11, mb := mk.getD 0, me := mk.isSome, ab := ab, a := oa.enc, b := ob.enc, str := st.str, pm := st.pm, scp := st.scp.enc }
  | .muGthg mk df md ab ob st => { op := 0x12, mb := mk.getD 0, me := mk.isSome, df := df.enc, d := md, ab := ab, b := ob.enc, str := st.str, pm := st.pm, scp := st.scp.enc }
  | .muSctg mk ab oa ob st => { op := 0x13, mb := mk.getD 0, me := mk.isSome, ab := ab, a := oa.enc, b := ob.enc, str := st.str, pm := st.pm, scp := st.scp.enc }
  | .muLdga md ab oa st => { op := 0x14, d := md, ab := ab, a := oa.enc, str := st.str, pm := st.pm, scp := st.scp.enc, df := 1 }
  | .muStga md ab oa st => { op := 0x15, d := md, ab := ab, a := oa.enc, str := st.str, pm := st.pm, scp := st.scp.enc }
  | .muPfg ab oa st => { op := 0x16, ab := ab, a := oa.enc, str := st.str, pm := st.pm, scp := st.scp.enc }
  | .muAtms mk af md ab oa ob st => { op := 0x18, mb := mk.getD 0, me := mk.isSome, code := af.enc, d := md, ab := ab, a := oa.enc, b := ob.enc, str := st.str, pm := st.pm, scp := st.scp.enc }
  | .muAtmg mk af md ab oa ob st => { op := 0x19, mb := mk.getD 0, me := mk.isSome, code := af.enc, d := md, ab := ab, a := oa.enc, b := ob.enc, str := st.str, pm := st.pm, scp := st.scp.enc }
  | .muQbind qh md => { op := 0x20, qh := qh, d := md }
  | .muQwait qs qh oa => { op := 0x21, code := qs.enc, qh := qh, a := oa.enc }
  | .muQadv qs qh oa => { op := 0x22, code := qs.enc, qh := qh, a := oa.enc }
  | .muTfull oa => { op := 0x28, a := oa.enc }
  | .muTgate gate oa => { op := 0x29, code := if gate then 1 else 0, a := oa.enc }
  | .muTclr oa => { op := 0x2A, a := oa.enc }
  | .muCwait oa ob => { op := 0x2B, a := oa.enc, b := ob.enc }
  | .muTstat md oa => { op := 0x2C, d := md, a := oa.enc }
  | .muCprog cp ab oa st => { op := 0x30, code := cp, ab := ab, a := oa.enc, str := st.str, pm := st.pm, scp := st.scp.enc }
  | .muCopy cp oa ob st => { op := 0x31, code := cp, a := oa.enc, b := ob.enc, str := st.str, pm := st.pm, scp := st.scp.enc }
  | .muMsend ab oa ob st => { op := 0x38, ab := ab, a := oa.enc, b := ob.enc, str := st.str, pm := st.pm, scp := st.scp.enc }
  | .muMpost ab oa ob st => { op := 0x39, ab := ab, a := oa.enc, b := ob.enc, str := st.str, pm := st.pm, scp := st.scp.enc }
  | .muMprobe md oa => { op := 0x3A, d := md, a := oa.enc }
  | .muCpost ab oa st => { op := 0x3B, ab := ab, a := oa.enc, str := st.str, pm := st.pm, scp := st.scp.enc }
  | .muTget md ab oa st => { op := 0x3C, d := md, ab := ab, a := oa.enc, str := st.str, pm := st.pm, scp := st.scp.enc }
  | .muAdda md ab oa => { op := 0x40, d := md, ab := ab, a := oa.enc }
  | .muMova md oa => { op := 0x41, d := md, a := oa.enc }
  | .muXfer md oa => { op := 0x48, d := md, a := oa.enc }
  | .muXferPerLane mk df md oa => { op := 0x48, mb := mk.getD 0, me := mk.isSome, df := df.enc, d := md, a := oa.enc }
  | .xuFmt fa oa st => { op := 0x01, fa := fa, a := oa.enc, str := st.str, pm := st.pm, scp := st.scp.enc }
  | .xuMma acc fa fb oa ob oc st => { op := 0x02, acc := acc, fa := fa, fb := fb, a := oa.enc, b := ob.enc, c := oc.enc, str := st.str, pm := st.pm, scp := st.scp.enc }
  | .xuMmat acc fa fb oa ob oc st => { op := 0x03, acc := acc, fa := fa, fb := fb, a := oa.enc, b := ob.enc, c := oc.enc, str := st.str, pm := st.pm, scp := st.scp.enc }
  | .xuDist acc fa fb oa ob oc st => { op := 0x04, acc := acc, fa := fa, fb := fb, a := oa.enc, b := ob.enc, c := oc.enc, str := st.str, pm := st.pm, scp := st.scp.enc }
  | .xuTopk largest i32 acc oa ob st => { op := 0x05, code := (if largest then 1 else 0) ||| (if i32 then 2 else 0), acc := acc, a := oa.enc, b := ob.enc, str := st.str, pm := st.pm, scp := st.scp.enc }
  | .xuAccst i32 rm acc fa oa st => { op := 0x08, code := rm.enc.setWidth 4 ||| (if i32 then 8 else 0), acc := acc, fa := fa, a := oa.enc, str := st.str, pm := st.pm, scp := st.scp.enc }
  | .xuAccld acc fa oa st => { op := 0x09, acc := acc, fa := fa, a := oa.enc, str := st.str, pm := st.pm, scp := st.scp.enc }
  | .xuAcczr acc st => { op := 0x0A, acc := acc, str := st.str, pm := st.pm, scp := st.scp.enc }
  | .xuAccadd acc acb st => { op := 0x0B, acc := acc, acb := acb, str := st.str, pm := st.pm, scp := st.scp.enc }
  | .xuAccscl acc oc st => { op := 0x0C, acc := acc, c := oc.enc, str := st.str, pm := st.pm, scp := st.scp.enc }
  | .xuAccmv acc acb st => { op := 0x0D, acc := acc, acb := acb, str := st.str, pm := st.pm, scp := st.scp.enc }
  | .xuAcctr acc acb st => { op := 0x0E, acc := acc, acb := acb, str := st.str, pm := st.pm, scp := st.scp.enc }
  | _ => {}

/-- The engine kind of a slot operation; none for a step of the device. -/
def Instr.kind : Instr → Option Kind
  | .suNop => some .su
  | .suEnd => some .su
  | .suAdd _ _ _ => some .su
  | .suSub _ _ _ => some .su
  | .suMul _ _ _ => some .su
  | .suMulh _ _ _ => some .su
  | .suMulhu _ _ _ => some .su
  | .suAnd _ _ _ => some .su
  | .suOr _ _ _ => some .su
  | .suXor _ _ _ => some .su
  | .suAndn _ _ _ => some .su
  | .suShl _ _ _ => some .su
  | .suShr _ _ _ => some .su
  | .suSar _ _ _ => some .su
  | .suMin _ _ _ => some .su
  | .suMax _ _ _ => some .su
  | .suMinu _ _ _ => some .su
  | .suMaxu _ _ _ => some .su
  | .suPopc _ _ => some .su
  | .suClz _ _ => some .su
  | .suCtz _ _ => some .su
  | .suCmp _ _ _ _ => some .su
  | .suSel _ _ _ _ => some .su
  | .suMov _ _ => some .su
  | .suBfx _ _ _ _ => some .su
  | .suBmsk _ _ _ => some .su
  | .suBr _ _ _ _ => some .su
  | .suCall _ _ => some .su
  | .suCalli _ _ => some .su
  | .suJmpi _ => some .su
  | .suLoop _ _ _ => some .su
  | .suLbrk _ => some .su
  | .suLrd _ _ _ => some .su
  | .suLwr _ _ _ => some .su
  | .suSwait _ _ => some .su
  | .suSrd _ _ _ => some .su
  | .suBar _ => some .su
  | .suSwpt _ => some .su
  | .suBcast _ _ _ => some .su
  | .suXfer _ _ => some .su
  | .suCsrr _ _ => some .su
  | .suCsrw _ _ => some .su
  | .suTrap _ => some .su
  | .suEret => some .su
  | .suDpf _ _ => some .su
  | .suDinv => some .su
  | .suHclr _ => some .su
  | .vaAdd _ _ _ _ => some .va
  | .vaSub _ _ _ _ => some .va
  | .vaMul _ _ _ _ => some .va
  | .vaMulh _ _ _ _ => some .va
  | .vaMulhu _ _ _ _ => some .va
  | .vaAnd _ _ _ _ => some .va
  | .vaOr _ _ _ _ => some .va
  | .vaXor _ _ _ _ => some .va
  | .vaAndn _ _ _ _ => some .va
  | .vaShl _ _ _ _ => some .va
  | .vaShr _ _ _ _ => some .va
  | .vaSar _ _ _ _ => some .va
  | .vaMin _ _ _ _ => some .va
  | .vaMax _ _ _ _ => some .va
  | .vaMinu _ _ _ _ => some .va
  | .vaMaxu _ _ _ _ => some .va
  | .vaCmp _ _ _ _ _ => some .va
  | .vaSel _ _ _ _ _ => some .va
  | .vaMov _ _ _ => some .va
  | .vaAdds _ _ _ _ => some .va
  | .vaSubs _ _ _ _ => some .va
  | .vaAdd64 _ _ _ _ => some .va
  | .vaSub64 _ _ _ _ => some .va
  | .vaShl64 _ _ _ _ => some .va
  | .vaShr64 _ _ _ _ => some .va
  | .vaSar64 _ _ _ _ => some .va
  | .vaCmp64 _ _ _ _ _ => some .va
  | .vaFadd _ _ _ _ _ => some .va
  | .vaFsub _ _ _ _ _ => some .va
  | .vaFmul _ _ _ _ _ => some .va
  | .vaFma _ _ _ _ _ _ => some .va
  | .vaFnma _ _ _ _ _ _ => some .va
  | .vaFmin _ _ _ _ => some .va
  | .vaFmax _ _ _ _ => some .va
  | .vaFabs _ _ _ => some .va
  | .vaFneg _ _ _ => some .va
  | .vaFcmp _ _ _ _ _ => some .va
  | .vaFcls _ _ _ => some .va
  | .vaCvt _ _ _ _ _ => some .va
  | .vaTsq _ _ _ _ _ => some .va
  | .vaTsdq _ _ _ _ _ => some .va
  | .vaXfer _ _ _ _ _ => some .va
  | .vbAdd _ _ _ _ => some .vb
  | .vbSub _ _ _ _ => some .vb
  | .vbAnd _ _ _ _ => some .vb
  | .vbOr _ _ _ _ => some .vb
  | .vbXor _ _ _ _ => some .vb
  | .vbShl _ _ _ _ => some .vb
  | .vbShr _ _ _ _ => some .vb
  | .vbMin _ _ _ _ => some .vb
  | .vbMax _ _ _ _ => some .vb
  | .vbCmp _ _ _ _ _ => some .vb
  | .vbSel _ _ _ _ _ => some .vb
  | .vbMov _ _ _ => some .vb
  | .vbPopc _ _ _ => some .vb
  | .vbClz _ _ _ => some .vb
  | .vbFadd _ _ _ _ _ => some .vb
  | .vbFmul _ _ _ _ _ => some .vb
  | .vbFma _ _ _ _ _ _ => some .vb
  | .vbRcp _ _ _ => some .vb
  | .vbRsqrt _ _ _ => some .vb
  | .vbSqrt _ _ _ => some .vb
  | .vbExp2 _ _ _ => some .vb
  | .vbLog2 _ _ _ => some .vb
  | .vbSin _ _ _ => some .vb
  | .vbCos _ _ _ => some .vb
  | .vbTanh _ _ _ => some .vb
  | .vbPerm _ _ _ _ => some .vb
  | .vbShfl _ _ _ _ => some .vb
  | .vbRot _ _ _ _ => some .vb
  | .vbBcl _ _ _ _ => some .vb
  | .vbRed _ _ _ _ => some .vb
  | .vbScan _ _ _ _ => some .vb
  | .vbMatch _ _ _ => some .vb
  | .vbXfer _ _ _ _ _ => some .vb
  | .muLds _ _ _ _ _ _ => some .mu
  | .muSts _ _ _ _ _ => some .mu
  | .muGths _ _ _ _ _ _ => some .mu
  | .muScts _ _ _ _ _ => some .mu
  | .muLdsa _ _ _ _ => some .mu
  | .muStsa _ _ _ _ => some .mu
  | .muLdr _ _ _ _ _ _ _ => some .mu
  | .muStr _ _ _ _ _ => some .mu
  | .muAtmr _ _ _ _ _ _ _ => some .mu
  | .muLdg _ _ _ _ _ _ => some .mu
  | .muStg _ _ _ _ _ => some .mu
  | .muGthg _ _ _ _ _ _ => some .mu
  | .muSctg _ _ _ _ _ => some .mu
  | .muLdga _ _ _ _ => some .mu
  | .muStga _ _ _ _ => some .mu
  | .muPfg _ _ _ => some .mu
  | .muAtms _ _ _ _ _ _ _ => some .mu
  | .muAtmg _ _ _ _ _ _ _ => some .mu
  | .muQbind _ _ => some .mu
  | .muQwait _ _ _ => some .mu
  | .muQadv _ _ _ => some .mu
  | .muTfull _ => some .mu
  | .muTgate _ _ => some .mu
  | .muTclr _ => some .mu
  | .muCwait _ _ => some .mu
  | .muTstat _ _ => some .mu
  | .muCprog _ _ _ _ => some .mu
  | .muCopy _ _ _ _ => some .mu
  | .muMsend _ _ _ _ => some .mu
  | .muMpost _ _ _ _ => some .mu
  | .muMprobe _ _ => some .mu
  | .muCpost _ _ _ => some .mu
  | .muTget _ _ _ _ => some .mu
  | .muAdda _ _ _ => some .mu
  | .muMova _ _ => some .mu
  | .muXfer _ _ => some .mu
  | .muXferPerLane _ _ _ _ => some .mu
  | .xuFmt _ _ _ => some .xu
  | .xuMma _ _ _ _ _ _ _ => some .xu
  | .xuMmat _ _ _ _ _ _ _ => some .xu
  | .xuDist _ _ _ _ _ _ _ => some .xu
  | .xuTopk _ _ _ _ _ _ => some .xu
  | .xuAccst _ _ _ _ _ _ => some .xu
  | .xuAccld _ _ _ _ => some .xu
  | .xuAcczr _ _ => some .xu
  | .xuAccadd _ _ _ => some .xu
  | .xuAccscl _ _ _ => some .xu
  | .xuAccmv _ _ _ => some .xu
  | .xuAcctr _ _ _ => some .xu
  | _ => none

/-- The selectors a slot operation reads, in the order of its fields (R60); su.br without a condition reads only its
offset (R127). -/
def Instr.sels : Instr → List Sel
  | .suAdd _ sa sb => [sa, sb]
  | .suSub _ sa sb => [sa, sb]
  | .suMul _ sa sb => [sa, sb]
  | .suMulh _ sa sb => [sa, sb]
  | .suMulhu _ sa sb => [sa, sb]
  | .suAnd _ sa sb => [sa, sb]
  | .suOr _ sa sb => [sa, sb]
  | .suXor _ sa sb => [sa, sb]
  | .suAndn _ sa sb => [sa, sb]
  | .suShl _ sa sb => [sa, sb]
  | .suShr _ sa sb => [sa, sb]
  | .suSar _ sa sb => [sa, sb]
  | .suMin _ sa sb => [sa, sb]
  | .suMax _ sa sb => [sa, sb]
  | .suMinu _ sa sb => [sa, sb]
  | .suMaxu _ sa sb => [sa, sb]
  | .suPopc _ sa => [sa]
  | .suClz _ sa => [sa]
  | .suCtz _ sa => [sa]
  | .suCmp _ _ sa sb => [sa, sb]
  | .suSel _ sa sb sc => [sa, sb, sc]
  | .suMov _ sa => [sa]
  | .suBfx _ sa sb sc => [sa, sb, sc]
  | .suBmsk _ sa sb => [sa, sb]
  | .suBr none _ _ sc => [sc]
  | .suBr (some _) sa sb sc => [sa, sb, sc]
  | .suCall _ sc => [sc]
  | .suCalli _ sa => [sa]
  | .suJmpi sa => [sa]
  | .suLoop _ sa sc => [sa, sc]
  | .suLwr _ _ sa => [sa]
  | .suSwait _ sb => [sb]
  | .suSwpt sa => [sa]
  | .suBcast _ _ sa => [sa]
  | .suXfer _ sa => [sa]
  | .suCsrw _ sa => [sa]
  | .suTrap sa => [sa]
  | .suDpf sa sb => [sa, sb]
  | .suHclr sa => [sa]
  | .vaAdd _ _ oa ob => [oa, ob]
  | .vaSub _ _ oa ob => [oa, ob]
  | .vaMul _ _ oa ob => [oa, ob]
  | .vaMulh _ _ oa ob => [oa, ob]
  | .vaMulhu _ _ oa ob => [oa, ob]
  | .vaAnd _ _ oa ob => [oa, ob]
  | .vaOr _ _ oa ob => [oa, ob]
  | .vaXor _ _ oa ob => [oa, ob]
  | .vaAndn _ _ oa ob => [oa, ob]
  | .vaShl _ _ oa ob => [oa, ob]
  | .vaShr _ _ oa ob => [oa, ob]
  | .vaSar _ _ oa ob => [oa, ob]
  | .vaMin _ _ oa ob => [oa, ob]
  | .vaMax _ _ oa ob => [oa, ob]
  | .vaMinu _ _ oa ob => [oa, ob]
  | .vaMaxu _ _ oa ob => [oa, ob]
  | .vaCmp _ _ _ oa ob => [oa, ob]
  | .vaSel _ _ oa ob oc => [oa, ob, oc]
  | .vaMov _ _ oa => [oa]
  | .vaAdds _ _ oa ob => [oa, ob]
  | .vaSubs _ _ oa ob => [oa, ob]
  | .vaAdd64 _ _ oa ob => [oa, ob]
  | .vaSub64 _ _ oa ob => [oa, ob]
  | .vaShl64 _ _ oa ob => [oa, ob]
  | .vaShr64 _ _ oa ob => [oa, ob]
  | .vaSar64 _ _ oa ob => [oa, ob]
  | .vaCmp64 _ _ _ oa ob => [oa, ob]
  | .vaFadd _ _ _ oa ob => [oa, ob]
  | .vaFsub _ _ _ oa ob => [oa, ob]
  | .vaFmul _ _ _ oa ob => [oa, ob]
  | .vaFma _ _ _ oa ob oc => [oa, ob, oc]
  | .vaFnma _ _ _ oa ob oc => [oa, ob, oc]
  | .vaFmin _ _ oa ob => [oa, ob]
  | .vaFmax _ _ oa ob => [oa, ob]
  | .vaFabs _ _ oa => [oa]
  | .vaFneg _ _ oa => [oa]
  | .vaFcmp _ _ _ oa ob => [oa, ob]
  | .vaFcls _ _ oa => [oa]
  | .vaCvt _ _ _ _ oa => [oa]
  | .vaTsq _ _ _ _ oa => [oa]
  | .vaTsdq _ _ _ oa ob => [oa, ob]
  | .vaXfer _ _ _ _ oa => [oa]
  | .vbAdd _ _ oa ob => [oa, ob]
  | .vbSub _ _ oa ob => [oa, ob]
  | .vbAnd _ _ oa ob => [oa, ob]
  | .vbOr _ _ oa ob => [oa, ob]
  | .vbXor _ _ oa ob => [oa, ob]
  | .vbShl _ _ oa ob => [oa, ob]
  | .vbShr _ _ oa ob => [oa, ob]
  | .vbMin _ _ oa ob => [oa, ob]
  | .vbMax _ _ oa ob => [oa, ob]
  | .vbCmp _ _ _ oa ob => [oa, ob]
  | .vbSel _ _ oa ob oc => [oa, ob, oc]
  | .vbMov _ _ oa => [oa]
  | .vbPopc _ _ oa => [oa]
  | .vbClz _ _ oa => [oa]
  | .vbFadd _ _ _ oa ob => [oa, ob]
  | .vbFmul _ _ _ oa ob => [oa, ob]
  | .vbFma _ _ _ oa ob oc => [oa, ob, oc]
  | .vbRcp _ _ oa => [oa]
  | .vbRsqrt _ _ oa => [oa]
  | .vbSqrt _ _ oa => [oa]
  | .vbExp2 _ _ oa => [oa]
  | .vbLog2 _ _ oa => [oa]
  | .vbSin _ _ oa => [oa]
  | .vbCos _ _ oa => [oa]
  | .vbTanh _ _ oa => [oa]
  | .vbPerm _ _ oa ob => [oa, ob]
  | .vbShfl _ _ oa ob => [oa, ob]
  | .vbRot _ _ oa ob => [oa, ob]
  | .vbBcl _ _ oa ob => [oa, ob]
  | .vbRed _ _ _ oa => [oa]
  | .vbScan _ _ _ oa => [oa]
  | .vbMatch _ _ oa => [oa]
  | .vbXfer _ _ _ _ oa => [oa]
  | .muLds _ _ _ _ oa _ => [oa]
  | .muSts _ _ oa ob _ => [oa, ob]
  | .muGths _ _ _ _ ob _ => [ob]
  | .muScts _ _ oa ob _ => [oa, ob]
  | .muLdsa _ _ oa _ => [oa]
  | .muStsa _ _ oa _ => [oa]
  | .muLdr _ _ _ _ oa ob _ => [oa, ob]
  | .muStr _ _ oa ob _ => [oa, ob]
  | .muAtmr _ _ _ _ oa ob _ => [oa, ob]
  | .muLdg _ _ _ _ oa _ => [oa]
  | .muStg _ _ oa ob _ => [oa, ob]
  | .muGthg _ _ _ _ ob _ => [ob]
  | .muSctg _ _ oa ob _ => [oa, ob]
  | .muLdga _ _ oa _ => [oa]
  | .muStga _ _ oa _ => [oa]
  | .muPfg _ oa _ => [oa]
  | .muAtms _ _ _ _ oa ob _ => [oa, ob]
  | .muAtmg _ _ _ _ oa ob _ => [oa, ob]
  | .muQwait _ _ oa => [oa]
  | .muQadv _ _ oa => [oa]
  | .muTfull oa => [oa]
  | .muTgate _ oa => [oa]
  | .muTclr oa => [oa]
  | .muCwait oa ob => [oa, ob]
  | .muTstat _ oa => [oa]
  | .muCprog _ _ oa _ => [oa]
  | .muCopy _ oa ob _ => [oa, ob]
  | .muMsend _ oa ob _ => [oa, ob]
  | .muMpost _ oa ob _ => [oa, ob]
  | .muMprobe _ oa => [oa]
  | .muCpost _ oa _ => [oa]
  | .muTget _ _ oa _ => [oa]
  | .muAdda _ _ oa => [oa]
  | .muMova _ oa => [oa]
  | .muXfer _ oa => [oa]
  | .muXferPerLane _ _ _ oa => [oa]
  | .xuFmt _ oa _ => [oa]
  | .xuMma _ _ _ oa ob oc _ => [oa, ob, oc]
  | .xuMmat _ _ _ oa ob oc _ => [oa, ob, oc]
  | .xuDist _ _ _ oa ob oc _ => [oa, ob, oc]
  | .xuTopk _ _ _ oa ob _ => [oa, ob]
  | .xuAccst _ _ _ _ oa _ => [oa]
  | .xuAccld _ _ oa _ => [oa]
  | .xuAccscl _ oc _ => [oc]
  | _ => []

/-- The operations the maps mark H (R87 to R91). -/
def Instr.holdable : Instr → Bool
  | .suAdd _ _ _ => true
  | .suSub _ _ _ => true
  | .suMul _ _ _ => true
  | .suMulh _ _ _ => true
  | .suMulhu _ _ _ => true
  | .suAnd _ _ _ => true
  | .suOr _ _ _ => true
  | .suXor _ _ _ => true
  | .suAndn _ _ _ => true
  | .suShl _ _ _ => true
  | .suShr _ _ _ => true
  | .suSar _ _ _ => true
  | .suMin _ _ _ => true
  | .suMax _ _ _ => true
  | .suMinu _ _ _ => true
  | .suMaxu _ _ _ => true
  | .suPopc _ _ => true
  | .suClz _ _ => true
  | .suCtz _ _ => true
  | .suCmp _ _ _ _ => true
  | .suSel _ _ _ _ => true
  | .suMov _ _ => true
  | .suBfx _ _ _ _ => true
  | .suBmsk _ _ _ => true
  | .vaAdd _ _ _ _ => true
  | .vaSub _ _ _ _ => true
  | .vaMul _ _ _ _ => true
  | .vaMulh _ _ _ _ => true
  | .vaMulhu _ _ _ _ => true
  | .vaAnd _ _ _ _ => true
  | .vaOr _ _ _ _ => true
  | .vaXor _ _ _ _ => true
  | .vaAndn _ _ _ _ => true
  | .vaShl _ _ _ _ => true
  | .vaShr _ _ _ _ => true
  | .vaSar _ _ _ _ => true
  | .vaMin _ _ _ _ => true
  | .vaMax _ _ _ _ => true
  | .vaMinu _ _ _ _ => true
  | .vaMaxu _ _ _ _ => true
  | .vaCmp _ _ _ _ _ => true
  | .vaSel _ _ _ _ _ => true
  | .vaMov _ _ _ => true
  | .vaAdds _ _ _ _ => true
  | .vaSubs _ _ _ _ => true
  | .vaAdd64 _ _ _ _ => true
  | .vaSub64 _ _ _ _ => true
  | .vaShl64 _ _ _ _ => true
  | .vaShr64 _ _ _ _ => true
  | .vaSar64 _ _ _ _ => true
  | .vaCmp64 _ _ _ _ _ => true
  | .vaFadd _ _ _ _ _ => true
  | .vaFsub _ _ _ _ _ => true
  | .vaFmul _ _ _ _ _ => true
  | .vaFma _ _ _ _ _ _ => true
  | .vaFnma _ _ _ _ _ _ => true
  | .vaFmin _ _ _ _ => true
  | .vaFmax _ _ _ _ => true
  | .vaFabs _ _ _ => true
  | .vaFneg _ _ _ => true
  | .vaFcmp _ _ _ _ _ => true
  | .vaFcls _ _ _ => true
  | .vaCvt _ _ _ _ _ => true
  | .vaTsq _ _ _ _ _ => true
  | .vaTsdq _ _ _ _ _ => true
  | .vaXfer _ _ _ _ _ => true
  | .vbAdd _ _ _ _ => true
  | .vbSub _ _ _ _ => true
  | .vbAnd _ _ _ _ => true
  | .vbOr _ _ _ _ => true
  | .vbXor _ _ _ _ => true
  | .vbShl _ _ _ _ => true
  | .vbShr _ _ _ _ => true
  | .vbMin _ _ _ _ => true
  | .vbMax _ _ _ _ => true
  | .vbCmp _ _ _ _ _ => true
  | .vbSel _ _ _ _ _ => true
  | .vbMov _ _ _ => true
  | .vbPopc _ _ _ => true
  | .vbClz _ _ _ => true
  | .vbFadd _ _ _ _ _ => true
  | .vbFmul _ _ _ _ _ => true
  | .vbFma _ _ _ _ _ _ => true
  | .vbRcp _ _ _ => true
  | .vbRsqrt _ _ _ => true
  | .vbSqrt _ _ _ => true
  | .vbExp2 _ _ _ => true
  | .vbLog2 _ _ _ => true
  | .vbSin _ _ _ => true
  | .vbCos _ _ _ => true
  | .vbTanh _ _ _ => true
  | .vbPerm _ _ _ _ => true
  | .vbShfl _ _ _ _ => true
  | .vbRot _ _ _ _ => true
  | .vbBcl _ _ _ _ => true
  | .vbRed _ _ _ _ => true
  | .vbScan _ _ _ _ => true
  | .vbMatch _ _ _ => true
  | .vbXfer _ _ _ _ _ => true
  | .muLds _ _ _ _ _ _ => true
  | .muSts _ _ _ _ _ => true
  | .muGths _ _ _ _ _ _ => true
  | .muScts _ _ _ _ _ => true
  | .muLdsa _ _ _ _ => true
  | .muLdg _ _ _ _ _ _ => true
  | .muStg _ _ _ _ _ => true
  | .muGthg _ _ _ _ _ _ => true
  | .muSctg _ _ _ _ _ => true
  | .muLdga _ _ _ _ => true
  | .muPfg _ _ _ => true
  | .muAtms _ _ _ _ _ _ _ => true
  | .muAtmg _ _ _ _ _ _ _ => true
  | .muQadv _ _ _ => true
  | .muAdda _ _ _ => true
  | .muXfer _ _ => true
  | .muXferPerLane _ _ _ _ => true
  | _ => false

/-- The file in which a slot operation's register result lands and its stated latency without the queue-read addition
(R85, R86); none where R85 marks it A or it has no register result. -/
def Instr.result : Instr → Option (RFile × Nat)
  | .suAdd _ _ _ => some (.s, 1)
  | .suSub _ _ _ => some (.s, 1)
  | .suMul _ _ _ => some (.s, 1)
  | .suMulh _ _ _ => some (.s, 1)
  | .suMulhu _ _ _ => some (.s, 1)
  | .suAnd _ _ _ => some (.s, 1)
  | .suOr _ _ _ => some (.s, 1)
  | .suXor _ _ _ => some (.s, 1)
  | .suAndn _ _ _ => some (.s, 1)
  | .suShl _ _ _ => some (.s, 1)
  | .suShr _ _ _ => some (.s, 1)
  | .suSar _ _ _ => some (.s, 1)
  | .suMin _ _ _ => some (.s, 1)
  | .suMax _ _ _ => some (.s, 1)
  | .suMinu _ _ _ => some (.s, 1)
  | .suMaxu _ _ _ => some (.s, 1)
  | .suPopc _ _ => some (.s, 1)
  | .suClz _ _ => some (.s, 1)
  | .suCtz _ _ => some (.s, 1)
  | .suCmp _ _ _ _ => some (.s, 1)
  | .suSel _ _ _ _ => some (.s, 1)
  | .suMov _ _ => some (.s, 1)
  | .suBfx _ _ _ _ => some (.s, 1)
  | .suBmsk _ _ _ => some (.s, 1)
  | .suCall _ _ => some (.s, 1)
  | .suCalli _ _ => some (.s, 1)
  | .suLrd _ _ _ => some (.s, 1)
  | .suSrd _ _ _ => some (.s, 1)
  | .suBcast df _ _ => some (df, 2)
  | .suXfer _ _ => some (.a, 2)
  | .suCsrr _ _ => some (.s, 1)
  | .vaAdd _ _ _ _ => some (.va, 2)
  | .vaSub _ _ _ _ => some (.va, 2)
  | .vaMul _ _ _ _ => some (.va, 2)
  | .vaMulh _ _ _ _ => some (.va, 2)
  | .vaMulhu _ _ _ _ => some (.va, 2)
  | .vaAnd _ _ _ _ => some (.va, 2)
  | .vaOr _ _ _ _ => some (.va, 2)
  | .vaXor _ _ _ _ => some (.va, 2)
  | .vaAndn _ _ _ _ => some (.va, 2)
  | .vaShl _ _ _ _ => some (.va, 2)
  | .vaShr _ _ _ _ => some (.va, 2)
  | .vaSar _ _ _ _ => some (.va, 2)
  | .vaMin _ _ _ _ => some (.va, 2)
  | .vaMax _ _ _ _ => some (.va, 2)
  | .vaMinu _ _ _ _ => some (.va, 2)
  | .vaMaxu _ _ _ _ => some (.va, 2)
  | .vaCmp _ _ _ _ _ => some (.va, 2)
  | .vaSel _ _ _ _ _ => some (.va, 2)
  | .vaMov _ _ _ => some (.va, 2)
  | .vaAdds _ _ _ _ => some (.va, 2)
  | .vaSubs _ _ _ _ => some (.va, 2)
  | .vaAdd64 _ _ _ _ => some (.va, 2)
  | .vaSub64 _ _ _ _ => some (.va, 2)
  | .vaShl64 _ _ _ _ => some (.va, 2)
  | .vaShr64 _ _ _ _ => some (.va, 2)
  | .vaSar64 _ _ _ _ => some (.va, 2)
  | .vaCmp64 _ _ _ _ _ => some (.va, 2)
  | .vaFadd _ _ _ _ _ => some (.va, 4)
  | .vaFsub _ _ _ _ _ => some (.va, 4)
  | .vaFmul _ _ _ _ _ => some (.va, 4)
  | .vaFma _ _ _ _ _ _ => some (.va, 4)
  | .vaFnma _ _ _ _ _ _ => some (.va, 4)
  | .vaFmin _ _ _ _ => some (.va, 4)
  | .vaFmax _ _ _ _ => some (.va, 4)
  | .vaFabs _ _ _ => some (.va, 4)
  | .vaFneg _ _ _ => some (.va, 4)
  | .vaFcmp _ _ _ _ _ => some (.va, 4)
  | .vaFcls _ _ _ => some (.va, 4)
  | .vaCvt _ _ _ _ _ => some (.va, 4)
  | .vaTsq _ _ _ _ _ => some (.va, 4)
  | .vaTsdq _ _ _ _ _ => some (.va, 4)
  | .vaXfer _ _ df _ _ => some (df, 2)
  | .vbAdd _ _ _ _ => some (.vb, 2)
  | .vbSub _ _ _ _ => some (.vb, 2)
  | .vbAnd _ _ _ _ => some (.vb, 2)
  | .vbOr _ _ _ _ => some (.vb, 2)
  | .vbXor _ _ _ _ => some (.vb, 2)
  | .vbShl _ _ _ _ => some (.vb, 2)
  | .vbShr _ _ _ _ => some (.vb, 2)
  | .vbMin _ _ _ _ => some (.vb, 2)
  | .vbMax _ _ _ _ => some (.vb, 2)
  | .vbCmp _ _ _ _ _ => some (.vb, 2)
  | .vbSel _ _ _ _ _ => some (.vb, 2)
  | .vbMov _ _ _ => some (.vb, 2)
  | .vbPopc _ _ _ => some (.vb, 2)
  | .vbClz _ _ _ => some (.vb, 2)
  | .vbFadd _ _ _ _ _ => some (.vb, 4)
  | .vbFmul _ _ _ _ _ => some (.vb, 4)
  | .vbFma _ _ _ _ _ _ => some (.vb, 4)
  | .vbRcp _ _ _ => some (.vb, 8)
  | .vbRsqrt _ _ _ => some (.vb, 8)
  | .vbSqrt _ _ _ => some (.vb, 8)
  | .vbExp2 _ _ _ => some (.vb, 8)
  | .vbLog2 _ _ _ => some (.vb, 8)
  | .vbSin _ _ _ => some (.vb, 8)
  | .vbCos _ _ _ => some (.vb, 8)
  | .vbTanh _ _ _ => some (.vb, 8)
  | .vbPerm _ _ _ _ => some (.vb, 3)
  | .vbShfl _ _ _ _ => some (.vb, 3)
  | .vbRot _ _ _ _ => some (.vb, 3)
  | .vbBcl _ _ _ _ => some (.vb, 3)
  | .vbRed _ _ _ _ => some (.vb, 3)
  | .vbScan _ _ _ _ => some (.vb, 3)
  | .vbMatch _ _ _ => some (.vb, 3)
  | .vbXfer _ _ df _ _ => some (df, 2)
  | .muLds _ df _ _ _ _ => some (df, 6)
  | .muGths _ df _ _ _ _ => some (df, 6)
  | .muLdsa _ _ _ _ => some (.a, 6)
  | .muLdr _ df _ _ _ _ _ => some (df, 24)
  | .muAtmr _ _ _ _ _ _ _ => some (.vm, 24)
  | .muLdg _ df _ _ _ _ => some (df, 24)
  | .muGthg _ df _ _ _ _ => some (df, 24)
  | .muLdga _ _ _ _ => some (.a, 24)
  | .muAtms _ _ _ _ _ _ _ => some (.vm, 6)
  | .muAtmg _ _ _ _ _ _ _ => some (.vm, 24)
  | .muTstat _ _ => some (.a, 1)
  | .muMprobe _ _ => some (.a, 1)
  | .muTget _ _ _ _ => some (.a, 24)
  | .muAdda _ _ _ => some (.a, 1)
  | .muMova _ _ => some (.a, 1)
  | .muXfer _ _ => some (.s, 2)
  | .muXferPerLane _ df _ _ => some (df, 2)
  | .xuFmt _ _ _ => some (.f, 6)
  | _ => none

/-! ## The encoder -/

/-- The slot field of a slot operation (R61 to R64). -/
def encodeSlot (i : Instr) : Option SlotBits :=
  i.kind.map fun k => i.fields.pack k

/-- Kind codes (R58). -/
def Kind.enc : Kind → BitVec 3
  | .su => 1 | .va => 2 | .vb => 3 | .mu => 4 | .xu => 5

/-- R58; 000 is empty, 110 and 111 are refused. -/
def Kind.dec (b : BitVec 3) : Option Kind :=
  match b.toNat with
  | 1 => some .su | 2 => some .va | 3 => some .vb | 4 => some .mu | 5 => some .xu | _ => none

/-- Immediate parcels a selector needs (R79, check 3). -/
def Sel.nimm : Sel → Nat
  | .reg _ => 0
  | .queue _ _ => 0
  | .imm j => j.toNat + 1
  | .whole => 1
  | .const _ => 0

/-- Immediate parcels the selectors of an instruction need. -/
def Instr.nimm (i : Instr) : Nat := (i.sels.map Sel.nimm).foldl max 0

/-- An operation that reads a queue entry (QX, R36). -/
def Instr.readsQueue (i : Instr) : Bool :=
  i.sels.any fun
    | .reg _ => false
    | .queue _ _ => true
    | .imm _ => false
    | .whole => false
    | .const _ => false

/-- QX of R123, R151 and R178. -/
def Instr.qx (i : Instr) : Nat := if i.readsQueue then 3 else 0

/-- Where and how many team-cycles after its issue a result lands (R85). -/
def Instr.lands (i : Instr) : Option (RFile × Nat) := i.result.map fun r => (r.1, r.2 + i.qx)

/-! ## The control word -/

/-- One occupied position. -/
structure SlotOp where
  kind : Kind
  hold : Bool
  bits : SlotBits
  ins : Instr
  deriving DecidableEq, Repr

/-- A word that passed the filter (R57): its immediate parcel count and its three positions. -/
structure Word3 where
  nimm : Nat
  p0 : Option SlotOp
  p1 : Option SlotOp
  p2 : Option SlotOp
  deriving DecidableEq, Repr

/-- The occupied positions with their numbers, ascending. -/
def Word3.ops (w : Word3) : List (Nat × SlotOp) :=
  (w.p0.toList.map fun x => (0, x)) ++ (w.p1.toList.map fun x => (1, x)) ++ (w.p2.toList.map fun x => (2, x))

/-- Why the filter refuses an entry (R80): the lowest check, its SUB reason for check 2, and the positions. -/
structure Refused where
  check : Nat
  sub : Nat
  pos : BitVec 3
  deriving DecidableEq, Repr

/-- Kind code, hold bit and slot field of position i (R57). -/
def rawPos (w : ControlWord) (i : Nat) : BitVec 3 × Bool × SlotBits :=
  (w.extractLsb' (253 - 3 * i) 3, w.getLsbD (246 - i), w.extractLsb' (160 - 80 * i) 80)

/-- What a position holds: empty, an operation, or a check 2 failure with its reason. -/
inductive PosRes where
  | empty
  | op (o : SlotOp)
  | bad (sub : Nat)
  deriving DecidableEq, Repr

/-- Check 2 at one position (R58, R59, R79). -/
def decodePos (p : BitVec 3 × Bool × SlotBits) : PosRes :=
  if p.1 = 0 then (if p.2.2 ≠ 0 then .bad 3 else if p.2.1 then .bad 4 else .empty)
  else
    match Kind.dec p.1 with
    | none => .bad 1
    | some k =>
      match decodeSlot k p.2.1 p.2.2 with
      | .ok i => .op ⟨k, p.2.1, p.2.2, i⟩
      | .error e => .bad e

/-- Positions as a mask. -/
def posMask (l : List Nat) : BitVec 3 := l.foldl (fun m i => m ||| (1#3 <<< i)) 0

/-- The positions that hold the engine kind of another (check 1). -/
def dupKind (k : Nat → Option Kind) : List Nat :=
  [0, 1, 2].filter fun i => (k i).isSome && [0, 1, 2].any fun j => j != i && k j == k i

/-- A selector of the operation names an immediate the word does not have (check 3). -/
def SlotOp.immBad (n : Nat) (o : SlotOp) : Bool :=
  o.ins.sels.any fun s => decide (n < s.nimm)

/-- The positions whose results land in one file at one latency with another's (check 4). -/
def portClash (l : List (Nat × SlotOp)) : List Nat :=
  [0, 1, 2].filter fun i => [0, 1, 2].any fun j => j != i &&
    match l.lookup i, l.lookup j with
    | some x, some y => x.ins.lands.isSome && x.ins.lands == y.ins.lands
    | _, _ => false

/-- The operation at a position, if any. -/
def PosRes.op? : PosRes → Option SlotOp
  | .empty => none
  | .op o => some o
  | .bad _ => none

/-- The SUB reason at a position, if it fails check 2. -/
def PosRes.sub? : PosRes → Option Nat
  | .empty => none
  | .op _ => none
  | .bad e => some e

/-- The structural hazard filter: the word, or the lowest-numbered check it fails (R79, R80). -/
def decodeWord (w : ControlWord) : Except Refused Word3 :=
  match dupKind (fun i => Kind.dec (rawPos w i).1) with
  | a :: r => .error ⟨1, 0, posMask (a :: r)⟩
  | [] =>
    let p := [0, 1, 2].map fun i => (i, decodePos (rawPos w i))
    let bad := p.filterMap fun x => x.2.sub?.map fun e => (x.1, e)
    let subs := bad.map (·.2) ++ (if w.getLsbD 240 then [2] else [])
    if !subs.isEmpty then .error ⟨2, subs.foldl min 15, posMask (bad.map (·.1))⟩
    else
      let n := (w.extractLsb' 241 3).toNat
      if 4 < n then .error ⟨3, 0, 0⟩
      else
        let ops := p.filterMap fun x => x.2.op?.map fun o => (x.1, o)
        let imb := (ops.filter fun x => x.2.immBad n).map (·.1)
        if !imb.isEmpty then .error ⟨3, 0, posMask imb⟩
        else
          match portClash ops with
          | a :: r => .error ⟨4, 0, posMask (a :: r)⟩
          | [] => .ok ⟨n, ops.lookup 0, ops.lookup 1, ops.lookup 2⟩

/-- A control word from its three positions (R57). -/
def packWord (nimm : BitVec 3) (p0 p1 p2 : BitVec 3 × Bool × SlotBits) : ControlWord :=
  (p0.1 ++ p1.1 ++ p2.1 ++ BitVec.ofBool p0.2.1 ++ BitVec.ofBool p1.2.1 ++ BitVec.ofBool p2.2.1 ++ nimm ++ 0#1
    ++ p0.2.2 ++ p1.2.2 ++ p2.2.2).cast rfl

/-- The dictionary entry of a word that holds one slot operation, at position 0 and not held, with the immediate parcels
its selectors need (R57, R69). A step of the device has no encoding. -/
def encode (i : Instr) : Option ControlWord :=
  match i.kind, encodeSlot i with
  | some k, some x => some (packWord (BitVec.ofNat 3 i.nimm) (k.enc, false, x) (0, false, 0) (0, false, 0))
  | _, _ => none

/-- A 256-bit value from bytes, the lowest address first (R8, R57). -/
def leWord (n : Nat) (l : List Byte) : BitVec n :=
  match l with
  | [] => 0
  | b :: r => b.setWidth n ||| (leWord n r <<< 8)

/-- The bytes of a value, the lowest address first (R8). -/
def leBytes (k : Nat) {n : Nat} (v : BitVec n) : List Byte :=
  match k with
  | 0 => []
  | k + 1 => v.setWidth 8 :: leBytes k (v >>> 8)

/-- A dictionary entry from its 32 bytes (R57). -/
def decodeEntry (l : List Byte) : Except Refused Word3 := decodeWord (leWord 256 l)

/-! ## Parcels (R69, R70) -/

/-- An immediate parcel. -/
def isImm (p : BitVec 16) : Bool := p.getLsbD 15

/-- Payload or token index. -/
def payload (p : BitVec 16) : BitVec 15 := p.extractLsb' 0 15

/-- The word's immediate, sign-extended from bit 15N − 1 (R70). -/
def wordImm : List (BitVec 15) → Word
  | [] => 0
  | [a] => a.signExtend 64
  | [a, b] => (b ++ a).signExtend 64
  | [a, b, c] => (c ++ (b ++ a)).signExtend 64
  | a :: b :: c :: d :: _ => (d ++ (c ++ (b ++ a))).signExtend 64

/-- The host's reading of an encoding table: no row of this table gives bits, and the only words the MF9 decodes are
256-bit dictionary entries, so w is one, its bit 0 in the byte at the lowest address. The instruction is the one at the
lowest occupied position. -/
def decodeTableWord (_nbits w : Nat) : Option Instr :=
  match decodeEntry (leBytes 32 (BitVec.ofNat 256 w)) with
  | .ok x => x.ops.head?.map fun o => o.2.ins
  | .error _ => none

end Sys2Proof
end

