-- ==== Sys2Proof/Config.lean ====
section
/-!
DEFINITION. What an implementation fixes and the free values: constants without a body, of which nothing can be proved.
A statement about the machine holds for every value of each of them.
-/
namespace Sys2Proof

/-- The special functions whose results the spec bounds (R165 to R172). -/
inductive SpecFn where
  | rcp | rsqrt | sqrt | exp2 | log2 | sin | cos | tanh
  deriving DecidableEq, Repr, Inhabited

/-- What a packet between devices asks or answers (R350). -/
inductive FabKind where
  | read | readReply | write | atomic (f : AtomFn) | atomicReply | ack | probe (acc : AccKind) | probeReply | message | invalidate | recall
  | arrival | release
  deriving DecidableEq, Repr, Inhabited

/-- What the header flit of a packet says (R350, R354 to R357): its nodes, its number among its sender's packets, the number of the
packet it answers, the fabric set, the line, the sectors asked for or carried, the byte mask of a write, the words of the line of an atomic's
lanes, a message's payload bytes, a probe's answer, and the poison of the line's 4-byte words or of the lanes. -/
structure FabHead where
  kind : FabKind
  src : BitVec 16
  dst : BitVec 16
  num : Nat
  tag : Nat
  set : BitVec 16
  va : Nat
  sectors : BitVec 4
  bytes : BitVec 256
  lanes : List Nat
  len : Nat
  answer : Option Nat
  poison : BitVec 64
  deriving DecidableEq, Repr, Inhabited

/-- What the 16-byte header of a message says (R205, R339). -/
structure MsgHead where
  dest : BitVec 64
  mcast : Bool
  srcDev : Nat
  srcBlk : Nat
  srcTidx : Nat
  deriving DecidableEq, Repr, Inhabited

/-- The approximation an MF9 computes for a special function, a function of a, FMODE and COMPAT only (R165; log
entry 11). It is used only where it lies within the spec's bound. -/
opaque Config.approx : SpecFn → Lane → Word → Word → Lane

/-- Which of several due steps comes next: the index is taken modulo their number (R4, R313; log entry 1). -/
opaque Config.freeChoice : Nat → Nat

/-- A value the spec leaves open: data of another device's memory (R354, R355), a measurement of the world outside. -/
opaque Config.freeWord : Nat → Word

/-- Which of the physical cores left in a bench boot firmware gives to a logical core, by core (R6; log entry 60). -/
opaque Config.coreChoice : Nat → Nat

/-- This device's node number (R352; log entry 31). -/
opaque Config.node : BitVec 16

/-- What a header flit's body says, of which the spec gives no layout (R349, R350; log entry 31). -/
opaque Config.fabHead : BitVec 448 → FabHead

/-- The body of a header flit (R349, R350; log entry 31). -/
opaque Config.fabBits : FabHead → BitVec 448

/-- What the header of a message says, of which the spec gives no layout (R339; log entry 31). -/
opaque Config.msgHead : BitVec 128 → MsgHead

/-- The header of a message (R339; log entry 31). -/
opaque Config.msgBits : MsgHead → BitVec 128

/-- Byte i of the AES-256-GCM key stream of a packet, by key and header (R359; log entry 13). -/
opaque Config.keyStream : BitVec 256 → BitVec 256 → Nat → Byte

/-- The AES-256-GCM tag of a packet, by key, header and encrypted payload (R359; log entry 13). -/
opaque Config.gcmTag : BitVec 256 → BitVec 256 → List Byte → BitVec 128

/-- The priority of the frames the device sends (R358; log entry 61). -/
opaque Config.priority : Nat

/-- The bundle latencies of a leaf's latency ROM, by 18,432·leaf + 128·physical core + bank (R6, R274; log entry 5). -/
opaque Config.latencyRom : Nat → Byte

/-- The station address fused into the management die (R415; log entry 5). -/
opaque Config.stationMac : BitVec 48

/-- Whether both signatures of a firmware image verify against the fused, unrevoked keys (R409; log entry 13). -/
opaque Config.signaturesVerify : List Byte → BitVec 64 → Bool

/-- SHA-384 of a string (R413; log entry 13). -/
opaque Config.sha384 : List Byte → BitVec 384

/-- The certificate chain of slot 0 (R413; log entry 13). -/
opaque Config.certificate : List Byte

/-- An ECDSA P-384 signature with the device key (R413; log entry 13). -/
opaque Config.deviceSign : List Byte → BitVec 768

/-- Where boot firmware loads the kind 2 image (R410, R422; log entry 4). -/
opaque Config.systemBase : Nat

/-- The slot-to-engine map of a partition: whether it has one vector instance only (R82; log entry 4). -/
opaque Config.oneVector : Nat → Bool

end Sys2Proof
end

