-- ==== Sys2Proof/Machine/Flags.lean ====
section
/-!
DEFINITION. The floating-point modes an operation samples at its issue (R46, R47, R106, R110) and the sticky flags it
raises (R113).
-/
namespace Sys2Proof.Machine

/-- The four rounding modes (R106). -/
inductive Rnd where
  | rne | rz | ru | rd
  deriving DecidableEq, Repr, Inhabited

/-- Sticky flags, in the order of FMODE bits 20:16 and RD.FLAGS: bit 0 NV, 1 DZ, 2 OV, 3 UF, 4 NX (R47, R55). -/
abbrev FFlags := BitVec 5

/-- Invalid operation. -/
def flNV : FFlags := 1
/-- Divide by zero. -/
def flDZ : FFlags := 2
/-- Overflow with the inexact flag every overflow sets (R113). -/
def flOVNX : FFlags := 4 ||| 16
/-- Underflow with inexact. -/
def flUFNX : FFlags := 8 ||| 16
/-- Inexact. -/
def flNX : FFlags := 16

/-- The modes of one operation: rounding, the flush bits of the three classes, and COMPAT.LEVEL 1. -/
structure Modes where
  rnd : Rnd
  if32 : Bool
  if16 : Bool
  ifts : Bool
  of32 : Bool
  of16 : Bool
  ofts : Bool
  level1 : Bool
  deriving DecidableEq, Repr, Inhabited

/-- FMODE.RM (R47). -/
def Rnd.ofBits (b : BitVec 2) : Rnd :=
  match b.toNat with
  | 0 => .rne
  | 1 => .rz
  | 2 => .ru
  | _ => .rd

/-- The mode of an RM field: 000 means FMODE.RM, sampled at issue (R65, R106). -/
def Rm.rnd (fmode : Word) : Rm → Rnd
  | .fmode => Rnd.ofBits (fmode.extractLsb' 0 2)
  | .rne => .rne
  | .rz => .rz
  | .ru => .ru
  | .rd => .rd

/-- The modes an operation with rounding field rm samples from FMODE and COMPAT (R47, R48). -/
def modesOf (fmode compat : Word) (rm : Rm) : Modes :=
  { rnd := Rm.rnd fmode rm, if32 := fmode.getLsbD 2, if16 := fmode.getLsbD 3, ifts := fmode.getLsbD 4,
    of32 := fmode.getLsbD 5, of16 := fmode.getLsbD 6, ofts := fmode.getLsbD 7,
    level1 := compat.extractLsb' 0 2 == 1 }

/-- FMODE with flags ORed into bits 20:16 (R47). -/
def orFlags (fmode : Word) (f : FFlags) : Word := fmode ||| (f.setWidth 64 <<< 16)

/-- The bits of FMODE that exist: 7:0 and 20:16; the others read 0 and ignore writes (R47). -/
def fmodeMask : Word := 0x1F00FF#64

/-- The bits of DBASE that are not reserved (R50). -/
def dbaseMask : Word := 0x01FFFFFFFFFFFFC0#64

end Sys2Proof.Machine
end

