-- ==== Sys2Proof/Machine/Store.lean ====
section
/-!
DEFINITION. Sparse stores as plain lists in one canonical form: keys strictly rising, and no entry equal to what an
unlisted key reads as, which is 0 (memory after boot, R410 step 5; registers at team start, R24). Records of teams,
blocks and units are kept in lists of the same shape, where an absent record is none.
-/
namespace Sys2Proof.Machine

/-- A store of w-bit values. -/
abbrev SMap (w : Nat) := List (Nat × BitVec w)

/-- Reads a key; an unlisted key reads 0. -/
def SMap.get {w : Nat} (m : SMap w) (k : Nat) : BitVec w :=
  match m with
  | [] => 0
  | (j, v) :: r => if j = k then v else SMap.get r k

/-- Writes a key, keeping the canonical form: writing 0 removes the entry. -/
def SMap.set {w : Nat} (m : SMap w) (k : Nat) (v : BitVec w) : SMap w :=
  match m with
  | [] => if v = 0 then [] else [(k, v)]
  | (j, u) :: r =>
    if j < k then (j, u) :: SMap.set r k v
    else if j = k then (if v = 0 then r else (k, v) :: r)
    else if v = 0 then (j, u) :: r else (k, v) :: (j, u) :: r

/-- Every key of the list is above k. -/
def SMap.above {w : Nat} (k : Nat) (m : SMap w) : Bool :=
  match m with
  | [] => true
  | (j, _) :: _ => decide (k < j)

/-- The canonical form. -/
def SMap.wf {w : Nat} (m : SMap w) : Bool :=
  match m with
  | [] => true
  | (k, v) :: r => v != 0 && SMap.above k r && SMap.wf r

/-- A byte memory is in canonical form. -/
abbrev Memory.wf (m : SMap 8) : Bool := SMap.wf m

/-- Keeps the entries whose key satisfies p; the others read 0 again. -/
def SMap.keep {w : Nat} (m : SMap w) (p : Nat → Bool) : SMap w := m.filter fun e => p e.1

/-- Reads n consecutive keys. -/
def SMap.getRange {w : Nat} (m : SMap w) (k n : Nat) : List (BitVec w) := (List.range n).map fun i => m.get (k + i)

/-- Writes consecutive keys. -/
def SMap.setRange {w : Nat} (m : SMap w) (k : Nat) (l : List (BitVec w)) : SMap w :=
  match l with
  | [] => m
  | v :: r => SMap.setRange (m.set k v) (k + 1) r

/-- Records by number. -/
abbrev AL (α : Type) := List (Nat × α)

/-- The record of a number, if present. -/
def AL.get? {α : Type} (l : AL α) (k : Nat) : Option α :=
  match l with
  | [] => none
  | (j, v) :: r => if j = k then some v else AL.get? r k

/-- Writes a record, in rising order of number. -/
def AL.put {α : Type} (l : AL α) (k : Nat) (v : α) : AL α :=
  match l with
  | [] => [(k, v)]
  | (j, u) :: r =>
    if j < k then (j, u) :: AL.put r k v
    else if j = k then (k, v) :: r
    else (k, v) :: (j, u) :: r

/-- Removes a record. -/
def AL.del {α : Type} (l : AL α) (k : Nat) : AL α := l.filter fun e => e.1 != k

/-- Changes a record that is present. -/
def AL.upd {α : Type} (l : AL α) (k : Nat) (f : α → α) : AL α :=
  match l with
  | [] => []
  | (j, u) :: r => if j = k then (j, f u) :: r else (j, u) :: AL.upd r k f

/-- The record of a number, or a default. -/
def AL.getD {α : Type} (l : AL α) (k : Nat) (d : α) : α := (l.get? k).getD d

end Sys2Proof.Machine
end

