-- ==== Sys2Proof/Machine/State.lean ====
section
/-!
DEFINITION. The state of the device as plain data. Numbers: a core is 128·leaf + logical core (0 to 511); a partition is
4·core + p; a team slot is z = 16·partition + slot (R292); a resident block is 64·core + its first physical tile (R324);
scratchpad bytes are keyed 2^19·core + byte, accumulator elements 32,768·core + 4,096·a + 64·i + j, per-lane register
elements 1,024·register + lane. Every map reads 0 where nothing is listed. What is the model's own is marked so.
-/
namespace Sys2Proof.Machine

/-! ## Teams -/

/-- One element or scalar of a landing: lane (or register offset of a ballot), value, poison. -/
structure LaneVal where
  lane : Nat
  v : BitVec 128
  p : Bool
  deriving DecidableEq, Repr, Inhabited

/-- A landing-buffer entry or replay register (R29 to R33, R55): the team-cycle it is due (a distance while in a replay
register), the register it writes, its values, the flags it raises, the operation whose reply it awaits, and the lanes that
reply will give. key is the place in program order of the operation of the word in progress that makes it. -/
structure Landing where
  due : Nat
  file : RFile
  reg : Nat
  pair : Bool
  bal : Bool
  vals : List LaneVal
  flags : FFlags
  pend : Option Nat
  lanes : List Nat
  key : Option Nat
  deriving DecidableEq, Repr, Inhabited

/-- The six loop registers (R38). -/
structure LoopRegs where
  lc0 : Word
  ls0 : Word
  le0 : Word
  lc1 : Word
  ls1 : Word
  le1 : Word
  deriving DecidableEq, Repr, Inhabited

/-- Where an operation of the word in progress stands. -/
inductive OpStatus where
  | pending | running | blocked | done
  deriving DecidableEq, Repr, Inhabited

/-- Page propagation of an access (R242 to R244). -/
inductive PageAttr where
  | ap | nap | repl
  deriving DecidableEq, Repr, Inhabited

/-- Where an access goes: a physical memory address with its page's attributes, a scratchpad byte of a core, or another device
(R180, R260). -/
inductive Place where
  | mem (pa : Nat) (attr : PageAttr) (nc : Bool)
  | spad (k : Nat)
  | remote (dev : Nat) (va : Nat)
  deriving DecidableEq, Repr, Inhabited

/-- One operation of the word in progress: a held repeat (pos none) or a position (R66, R67); id its place in the team's list of
stream operations, places the checked and translated place of each lane's access (lane 0 of a scalar access). -/
structure OpSt where
  pos : Option Nat
  op : SlotOp
  st : OpStatus
  id : Option Nat
  places : List (Nat × Place)
  deriving DecidableEq, Repr

/-- A queue selector as sampled at issue (R36): the entry's block address, its 64-bit value, poison, and whether the bytes
were ready then; for a per-lane read each lane's word and poison, where its pass was ready then. -/
structure QCap where
  sel : BitVec 8
  addr : Nat
  v : Word
  p : Bool
  ready : Bool
  lanes : List (Option (Lane × Bool))
  deriving DecidableEq, Repr, Inhabited

/-- An XU slot's operands, descriptors and modes as captured at its issue (R213), and whether a value a queue read gave it is
poisoned (R218). -/
structure MArgs where
  oa : Word
  ob : Word
  oc : Word
  fa : BitVec 128
  fb : BitVec 128
  fm : Word
  cm : Word
  vp : Bool
  deriving DecidableEq, Repr, Inhabited

/-- What a word in progress carries to its whole commit (R125, R131, R143, R147, R149): the taken target, the loop
registers at its start, its address and the next word's, which levels wrote lc explicitly, and the pending trap, end, return, clear and invalidation. -/
structure Keep where
  taken : Option Word
  snap : LoopRegs
  pc : Word
  npc : Word
  lcw0 : Bool
  lcw1 : Bool
  trap : Option (Nat × Word)
  fin : Bool
  eret : Bool
  hclr : BitVec 5
  dinv : Bool
  deriving DecidableEq, Repr, Inhabited

/-- The word in progress: its team-cycle, addresses and immediate, its operations in program order, the passes still to
run in the clocks to come (the head is the next), the first pass it resumes from, whether a split's second part is in
progress or due, whether its issue checks have passed, the queue entries sampled at issue, the copy program a mu.copy of it
captured with its poison (R198, R201), and FMODE, COMPAT and the stream counters as at its start. -/
structure Ctx where
  t : Nat
  pc : Word
  npc : Word
  imm : Word
  word : Word3
  ops : List OpSt
  passes : List Nat
  pass0 : Nat
  split : Bool
  part2 : Bool
  checked : Bool
  fm : Word
  cm : Word
  i0 : SMap 16
  d0 : SMap 16
  qv : List QCap
  cpv : BitVec 1024
  cpvP : Bool
  deriving DecidableEq, Repr

/-- A fetched word waiting to issue (R71, R74). -/
structure Fetched where
  pc : Word
  npc : Word
  imm : Word
  token : Nat
  word : Word3
  deriving DecidableEq, Repr

/-- Kinds of access of a memory operation. -/
inductive OpKind where
  | load | store | atomic (f : AtomFn) | prefetch | slotAccess | copy | matrix | msend | mpost | cpost | tget
  deriving DecidableEq, Repr, Inhabited

/-- One access: its lane, address as formed, place, size in bytes, the value stored or combined and its poison, and the compare
value of .cas. -/
structure Access where
  lane : Nat
  va : Nat
  place : Place
  size : Nat
  v : Word
  p : Bool
  c : Lane
  deriving DecidableEq, Repr, Inhabited

/-- An operation of a stream, in program order from the start of its word (R183, R234, R238): its edges, its accesses
still to be made, the values its accesses have fixed, how wide it is performed (0 not, 1 core, 2 bench, 3 dev, 4 sys; R232),
the miss-status entries it holds, whether it has issued, its reply has arrived, it has completed, and D has counted it; the
record it carries (R209) and its poison, for watchpoints its SOA, TCYC at issue and the comparators it has hit (R377, R379), the clock
its requests left the core and the clock its data reach it (R273). -/
structure MemOp where
  id : Nat
  kind : OpKind
  str : Nat
  preds : List Nat
  scp : Scope
  accs : List Access
  got : List LaneVal
  perf : Nat
  mse : Nat
  issued : Bool
  arrived : Bool
  done : Bool
  counted : Bool
  writesSpad : Bool
  readsSpad : Bool
  data : List Byte
  dataP : Bool
  soa : Word
  tcyc : Word
  hits : List Nat
  sentAt : Nat
  readyAt : Nat
  deriving DecidableEq, Repr, Inhabited

/-- A fault: cause (R54), detail (R320), address, slot (3 when not a slot), pass and lanes. -/
structure Flt where
  cause : Nat
  detail : BitVec 32
  addr : Word
  slot : Nat
  pass : Nat
  lanes : BitVec 32
  deriving DecidableEq, Repr, Inhabited

/-- The frame's fields besides the held records and the replay area (R53). -/
structure FrameHead where
  flt : Flt
  done : BitVec 3
  partial_ : Bool
  part2 : Bool
  pc : Word
  npc : Word
  tcyc : Word
  imm : Word
  deriving DecidableEq, Repr, Inhabited

/-- A posted receive (R206): buffer address in the block, match word, length word, its operation, and whether the message unit
has it (R207). -/
structure Receive where
  buf : Nat
  mword : Word
  lword : Word
  op : Nat
  entered : Bool
  deriving DecidableEq, Repr, Inhabited

/-- Barrier record of one level (R137). -/
structure BarRec where
  arrived : Bool
  gen : Bool
  deriving DecidableEq, Repr, Inhabited

/-- Asynchronous causes waiting for the next word (R319). -/
inductive Async where
  | uncorrectable (detail : BitVec 32)
  | copyFault (id cause : Nat) (detail : BitVec 32) (addr : Word)
  | msgOverflow (n : Nat) (badTidx : Bool)
  | watchpoint (detail : BitVec 32) (addr : Word)
  | singleStep
  deriving DecidableEq, Repr, Inhabited

/-- A translation probe of a remote line (R355): its virtual address, access kind, and the answer when it has come: none is
a pin, some a PROTECTION reason or 0 for PAGE_NOT_PRESENT. -/
structure Probe where
  va : Nat
  acc : AccKind
  answer : Option (Option Nat)
  deriving DecidableEq, Repr, Inhabited

/-- A team (R15 to R56); gran is where its VA, VB and VM granules start (R27), landed the flags that landed at the present
team-cycle (R47), eretWait the slot, NPC and immediate of the su.eret word it waits at (R144), resumePass its resume pass and
userPass that of its interrupted word while it is in trap mode (R329), occ and userOcc the occupied positions of those words
(TF.PARTIAL, R53), prefSys whether its prefetch list is of the system window (R145), startAt the first clock it may issue in
(R303). -/
structure Team where
  blk : Nat
  launch : Nat
  asid : BitVec 16
  root : Nat
  wlog : Nat
  nva : Nat
  nvb : Nat
  nvm : Nat
  gran : Nat × Nat × Nat
  s : SMap 64
  a : SMap 64
  f : SMap 128
  va : SMap 32
  vb : SMap 32
  vm : SMap 32
  sP : SMap 1
  aP : SMap 1
  fP : SMap 1
  vaP : SMap 1
  vbP : SMap 1
  vmP : SMap 1
  loop : LoopRegs
  ic : SMap 16
  dc : SMap 16
  fmode : Word
  landed : FFlags
  compat : Word
  domr : Word
  dwin : Word
  dbase : Word
  dwinU : Word
  dbaseU : Word
  teamid : Word
  blkid : Word
  blkpos : Word
  trapvec : Word
  ctxptr : Word
  ctxlog : Nat
  tcyc : Word
  tmode : Bool
  nest : Bool
  pc : Word
  tc : Nat
  land : List Landing
  replay : List Landing
  held : AL SlotBits
  keep : Option Keep
  userKeep : Option Keep
  fetched : Option Fetched
  zeroTrip : Option (Word × Word)
  waiting : Bool
  ctx : Option Ctx
  resumePass : Nat
  userPass : Nat
  occ : BitVec 3
  userOcc : BitVec 3
  done : BitVec 3
  part2 : Bool
  ended : Bool
  halted : Bool
  haltFrame : Option FrameHead
  stopReq : Bool
  eretWait : Option (Nat × Word × Word)
  bars : AL BarRec
  async : List Async
  recv : List Receive
  probes : List Probe
  prefetch : List Nat
  prefSys : Bool
  ops : List MemOp
  activeTasks : Nat
  stepping : Option Nat
  skid : Option (Nat × Nat)
  nobp : Bool
  crc : BitVec 32
  lastIssue : Nat
  startAt : Nat
  deriving DecidableEq, Repr

/-! ## Blocks, copies and engines -/

/-- A resident block (R20 to R22). tiles holds the state words of R41 by block tile; accBusy BUSYW (bit 0) and BUSYR (bits
3:1) by accumulator. tiles0, accBusy0 and q0 are those and the queue handles as at the start of the clock, which the tests of
R43, R44 and R195 see; chunkNow the chunks completed in this clock (R197). -/
structure Block where
  launch : Nat
  lin : Nat
  variant : Nat
  asid : BitVec 16
  root : Nat
  core : Nat
  tile0 : Nat
  nt : Nat
  accs : List Nat
  teams : List Nat
  switches : List (Nat × Word)
  tiles : SMap 32
  accBusy : SMap 4
  tiles0 : SMap 32
  accBusy0 : SMap 4
  q0 : SMap 64
  chunkNow : SMap 16
  tileP : SMap 1
  q : SMap 64
  qP : SMap 1
  cp : SMap 1024
  cpP : SMap 1
  barArr : Nat
  barEnd : Nat
  barGen : Bool
  flagged : Bool
  shrink : Option (Nat × Nat)
  stop : Bool
  settled : Bool
  carry : Nat
  deriving DecidableEq, Repr

/-- Where a copy stands (R200 to R203). -/
inductive CopyState where
  | running | suspended
  deriving DecidableEq, Repr, Inhabited

/-- A copy that has issued and not completed: its operation, block, team, captured program, operands and mask, the next
element in nest order, the units finished from the cursor on, the elements of other units written beyond it, the lines it owns, those it has asked for behind a recall (R246), and what the
elements it has written held before by place, which a later element of it may still be written with (R200); settled says that a
SAVE suspended it (R330); mse counts the miss-status entries it holds (R264), probes the translation probes of its remote lines (R355),
got the elements that have come from other devices, by address (R356). -/
structure Copy where
  id : Nat
  blk : Nat
  z : Nat
  prog : Nat
  bits : BitVec 1024
  oa : Word
  ob : Word
  scp : Scope
  pm : BitVec 8
  preds : List Nat
  cursor : Nat
  finished : List Nat
  wrote : List Nat
  st : CopyState
  owned : List Nat
  asked : List Nat
  prior : List (Nat × List Byte × Bool)
  settled : Bool
  mse : Nat
  probes : List Probe
  got : List (Nat × List Byte × Bool)
  deriving DecidableEq, Repr

/-- A command the matrix engine has accepted (R212 to R217): its operation, block, team, captured operands, the next group,
once it has begun the clock its occupancy ends (R214), and the destination chunks it has written (R216). -/
structure MCmd where
  id : Nat
  blk : Nat
  z : Nat
  ins : Instr
  args : MArgs
  preds : List Nat
  g : Nat
  due : Option Nat
  wrote : List Nat
  deriving DecidableEq, Repr

/-- A recall (R246): the line, the team and operation whose access waits, and the copies that held the line when it arrived. -/
structure Recall where
  line : Nat
  z : Nat
  op : Nat
  copies : List Nat
  deriving DecidableEq, Repr, Inhabited

/-! ## Partitions and cores -/

/-- An installed decode-table entry (R73): tag (token, dictionary base, address space), control word. -/
structure DEntry where
  token : Nat
  base : Word
  asid : BitVec 16
  sys : Bool
  bits : ControlWord
  bad : Bool
  deriving DecidableEq, Repr

/-- A refill in progress or waiting for an engine: tag, the window it installs in, whether it has started, and the teams it
will be handed to (R74, R76), and the restored team whose saved list it is of (R78). -/
structure Refill where
  token : Nat
  base : Word
  asid : BitVec 16
  sys : Bool
  root : Nat
  winBase : Nat
  winSets : Nat
  started : Bool
  teams : List Nat
  pre : Option Nat
  deriving DecidableEq, Repr, Inhabited

/-- A window in use (R305). -/
structure Window where
  asid : BitVec 16
  dict : Word
  base : Nat
  size : Nat
  users : List Nat
  deriving DecidableEq, Repr, Inhabited

/-- A partition: decode table by entry number with the recency of each set, refills, windows, slot-to-engine map, system
dictionary, FRAG and its drain hold (R72 to R78, R82, R305, R307, R422), and the team whose word occupies its clocks. -/
structure Part where
  table : AL DEntry
  lru : AL (List Nat)
  refills : List Refill
  windows : List Window
  oneVec : Bool
  sysBase : Word
  sysLen : Nat
  frag : Nat
  hold : Option (Nat × Nat)
  busy : Option Nat
  deriving DecidableEq, Repr

/-- A cached translation (R284): address space, first virtual page, page count in 4 KiB, frame, permissions, attribute. -/
structure TlbEntry where
  asid : BitVec 16
  vpn : Nat
  pages : Nat
  frame : Nat
  w : Bool
  x : Bool
  attr : PageAttr
  nc : Bool
  deriving DecidableEq, Repr, Inhabited

/-- A non-leaf table entry that a leaf's walker holds (R284): address space, the level below it as in a walk, the address bits that
choose it, and the table it names. -/
structure WalkEntry where
  asid : BitVec 16
  k : Nat
  va : Nat
  table : Nat
  deriving DecidableEq, Repr, Inhabited

/-- A message on its way or queued (R204, R205, R207): destination word, sender, payload with the poison of its 4-byte granules,
the operation it completes, and for one from another device the node it came from and its packet's number. -/
structure Msg where
  dest : Word
  mcast : Bool
  launch : Nat
  srcDev : Nat
  srcBlk : Nat
  srcTidx : Nat
  payload : List Byte
  poison : List Bool
  op : Option (Nat × Nat)
  order : Nat
  far : Option (BitVec 16 × Nat)
  deriving DecidableEq, Repr, Inhabited

/-- A core: the matrix engine's commands in acceptance order and the clock after its last acceptance (R212), the lines of its L1
with their valid sectors, most recent first (R261), the message unit's overflow queue, the TLB, miss-status entries released
but not free yet (R207, R284, R264); the rows its banks' requesters wait for, how often each was denied
who was served last, and the clock after a bank's last service (R258); the lost-time counts changed in this clock as they were at its
start, and whether a snapshot of this clock clears them all (R388); the events of this cycle by code and filter (R391), the time of the last trace record and the
anchor bits pending (R385). -/
structure CoreSt where
  mq : List MCmd
  xacc : Nat
  l1 : List (Nat × Nat)
  overflow : List Msg
  tlb : List TlbEntry
  missDue : Nat
  breq : List (Nat × Nat × Nat)
  deny : SMap 8
  bank : AL (List Nat)
  bankAt : SMap 64
  lt0 : AL Nat
  ltZero : Bool
  events : SMap 64
  lastTrace : Nat
  trGap : BitVec 5
  deriving DecidableEq, Repr

/-- A write to a NAP or REPL page that some agents cannot read yet (R243, R244): the bytes before and after, and the
cores (NAP) or leaves (REPL) that read it already. -/
structure PendWrite where
  op : Nat
  repl : Bool
  addr : Nat
  old : List Byte
  new : List Byte
  seen : List Nat
  deriving DecidableEq, Repr, Inhabited

/-- A context event to be appended to the ring (R325). -/
structure CxEvent where
  code : Nat
  queue : Nat
  num : Nat
  slot : Nat
  seq : Nat
  word0 : Word
  deriving DecidableEq, Repr, Inhabited

/-! ## Launches (R298 to R312) -/

/-- A variant's descriptor as read from the kernel image (R315): its words, and the nonzero switch entries. -/
structure Variant where
  shape : Word
  dict : Word
  dlen : Nat
  entry : Word
  carry : Nat
  gate : Word
  pmap : List Nat
  sw : List (Nat × Word)
  deriving DecidableEq, Repr, Inhabited

/-- Arrival count, ended count and generation of a domain of level 1 to 4 (R23, R136). -/
structure DomRec where
  arr : Nat
  fin : Nat
  gen : Bool
  deriving DecidableEq, Repr, Inhabited

/-- A block that ended at a switch point and waits for its restart (R138, R310): block number, switch point, s0 to s15 of each
old team with their poison, carry bytes and the poison of their 4-byte granules, the tasks each old team holds active, and the
waiting block (launch and number) that a shrink flag puts first. -/
structure Restart where
  lin : Nat
  k : Nat
  regs : List (List (Word × Bool))
  carry : List Byte
  carryP : List Bool
  active : List Nat
  shrink : Option (Nat × Nat)
  deriving DecidableEq, Repr, Inhabited

/-- A started launch (R298): queue, the captured record as 16 words, the queue record's context, parameters, variants, claims of
units by leaf, the next unclaimed block, the blocks placed once, those ended with their team count, those saved with the count of
their teams that had not ended, waiting restarts, domain barriers by 2^33·level + domain, and the task sub-queues' head and tail positions (R311). -/
structure Launch where
  queue : Nat
  lr : List Word
  asid : BitVec 16
  root : Nat
  trapvec : Word
  ctxbase : Word
  ctxlog : Nat
  prio : Nat
  params : List Word
  vars : List Variant
  claims : List (Nat × Nat)
  next : Nat
  placed : List Nat
  ended : List (Nat × Nat)
  saved : AL Nat
  restarts : List Restart
  doms : AL DomRec
  tq : AL (Nat × Nat)
  deriving DecidableEq, Repr, Inhabited

/-! ## Queues and dispatchers (R293 to R309) -/

/-- A hardware queue slot (R296 to R301): its queue, the queue record's first six words as read at mapping, the live positions,
the checked launch record at RPTR with which of its dependences are met, the clock it began to wait, the clock of its last
dependence read, whether a counter update has asked for another, the clock it was last active, the WPTR a notify gives it at the end of the
clock (R294), and whether it was idle at the start of the clock (R297). -/
structure QSlot where
  queue : Nat
  qr : List Word
  wptr : Nat
  rptr : Nat
  lr : Option (List Word)
  met : List Bool
  waitAt : Nat
  readAt : Nat
  due : Bool
  active : Nat
  next : Option Nat
  idle0 : Bool
  deriving DecidableEq, Repr, Inhabited

/-- Where a block is to be placed: launch, block, variant, core, and the restart it continues. -/
structure Placing where
  launch : Nat
  lin : Nat
  variant : Nat
  core : Nat
  deriving DecidableEq, Repr, Inhabited

/-- A leaf's dispatcher (R303 to R309): the logical core and clock of its last placement, the launch it last placed at each
priority, the highest-priority waiting block, the waiting blocks with the clock each began to wait, the clock since which no block has
waited, the block of a starvation hold, the gang placements reserved, and the block it has flagged. -/
structure Dispatcher where
  last : Option Nat
  lastAt : Option Nat
  turn : AL Nat
  head : Option (Nat × Nat)
  waits : List (Nat × Nat × Nat)
  idle : Nat
  starve : Option (Nat × Nat)
  gang : List Placing
  flag : Option Nat
  deriving DecidableEq, Repr, Inhabited

/-! ## The context engine (R324 to R334) -/

/-- The command that runs: SAVE or RESTORE, the PREEMPT source, its sequence number, whether images hold window lists, the blocks still
to be saved in ascending number, the launches to be saved after them, the queues to be unmapped, and whether system scope is
asked for. -/
structure CxCmd where
  save : Bool
  source : Nat
  seq : Nat
  win : Bool
  blocks : List Nat
  launches : List Nat
  queues : List Nat
  deriving DecidableEq, Repr, Inhabited

/-- A restore waiting for its placement (R333): image slot, leaf or any, command sequence number. -/
structure RestoreReq where
  slot : Nat
  leaf : Option Nat
  seq : Nat
  deriving DecidableEq, Repr, Inhabited

/-! ## The fabric and the host transport (R339 to R363) -/

/-- A fork-buffer entry (R347): its router (0 to 63 benches, 64 to 67 leaves), its packet, and for each branch whose done bit is 0
the router, or 68 + core, behind it and the member blocks reached through it. -/
structure Fork where
  router : Nat
  msg : Msg
  left : List (Nat × List Nat)
  deriving DecidableEq, Repr, Inhabited

/-- A packet for the links (R350): its header, its data, and the number that chooses its port (R352). -/
structure FabPkt where
  head : FabHead
  data : List Byte
  h : Nat
  deriving DecidableEq, Repr, Inhabited

/-- A flit to be sent or sent: its packet, kind and body, and its number once it is sent (R349). -/
structure TxFlit where
  pkt : FabPkt
  kind : Nat
  body : BitVec 448
  seq : Nat
  deriving DecidableEq, Repr, Inhabited

/-- A Tchiheuri port (R348 to R351): its lanes in use and the node at its far end, the last flit received good, the next to send, the
unacknowledged flits in order, how often the oldest has been replayed, the packets being received by virtual channel, and the flits that
wait for credits or room by virtual channel. -/
structure Port where
  lanes : BitVec 2
  peer : BitVec 16
  rxGood : Nat
  txNext : Nat
  unacked : List TxFlit
  fails : Nat
  rx : AL (List (BitVec 448))
  txq : AL (List TxFlit)
  deriving DecidableEq, Repr, Inhabited

/-- A request to another device that waits for its answer: the packet's number, its node and kind, the team or none for a copy, the operation, the
line, and the accesses of the line it makes (R340, R354 to R356). -/
structure FarReq where
  num : Nat
  node : BitVec 16
  kind : FabKind
  z : Option Nat
  op : Nat
  va : Nat
  accs : List Access
  deriving DecidableEq, Repr, Inhabited

/-- An acknowledgement owed to another device once a write is performed or a message's fate is decided (R340, R356). -/
structure FarOwed where
  node : BitVec 16
  num : Nat
  va : Nat
  deriving DecidableEq, Repr, Inhabited

/-- A line of this device that another may hold (R356): line, device, its address there, and its bytes as they were sent. -/
structure DirEntry where
  line : Nat
  node : BitVec 16
  va : Nat
  data : List Byte
  deriving DecidableEq, Repr, Inhabited

/-- A pinned translation of another device's probe (R355): set, line of the virtual address, line of memory, propagation, NC. -/
structure Pin where
  set : BitVec 16
  line : Nat
  to_ : Nat
  attr : PageAttr
  nc : Bool
  deriving DecidableEq, Repr, Inhabited

/-- What stands between this device and others (R350 to R356): the requests sent and not answered, the acknowledgements owed, the packets
received by node and number, of which a duplicate is discarded, and the directory of lines that others may hold. -/
structure Far where
  asked : List FarReq
  owed : List FarOwed
  seen : List (BitVec 16 × Nat)
  dir : List DirEntry
  deriving DecidableEq, Repr, Inhabited

/-- A packet sent and not acknowledged (R362): the packet, the time it was last sent in ns, and its resends. -/
structure TxPkt where
  pkt : Packet
  at_ : Nat
  tries : Nat
  deriving DecidableEq, Repr, Inhabited

/-- A BHT session beside its registers (R361 to R363): its key, the next SEQ expected, the packets held ahead of it, the WRITEs taken
and not yet performed, the next SEQ to send, the unacknowledged packets, when an ACK is due in ns, and the interrupts sent by vector. -/
structure Sess where
  key : BitVec 256
  rxNext : Nat
  ahead : List Packet
  late : List Packet
  txNext : Nat
  unacked : List TxPkt
  ackDue : Option Nat
  irqs : AL Nat
  deriving DecidableEq, Repr, Inhabited

/-- What the device has sent: a barrier arrival or release toward a node with its set (R357); a flit of a port (R349); a BHT
packet (R359); an answer of the management port with its completion code (R416); an SPDM response (R413); an ARP or neighbour
answer with NET.MAC and the address it answers for (R415); the answer to a translation probe (R355); the SMBus alert (R417); a message
to another device's node (R205, R340). Barriers, answers to probes and messages go on as packets in flits. -/
inductive Out where
  | barrier (node : Nat) (release : Bool) (set : Nat)
  | flit (port : Nat) (f : BitVec 512)
  | packet (p : Packet)
  | mgmt (code : BitVec 8) (data : List Byte)
  | spdm (via : Via) (data : List Byte)
  | neighbor (mac : BitVec 48) (ip : BitVec 128)
  | probe (set : BitVec 16) (va : Word) (answer : Option Nat)
  | alert
  | message (node : Nat) (m : Msg)
  deriving DecidableEq, Repr, Inhabited

/-! ## The platform (R408 to R421) -/

/-- The management die (R409 to R421): flash images by 4·bank + kind, the running bank, the bank the next reset boots, the image
chunks written and not committed, the fused SVN minima of kinds 1 to 3 and the revocation bits, the event log, clock steps that
wait for a frame boundary by leaf, and whether a coolant limit holds. -/
structure Platform where
  flash : AL (List Byte)
  bank : Nat
  boot : Nat
  chunk : SMap 8
  chunkLen : Nat
  svn : AL Nat
  revoked : BitVec 64
  log : List (Nat × Nat)
  clk : AL Nat
  cool : Bool
  deriving DecidableEq, Repr, Inhabited

/-! ## Caches (R261, R265) -/

/-- A line of an L2 slice: line number, way, valid and dirty sectors. -/
structure L2Line where
  line : Nat
  way : Nat
  valid : Nat
  dirty : Nat
  deriving DecidableEq, Repr, Inhabited

/-! ## The device -/

/-- The whole state. agenda, out, clock, ticked, fresh, nextId and cur are the model's own (log entries 1 and 7): the steps due
from outside, what the device has sent, the clock count and whether the last step was a clock, the counter of free values, the
next operation number, and the team whose word an exec of a slot operation belongs to. tick is the time base in parts of
1/27,720 ns (R382), bstop the bench stops on their way (trigger clock and cause, R369), msgs the messages on their way and
parks those parked, by leaf in arrival order (R341); captured the pages a replay pass has captured (R394); fused the benches whose L1s are fused
and fusing the changes under way (R263); holds the slices whose conversions are under way, by 16·slice + way (R270); pins the pages
that remote probes have pinned (R355); pendq the queues with PEND set, oldest first (R296); launchNo the next launch number;
cxHeld the image slots held, with the ring position that frees each (R324); paused the priorities a pause frame has stopped,
txWait what waits to be sent behind one (R358); coreMap the physical position of each logical core in its bench (R6); walkers the non-leaf entries each leaf's walker holds
(R284); portAt the clock from which a port of a bank may serve again (R273); turns what has had its turn in this clock (Turns in Ops.lean). -/
structure State where
  mem : SMap 8
  memP : SMap 1
  views : List PendWrite
  spad : SMap 8
  spadP : SMap 1
  acc : SMap 32
  accP : SMap 1
  regs : SMap 64
  dfilter : List Nat
  artNow : SMap 64
  wayNow : SMap 16
  teams : AL Team
  blocks : AL Block
  launches : AL Launch
  copies : List Copy
  recalls : List Recall
  cores : AL CoreSt
  parts : AL Part
  cxq : List CxEvent
  agenda : List Instr
  out : List Out
  clock : Nat
  ticked : Bool
  turns : AL Nat
  tick : Nat
  bstop : AL (Nat × Nat)
  msgs : List Msg
  parks : List (Nat × Msg)
  captured : List Nat
  l2 : AL (List L2Line)
  fused : List Nat
  fusing : AL Bool
  holds : List Nat
  pins : List Pin
  qslots : AL QSlot
  pendq : List Nat
  launchNo : Nat
  disp : AL Dispatcher
  cx : Option CxCmd
  cxHeld : AL (Option Nat)
  restores : List RestoreReq
  forks : List Fork
  ports : AL Port
  far : Far
  sess : AL Sess
  paused : BitVec 8
  txWait : List Out
  coreMap : SMap 4
  walkers : AL (List WalkEntry)
  portAt : SMap 64
  plat : Platform
  fresh : Nat
  nextId : Nat
  cur : Option Nat
  deriving DecidableEq, Repr

/-! ## Reset -/

/-- The station address fused into the management die (R415): a unit carries one, so it is not zero. -/
def stationMac : BitVec 48 := if Config.stationMac = 0 then 2 else Config.stationMac

/-- The registers whose reset value is not 0: NET.MAC (R415) and WMASK.WAYS of every slice (R269). -/
def resetRegs : SMap 64 := (0x100, stationMac.setWidth 64) :: (List.range 128).map fun k => (0x110000 + 8 * k, 0xFFFF)

/-- The management die of a unit whose flash is empty and whose fuses hold nothing (log entry 6). -/
def resetPlatform : Platform :=
  { flash := [], bank := 0, boot := 0, chunk := [], chunkLen := 0, svn := [], revoked := 0, log := [], clk := [], cool := false }

/-- The device right after reset, before the first step of its boot (R410): registers at their reset values, no core on, nothing in
memory. -/
def State.reset : State :=
  { mem := [], memP := [], views := [], spad := [], spadP := [], acc := [], accP := [], regs := resetRegs, dfilter := [], artNow := [],
    wayNow := [], teams := [], blocks := [], launches := [], copies := [], recalls := [], cores := [], parts := [], cxq := [],
    agenda := [], out := [], clock := 0, ticked := false, turns := [], tick := 0, bstop := [], msgs := [], parks := [], captured := [], l2 := [],
    fused := [], fusing := [], holds := [], pins := [], qslots := [], pendq := [], launchNo := 1, disp := [], cx := none, cxHeld := [],
    restores := [], forks := [], ports := [], far := ⟨[], [], [], []⟩, sess := [], paused := 0, txWait := [], coreMap := [], walkers := [], portAt := [], plat := resetPlatform, fresh := 0, nextId := 0, cur := none }

/-! ## Stops -/

/-- Why the machine stops. The MF9 itself never stops: every fault of a program is a trap (R318), a next state. -/
inductive Fault where
  /-- Raised by a slot operation executed while no team is issuing a word that holds it: the hardware has no such step, so
  stopping is safe. -/
  | noWordIssuing
  deriving DecidableEq, Repr

/-- Why the model has no meaning for a step. -/
inductive Refusal where
  /-- Raised by an arm of exec whose meaning is not written; safe. -/
  | notModelled (mnemonic : String)
  deriving DecidableEq, Repr

end Sys2Proof.Machine
end

