-- ==== Sys2Proof/Machine/Memory.lean ====
section
/-!
DEFINITION. The bytes of the machine: HBM and slice scratch by physical address (R260), core scratchpads (R7, R256), their
poison (R288, R289), home slices (R266, R267), dirty-page bits (R286, R287), pages that agents see at different times
(R243, R244), and the walk of the page tables (R278 to R283).
-/
namespace Sys2Proof.Machine

/-! ## System registers (R406) -/

/-- The word of a system register at its R406 offset. -/
def State.reg (s : State) (off : Nat) : Word := s.regs.get off

/-- Stores a register word as it is. -/
def State.setReg (s : State) (off : Nat) (v : Word) : State := { s with regs := s.regs.set off v }

/-- Bits hi..lo of a register. -/
def State.regBits (s : State) (off lo n : Nat) : Nat := ((s.reg off) >>> lo).toNat % 2 ^ n

/-- Bases of R406. -/
def memBase : Nat := 0x100000
/-- Scheduler block. -/
def schedBase : Nat := 0x200000
/-- Context block. -/
def ctxBase : Nat := 0x300000
/-- Fabric block. -/
def fabBase : Nat := 0x400000
/-- Debug block of a leaf. -/
def dbgBase (leaf : Nat) : Nat := 0x1000000 + 0x400000 * leaf

/-! ## Physical memory -/

/-- L(c, B) of a leaf's latency ROM, indexed by logical core (R6, R274): 14 to 22. -/
def State.latency (s : State) (leaf core bank : Nat) : Nat :=
  14 + (Config.latencyRom (18432 * leaf + 128 * (core / 8 * 9 + (s.coreMap.get (128 * leaf + core)).toNat) + bank)).toNat % 9

/-- The HBM range (R260). -/
def isHbm (pa : Nat) : Bool := decide (pa < 2 ^ 40)

/-- The slice-scratch range (R260). -/
def isScratch (pa : Nat) : Bool := decide (2 ^ 51 ≤ pa) && decide (pa < 2 ^ 51 + 2 ^ 28)

/-- A core's copy of the way-masks marks the way a slice-scratch address names as scratch (R270, R271). -/
def State.scratchWay (s : State) (pa : Nat) : Bool :=
  let off := pa - 2 ^ 51
  (s.wayNow.get (off / 2 ^ 21 % 128)).getLsbD (off / 2 ^ 17 % 16)

/-- Bytes of physical memory, in coherence order's last state (R233). -/
def State.readMem (s : State) (pa n : Nat) : List Byte := s.mem.getRange pa n

/-- Some 8-byte granule of the range is poisoned (R288). -/
def State.memPoisoned (s : State) (pa n : Nat) : Bool :=
  (List.range ((pa + n - 1) / 8 + 1 - pa / 8)).any fun i => s.memP.get (pa / 8 + i) != 0

/-- Clears the poison of granules a write covers wholly; a part leaves it (R289). p poisons every granule touched. -/
def granPoison (m : SMap 1) (g pa n : Nat) (p : Bool) : SMap 1 :=
  (List.range ((pa + n - 1) / g + 1 - pa / g)).foldl (fun m i =>
    let k := pa / g + i
    if p then m.set k 1
    else if pa ≤ k * g ∧ (k + 1) * g ≤ pa + n then m.set k 0 else m) m

/-- Granules that the writes of one request cover wholly between them, none of them poisoned, lose their poison (R289). -/
def State.clearCovered (s : State) (l : List (Nat × Nat × Bool)) : State :=
  let gs := (l.flatMap fun x => if x.2.1 = 0 then [] else (List.range ((x.1 + x.2.1 - 1) / 8 + 1 - x.1 / 8)).map fun i => x.1 / 8 + i).eraseDups
  gs.foldl (fun s g =>
    let here := l.filter fun x => decide (x.1 < 8 * g + 8) && decide (8 * g < x.1 + x.2.1)
    if (List.range 8).all (fun i => here.any fun x => decide (x.1 ≤ 8 * g + i) && decide (8 * g + i < x.1 + x.2.1)) && here.all fun x => !x.2.2
    then { s with memP := s.memP.set g 0 } else s) s

/-- Home slice of an HBM line by the default hash (R266). -/
def hashSlice (pa : Nat) : Nat :=
  let x (k : Nat) : Nat := pa / 2 ^ k % 32
  pa / 2 ^ 38 % 4 * 32 + ((((x 8 ^^^ x 13) ^^^ x 18) ^^^ x 23) ^^^ x 28) ^^^ x 33

/-- The home slice one committed address-range entry gives, if it matches (R267). -/
def State.artSlice (s : State) (pa i : Nat) : Option Nat :=
  let lo := s.artNow.get (16 * i)
  let hi := (s.artNow.get (16 * i + 8)).toNat
  let base := lo.toNat / 2 ^ 21 % 2 ^ 31 * 2 ^ 21
  if lo.getLsbD 0 && decide (base ≤ pa) && decide (pa < base + 2 ^ (hi % 64)) && isHbm pa then
    some ((hi / 64 % 128 + hi / 2 ^ 16 % 128 * ((pa - base) / 2 ^ (hi / 2 ^ 23 % 32) % 2 ^ (hi / 2 ^ 13 % 8))) % 128)
  else none

/-- The home slice of a physical address (R266, R267); slice scratch is homed at the slice it names. -/
def State.homeSlice (s : State) (pa : Nat) : Nat :=
  if isScratch pa then (pa - 2 ^ 51) / 2 ^ 21 % 128
  else ((List.range 64).findSome? fun i => s.artSlice pa i).getD (hashSlice pa)

/-! ## L1 and L2 (R261 to R265, R277) -/

/-- The core whose L1 holds a line for a core: itself, or the bench position PA[10:8] of a fused bench (R263). -/
def State.l1Core (s : State) (core line : Nat) : Nat := if s.fused.contains (core / 8) then core / 8 * 8 + line % 8 else core

/-- The L1 set of a line: PA[13:8], or PA[16:11] when fused. -/
def State.l1Set (s : State) (core line : Nat) : Nat := if s.fused.contains (core / 8) then line / 8 % 64 else line % 64

/-- A 64-byte sector is valid in the L1 that serves a core. -/
def State.l1Hit (s : State) (core pa : Nat) : Bool :=
  match s.cores.get? (s.l1Core core (pa / 256)) with
  | none => false
  | some c => c.l1.any fun x => x.1 == pa / 256 && x.2.testBit (pa / 64 % 4)

/-- Makes a line most recent with a sector valid, in place of the least recent of 8 ways of its set (R261). -/
def State.l1Fill (s : State) (core pa : Nat) : State :=
  let line := pa / 256
  let k := s.l1Core core line
  { s with cores := s.cores.upd k fun c =>
      let old := ((c.l1.find? fun x => x.1 == line).map Prod.snd).getD 0
      let rest := c.l1.filter fun x => x.1 != line
      let peers := rest.filter fun x => s.l1Set core x.1 == s.l1Set core line
      let out := (peers.drop 7).map Prod.fst
      { c with l1 := (line, old ||| 2 ^ (pa / 64 % 4)) :: rest.filter fun x => !out.contains x.1 } }

/-- Invalidates the sectors a byte range touches in one L1's lines. -/
def dropSectors (l : List (Nat × Nat)) (pa n : Nat) : List (Nat × Nat) :=
  l.filterMap fun x =>
    let m := (List.range 4).foldl (fun m i =>
      if x.2.testBit i && !(decide (x.1 * 256 + 64 * i < pa + n) && decide (pa < x.1 * 256 + 64 * i + 64)) then m + 2 ^ i else m) 0
    if m = 0 then none else some (x.1, m)

/-- Invalidates the sectors of a byte range in every L1 (R262). -/
def State.l1Drop (s : State) (pa n : Nat) : State :=
  { s with cores := s.cores.map fun x => (x.1, if x.2.l1.isEmpty then x.2 else { x.2 with l1 := dropSectors x.2.l1 pa n }) }

/-- The set of a line in an L2 slice (R265). -/
def l2Set (line : Nat) : Nat := (line % 512 ^^^ line / 512 % 512) ^^^ line / 2 ^ 18 % 512

/-- Ways of a slice that cache: WMASK.WAYS less those converting (R269, R270). -/
def State.cacheWays (s : State) (slice : Nat) : List Nat :=
  let w := s.reg (0x100000 + 0x10000 + 8 * slice)
  (List.range 16).filter fun i => w.getLsbD i && !w.getLsbD (16 + i)

/-- An access of a sector at a slice: the line becomes most recent, allocated in a free cache way of its set or in that of the least
recent line of one, whose dirty sectors go back to HBM (R265). -/
def State.l2Touch (s : State) (slice pa : Nat) (write : Bool) : State :=
  let line := pa / 256
  let l := s.l2.getD slice []
  let bit := 2 ^ (pa / 64 % 4)
  let d := if write then bit else 0
  match l.find? fun x => x.line == line with
  | some x =>
    let y : L2Line := { x with valid := x.valid ||| bit, dirty := x.dirty ||| d }
    { s with l2 := s.l2.put slice (y :: l.filter fun x => x.line != line) }
  | none =>
    let peers := l.filter fun x => l2Set x.line == l2Set line
    let ways := s.cacheWays slice
    match ways.find? fun w => !peers.any fun x => x.way == w with
    | some w => { s with l2 := s.l2.put slice (⟨line, w, bit, d⟩ :: l) }
    | none =>
      match (peers.filter fun x => ways.contains x.way).getLast? with
      | none => s
      | some v => { s with l2 := s.l2.put slice (⟨line, v.way, bit, d⟩ :: l.filter fun x => x.line != v.line) }

/-- A slice holds a line. -/
def State.l2Has (s : State) (slice pa : Nat) : Bool := (s.l2.getD slice []).any fun x => x.line == pa / 256

/-- The slice an access goes to: the leaf's own copy for a load of a REPL page, else the home (R244, R266, R277). -/
def State.sliceOf (s : State) (core pa : Nat) (attr : PageAttr) (write : Bool) : Nat :=
  if attr == .repl && !write && isHbm pa then core / 128 * 32 + hashSlice pa % 32 else s.homeSlice pa

/-- Every sector of a range of HBM is accessed at its slice (R265). -/
def State.l2Range (s : State) (core pa n : Nat) (attr : PageAttr) (write : Bool) : State :=
  if n = 0 then s
  else (List.range ((pa + n - 1) / 64 + 1 - pa / 64)).foldl (fun s i =>
    let a := 64 * (pa / 64 + i)
    if isHbm a then s.l2Touch (s.sliceOf core a attr write) a write else s) s

/-! ## Accesses that a unit holds (R246, R268) -/

/-- An address lies in the range an address-range entry names. -/
def artCovers (lo hi : Word) (pa : Nat) : Bool :=
  let base := lo.toNat / 2 ^ 21 % 2 ^ 31 * 2 ^ 21
  lo.getLsbD 0 && isHbm pa && decide (base ≤ pa) && decide (pa < base + 2 ^ (hi.toNat % 64))

/-- A running commit holds accesses to the old and the new range of its entry (R268). -/
def State.artHolds (s : State) (pa : Nat) : Bool :=
  let ctl := memBase + 0x20400
  if !(s.reg ctl).getLsbD 9 then false
  else
    let i := s.regBits ctl 32 6
    artCovers (s.artNow.get (16 * i)) (s.artNow.get (16 * i + 8)) pa
      || artCovers (s.reg (memBase + 0x20000 + 16 * i)) (s.reg (memBase + 0x20000 + 16 * i + 8)) pa

/-- The copies that own a line (R246). -/
def State.ownedLine (s : State) (line : Nat) : List Nat := (s.copies.filter fun c => c.owned.contains line).map Copy.id

/-- An agent that is no copy cannot access a range yet: a copy owns a line of it, or a commit holds its addresses. -/
def State.rangeHeld (s : State) (pa n : Nat) : Bool :=
  (List.range ((pa + n - 1) / 256 + 1 - pa / 256)).any fun i =>
    !(s.ownedLine (pa / 256 + i)).isEmpty || s.artHolds (256 * (pa / 256 + i))

/-! ## Dirty-page bits (R286, R287) -/

/-- The bitmap byte and bit of a page in window n, when the window is enabled and holds it. -/
def State.dirtyBit (s : State) (pa n : Nat) : Option (Nat × Nat) :=
  let off := memBase + 0x40000 + 32 * n
  let w0 := s.reg off
  let pages := min ((s.reg (off + 8)).toNat % 2 ^ 25) (2 ^ 24)
  let base := w0.toNat / 2 ^ 16 % 2 ^ 24
  let page := pa / 2 ^ 16
  if w0.getLsbD 0 && isHbm pa && decide (base ≤ page) && decide (page < base + pages) then
    let i := page - base
    some ((s.reg (off + 16)).toNat / 8 % 2 ^ 49 * 8 + i / 8, i % 8)
  else none

/-- Marks the page of an address in every enabled window, unless its home slice's filter already holds it. -/
def State.markPage (s : State) (pa : Nat) : State :=
  (List.range 32).foldl (fun s n =>
    match s.dirtyBit pa n with
    | none => s
    | some (b, i) =>
      let key := (s.homeSlice pa * 32 + n) * 2 ^ 24 + pa / 2 ^ 16
      if s.dfilter.contains key then s
      else { s with mem := s.mem.set b (s.mem.get b ||| (1#8 <<< i)), dfilter := key :: s.dfilter }) s

/-- Marks every 64 KiB page that a write touches. -/
def State.markDirty (s : State) (pa n : Nat) : State :=
  (List.range ((pa + n - 1) / 2 ^ 16 + 1 - pa / 2 ^ 16)).foldl (fun s i => s.markPage (max pa (2 ^ 16 * (pa / 2 ^ 16 + i)))) s

/-- Writes bytes at a physical address: poison under R289, dirty-page bits under R287, L1 copies under R262, the home slices under R265;
p poisons the data. -/
def State.writeMem (s : State) (pa : Nat) (l : List Byte) (p : Bool) : State :=
  if l.isEmpty then s
  else
    ((State.markDirty { s with mem := s.mem.setRange pa l, memP := granPoison s.memP 8 pa l.length p } pa l.length).l1Drop pa l.length).l2Range
      0 pa l.length .ap true

/-! ## Scratchpads -/

/-- Key of a byte of a core's scratchpad. -/
def spadKey (core p : Nat) : Nat := core * 2 ^ 19 + p

/-- Bytes of a core's scratchpad. -/
def State.readSpad (s : State) (k n : Nat) : List Byte := s.spad.getRange k n

/-- Some 4-byte granule of the range is poisoned (R288). -/
def State.spadPoisoned (s : State) (k n : Nat) : Bool :=
  (List.range ((k + n - 1) / 4 + 1 - k / 4)).any fun i => s.spadP.get (k / 4 + i) != 0

/-- Writes bytes of a core's scratchpad. -/
def State.writeSpad (s : State) (k : Nat) (l : List Byte) (p : Bool) : State :=
  if l.isEmpty then s
  else { s with spad := s.spad.setRange k l, spadP := granPoison s.spadP 4 k l.length p }

/-! ## Writes that agents see at different times (R243, R244) -/

/-- The bytes overlap. -/
def PendWrite.hits (w : PendWrite) (pa n : Nat) : Bool := decide (w.addr < pa + n) && decide (pa < w.addr + w.new.length)

/-- Whether a core reads a pending write already: its leaf's copy for REPL, the core itself for NAP. -/
def PendWrite.seenBy (w : PendWrite) (core : Nat) : Bool := w.seen.contains (if w.repl then core / 128 else core)

/-- Those of a list of writes that one from which other agents may have read has gone past: every earlier write of its bytes. -/
def upTo (l : List PendWrite) (mine : PendWrite → Bool) : List (PendWrite × Bool) :=
  let last := l.length - (l.reverse.findIdx mine)
  let m := l.filter mine
  ((List.range l.length).zip l).map fun x => (x.2, decide (x.1 < last) && m.any fun w => x.2.hits w.addr w.new.length)

/-- A write of the device itself is read by every agent at once: earlier writes of its bytes are performed device-wide (R233, R243). -/
def State.dropViews (s : State) (pa n : Nat) : State :=
  if s.views.any fun w => w.hits pa n then
    { s with views := (upTo s.views fun w => w.hits pa n).filterMap fun x => if x.2 then none else some x.1 }
  else s

/-- A core reads every pending write of a range from now on. -/
def State.seeAll (s : State) (core pa n : Nat) : State :=
  { s with views := s.views.map fun w =>
      if w.hits pa n && !w.seenBy core then { w with seen := (if w.repl then core / 128 else core) :: w.seen } else w }

/-- A write to a NAP or REPL page: who reads it at once is open, but for the writer's own atomic (log entry 9). A core that reads it
reads every earlier write of its bytes (R233). -/
def State.pushView (s : State) (core op pa : Nat) (attr : PageAttr) (old new : List Byte) (own : Bool) : State :=
  if attr == .ap then s
  else
    let me := if attr == .repl then core / 128 else core
    let see := own || Config.freeChoice s.fresh % 2 == 0
    let s := if see then s.seeAll core pa new.length else s
    { s with views := s.views ++ [⟨op, attr == .repl, pa, old, new, if see then [me] else []⟩], fresh := s.fresh + 1 }

/-- A core begins to read some pending writes of a range: which, the spec leaves open (log entry 9), but never a later one
of a byte without the earlier ones. -/
def State.advanceViews (s : State) (core pa n : Nat) : State :=
  let rec go : Nat → Bool → List PendWrite → List PendWrite
    | _, _, [] => []
    | k, stop, w :: r =>
      if w.hits pa n && !w.seenBy core then
        let see := !stop && Config.freeChoice (s.fresh + k) % 2 == 1
        (if see then { w with seen := (if w.repl then core / 128 else core) :: w.seen } else w)
          :: go (k + 1) (stop || !see) r
      else w :: go (k + 1) stop r
  { s with views := go 0 false s.views, fresh := s.fresh + s.views.length }

/-- The byte a core reads: the byte before the oldest pending write of it that the core does not read yet, else the last. -/
def State.viewByte (s : State) (core pa : Nat) : Byte :=
  match s.views.find? fun w => w.hits pa 1 && !w.seenBy core with
  | some w => w.old.getD (pa - w.addr) 0
  | none => s.mem.get pa

/-- Bytes as a core reads them. -/
def State.readView (s : State) (core pa n : Nat) : List Byte := (List.range n).map fun i => s.viewByte core (pa + i)

/-- A read at the slice that serves a core: a leaf's copy that its slice no longer holds is fetched from the home, and reads no older
value than the home (R277). -/
def State.refetch (s : State) (core pa n : Nat) (attr : PageAttr) : State :=
  if attr == .repl && isHbm pa && !s.l2Has (s.sliceOf core pa attr false) pa then
    s.seeAll core (pa / 256 * 256) (max 256 (pa % 256 + n))
  else s

/-- Bytes as a little-endian word (R8). -/
def leNat (l : List Byte) : Nat := l.foldr (fun b n => b.toNat + 256 * n) 0

/-- An 8-byte little-endian word of physical memory. -/
def State.mem64 (s : State) (pa : Nat) : Word := BitVec.ofNat 64 (leNat (s.readMem pa 8))

/-! ## Translation (R278 to R284) -/

/-- Why a translation fails (R281, R182); the reasons of PROTECTION are those of R320. -/
inductive XErr where
  | notPresent
  | protection (reason : Nat)
  | poison
  deriving DecidableEq, Repr, Inhabited

/-- A walk's result: the leaf entry as a cached translation, where its A bit is to be set, if it is 0, and the non-leaf entries on its
path: the level below each and the table it names. -/
structure WalkRes where
  e : TlbEntry
  setA : Option Nat
  path : List (Nat × Nat)
  deriving DecidableEq, Repr, Inhabited

/-- PTE.ATTR (R280). -/
def pteAttr (v : Word) : Option PageAttr :=
  match (v.extractLsb' 3 2).toNat with
  | 0 => some .ap
  | 1 => some .nap
  | 2 => some .repl
  | _ => none

/-- Reserved bits of a table entry: 11:9 and 63:52. -/
def pteReserved (v : Word) : Bool := v &&& 0xFFF0000000000E00#64 != 0

/-- A leaf entry: its frame and attributes checked (R280, R281). -/
def leafEntry (asid : BitVec 16) (va : Nat) (v : Word) (pages at_ : Nat) (frame : Nat) : Except XErr WalkRes :=
  match pteAttr v with
  | none => .error (.protection 6)
  | some a =>
    if frame % (pages * 4096) ≠ 0 then .error (.protection 6)
    else if !isHbm frame && !isScratch frame then .error (.protection 6)
    else if isScratch frame && a != .ap then .error (.protection 6)
    else .ok ⟨⟨asid, va / 4096 / pages * pages, pages, frame, v.getLsbD 1, v.getLsbD 2, a, v.getLsbD 5⟩,
      if v.getLsbD 8 then none else some at_, []⟩

/-- A valid 64 KiB group: sixteen entries alike but for A, with rising frames from an aligned base (R282). -/
def State.group64 (s : State) (g : Nat) : Option Nat :=
  let e := (List.range 16).map fun j => s.mem64 (g + 8 * j)
  let frame (v : Word) : Nat := v.toNat / 4096 % 2 ^ 40 * 4096
  let base := frame (e.getD 0 0)
  let low (v : Word) : Word := v &&& 0xEFF
  if (List.range 16).all (fun j => (e.getD j 0).getLsbD 7 && low (e.getD j 0) == low (e.getD 0 0)
      && frame (e.getD j 0) == base + 4096 * j && !pteReserved (e.getD j 0)) && base % 65536 == 0
  then some base else none

/-- A free choice about the cached translations of a page, apart from every other choice of the same state. -/
def State.xlatChoice (s : State) (tag va : Nat) : Nat := Config.freeChoice (2 ^ 64 * (1 + tag + 16 * (va / 4096)) + s.fresh)

/-- The table that an entry of level 5 − k names for an address, when it may be read and is a sound non-leaf one (R280, R281). -/
def State.tableAt (s : State) (table va k : Nat) : Option Nat :=
  let at_ := table + 8 * (va / 2 ^ (12 + 9 * k) % 512)
  let v := s.mem64 at_
  if isHbm table && !s.memPoisoned at_ 8 && v.getLsbD 0 && !pteReserved v && !v.getLsbD 6 then some (v.toNat / 4096 % 2 ^ 40 * 4096) else none

/-- The table below level 5 − k that a leaf's walker holds for an address and uses instead of the entry in memory: it may have dropped it
(R284). Where it holds the entry as it stands in memory, using it is reading it. -/
def State.walkHit (s : State) (leaf : Nat) (asid : BitVec 16) (va k table : Nat) : Option Nat :=
  match (s.walkers.getD leaf []).filter fun e => e.asid == asid && e.k == k && e.va == va / 2 ^ (12 + 9 * k) with
  | [] => none
  | e :: r =>
    if (e :: r).all fun x => s.tableAt table va k == some x.table then none
    else if s.xlatChoice (2 * k) va % 2 == 0 then some ((e :: r).getD (s.xlatChoice (2 * k + 1) va % (r.length + 1)) e).table else none

/-- A walk's result with a non-leaf entry before it. -/
def WalkRes.under (k table : Nat) (r : Except XErr WalkRes) : Except XErr WalkRes :=
  match r with
  | .ok w => .ok { w with path := (k, table) :: w.path }
  | .error e => .error e

/-- The walk of a leaf's walker from a table of level 5 − k (R279 to R282, R284). -/
def State.walk (s : State) (leaf : Nat) (asid : BitVec 16) (va : Nat) : Nat → Nat → Except XErr WalkRes
  | k, table =>
    let level := 5 - k
    match (match k with
      | 0 => none
      | j + 1 => (s.walkHit leaf asid va k table).map fun t => WalkRes.under k t (State.walk s leaf asid va j t)) with
    | some r => r
    | none =>
    if !isHbm table then .error (.protection 6)
    else
      let at_ := table + 8 * (va / 2 ^ (12 + 9 * k) % 512)
      if s.memPoisoned at_ 8 then .error .poison
      else
        let v := s.mem64 at_
        let addr := v.toNat / 4096 % 2 ^ 40 * 4096
        if !v.getLsbD 0 then .error .notPresent
        else if pteReserved v then .error (.protection 6)
        else if v.getLsbD 6 && decide (level < 3) then .error (.protection 6)
        else
          match k with
          | 0 =>
            if v.getLsbD 7 then
              let g := table + 8 * (va / 4096 % 512 / 16 * 16)
              if s.memPoisoned g 128 then .error .poison
              else
                match s.group64 g with
                | some base => leafEntry asid va v 16 at_ base
                | none => .error (.protection 6)
            else leafEntry asid va v 1 at_ addr
          | j + 1 =>
            if v.getLsbD 6 then leafEntry asid va v (2 ^ (9 * (j + 1))) at_ addr
            else WalkRes.under (j + 1) addr (State.walk s leaf asid va j addr)

/-- Permission of an access to a translated page (R182, R281). -/
def TlbEntry.allow (e : TlbEntry) (acc : AccKind) : Option Nat :=
  match acc with
  | .read => none
  | .write => if e.w then none else some 2
  | .fetch => if e.x then none else some 2
  | .atomic => if !e.w then some 2 else if e.attr == .repl then some 3 else none

/-- The physical address of a virtual one in a translated page. -/
def TlbEntry.pa (e : TlbEntry) (va : Nat) : Nat := e.frame + (va - e.vpn * 4096)

/-- The cached translation a core uses for an address, if it holds one and uses it: it may have dropped it, and its partitions may hold
different ones (R284). -/
def State.tlbHit (s : State) (core : Nat) (asid : BitVec 16) (va : Nat) : Option TlbEntry :=
  match s.cores.get? core with
  | none => none
  | some c =>
    match c.tlb.filter fun e => e.asid == asid && decide (e.vpn ≤ va / 4096) && decide (va / 4096 < e.vpn + e.pages) with
    | [] => none
    | e :: r => if s.xlatChoice 0 va % 2 == 0 then some ((e :: r).getD (s.xlatChoice 1 va % (r.length + 1)) e) else none

/-- Translates an access of a core: the entry used, the address, and the A bit to set (R182, R281, R284). -/
def State.translate (s : State) (core : Nat) (asid : BitVec 16) (root va : Nat) (acc : AccKind) :
    Except XErr (WalkRes × Nat) :=
  if 2 ^ 57 ≤ va then .error (.protection 1)
  else
    let r : Except XErr WalkRes := match s.tlbHit core asid va with
      | some e => .ok ⟨e, none, []⟩
      | none => s.walk (core / 128) asid va 4 root
    match r with
    | .error e => .error e
    | .ok w =>
      match w.e.allow acc with
      | some n => .error (.protection n)
      | none =>
        let pa := w.e.pa va
        if !isHbm pa && !isScratch pa then .error (.protection 6)
        else if isScratch pa && !s.scratchWay pa then .error (.protection 5)
        else .ok (w, pa)

/-- Keeps a translation that was used: sets A by an atomic OR, and caches the entry and those on its path (R283, R284). -/
def State.useXlat (s : State) (core : Nat) (w : WalkRes) : State :=
  let s := match w.setA with
    | some a => { s with mem := s.mem.set (a + 1) (s.mem.get (a + 1) ||| 1) }
    | none => s
  let va := w.e.vpn * 4096
  let new : List WalkEntry := w.path.map fun x => ⟨w.e.asid, x.1, va / 2 ^ (12 + 9 * x.1), x.2⟩
  let have_ := s.walkers.getD (core / 128) []
  { s with cores := s.cores.upd core fun c => if c.tlb.contains w.e then c else { c with tlb := w.e :: c.tlb },
           walkers := if new.all have_.contains then s.walkers
             else s.walkers.put (core / 128) ((new.filter fun e => !have_.contains e) ++ have_) }

end Sys2Proof.Machine
end

