-- ==== Sys2Proof/Machine/Ops.lean ====
section
/-!
DEFINITION. The named operations over teams: register files, landings (R29 to R33), streams (R39, R183, R234, R238), blocks'
scratchpad and tiles (R21, R41 to R44), queue handles and launch records.
-/
namespace Sys2Proof.Machine

/-! ## Numbers -/

/-- The core of a team slot. -/
def coreOf (z : Nat) : Nat := z / 64
/-- The partition of a team slot. -/
def partOf (z : Nat) : Nat := z / 16
/-- The leaf of a team slot. -/
def leafOf (z : Nat) : Nat := z / 8192

/-- Changes a team. -/
def State.updTeam (s : State) (z : Nat) (f : Team → Team) : State := { s with teams := s.teams.upd z f }
/-- Changes a block. -/
def State.updBlock (s : State) (k : Nat) (f : Block → Block) : State := { s with blocks := s.blocks.upd k f }
/-- Changes a core. -/
def State.updCore (s : State) (k : Nat) (f : CoreSt → CoreSt) : State := { s with cores := s.cores.upd k f }
/-- Changes a partition. -/
def State.updPart (s : State) (k : Nat) (f : Part → Part) : State := { s with parts := s.parts.upd k f }

/-! ## Turns: what a rule serves in a fixed order, or once, within a clock -/

/-- The turn by which the partitions of a core act in ascending order (R37, R198, R212). -/
def turnCore (core : Nat) : Nat := core
/-- The turn of a partition's selection, one in a clock (R84, R313). -/
def turnSel (part : Nat) : Nat := 0x1000 + part
/-- The lowest partition of a core, plus one, an XU slot of which issued in this clock (R212). -/
def turnXu (core : Nat) : Nat := 0x2000 + core
/-- The turn by which task requests are served in ascending order (R312). -/
def turnTask : Nat := 0x3000
/-- The turn by which the leaves' dispatchers place in ascending order (R303). -/
def turnLeaf : Nat := 0x3001
/-- The turn of a core's bank (R258). -/
def turnBank (core bank : Nat) : Nat := 0x4000 + 32 * core + bank
/-- The turn in which a core's running command is lengthened, once in a clock (R259). -/
def turnDeny (core : Nat) : Nat := 0x8000 + core
/-- The turn of a core's watch hit record: 16·comparator + requester + 1 of the hit recorded in this clock (R379). -/
def turnHit (core : Nat) : Nat := 0x9000 + core
/-- The turn of a port of an L2 bank (R273). -/
def turnPort (port : Nat) : Nat := 0x10000 + port

/-- The rank that last had a turn in this clock. -/
def State.turn (s : State) (key : Nat) : Nat := s.turns.getD key 0

/-- Gives a turn to a rank. -/
def State.takeTurn (s : State) (key rank : Nat) : State := { s with turns := s.turns.put key rank }

/-- A rank may still act in this clock: no higher one of its turn has. -/
def State.mayAct (s : State) (key rank : Nat) : Bool := decide (s.turn key ≤ rank)

/-- Passes of a team: W/32 (R15). -/
def Team.passes (t : Team) : Nat := 2 ^ t.wlog
/-- Lanes of a team. -/
def Team.width (t : Team) : Nat := 32 * 2 ^ t.wlog

/-! ## Register files (R24) -/

/-- Key of a per-lane register element. -/
def elemKey (reg lane : Nat) : Nat := 1024 * reg + lane

/-- Element of a per-lane register; the scalar files have none. -/
def Team.elem (t : Team) (fl : RFile) (reg lane : Nat) : Lane :=
  match fl with
  | .va => t.va.get (elemKey reg lane)
  | .vb => t.vb.get (elemKey reg lane)
  | .vm => t.vm.get (elemKey reg lane)
  | .s => 0
  | .a => 0
  | .f => 0

/-- Poison of an element. -/
def Team.elemP (t : Team) (fl : RFile) (reg lane : Nat) : Bool :=
  match fl with
  | .va => t.vaP.get (elemKey reg lane) != 0
  | .vb => t.vbP.get (elemKey reg lane) != 0
  | .vm => t.vmP.get (elemKey reg lane) != 0
  | .s => t.sP.get reg != 0
  | .a => t.aP.get reg != 0
  | .f => t.fP.get reg != 0

/-- A poison bit. -/
def pBit (p : Bool) : BitVec 1 := if p then 1 else 0

/-- Writes one element or scalar register with its poison. -/
def Team.setElem (t : Team) (fl : RFile) (reg lane : Nat) (v : BitVec 128) (p : Bool) : Team :=
  match fl with
  | .s => { t with s := t.s.set reg (v.setWidth 64), sP := t.sP.set reg (pBit p) }
  | .a => { t with a := t.a.set reg (v.setWidth 64), aP := t.aP.set reg (pBit p) }
  | .f => { t with f := t.f.set reg v, fP := t.fP.set reg (pBit p) }
  | .va => { t with va := t.va.set (elemKey reg lane) (v.setWidth 32), vaP := t.vaP.set (elemKey reg lane) (pBit p) }
  | .vb => { t with vb := t.vb.set (elemKey reg lane) (v.setWidth 32), vbP := t.vbP.set (elemKey reg lane) (pBit p) }
  | .vm => { t with vm := t.vm.set (elemKey reg lane) (v.setWidth 32), vmP := t.vmP.set (elemKey reg lane) (pBit p) }

/-- The budget of a file (R25). -/
def Team.budget (t : Team) : RFile → Nat
  | .s => 64
  | .a => 32
  | .va => t.nva
  | .vb => t.nvb
  | .vm => t.nvm
  | .f => 8

/-! ## Landings (R29 to R33) -/

/-- Writes one value of a landing: a ballot names s registers from reg up, a pair writes both halves (R157, R176). -/
def Landing.putVal (l : Landing) (t : Team) (x : LaneVal) : Team :=
  if l.bal then t.setElem .s (l.reg + x.lane) 0 x.v x.p
  else if l.pair then
    (t.setElem .va l.reg x.lane x.v x.p).setElem .va (l.reg + 1) x.lane (x.v >>> 32) x.p
  else t.setElem l.file l.reg x.lane x.v x.p

/-- Lands a result: its values and its flags (R47). -/
def Team.applyLanding (t : Team) (l : Landing) : Team :=
  let t := l.vals.foldl (fun t x => l.putVal t x) t
  { t with fmode := orFlags t.fmode l.flags }

/-- The registers a landing writes. -/
def Landing.regs (l : Landing) : List (RFile × Nat) :=
  if l.bal then l.vals.map fun x => (.s, l.reg + x.lane)
  else if l.pair then [(.va, l.reg), (.va, l.reg + 1)] else [(l.file, l.reg)]

/-- What is due at the present team-cycle, oldest due team-cycle first and in issue order within one (R30). -/
def Team.dueList (t : Team) : List Landing :=
  let due := t.land.filter fun l => decide (l.due ≤ t.tc)
  let first := due.foldl (fun a l => min a l.due) t.tc
  (List.range (t.tc + 1 - first)).flatMap fun i => due.filter fun l => l.due == first + i

/-- Lands one due result, unless it or an earlier one of a register it writes waits for its data (R30, R32). -/
def Team.landOne (a : Team × List Landing) (l : Landing) : Team × List Landing :=
  if l.pend.isSome || a.2.any (fun x => x.regs.any fun r => l.regs.contains r) then (a.1, a.2 ++ [l])
  else ({ a.1.applyLanding l with landed := a.1.landed ||| l.flags }, a.2)

/-- Lands what is due; what waits for its data stays. -/
def Team.landDue (t : Team) : Team :=
  let x := t.dueList.foldl Team.landOne (t, [])
  { x.1 with land := x.2 ++ t.land.filter fun l => !decide (l.due ≤ t.tc) }

/-- The values a landing writes to a register. -/
def Landing.valsFor (l : Landing) (r : RFile × Nat) : List LaneVal :=
  if l.bal then ((l.vals.filter fun x => decide (l.reg + x.lane = r.2)).map fun x => { x with lane := 0 })
  else if l.pair && r.2 == l.reg + 1 then l.vals.map fun x => { x with v := x.v >>> 32 }
  else l.vals

/-- What an awaited load gives once a later result has landed in its register: that result stands in each lane both write (R30). -/
def Landing.yieldTo (x l : Landing) : Landing :=
  if x.pend.isSome && l.regs.contains (x.file, x.reg) then
    { x with vals := x.vals ++ (l.valsFor (x.file, x.reg)).filter fun v => x.lanes.contains v.lane }
  else x

/-- Lands a due result whose value is present though an earlier one of its register is awaited (R33). -/
def Team.landPresent (a : Team × List Landing) (l : Landing) : Team × List Landing :=
  if l.pend.isSome then (a.1, a.2 ++ [l])
  else ({ a.1.applyLanding l with landed := a.1.landed ||| l.flags }, a.2.map fun x => x.yieldTo l)

/-- At a trap or stop every result due whose value is present has landed; the awaited ones stay, at distance 0 (R33). -/
def Team.landStop (t : Team) : Team :=
  let x := t.dueList.foldl Team.landPresent (t, [])
  { x.1 with land := x.2 ++ t.land.filter fun l => !decide (l.due ≤ t.tc) }

/-- A due landing has not landed: it waits for its data, or for the step that lands it, and the team holds (R32, R185). -/
def Team.landHeld (t : Team) : Bool := t.land.any fun l => decide (l.due ≤ t.tc)

/-- Landings in a file at a team-cycle (R31). -/
def Team.portCount (t : Team) (fl : RFile) (u : Nat) : Nat := (t.land.filter fun l => l.file == fl && l.due == u).length

/-- Adds a result to the landing buffer: lanes to the entry its operation began in an earlier pass, or a new entry, before those of
the later operations of its word (R30). -/
def Team.addLanding (t : Team) (l : Landing) : Team :=
  match l.key with
  | none => { t with land := t.land ++ [l] }
  | some k =>
    if t.land.any fun x => x.key == some k then
      { t with land := t.land.map fun x => if x.key == some k then
          { x with vals := x.vals ++ l.vals, flags := x.flags ||| l.flags, lanes := x.lanes ++ l.lanes,
                   pend := if l.pend.isSome then l.pend else x.pend }
        else x }
    else
      let before := t.land.takeWhile fun x => (x.key.map fun j => decide (j ≤ k)).getD true
      { t with land := before ++ l :: t.land.drop before.length }

/-- The reply of an operation fixes its result: values, poison, and the end of its wait (R33, R185); a later result that has landed
in the register meanwhile stands (R30). -/
def Landing.fix (l : Landing) (id : Nat) (vals : List LaneVal) : Landing :=
  if l.pend == some id then { l with vals := vals ++ l.vals, pend := none } else l

/-! ## Loop ends (R131) -/

/-- The loop end of a word at pc (R131), evaluated on the loop registers at the start of its team-cycle: the next parcel, the
new counts, and the level whose count went from 1 to 0. -/
def loopEnd (r : LoopRegs) (pc npc : Word) : Word × Word × Word × Option Nat :=
  let in1 := pc == r.le1 && r.lc1 != 0
  let lc1 := if in1 then r.lc1 - 1 else r.lc1
  let x1 : Option Nat := if in1 && lc1 == 0 then some 1 else none
  if in1 && lc1 != 0 then (r.ls1, r.lc0, lc1, none)
  else if pc == r.le0 && r.lc0 != 0 then
    let lc0 := r.lc0 - 1
    if lc0 != 0 then (r.ls0, lc0, lc1, x1) else (npc, lc0, lc1, if x1.isSome then x1 else some 0)
  else (npc, r.lc0, lc1, x1)

/-- The loop registers after a word's loop end: an explicit write of a level's count in the word replaces its result (R131). -/
def Team.loopAfter (t : Team) (k : Keep) (pc npc : Word) : LoopRegs :=
  let le := loopEnd k.snap pc npc
  { t.loop with lc0 := if k.lcw0 || le.2.1 == k.snap.lc0 then t.loop.lc0 else le.2.1,
                lc1 := if k.lcw1 || le.2.2.1 == k.snap.lc1 then t.loop.lc1 else le.2.2.1 }

/-! ## Pending asynchronous causes (R319) -/

/-- A cause waits for the next word boundary. One of a kind is pending at a time, UNCORRECTABLE by structure and copy faults by copy;
a second one joins the first (log entry 53). -/
def Team.pendCause (t : Team) (a : Async) : Team :=
  if t.async.any fun b => match a, b with
    | .uncorrectable d, .uncorrectable e => d == e
    | .copyFault i _ _ _, .copyFault j _ _ _ => i == j
    | .watchpoint _ _, .watchpoint _ _ => true
    | .singleStep, .singleStep => true
    | _, _ => false
  then t else { t with async := t.async ++ [a] }

/-! ## Streams (R39, R183, R234, R235, R238) -/

/-- Operations outstanding on a stream (R39). -/
def Team.outstanding (t : Team) (str : Nat) : Nat := (t.ic.get str - t.dc.get str).toNat

/-- How wide a scope is. -/
def scopeWidth : Scope → Nat
  | .core => 1
  | .bench => 2
  | .dev => 3
  | .sys => 4

/-- An operation is performed at a scope (R232). -/
def MemOp.performedAt (o : MemOp) (scp : Scope) : Bool := decide (scopeWidth scp ≤ o.perf)

/-- Predecessors of a mask: the team's outstanding operations of the named streams (R234). -/
def Team.predsOf (t : Team) (pm : BitVec 8) : List Nat := (t.ops.filter fun o => pm.getLsbD o.str).map MemOp.id

/-- Every listed predecessor is performed at the scope (R235). -/
def Team.predsDone (t : Team) (l : List Nat) (scp : Scope) : Bool :=
  t.ops.all fun o => !l.contains o.id || o.performedAt scp

/-- Counts completed operations into D in issue order (R238) and drops those wholly performed. A part of an operation whose word was put
aside between its passes counts with the rest of it, so it holds its stream until it is complete. -/
def Team.countDone (t : Team) : Team :=
  let rec go : List MemOp → List Nat → SMap 16 → SMap 16 × List MemOp
    | [], _, d => (d, [])
    | o :: r, stuck, d =>
      if o.counted then
        let x := go r (if o.done then stuck else o.str :: stuck) d
        (x.1, o :: x.2)
      else if o.done && o.issued && !stuck.contains o.str then
        let x := go r stuck (d.set o.str (d.get o.str + 1))
        (x.1, { o with counted := true } :: x.2)
      else
        let x := go r (o.str :: stuck) d
        (x.1, o :: x.2)
  let x := go t.ops [] t.dc
  { t with dc := x.1, ops := x.2.filter fun o => !(o.counted && decide (4 ≤ o.perf)) }

/-- Changes an operation of the team's list. -/
def Team.updOp (t : Team) (id : Nat) (f : MemOp → MemOp) : Team :=
  { t with ops := t.ops.map fun o => if o.id = id then f o else o }

/-- OrderAfter: an operation issues on its stream, advancing I (R39, R121); its edges were fixed in program order at the
start of its word (R234). -/
def Team.orderAfter (t : Team) (id : Nat) : Team :=
  match t.ops.find? fun o => o.id == id with
  | none => t
  | some o =>
    Team.updOp (if o.issued then t else { t with ic := t.ic.set o.str (t.ic.get o.str + 1) }) id fun o => { o with issued := true }

/-- Complete: marks an operation complete and performed as wide as given (R121). -/
def Team.complete (t : Team) (id perf : Nat) : Team :=
  Team.countDone { t with ops := t.ops.map fun o => if o.id = id then { o with done := true, perf := perf } else o }

/-- Forgets the operations of a word that is put aside and has not issued them (R40); one that has made accesses already keeps
them, uncounted. -/
def Team.dropUnissued (t : Team) : Team :=
  { t with ops := t.ops.filterMap fun o =>
      if o.issued then some o
      else if o.accs.isEmpty && o.got.isEmpty then none
      else some { o with issued := true, counted := true } }

/-- Miss-status entries that the copies of a core hold (R264). -/
def State.copyMse (s : State) (core : Nat) : Nat := ((s.copies.filter fun c => coreOf c.z == core).map Copy.mse).sum

/-- Miss-status entries of a core in use (R264). -/
def State.missUsed (s : State) (core : Nat) : Nat :=
  (s.teams.foldl (fun n x => if coreOf x.1 = core then n + (x.2.ops.map MemOp.mse).sum else n) 0)
    + (((s.cores.get? core).map CoreSt.missDue).getD 0) + s.copyMse core

/-! ## Scratchpad of a block and its tiles (R21, R41 to R43) -/

/-- Key of a byte of a block's scratchpad. -/
def Block.key (b : Block) (a : Nat) : Nat := spadKey b.core (8192 * b.tile0 + a)

/-- Bytes of a block's allotment. -/
def Block.bytes (b : Block) : Nat := 8192 * b.nt

/-- The tiles a byte range touches. -/
def tilesOf (a n : Nat) : List Nat :=
  if n = 0 then [] else (List.range ((a + n - 1) / 8192 + 1 - a / 8192)).map fun i => a / 8192 + i

/-- The chunks of a tile that a byte range touches, as a mask. -/
def chunkMask (a n tile : Nat) : BitVec 16 :=
  (List.range 16).foldl (fun m c =>
    let lo := tile * 8192 + 512 * c
    if n ≠ 0 ∧ a < lo + 512 ∧ lo < a + n then m ||| (1#16 <<< c) else m) 0

/-- TS.CHUNK. -/
def tsChunk (w : BitVec 32) : BitVec 16 := w.extractLsb' 0 16
/-- TS.FULL. -/
def tsFull (w : BitVec 32) : Bool := w.getLsbD 16
/-- TS.GATE. -/
def tsGate (w : BitVec 32) : Bool := w.getLsbD 17
/-- TS.BUSYW. -/
def tsBusyW (w : BitVec 32) : Bool := w.getLsbD 18
/-- TS.BUSYR. -/
def tsBusyR (w : BitVec 32) : Nat := (w.extractLsb' 19 3).toNat

/-- A tile state word from its fields (R41). -/
def tsMake (chunk : BitVec 16) (full gate busyw : Bool) (busyr : Nat) : BitVec 32 :=
  chunk.setWidth 32 ||| (if full then 0x10000 else 0) ||| (if gate then 0x20000 else 0) ||| (if busyw then 0x40000 else 0)
    ||| (BitVec.ofNat 32 (busyr % 8) <<< 19)

/-- A slot read may proceed (R42, R43): in a gated tile when FULL or every chunk it touches is set; else while no engine
writes the tile. Tile state is that of the start of the clock (R44). -/
def Block.readReady (b : Block) (a n : Nat) : Bool :=
  (tilesOf a n).all fun i =>
    let w := b.tiles0.get i
    if tsGate w then tsFull w || (chunkMask a n i &&& ~~~(tsChunk w)) == 0 else !tsBusyW w

/-- A slot write may proceed (R43). -/
def Block.writeReady (b : Block) (a n : Nat) : Bool :=
  (tilesOf a n).all fun i => !tsBusyW (b.tiles0.get i) && tsBusyR (b.tiles0.get i) == 0

/-- Chunks of a mask are complete: their bits are set, and FULL with the sixteenth (R44). -/
def Block.setChunks (b : Block) (i : Nat) (m : BitVec 16) : Block :=
  let w := b.tiles.get i
  let c := tsChunk w ||| m
  { b with tiles := b.tiles.set i (tsMake c (tsFull w || c == 0xFFFF) (tsGate w) (tsBusyW w) (tsBusyR w)),
           chunkNow := b.chunkNow.set i (b.chunkNow.get i ||| m) }

/-- Clears the chunks a byte range touches, and FULL of its tiles; busy also sets BUSYW (R44). -/
def Block.clearChunks (b : Block) (a n : Nat) (busy : Bool) : Block :=
  (tilesOf a n).foldl (fun b i =>
    let w := b.tiles.get i
    { b with tiles := b.tiles.set i (tsMake (tsChunk w &&& ~~~(chunkMask a n i)) false (tsGate w) (tsBusyW w || busy)
        (tsBusyR w)) }) b

/-- The start of a clock: the tests of the clock see the state as it is (R44, R195). -/
def Block.newClock (b : Block) : Block := { b with tiles0 := b.tiles, accBusy0 := b.accBusy, q0 := b.q, chunkNow := [] }

/-- Adds to or takes from BUSYR of tiles. -/
def Block.busyR (b : Block) (tiles : List Nat) (up : Bool) : Block :=
  tiles.foldl (fun b i =>
    let w := b.tiles.get i
    { b with tiles := b.tiles.set i (tsMake (tsChunk w) (tsFull w) (tsGate w) (tsBusyW w)
        (if up then tsBusyR w + 1 else tsBusyR w - 1)) }) b

/-- One more reader keeps BUSYR of a tile at 7 or below (R43), with those the clock has added already (log entry 51). -/
def Block.roomR (b : Block) (i : Nat) : Bool := decide (tsBusyR (b.tiles0.get i) < 7) && decide (tsBusyR (b.tiles.get i) < 7)

/-- Clears BUSYW of tiles. -/
def Block.clearBusyW (b : Block) (tiles : List Nat) : Block :=
  tiles.foldl (fun b i =>
    let w := b.tiles.get i
    { b with tiles := b.tiles.set i (tsMake (tsChunk w) (tsFull w) (tsGate w) false (tsBusyR w)) }) b

/-! ## Queue handles (R34 to R36) -/

/-- QH.BASE. -/
def qhBase (q : Word) : Nat := (q.extractLsb' 0 19).toNat
/-- QH.ESZ. -/
def qhEsz (q : Word) : Nat := (q.extractLsb' 19 4).toNat
/-- QH.NLOG. -/
def qhNlog (q : Word) : Nat := (q.extractLsb' 23 4).toNat
/-- QH.HEAD. -/
def qhHead (q : Word) : Nat := (q.extractLsb' 27 13).toNat
/-- QH.TAIL. -/
def qhTail (q : Word) : Nat := (q.extractLsb' 40 13).toNat
/-- QH.VALID. -/
def qhValid (q : Word) : Bool := q.getLsbD 53
/-- The fill F (R35). -/
def qhFill (q : Word) : Nat := (qhTail q + 2 ^ (qhNlog q + 1) - qhHead q) % 2 ^ (qhNlog q + 1)
/-- Block address of entry (HEAD + k) mod 2^NLOG (R36). -/
def qhEntry (q : Word) (k : Nat) : Nat := qhBase q + (qhHead q + k) % 2 ^ qhNlog q * 2 ^ (qhEsz q + 2)
/-- HEAD and TAIL replaced. -/
def qhSet (q : Word) (head tail : Nat) : Word :=
  (q &&& 0xFFE0000007FFFFFF#64) ||| (BitVec.ofNat 64 (head % 2 ^ 13) <<< 27) ||| (BitVec.ofNat 64 (tail % 2 ^ 13) <<< 40)

/-! ## Launches (R298 to R304) -/

/-- Bits lo+n−1..lo of the launch record's word at byte offset off (R299). -/
def Launch.bits (l : Launch) (off lo n : Nat) : Nat := ((l.lr.getD (off / 8) 0) >>> lo).toNat % 2 ^ n
/-- N, the grid's blocks. -/
def Launch.blocks (l : Launch) : Nat := (l.bits 0x10 0 21 + 1) * (l.bits 0x10 21 21 + 1) * (l.bits 0x10 42 21 + 1)
/-- LR.DLEVEL. -/
def Launch.dlevel (l : Launch) : Nat := l.bits 0x18 10 3
/-- LR.GANG. -/
def Launch.gang (l : Launch) : Bool := l.bits 0x18 13 1 == 1
/-- LR.DEV, this device's index in the fabric set. -/
def Launch.dev (l : Launch) : Nat := if l.dlevel = 4 then l.bits 0x28 16 16 else 0
/-- Devices of the launch: LR.NDEV at level 4, else this one. -/
def Launch.ndev (l : Launch) : Nat := if l.dlevel = 4 then l.bits 0x28 32 16 else 1
/-- The first block of this device's share, and the first after it (R304). -/
def Launch.share (l : Launch) : Nat × Nat :=
  if l.dlevel = 4 then (l.dev * l.blocks / l.ndev, (l.dev + 1) * l.blocks / l.ndev) else (0, l.blocks)

/-- Bits of a variant's shape word (R315). -/
def Variant.bits (v : Variant) (lo n : Nat) : Nat := (v.shape >>> lo).toNat % 2 ^ n
/-- KV.WLOG. -/
def Variant.wlog (v : Variant) : Nat := v.bits 0 3
/-- Teams per block. -/
def Variant.nteams (v : Variant) : Nat := v.bits 4 4 + 1
/-- N_T. -/
def Variant.nt (v : Variant) : Nat := v.bits 32 7
/-- N_A. -/
def Variant.na (v : Variant) : Nat := v.bits 40 4
/-- Window size in entries. -/
def Variant.win (v : Variant) : Nat := 8 * v.bits 48 8
/-- N_VA, N_VB and N_VM. -/
def Variant.budgets (v : Variant) : Nat × Nat × Nat := (v.bits 8 7, v.bits 16 6, v.bits 24 5)

end Sys2Proof.Machine
end

