-- ==== Sys2Proof/Machine/HostLink.lean ====
section
/-!
DEFINITION. Sending on the host transport (R359 to R363), interrupts, and platform events (R417).
-/
namespace Sys2Proof.Machine

/-- Offset of session n's registers (R361). -/
def sessOff (n : Nat) : Nat := fabBase + 0x3000 + 64 * n

/-- SESS.VALID. -/
def State.sessValid (s : State) (n : Nat) : Bool := (s.reg (sessOff n)).getLsbD 0

/-- The state of a session beside its registers. -/
def State.sessSt (s : State) (n : Nat) : Sess := s.sess.getD n ⟨0, 0, [], [], 0, [], none, []⟩

/-- Time in ns (R382). -/
def State.ns (s : State) : Nat := s.tick / 27720

/-! ## Datagrams (R358, R359) -/

/-- The 32-byte header of a packet, little-endian (R359). -/
def Packet.header (p : Packet) : BitVec 256 :=
  (0 : BitVec 32).append (p.arg.append (p.addr.append (p.len.append (p.ack.append (p.seq.append (p.sess.append ((0 : BitVec 8).append
    (p.typ.append p.ver))))))))

/-- A packet with a header's fields (R359). -/
def Packet.withHeader (p : Packet) (h : BitVec 256) : Packet :=
  { p with
    ver := h.extractLsb' 0 4, typ := h.extractLsb' 4 4, sess := h.extractLsb' 16 16, seq := h.extractLsb' 32 32, ack := h.extractLsb' 64 32,
    len := h.extractLsb' 96 32, addr := h.extractLsb' 128 64, arg := h.extractLsb' 192 32 }

/-- The UDP payload of a packet: header, payload and tag (R359). -/
def Packet.datagram (p : Packet) : List Byte := leBytes 32 (Packet.header p) ++ p.payload ++ leBytes 16 p.tag

/-- The packet of a UDP payload; the frame's fields are those of p (R359). -/
def Packet.ofDatagram (p : Packet) (l : List Byte) : Option Packet :=
  if l.length < 48 then none
  else some { Packet.withHeader p (leWord 256 (l.take 32)) with
    payload := (l.drop 32).take (l.length - 48), tag := leWord 128 (l.drop (l.length - 16)) }

/-- A payload encrypted or decrypted under a session's key (R359). -/
def State.crypt (s : State) (p : Packet) : List Byte :=
  ((List.range p.payload.length).zip p.payload).map fun x =>
    x.2 ^^^ Config.keyStream (s.sessSt p.sess.toNat).key (Packet.header p) x.1

/-- The tag that a packet of a session must have. -/
def State.tagOf (s : State) (p : Packet) : BitVec 128 := Config.gcmTag (s.sessSt p.sess.toNat).key (Packet.header p) p.payload

/-- An address is of IPv6: not ::ffff:a.b.c.d (R361). -/
def isV6 (ip : BitVec 128) : Bool := ip >>> 32 != 0xFFFF

/-- Sum of the 16-bit words of bytes in network order. -/
def sum16 : List Byte → Nat
  | [] => 0
  | [a] => 256 * a.toNat
  | a :: b :: r => 256 * a.toNat + b.toNat + sum16 r

/-- Sum of an address's 16-bit words. -/
def ipSum (v6 : Bool) (ip : BitVec 128) : Nat := (List.range (if v6 then 8 else 2)).foldl (fun n i => n + (ip >>> (16 * i)).toNat % 2 ^ 16) 0

/-- The device's address of the family of a peer's (R415). -/
def State.ownIp (s : State) (peer : BitVec 128) : BitVec 128 :=
  if isV6 peer then (s.reg 0x110).append (s.reg 0x118) else BitVec.ofNat 128 (0xFFFF * 2 ^ 32 + s.regBits 0x108 0 32)

/-- The device has an address of the family of a peer's: one that is 0 disables the family (R415). -/
def State.familyOn (s : State) (peer : BitVec 128) : Bool := if isV6 peer then s.ownIp peer != 0 else s.regBits 0x108 0 32 != 0

/-- The UDP checksum of a packet between the device and its peer (R358): the one's complement of the one's-complement sum. -/
def udpSum (p : Packet) : BitVec 16 :=
  let l := Packet.datagram p
  let v6 := isV6 p.peer
  let n := ipSum v6 p.peer + ipSum v6 p.own + 17 + (l.length + 8) + p.port.toNat + p.ownPort.toNat + (l.length + 8) + sum16 l
  BitVec.ofNat 16 (if 65535 - ((n - 1) % 65535 + 1) = 0 then 65535 else 65535 - ((n - 1) % 65535 + 1))

/-- The port takes a packet's frame (R358, R415): 9,216 bytes at most, one VLAN tag at most, with NET.VID where NET.TAG asks for it, no
fragment, no options or extension headers, addressed to NET.UDP at the device's address; a nonzero UDP checksum agrees, and one of IPv6
is not zero. -/
def State.frameOk (s : State) (p : Packet) : Bool :=
  decide (14 + 4 * p.vlans + (if isV6 p.peer then 40 else 20) + 8 + 48 + p.payload.length ≤ 9216) && decide (p.vlans ≤ 1) && !p.frag && !p.opts
    && (s.regBits 0x100 63 1 == 0 || (p.vlans == 1 && p.vid.toNat == s.regBits 0x100 48 12))
    && s.familyOn p.peer && p.own == s.ownIp p.peer && p.ownPort.toNat == s.regBits 0x108 48 16
    && if p.sum = 0 then !isV6 p.peer else p.sum == udpSum p

/-- The frame of a packet that the device sends now (R358, R361, R415): the tag, addresses, ports and TTL of NETCFG and of the session,
DF in IPv4, and the UDP checksum. -/
def State.framed (s : State) (p : Packet) : Packet :=
  let n := p.sess.toNat
  let peer := (s.reg (sessOff n + 16)).append (s.reg (sessOff n + 8))
  let tagged := s.regBits 0x100 63 1 == 1
  let ttl := s.regBits 0x108 32 8
  let p := { p with
    peer := peer, port := BitVec.ofNat 16 (s.regBits (sessOff n) 48 16), frag := false, opts := false, df := !isV6 peer,
    ttl := BitVec.ofNat 8 (if ttl = 0 then 64 else ttl), vlans := if tagged then 1 else 0,
    vid := if tagged then BitVec.ofNat 12 (s.regBits 0x100 48 12) else 0, pcp := if tagged then BitVec.ofNat 3 (s.regBits 0x100 60 3) else 0,
    own := s.ownIp peer, ownPort := BitVec.ofNat 16 (s.regBits 0x108 48 16), mac := BitVec.ofNat 48 (s.regBits 0x120 0 48) }
  { p with sum := udpSum p }

/-- A frame is sent, or waits while its priority is paused (R358); one of a family that is disabled is not (R415). -/
def State.emit (s : State) (o : Out) : State :=
  let off := match o with
    | .packet p => !s.familyOn p.peer
    | _ => false
  if off then s
  else if s.paused != 0 && s.paused.getLsbD Config.priority then { s with txWait := s.txWait ++ [o] } else { s with out := s.out ++ [o] }

/-- The device's packet of a session: its SEQ and the cumulative acknowledgement; encrypted, with its tag, in its frame (R358, R359). -/
def State.mkPacket (s : State) (n typ seq : Nat) (len : Nat) (addr : Word) (arg : Nat) (payload : List Byte) : Packet :=
  let x := s.sessSt n
  let p : Packet :=
    { (default : Packet) with
      ver := 1, typ := BitVec.ofNat 4 typ, sess := BitVec.ofNat 16 n, seq := BitVec.ofNat 32 seq,
      ack := BitVec.ofNat 32 (x.rxNext + 2 ^ 32 - 1), len := BitVec.ofNat 32 len, addr := addr, arg := BitVec.ofNat 32 arg,
      payload := payload }
  let p := { p with payload := s.crypt p }
  s.framed { p with tag := s.tagOf p }

/-- Sends a numbered packet of a session; it carries the acknowledgement and stays unacknowledged (R362). -/
def State.sendPkt (s : State) (n typ len : Nat) (addr : Word) (arg : Nat) (payload : List Byte) : State :=
  if !s.sessValid n then s
  else
    let x := s.sessSt n
    let p := s.mkPacket n typ x.txNext len addr arg payload
    { s.emit (.packet p) with
             sess := s.sess.put n { x with txNext := (x.txNext + 1) % 2 ^ 32, unacked := x.unacked ++ [⟨p, s.ns, 0⟩],
                                           ackDue := none } }

/-- Sends an ACK: it carries the next SEQ without taking it, and is not resent (log entry 24). -/
def State.sendAck (s : State) (n arg : Nat) : State :=
  if !s.sessValid n then s
  else
    let x := s.sessSt n
    { s.emit (.packet (s.mkPacket n 6 x.txNext 0 0 arg [])) with sess := s.sess.put n { x with ackDue := none } }

/-- Sends an INTERRUPT on a session with the count of its vector (R360). -/
def State.sendIrq (s : State) (n vec : Nat) : State :=
  if !s.sessValid n then s
  else
    let x := s.sessSt n
    let k := x.irqs.getD vec 0 + 1
    let s := { s with sess := s.sess.put n { x with irqs := x.irqs.put vec k } }
    s.sendPkt n 5 0 (BitVec.ofNat 64 k) vec []

/-- A tenant interrupt: the lowest-numbered valid session of the tenant that takes interrupts (R363). -/
def State.tenantIrq (s : State) (tenant vec : Nat) : State :=
  match (List.range 256).find? fun n => s.sessValid n && (s.reg (sessOff n)).getLsbD 2 && s.regBits (sessOff n) 16 16 == tenant with
  | some n => s.sendIrq n vec
  | none => s

/-- A platform event (R417): its bit, its log entry, the SMBus alert, and vector 0xFFFF to every valid system session. -/
def State.platformEvent (s : State) (bit : Nat) : State :=
  if (s.reg 0x10).getLsbD bit then s
  else
    let s := { s.setReg 0x10 (s.reg 0x10 ||| (1#64 <<< bit)) with
      out := s.out ++ [.alert], plat := { s.plat with log := s.plat.log ++ [(s.ns, bit)] } }
    (List.range 256).foldl (fun s n => if s.sessValid n && (s.reg (sessOff n)).getLsbD 1 then s.sendIrq n 0xFFFF else s) s

end Sys2Proof.Machine
end

