-- ==== Sys2Proof/Machine/TraceRing.lean ====
section
/-!
DEFINITION. Naming slot operations (R364), trace records (R383 to R385), event counts of a cycle (R391), and the replay
registers' captures and signatures (R393 to R396).
-/
namespace Sys2Proof.Machine

/-! ## Slot-operation addresses (R364) -/

/-- A slot-operation address. -/
def soaOf (pc : Word) (pos kind : Nat) (tmode : Bool) : Word :=
  (pc &&& 0x01FFFFFFFFFFFFFE#64) ||| BitVec.ofNat 64 (2 ^ 57 * (pos % 4) + 2 ^ 59 * (kind % 8) + (if tmode then 2 ^ 62 else 0))

/-! ## Registers of a core's debug region (R366) -/

/-- Base of a core's debug region. -/
def coreDbg (core : Nat) : Nat := dbgBase (core / 128) + 0x4000 * (core % 128)

/-- TDBG of a team slot. -/
def tdbgOff (z : Nat) : Nat := coreDbg (coreOf z) + 0x200 + 8 * (z % 64)

/-- BSTAT of a bench of the device (16·leaf + bench). -/
def bstatOff (bench : Nat) : Nat := dbgBase (bench / 16) + 0x200000 + 0x100 * (bench % 16) + 8

/-- Replaces n bits at lo of a register word. -/
def putBits (w : Word) (lo n v : Nat) : Word :=
  BitVec.ofNat 64 (w.toNat - w.toNat / 2 ^ lo % 2 ^ n * 2 ^ lo + v % 2 ^ n * 2 ^ lo)

/-- Writes n bits at lo of a register. -/
def State.putReg (s : State) (off lo n v : Nat) : State := s.setReg off (putBits (s.reg off) lo n v)

/-- Adds to a field of a register that saturates. -/
def State.satReg (s : State) (off lo n k : Nat) : State := s.putReg off lo n (min (s.regBits off lo n + k) (2 ^ n - 1))

/-! ## Trace (R383 to R385) -/

/-- One 16-byte record. -/
def traceBytes (typ part slot delta extra : Nat) (soa : Word) : List Byte :=
  leBytes 8 (BitVec.ofNat 64 (typ + 2 ^ 4 * part + 2 ^ 6 * slot + 2 ^ 16 * delta + 2 ^ 32 * (extra % 2 ^ 32))) ++ leBytes 8 soa

/-- Writes records at the ring's WR and advances it. -/
def State.ringPut (s : State) (core : Nat) (l : List (List Byte)) : State :=
  let b := coreDbg core
  l.foldl (fun s r =>
    let wr := s.regBits (b + 0x490) 0 32
    let pa := s.regBits (b + 0x480) 12 40 * 4096 + 16 * (wr % 2 ^ s.regBits (b + 0x480) 0 5)
    (s.writeMem pa r false).putReg (b + 0x490) 0 32 (wr + 1)) s

/-- Writes a trace record of a core, an anchor before it where R385 asks for one; a record the ring has no room for is lost,
and the next anchor says so. -/
def State.trace (s : State) (core typ part slot extra : Nat) (soa : Word) : State :=
  let b := coreDbg core
  match s.cores.get? core with
  | none => s
  | some c =>
    if !(s.reg (b + 0x488)).getLsbD 0 || !(s.reg (b + 0x488)).getLsbD typ then s
    else
      let delta := s.ns - c.lastTrace
      let gap := if 65535 < delta then c.trGap ||| 1 else c.trGap
      let recs := if gap = 0 then [traceBytes typ part slot delta extra soa]
        else [traceBytes 0 0 0 0 gap.toNat (BitVec.ofNat 64 s.ns), traceBytes typ part slot 0 extra soa]
      let used := (s.regBits (b + 0x490) 0 32 + 2 ^ 32 - s.regBits (b + 0x490) 32 32) % 2 ^ 32
      if 2 ^ s.regBits (b + 0x480) 0 5 < used + recs.length then
        (s.satReg (b + 0x488) 32 16 1).updCore core fun c => { c with trGap := c.trGap ||| 8 }
      else (s.ringPut core recs).updCore core fun c => { c with trGap := 0, lastTrace := s.ns }

/-! ## Event counts (R391) -/

/-- Key of an event of a cycle: code, partition and mode. -/
def evKey (code part : Nat) (tmode : Bool) : Nat := 8 * code + 2 * (part % 4) + (if tmode then 1 else 0)

/-- Counts n events of a code on a core in this cycle. -/
def State.count (s : State) (core code part : Nat) (tmode : Bool) (n : Nat) : State :=
  let k := evKey code part tmode
  s.updCore core fun c => { c with events := c.events.set k (c.events.get k + BitVec.ofNat 64 n) }

/-- Counts a team event of a team. -/
def State.countTeam (s : State) (z code n : Nat) : State :=
  s.count (coreOf z) code (partOf z) (((s.teams.get? z).map Team.tmode).getD false) n

/-! ## Replay measurement (R393 to R396) -/

/-- One bit of the IEEE 802.3 CRC, least significant bit first. -/
def crcBit (c : BitVec 32) : BitVec 32 := if c.getLsbD 0 then (c >>> 1) ^^^ 0xEDB88320#32 else c >>> 1

/-- CRC-32 continued over bytes (R396; the usual initial and final inversions, log entry 41). -/
def crc32 (c : BitVec 32) (l : List Byte) : BitVec 32 :=
  ~~~(l.foldl (fun (r : BitVec 32) b => (List.range 8).foldl (fun r _ => crcBit r) (r ^^^ b.setWidth 32)) (~~~c))

/-- Base of the replay registers. -/
def rplBase : Nat := dbgBase 0 + 0x300100

/-- Capture and signatures are on for an address space. -/
def State.rplOn (s : State) (asid : BitVec 16) : Bool :=
  (s.reg rplBase).getLsbD 0 && s.regBits rplBase 24 16 == asid.toNat

/-- Captures the page of a first write of a pass (R394). -/
def State.capture (s : State) (asid : BitVec 16) (pa : Nat) : State :=
  let page := pa / 4096
  if !s.rplOn asid || !isHbm pa || s.captured.contains page then s
  else
    let n := s.regBits (rplBase + 0x18) 0 24
    let cap := s.regBits (rplBase + 0x10) 0 24
    if n = cap then s.putReg rplBase 9 1 1
    else
      let buf := s.regBits (rplBase + 8) 12 40 * 4096
      let s := s.writeMem (buf + 4096 * n) (s.readMem (4096 * page) 4096) false
      let s := s.writeMem (buf + 4096 * cap + 8 * n) (leBytes 8 (BitVec.ofNat 64 (4096 * page))) false
      { s.putReg (rplBase + 0x18) 0 24 (n + 1) with captured := page :: s.captured }

/-- A write translated in an address space (R287, R394). -/
def State.writeAs (s : State) (asid : BitVec 16) (pa : Nat) (l : List Byte) (p : Bool) : State :=
  (s.capture asid pa).writeMem pa l p

/-- An atomic lane applied adds to SIGA (R396). -/
def State.signAtomic (s : State) (asid : BitVec 16) (addr : Nat) (old : BitVec 32) : State :=
  if s.rplOn asid then
    s.setReg (rplBase + 0x28) (s.reg (rplBase + 0x28)
      + (crc32 0 (leBytes 8 (BitVec.ofNat 64 addr) ++ leBytes 8 (old.setWidth 64 : Word))).setWidth 64)
  else s

/-- A team's CRC joins SIGC when it ends or stops at a switch point (R396). -/
def State.signTeam (s : State) (t : Team) : State :=
  if s.rplOn t.asid then s.setReg (rplBase + 0x20) (s.reg (rplBase + 0x20) + t.crc.setWidth 64) else s

end Sys2Proof.Machine
end

