-- ==== Sys2Proof/Machine/Links.lean ====
section
/-!
DEFINITION. Tchiheuri ports: flits (R348 to R351), the route table (R352), and packets to other devices (R350 to R356). The spec gives no
layout of a header flit's body nor of a message's header: Config.fabHead and Config.msgHead read them (log entry 31).
-/
namespace Sys2Proof.Machine

/-! ## Flits (R349) -/

/-- Bits of a flit. -/
def flBits (f : BitVec 512) (lo n : Nat) : Nat := (f >>> lo).toNat % 2 ^ n

/-- The CRC of a flit: over bits 511:32, least significant byte first. -/
def flCrc (f : BitVec 512) : BitVec 32 := crc32 0 (leBytes 60 (f >>> 32))

/-- A flit arrived whole: its CRC agrees and its reserved bits are 0. -/
def flGood (f : BitVec 512) : Bool := f.extractLsb' 0 32 == flCrc f && flBits f 60 4 == 0

/-- A flit from its fields, with its CRC. -/
def mkFlit (seq ack vc kind : Nat) (body : BitVec 448) : BitVec 512 :=
  let f : BitVec 512 := BitVec.ofNat 512 (2 ^ 32 * (seq % 4096) + 2 ^ 44 * (ack % 4096) + 2 ^ 56 * (vc % 4) + 2 ^ 58 * (kind % 4)
    + 2 ^ 64 * body.toNat)
  f ||| (flCrc f).setWidth 512

/-! ## Ports (R348, R351) -/

/-- A port as it was last left; DESIGN CHOICE: its first flit in either direction is numbered 1 (log entry 31). -/
def State.portOf (s : State) (p : Nat) : Port := s.ports.getD p ⟨0, 0, 0, 1, [], 0, [], []⟩

/-- Offset of PORTST of a port. -/
def portstOff (p : Nat) : Nat := fabBase + 0x8000 + 8 * p

/-- Changes a port. -/
def State.updPort (s : State) (p : Nat) (f : Port → Port) : State := { s with ports := s.ports.put p (f (s.portOf p)) }

/-- A port has a lane in use (R348). -/
def State.portUp (s : State) (p : Nat) : Bool := (s.portOf p).lanes != 0

/-- The virtual channel of a kind of packet (R350). -/
def FabKind.vc : FabKind → Nat
  | .read => 0
  | .write => 0
  | .atomic _ => 0
  | .probe _ => 0
  | .readReply => 1
  | .atomicReply => 1
  | .ack => 1
  | .probeReply => 1
  | .message => 2
  | .invalidate => 3
  | .recall => 3
  | .arrival => 3
  | .release => 3

/-- A packet's flits: the header, then its data, 56 bytes to a flit (R350). -/
def FabPkt.flits (p : FabPkt) : List TxFlit :=
  ⟨p, 1, Config.fabBits p.head, 0⟩ :: (List.range ((p.data.length + 55) / 56)).map fun i =>
    ⟨p, 2, leWord 448 ((p.data.drop (56 * i)).take 56), 0⟩

/-- Bytes of data a packet carries after its header flit (R350). -/
def FabHead.dataLen (h : FabHead) : Nat :=
  let n := ((List.range 4).filter fun i => h.sectors.getLsbD i).length
  match h.kind with
  | .readReply => 64 * n
  | .write => 64 * n
  | .atomic _ => 8 * h.lanes.length
  | .atomicReply => 4 * h.lanes.length
  | .message => 16 + h.len
  | _ => 0

/-- Drops the flits an acknowledgement covers. -/
def Port.acked (x : Port) (ack : Nat) : Port :=
  match x.unacked.findIdx? fun f => f.seq == ack with
  | some i => { x with unacked := x.unacked.drop (i + 1), fails := 0 }
  | none => x

/-- A sent flit as it is sent again, with the present acknowledgement. -/
def Port.again (x : Port) (f : TxFlit) : BitVec 512 := mkFlit f.seq x.rxGood (FabKind.vc f.pkt.head.kind) f.kind f.body

/-- The first flits of a channel's queue go out, as many as have credits (k) and room among the 2,048 that may be unacknowledged (R350,
R351). -/
def Port.send (x : Port) (vc k : Nat) : Port × List (BitVec 512) :=
  let q := x.txq.getD vc []
  let l := ((List.range q.length).zip q).take (min k (2048 - x.unacked.length)) |>.map fun y => { y.2 with seq := (x.txNext + y.1) % 4096 }
  ({ x with
    txNext := (x.txNext + l.length) % 4096, unacked := x.unacked ++ l, txq := x.txq.put vc (q.drop l.length) }, l.map x.again)

/-- A port sends what it may of each channel: the credits of one say nothing of another (R350). -/
def State.sendFlits (s : State) (p : Nat) : State :=
  if !s.portUp p then s
  else
    (List.range 4).foldl (fun s vc =>
      let q := ((s.portOf p).txq.getD vc []).length
      if q = 0 then s
      else
        let r := (s.portOf p).send vc (Config.freeChoice s.fresh % (q + 1))
        State.updPort { s with fresh := s.fresh + 1, out := s.out ++ r.2.map fun f => Out.flit p f } p fun _ => r.1) s

/-- Sends a NAK that names the last good flit. -/
def State.sendNak (s : State) (p : Nat) : State := { s with out := s.out ++ [.flit p (mkFlit 0 (s.portOf p).rxGood 0 3 0)] }

/-- Sends an idle flit, which carries the acknowledgement (R349). -/
def State.sendIdle (s : State) (p : Nat) : State := { s with out := s.out ++ [.flit p (mkFlit 0 (s.portOf p).rxGood 0 0 0)] }

/-! ## Routes (R352) -/

/-- The ports that lead toward a node: the set bits of its entry of the route table, without the ports that are down. -/
def State.routePorts (s : State) (node : Nat) : List Nat :=
  let m := leNat (s.readMem (s.regBits (fabBase + 0x10) 12 40 * 4096 + 16 * node) 16)
  (List.range 128).filter fun p => m.testBit p && s.portUp p

/-- h of memory traffic: the exclusive-or of the 7-bit fields of VA[56:8]. -/
def lineHash (va : Nat) : Nat := (List.range 7).foldl (fun x i => x ^^^ (va / 2 ^ (8 + 7 * i) % 2 ^ 7)) 0

/-- h of a message: of the sender's block and team and of the receiver's. -/
def MsgHead.hash (m : MsgHead) : Nat :=
  m.srcBlk ^^^ (m.dest.extractLsb' 16 32).toNat ^^^ m.srcTidx ^^^ (m.dest.extractLsb' 12 4).toNat

/-- Puts a packet into a port's queue: at its end, or before every packet of it not begun (R351). -/
def State.queuePkt (s : State) (p : Nat) (k : FabPkt) (front : Bool) : State :=
  let vc := FabKind.vc k.head.kind
  s.updPort p fun x =>
    let q := x.txq.getD vc []
    let l := if front then q.takeWhile (fun f => f.kind == 2) ++ k.flits ++ q.dropWhile (fun f => f.kind == 2) else q ++ k.flits
    { x with txq := x.txq.put vc l }

/-! ## Answers of other devices (R351, R354 to R356) -/

/-- The sectors of a line that accesses touch. -/
def sectorMask (l : List Access) : BitVec 4 :=
  l.foldl (fun m a => m ||| (1#4 <<< (a.va % 256 / 64)) ||| (1#4 <<< ((a.va % 256 + a.size - 1) / 64))) 0

/-- Where a byte of a line stands in the data of a packet of some sectors. -/
def sectorPos (m : BitVec 4) (i : Nat) : Nat := 64 * ((List.range (i / 64)).filter fun k => m.getLsbD k).length + i % 64

/-- The value and poison that an answer gives access i of a request. -/
def FarReq.value (r : FarReq) (data : List Byte) (q : BitVec 64) (i : Nat) (a : Access) : LaneVal :=
  match r.kind with
  | .atomic _ => ⟨a.lane, leWord 128 ((data.drop (4 * i)).take 4), q.getLsbD i⟩
  | _ =>
    ⟨a.lane, leWord 128 ((data.drop (sectorPos (sectorMask r.accs) (a.va % 256))).take a.size),
      (List.range ((a.size + 3) / 4)).any fun k => q.getLsbD (a.va % 256 / 4 + k)⟩

/-- Answers a probe in a list. -/
def answerProbes (line : Nat) (acc : AccKind) (x : Option Nat) (l : List Probe) : List Probe :=
  l.map fun p => if p.va == line && p.acc == acc && p.answer.isNone then { p with answer := some x } else p

/-- A request is answered: a probe with its answer, a message by its fate, accesses with data and poison (R340, R355, R356). -/
def State.farAnswer (s : State) (num : Nat) (x : Option Nat) (data : List Byte) (q : BitVec 64) : State :=
  match s.far.asked.find? fun r => r.num == num with
  | none => s
  | some r =>
    let s : State := { s with far := { s.far with asked := s.far.asked.filter fun y => y.num != num } }
    match r.kind, r.z with
    | .probe acc, some z => s.updTeam z fun t => { t with probes := answerProbes (r.va / 256) acc x t.probes }
    | .probe acc, none =>
      { s with copies := s.copies.map fun c => if c.id = r.op then { c with probes := answerProbes (r.va / 256) acc x c.probes } else c }
    | .message, _ => s
    | k, some z => s.updTeam z fun t => t.updOp r.op fun o => { o with
        accs := o.accs.filter fun a => !r.accs.contains a,
        got := if k == .write then o.got else o.got ++ (((List.range r.accs.length).zip r.accs).map fun y => r.value data q y.1 y.2) }
    | .read, none =>
      let came := r.accs.map fun a =>
        let v := r.value data q 0 a
        (a.va, leBytes a.size v.v, v.p)
      { s with copies := s.copies.map fun c => if c.id = r.op && c.st == .running then { c with got := c.got ++ came } else c }
    | _, none => s

/-- A packet toward a device that no route leads to (R351): the platform event, and an operation of this device ends: loads and atomics
with poison. A probe is answered with a pin, so that its access ends so (log entry 31). -/
def State.lostPacket (s : State) (h : FabHead) : State :=
  if h.src = Config.node then (s.platformEvent 0).farAnswer h.num none [] (BitVec.allOnes 64) else s.platformEvent 0

/-- A request toward a device that no route leads to any more ends, as one lost on its way does (R351). -/
def State.dropLost (s : State) (r : FarReq) : State :=
  if (s.routePorts r.node.toNat).isEmpty then (s.platformEvent 0).farAnswer r.num none [] (BitVec.allOnes 64) else s

/-- A packet takes its port, the (h mod c)-th of its route (R352). -/
def State.sendFab (s : State) (k : FabPkt) (front : Bool) : State :=
  let l := s.routePorts k.head.dst.toNat
  match l[k.h % l.length]? with
  | some p => s.queuePkt p k front
  | none => s.lostPacket k.head

/-- A header from this device, with the next packet number. -/
def State.newHead (s : State) (kind : FabKind) (dst : BitVec 16) (va : Nat) : FabHead :=
  { (default : FabHead) with kind := kind, src := Config.node, dst := dst, num := s.nextId, va := va }

/-- Sends a packet with a new number. -/
def State.sendNew (s : State) (h : FabHead) (data : List Byte) (k : Nat) : State :=
  State.sendFab { s with nextId := s.nextId + 1 } ⟨h, data, k⟩ false

/-- Sends a request and waits for its answer. -/
def State.sendAsk (s : State) (h : FabHead) (data : List Byte) (k : Nat) (z : Option Nat) (op : Nat) (accs : List Access) : State :=
  State.sendNew { s with far := { s.far with asked := s.far.asked ++ [⟨h.num, h.dst, h.kind, z, op, h.va, accs⟩] } } h data k

/-- Sends a translation probe of a line (R355). -/
def State.sendProbe (s : State) (node : Nat) (set : BitVec 16) (line : Nat) (acc : AccKind) (z : Option Nat) (op : Nat) : State :=
  s.sendAsk { s.newHead (.probe acc) (BitVec.ofNat 16 node) (256 * line) with set := set } [] (lineHash (256 * line)) z op []

/-- A copy still waits for another device: for an element, for the acknowledgement of a write, or for a probe (R355, R356). -/
def State.farOfCopy (s : State) (id : Nat) : Bool := s.far.asked.any fun r => r.z.isNone && r.op == id

/-- Sends a barrier arrival or release (R350, R357). -/
def State.sendBarrier (s : State) (node : Nat) (release : Bool) (set : Nat) : State :=
  let h := s.newHead (if release then .release else .arrival) (BitVec.ofNat 16 node) 0
  State.sendNew { s with out := s.out ++ [.barrier node release set] } { h with set := BitVec.ofNat 16 set } [] 0

/-! ## Replay (R348, R351) -/

/-- A port goes down: its unacknowledged packets are sent again on other ports of their routes, ahead of later ones; what it had not sent
follows. -/
def State.portDown (s : State) (p : Nat) : State :=
  let x := s.portOf p
  let sent := (x.unacked.map TxFlit.pkt).eraseDups
  let rest := ((x.txq.flatMap Prod.snd).map TxFlit.pkt).eraseDups.filter fun k => !sent.contains k
  let s := s.updPort p fun x => { x with unacked := [], txq := [], rx := [], fails := 0 }
  let s := sent.reverse.foldl (fun s k => s.sendFab k true) s
  rest.foldl (fun s k => s.sendFab k false) s

/-- The lane that carries a flit: with both in use they alternate by the flit's number (log entry 31). -/
def Port.laneOf (x : Port) (seq : Nat) : Nat := if x.lanes = 3 then seq % 2 else if x.lanes = 2 then 1 else 0

/-- The lane that carried the oldest flit trains again; where that fails, which is open, it is disabled, and with the last lane the port
goes down. -/
def State.retrain (s : State) (p : Nat) : State :=
  let x := s.portOf p
  let lane := x.laneOf ((x.unacked.head?.map TxFlit.seq).getD 0)
  let fails := Config.freeChoice s.fresh % 2 == 0
  let s := State.updPort { s with fresh := s.fresh + 1 } p fun x => { x with
    fails := 0, lanes := if fails then x.lanes &&& ~~~(1#2 <<< lane) else x.lanes }
  if s.portUp p then s else s.portDown p

/-- Replays every unacknowledged flit in order, each with the present acknowledgement, and counts them; after 16 failed replays of the
oldest its lane trains again (R348, R351). -/
def State.replayFlits (s : State) (p : Nat) : State :=
  let x := s.portOf p
  let s := ({ s with out := s.out ++ x.unacked.map fun f => Out.flit p (x.again f) }.updPort p fun x => { x with fails := x.fails + 1 }).satReg
    (portstOff p) 16 32 x.unacked.length
  if (s.portOf p).fails < 16 then s else s.retrain p

end Sys2Proof.Machine
end

