-- ==== Sys2Proof/Machine/TrapEntry.lean ====
section
/-!
DEFINITION. Taking a trap (R53 to R55, R318 to R323): the frame, the replay registers, trap mode and the halts of traps that cannot
be taken.
-/
namespace Sys2Proof.Machine

/-! ## Traps (R53 to R55, R318 to R323) -/

/-- RD.FILE codes (R55), which are the DF codes. -/
def fileCode (fl : RFile) : Nat := fl.enc.toNat

/-- The lanes of a landing: those its values or the awaited reply give (R55). -/
def Landing.on (l : Landing) (i : Nat) : Bool := (l.vals.any fun x => x.lane == i) || (l.pend.isSome && l.lanes.contains i)

/-- A landing's value record (R55) in pieces of bytes, each with its poison: a poisoned value stays poisoned where it is written
(R289). -/
def Landing.record (l : Landing) (t : Team) : List (List Byte × Bool) :=
  let at_ (i : Nat) : Option LaneVal := l.vals.reverse.find? fun x => x.lane == i
  let val (i : Nat) : BitVec 128 := ((at_ i).map LaneVal.v).getD 0
  let poi (i : Nat) : Bool := ((at_ i).map LaneVal.p).getD false
  let lanes (k : Nat) : List (List Byte × Bool) :=
    let w := t.width
    let map := (List.range ((w + 63) / 64 * 8)).map fun i => (List.range 8).foldl (fun (m : Byte) j =>
      if l.on (8 * i + j) then m ||| (1#8 <<< j) else m) 0
    (map, false) :: (if l.vals.any LaneVal.p then (List.range w).map fun i => (leBytes k (val i), poi i)
      else [((List.range w).flatMap fun i => leBytes k (val i), false)])
  if l.bal then (List.range ((t.passes + 1) / 2)).map fun i => (leBytes 8 (val i), poi i)
  else
    match l.file with
    | .s => [(leBytes 8 (val 0), poi 0)]
    | .a => [(leBytes 8 (val 0), poi 0)]
    | .f => [(leBytes 16 (val 0), poi 0)]
    | .va => lanes (if l.pair then 8 else 4)
    | .vb => lanes 4
    | .vm => lanes 4

/-- Bytes of the value record of a landing. -/
def Landing.recLen (l : Landing) (t : Team) : Nat :=
  if l.bal then (t.passes + 1) / 2 * 8
  else
    match l.file with
    | .s => 8
    | .a => 8
    | .f => 16
    | .va => (t.width + 63) / 64 * 8 + t.width * (if l.pair then 8 else 4)
    | .vb => (t.width + 63) / 64 * 8 + t.width * 4
    | .vm => (t.width + 63) / 64 * 8 + t.width * 4

/-- A replay descriptor with its value offset (R55). -/
def Landing.descriptor (l : Landing) (voff : Nat) : BitVec 128 :=
  BitVec.ofNat 128 (l.due % 256 + 2 ^ 8 * fileCode l.file + 2 ^ 11 * l.reg + 2 ^ 17 * (if l.pair then 1 else 0)
    + 2 ^ 18 * (if l.pend.isSome then 1 else 0) + 2 ^ 19 * l.flags.toNat + 2 ^ 24 * (if l.bal then 1 else 0)
    + 2 ^ 32 * voff)

/-- Value offsets of descriptors in order (R53, R55). -/
def valueOffsets (t : Team) (l : List Landing) : List Nat :=
  ((l.foldl (fun (a : Nat × List Nat) x => (a.1 + x.recLen t, a.1 :: a.2)) (0xA00, [])).2).reverse

/-- TF word 0 (R53). -/
def FrameHead.word0 (h : FrameHead) : Word :=
  BitVec.ofNat 64 (h.flt.cause % 256 + 2 ^ 8 * (h.flt.slot % 4) + 2 ^ 10 * h.done.toNat
    + 2 ^ 13 * (if h.partial_ then 1 else 0) + 2 ^ 14 * (if h.part2 then 1 else 0) + 2 ^ 16 * (h.flt.pass % 32)
    + 2 ^ 32 * h.flt.detail.toNat)

/-- Consecutive pieces from an offset. -/
def layPieces (off : Nat) (l : List (List Byte × Bool)) : List (Nat × List Byte × Bool) :=
  (l.foldl (fun (a : Nat × List (Nat × List Byte × Bool)) x => (a.1 + x.1.length, a.2 ++ [(a.1, x.1, x.2)])) (off, [])).2

/-- The held records in the order of TF.HELD: SU, VA, VB, MU, XU, kind codes 1 to 5 (R53, R66). -/
def heldKinds : List Nat := [Kind.su, .va, .vb, .mu, .xu].map fun k => k.enc.toNat

/-- The pieces of a frame: offset, bytes and poison (R53, R55). Bytes of unused replay descriptors are not written. -/
def frameBytes (t : Team) (h : FrameHead) (held : AL SlotBits) (rep : List Landing) : List (Nat × List Byte × Bool) :=
  let heldBytes := heldKinds.flatMap fun k => match held.get? k with
    | some x => leBytes 16 ((x.setWidth 128 : BitVec 128) ||| (1#128 <<< 80))
    | none => leBytes 16 (0#128)
  let offs := valueOffsets t rep
  let offs' := (rep.zip offs).flatMap fun x => leBytes 16 (x.1.descriptor x.2)
  [(0, leBytes 8 h.word0 ++ leBytes 8 h.pc ++ leBytes 8 h.npc ++ leBytes 8 h.flt.addr ++ leBytes 8 h.tcyc
      ++ leBytes 8 t.fmode ++ leBytes 8 (h.flt.lanes.setWidth 64) ++ leBytes 8 (BitVec.ofNat 64 rep.length)
      ++ heldBytes ++ leBytes 8 h.imm ++ leBytes 0x68 (0#8), false),
    (0x100, offs', false), (0x970, leBytes 0x90 (0#8), false)] ++ layPieces 0xA00 (rep.flatMap fun l => l.record t)

/-- Writes bytes through a team's translation, page by page (R318: at core scope, of no stream). -/
def State.writeVa (s : State) (core : Nat) (asid : BitVec 16) (root va : Nat) (l : List Byte) (p : Bool) : Except XErr State :=
  let rec go : Nat → State → Nat → List Byte → Except XErr State
    | 0, s, _, _ => .ok s
    | n + 1, s, va, l =>
      if l.isEmpty then .ok s
      else
        let k := 4096 - va % 4096
        match s.translate core asid root va .write with
        | .error e => .error e
        | .ok (w, pa) => go n (((s.useXlat core w).dropViews pa (min k l.length)).writeMem pa (l.take k) p) (va + k) (l.drop k)
  go (l.length / 4096 + 2) s va l

/-- Writes a piece of a frame: poison among the bytes it replaces fails the write (R323; log entry 48). -/
def State.writeFrame (s : State) (core : Nat) (asid : BitVec 16) (root va : Nat) (l : List Byte) (p : Bool) : Except XErr State :=
  let pages := (List.range (l.length / 4096 + 2)).map fun i => (max va ((va / 4096 + i) * 4096), min (va + l.length) ((va / 4096 + i + 1) * 4096))
  let bad := pages.any fun x => decide (x.1 < x.2) && match s.translate core asid root x.1 .write with
    | .ok (_, pa) => s.memPoisoned pa (x.2 - x.1)
    | .error _ => false
  if bad then .error .poison else s.writeVa core asid root va l p

/-- Reads bytes through a team's translation; poisoned bytes are an error (R144, R321). -/
def State.readVa (s : State) (core : Nat) (asid : BitVec 16) (root va n : Nat) : Except XErr (State × List Byte) :=
  let rec go : Nat → State → Nat → Nat → Except XErr (State × List Byte)
    | 0, s, _, _ => .ok (s, [])
    | k + 1, s, va, n =>
      if n = 0 then .ok (s, [])
      else
        let m := min n (4096 - va % 4096)
        match s.translate core asid root va .read with
        | .error e => .error e
        | .ok (w, pa) =>
          if s.memPoisoned pa m then .error .poison
          else
            let s := (s.useXlat core w).refetch core pa m w.e.attr
            match go k (s.l2Range core pa m w.e.attr false) (va + m) (n - m) with
            | .error e => .error e
            | .ok (s', l) => .ok (s', s.readView core pa m ++ l)
  go (n / 4096 + 2) s va n

/-- Posts a context event for a team (R325). -/
def State.postEvent (s : State) (code : Nat) (z : Nat) (word0 : Word) : State :=
  match s.teams.get? z with
  | none => s
  | some t =>
    let q := ((s.launches.get? t.launch).map Launch.queue).getD 0
    { s with cxq := s.cxq ++ [⟨code, q, t.blk, 0, (s.cx.map CxCmd.seq).getD 0, word0⟩] }

/-- Positions of a word that have committed, with those a resumed word had committed before (R53, R71). -/
def Team.doneMask (t : Team) : BitVec 3 :=
  match t.ctx with
  | none => t.done
  | some c => c.ops.foldl (fun m o => match o.pos with
      | some p => if o.st == .done then m ||| (1#3 <<< p) else m
      | none => m) t.done

/-- Occupied positions of a word. -/
def occupiedMask (w : Word3) : BitVec 3 := w.ops.foldl (fun m x => m ||| (1#3 <<< x.1)) 0

/-- The occupied positions of a team's present word: of the word in progress, else of the one put aside with its done bits. -/
def Team.occupied (t : Team) : BitVec 3 :=
  match t.ctx with
  | some c => occupiedMask c.word
  | none => t.occ

/-- The frame head of a trap at the team's present word (R53): a fault of the word in progress, or of the su.eret word the team
waits at, has its NPC and immediate; any other trap has 0. -/
def Team.frameHead (t : Team) (f : Flt) : FrameHead :=
  let done := t.doneMask
  let part := done != 0 && done != t.occupied
  match t.ctx with
  | some c => ⟨f, done, part, c.part2 || t.part2, c.pc, c.npc, t.tcyc, c.imm⟩
  | none =>
    let w := t.eretWait.getD (0, 0, 0)
    ⟨f, done, part, t.part2, t.pc, w.2.1, t.tcyc, w.2.2⟩

/-- Puts aside the word in progress, keeping what has committed of it (R32, R329): a stop gives the first pass not executed,
a fault leaves the resume pass as it is. The prefetches not yet started are discarded (R145). -/
def Team.putAside (t : Team) (h : FrameHead) (pass : Option Nat) : Team :=
  let p := pass.getD t.resumePass
  { t.dropUnissued with
    done := h.done, part2 := h.part2, resumePass := p, occ := t.occupied, prefetch := [],
    keep := if h.done != 0 || h.part2 || p != 0 then t.keep else none,
    ctx := none, fetched := none, zeroTrip := none, waiting := false, eretWait := none }

/-- Halts a team that cannot take a trap: NEST for a trap in trap mode (R322), an event in either case (R323). The frame
that would have been taken stays for its image. -/
def State.haltTeam (s : State) (z code : Nat) (nest : Bool) (h : FrameHead) : State :=
  (s.updTeam z fun t => { t.putAside h none with halted := true, nest := t.nest || nest, haltFrame := some h }).postEvent
    code z h.word0

/-- The landing buffer as replay registers (R33): distances from the team-cycle of the first word not wholly committed;
what has landed is gone. -/
def Team.replayList (t : Team) : List Landing :=
  t.land.map fun l => { l with due := l.due - t.tc, key := none }

/-- The team in trap mode after its frame is written (R68, R318). -/
def Team.enterTrap (t : Team) (rep : List Landing) (partialWord : Bool) : Team :=
  { t.dropUnissued with
    tmode := true, replay := rep, land := [], held := [], pc := t.trapvec &&& 0x01FFFFFFFFFFFFFE#64,
    landed := 0, userKeep := if partialWord then t.keep else none, keep := none, ctx := none, fetched := none,
    zeroTrip := none, waiting := false, prefetch := [], done := 0, part2 := false, userPass := t.resumePass, resumePass := 0,
    userOcc := t.occupied, occ := 0 }

/-- Drops a team's refill: a trap, stop or end abandons it (R76). -/
def State.abandonRefill (s : State) (z : Nat) : State :=
  s.updPart (partOf z) fun p =>
    let l := p.refills.map fun r => { r with teams := r.teams.filter fun y => y != z }
    { p with refills := l.filter fun r => r.started || r.pre.isSome || !r.teams.isEmpty,
             busy := if p.busy == some z then none else p.busy }

/-- The engine kind of the operation a trap names, for its SOA (R364). -/
def Team.slotKind (t : Team) (slot : Nat) : Nat :=
  match t.ctx with
  | none => 0
  | some c => ((c.ops.find? fun o => o.pos == some slot).map fun o => o.op.kind.enc.toNat).getD 0

/-- What a taken trap leaves besides the team: its count (R391), its trace record (R384), and the end of a step (R372). -/
def State.afterTrap (s : State) (z : Nat) (t : Team) (h : FrameHead) : State :=
  let s := s.count (coreOf z) 0x13 (partOf z) false 1
  let s := s.trace (coreOf z) 1 (partOf z % 4) (z % 16) (h.flt.cause % 256 + 2 ^ 8 * h.done.toNat)
    (soaOf h.pc h.flt.slot (t.slotKind h.flt.slot) false)
  if t.stepping.isSome then
    (s.putReg (tdbgOff z) 2 6 1).updTeam z fun t => { t with stepping := none, halted := true }
  else s

/-- Taking a trap: what is due lands, the landing buffer becomes the replay registers, the held records are saved and
cleared, the frame is written at CTXPTR, the mode becomes trap mode, and the next word is TRAPVEC's (R318). In trap mode
the team halts with NEST (R322); a frame that cannot be written halts it with event 5 or 6 (R323). -/
def State.takeTrap (s : State) (z : Nat) (f : Flt) : State :=
  match s.teams.get? z with
  | none => s
  | some t0 =>
    let t := t0.landStop
    let h := t.frameHead f
    let s := (s.updTeam z fun _ => t).abandonRefill z
    if t.tmode then s.haltTeam z 7 true h
    else
      let rep := t.replayList
      let pieces := frameBytes t h t.held rep
      let len := pieces.foldl (fun m x => max m (x.1 + x.2.1.length)) 0
      let ctx := t.ctxptr.toNat
      if 2 ^ (12 + t.ctxlog) < len then s.haltTeam z 6 false h
      else
        let res : Except XErr State := pieces.foldl (fun r x => match r with
          | .ok s => s.writeFrame (coreOf z) t.asid t.root (ctx + x.1) x.2.1 x.2.2
          | .error e => .error e) (.ok s)
        match res with
        | .error _ => s.haltTeam z 5 false h
        | .ok s' => (s'.updTeam z fun t => t.enterTrap rep (h.done != 0 || h.part2)).afterTrap z t h

end Sys2Proof.Machine
end

