-- ==== Sys2Proof/Machine/Operands.lean ====
section
/-!
DEFINITION. Operand forms: registers, immediates, constants and queue reads (R36, R60, R123, R151, R178, R211), masks and
passes (R16 to R18), and the addresses of R179. Everything is read as at the word's team-cycle.
-/
namespace Sys2Proof

/-! ## The operand forms of each operation -/

/-- The register file a slot's selectors name (R26, R61 to R63, R193). -/
def Instr.ownFile (i : Instr) : RFile :=
  match i.kind with
  | some .su => .s
  | some .va => .va
  | some .vb => .vb
  | some .xu => .f
  | some .mu =>
    match i with
    | .muLds _ _ _ _ _ _ => .vm
    | .muSts _ _ _ _ _ => .vm
    | .muGths _ _ _ _ _ _ => .vm
    | .muScts _ _ _ _ _ => .vm
    | .muLdr _ _ _ _ _ _ _ => .vm
    | .muStr _ _ _ _ _ => .vm
    | .muAtmr _ _ _ _ _ _ _ => .vm
    | .muLdg _ _ _ _ _ _ => .vm
    | .muStg _ _ _ _ _ => .vm
    | .muGthg _ _ _ _ _ _ => .vm
    | .muSctg _ _ _ _ _ => .vm
    | .muAtms _ _ _ _ _ _ _ => .vm
    | .muAtmg _ _ _ _ _ _ _ => .vm
    | .muXferPerLane _ _ _ _ => .vm
    | _ => .a
  | none => .s

/-- A per-lane operation (R16). -/
def Instr.perLane (i : Instr) : Bool := i.ownFile.perLane

/-- The mask of a per-lane operation. -/
def Instr.maskOf (i : Instr) : Mask := i.fields.mask

/-- The selectors that stand in an address position (R36, R179, R211). -/
def Instr.addrSels : Instr → List Sel
  | .muLds _ _ _ _ oa _ => [oa]
  | .muSts _ _ oa _ _ => [oa]
  | .muLdsa _ _ oa _ => [oa]
  | .muStsa _ _ oa _ => [oa]
  | .muLdr _ _ _ _ oa _ _ => [oa]
  | .muStr _ _ oa _ _ => [oa]
  | .muAtmr _ _ _ _ oa _ _ => [oa]
  | .muLdg _ _ _ _ oa _ => [oa]
  | .muStg _ _ oa _ _ => [oa]
  | .muLdga _ _ oa _ => [oa]
  | .muStga _ _ oa _ => [oa]
  | .muPfg _ oa _ => [oa]
  | .muAtms _ _ _ _ oa _ _ => [oa]
  | .muAtmg _ _ _ _ oa _ _ => [oa]
  | .muCprog _ _ oa _ => [oa]
  | .muCpost _ oa _ => [oa]
  | .muTget _ _ oa _ => [oa]
  | .xuFmt _ oa _ => [oa]
  | .xuMma _ _ _ oa ob _ _ => [oa, ob]
  | .xuMmat _ _ _ oa ob _ _ => [oa, ob]
  | .xuDist _ _ _ oa ob _ _ => [oa, ob]
  | .xuTopk _ _ _ oa _ _ => [oa]
  | .xuAccst _ _ _ _ oa _ => [oa]
  | .xuAccld _ _ oa _ => [oa]
  | _ => []

/-- The selectors that stand in the other positions: an operand's position decides, whatever its selector (R36). -/
def Instr.valSels (i : Instr) : List Sel := i.sels.diff i.addrSels

/-- The operands outside the address positions whose values the operation's issue checks need (R124, R181, R213). -/
def Instr.checkSels : Instr → List Sel
  | .muLdr _ _ _ _ _ ob _ => [ob]
  | .muGths _ _ _ _ ob _ => [ob]
  | .muScts _ _ _ ob _ => [ob]
  | .muGthg _ _ _ _ ob _ => [ob]
  | .muSctg _ _ _ ob _ => [ob]
  | .suCsrw _ sa => [sa]
  | .suSwait _ sb => [sb]
  | .suCalli _ sa => [sa]
  | .suJmpi sa => [sa]
  | .suLoop _ sa sc => [sa, sc]
  | .muQwait _ _ oa => [oa]
  | .muTfull oa => [oa]
  | .muTgate _ oa => [oa]
  | .muTclr oa => [oa]
  | .muCwait oa _ => [oa]
  | .muTstat _ oa => [oa]
  | .muCopy _ oa ob _ => [oa, ob]
  | .muMsend _ oa ob _ => [oa, ob]
  | .muMpost _ _ ob _ => [ob]
  | .xuMma _ _ _ _ _ oc _ => [oc]
  | .xuMmat _ _ _ _ _ oc _ => [oc]
  | .xuDist _ _ _ _ _ oc _ => [oc]
  | .xuTopk _ _ _ _ ob _ => [ob]
  | _ => []

/-- The selectors read as VA pairs (R157, R176). -/
def Instr.pairSels : Instr → List Sel
  | .vaAdd64 _ _ oa ob => [oa, ob]
  | .vaSub64 _ _ oa ob => [oa, ob]
  | .vaShl64 _ _ oa _ => [oa]
  | .vaShr64 _ _ oa _ => [oa]
  | .vaSar64 _ _ oa _ => [oa]
  | .vaCmp64 _ _ _ oa ob => [oa, ob]
  | .vaXfer _ .first64 _ _ oa => [oa]
  | _ => []

/-- The operations whose destination is a VA pair (R157). -/
def Instr.pairDest : Instr → Bool
  | .vaAdd64 _ _ _ _ => true
  | .vaSub64 _ _ _ _ => true
  | .vaShl64 _ _ _ _ => true
  | .vaShr64 _ _ _ _ => true
  | .vaSar64 _ _ _ _ => true
  | _ => false

/-- A ballot (R176). -/
def Instr.isBallot : Instr → Bool
  | .vaXfer _ .ballot _ _ _ => true
  | .vbXfer _ .ballot _ _ _ => true
  | _ => false

/-- The stream fields of an operation marked M (R90, R91, R183). -/
def Instr.stream : Instr → Option Strm
  | .muLds _ _ _ _ _ st => some st
  | .muSts _ _ _ _ st => some st
  | .muGths _ _ _ _ _ st => some st
  | .muScts _ _ _ _ st => some st
  | .muLdsa _ _ _ st => some st
  | .muStsa _ _ _ st => some st
  | .muLdr _ _ _ _ _ _ st => some st
  | .muStr _ _ _ _ st => some st
  | .muAtmr _ _ _ _ _ _ st => some st
  | .muLdg _ _ _ _ _ st => some st
  | .muStg _ _ _ _ st => some st
  | .muGthg _ _ _ _ _ st => some st
  | .muSctg _ _ _ _ st => some st
  | .muLdga _ _ _ st => some st
  | .muStga _ _ _ st => some st
  | .muPfg _ _ st => some st
  | .muAtms _ _ _ _ _ _ st => some st
  | .muAtmg _ _ _ _ _ _ st => some st
  | .muCprog _ _ _ st => some st
  | .muCopy _ _ _ st => some st
  | .muMsend _ _ _ st => some st
  | .muMpost _ _ _ st => some st
  | .muCpost _ _ st => some st
  | .muTget _ _ _ st => some st
  | .xuFmt _ _ st => some st
  | .xuMma _ _ _ _ _ _ st => some st
  | .xuMmat _ _ _ _ _ _ st => some st
  | .xuDist _ _ _ _ _ _ st => some st
  | .xuTopk _ _ _ _ _ st => some st
  | .xuAccst _ _ _ _ _ st => some st
  | .xuAccld _ _ _ st => some st
  | .xuAcczr _ st => some st
  | .xuAccadd _ _ st => some st
  | .xuAccscl _ _ st => some st
  | .xuAccmv _ _ st => some st
  | .xuAcctr _ _ st => some st
  | _ => none

end Sys2Proof

namespace Sys2Proof.Machine

/-- What a slot operation sees: the state in its clock, its team, block and word in progress, and TF.SLOT of its position
(3 for a held repeat). -/
structure Env where
  s : State
  z : Nat
  t : Team
  b : Block
  c : Ctx
  slot : Nat

/-! ## Masks and passes (R15 to R18) -/

/-- The mask word of a pass. -/
def maskWord (t : Team) (m : Mask) (p : Nat) : Lane :=
  match m with
  | none => BitVec.allOnes 32
  | some b => (t.s.get (b.toNat + p / 2)).extractLsb' (32 * (p % 2)) 32

/-- Enabled(ℓ) (R17, R18). -/
def enabled (t : Team) (m : Mask) (l : Nat) : Bool := (maskWord t m (l / 32)).getLsbD (l % 32)

/-- The passes that are not skipped (R18). -/
def livePasses (t : Team) (m : Mask) : List Nat := (List.range t.passes).filter fun p => maskWord t m p != 0

/-- The lanes a mask enables in a pass, ascending. -/
def lanesIn (t : Team) (m : Mask) (p : Nat) : List Nat :=
  ((List.range 32).map fun i => 32 * p + i).filter fun l => enabled t m l

/-- The lanes a mask enables in all passes, ascending. -/
def lanesAll (t : Team) (m : Mask) : List Nat := (livePasses t m).flatMap fun p => lanesIn t m p

/-! ## Values -/

/-- The value of an immediate or constant selector (R60, R70); other selectors have none. -/
def constVal (imm : Word) : Sel → Word
  | .reg _ => 0
  | .queue _ _ => 0
  | .imm j => (imm.extractLsb' (15 * j.toNat) 15).signExtend 64
  | .whole => imm
  | .const c => c.signExtend 64

/-- Two accesses touch a common byte. -/
def Place.overlaps (p q : Place) (n m : Nat) : Bool :=
  match p, q with
  | .mem a _ _, .mem b _ _ => decide (a < b + m) && decide (b < a + n)
  | .spad a, .spad b => decide (a < b + m) && decide (b < a + n)
  | .remote d a, .remote c b => d == c && decide (a < b + m) && decide (b < a + n)
  | _, _ => false

/-- The handle of a queue read. -/
def Env.handle (e : Env) (h : BitVec 3) : Word := e.b.q.get h.toNat

/-- The block address of the entry a queue selector reads, as sampled at issue (R36). -/
def Env.entry (e : Env) (h k : BitVec 3) : Nat :=
  match e.c.qv.find? fun q => q.sel == Sel.enc (.queue h k) with
  | some q => q.addr
  | none => qhEntry (e.handle h) k.toNat

/-- Bytes of the block's scratchpad (R21). -/
def Env.spadBytes (e : Env) (a n : Nat) : List Byte := e.s.readSpad (e.b.key a) n

/-- No earlier word of the team has an access of the bytes still to make (R184). -/
def Env.earlierFree (e : Env) (a n : Nat) : Bool :=
  let own := e.c.ops.filterMap OpSt.id
  e.t.ops.all fun o => own.contains o.id || o.accs.all fun x => !x.place.overlaps (.spad (e.b.key a)) x.size n

/-- A queue read may take bytes of the scratchpad (R36, R42, R43, R184). -/
def Env.readable (e : Env) (a n : Nat) : Bool := e.b.readReady a n && e.earlierFree a n

/-- A lane of a queue read as sampled at issue, and its poison. -/
def Env.sampledLane (e : Env) (h k : BitVec 3) (l : Nat) : Option (Lane × Bool) :=
  e.c.qv.findSome? fun q => if q.sel == Sel.enc (.queue h k) then (q.lanes[l]?).join else none

/-- The 64-bit value at entry offset 0 (R36): as sampled at issue when the bytes were ready then. -/
def Env.queueWord (e : Env) (h k : BitVec 3) : Word :=
  match e.c.qv.find? fun q => q.sel == Sel.enc (.queue h k) && q.ready with
  | some q => q.v
  | none => BitVec.ofNat 64 (leNat (e.spadBytes (e.entry h k) 8))

/-- Src of a scalar operand in a value position (R123, R178, R211). -/
def Env.scalar (e : Env) (own : RFile) (x : Sel) : Word :=
  match x with
  | .reg n =>
    match own with
    | .a => e.t.a.get n.toNat
    | .s => e.t.s.get n.toNat
    | .va => 0
    | .vb => 0
    | .vm => 0
    | .f => 0
  | .queue h k => e.queueWord h k
  | .imm j => constVal e.c.imm (.imm j)
  | .whole => constVal e.c.imm .whole
  | .const v => constVal e.c.imm (.const v)

/-- Src of an operand in an address position: a queue selector gives the entry's block address (R36, R179). -/
def Env.addrVal (e : Env) (own : RFile) (x : Sel) : Word :=
  match x with
  | .reg n => e.scalar own (.reg n)
  | .queue h k => BitVec.ofNat 64 (e.entry h k)
  | .imm j => e.scalar own (.imm j)
  | .whole => e.scalar own .whole
  | .const v => e.scalar own (.const v)

/-- Src(sel, ℓ) of a per-lane operand (R151, R178). -/
def Env.lane (e : Env) (own : RFile) (x : Sel) (l : Nat) : Lane :=
  match x with
  | .reg n => e.t.elem own n.toNat l
  | .queue h k =>
    match e.sampledLane h k l with
    | some x => x.1
    | none => BitVec.ofNat 32 (leNat (e.spadBytes (e.entry h k + 4 * l) 4))
  | .imm j => (constVal e.c.imm (.imm j)).setWidth 32
  | .whole => (constVal e.c.imm .whole).setWidth 32
  | .const v => (constVal e.c.imm (.const v)).setWidth 32

/-- Poison a per-lane operand brings: a register's is a fault at issue, so only a queue read's remains (R186). -/
def Env.laneP (e : Env) (x : Sel) (l : Nat) : Bool :=
  match x with
  | .reg _ => false
  | .queue h k =>
    match e.sampledLane h k l with
    | some x => x.2
    | none => e.s.spadPoisoned (e.b.key (e.entry h k + 4 * l)) 4
  | .imm _ => false
  | .whole => false
  | .const _ => false

/-- Poison a scalar operand brings by a queue read, as sampled with its value. -/
def Env.scalarP (e : Env) (x : Sel) : Bool :=
  match x with
  | .reg _ => false
  | .queue h k =>
    match e.c.qv.find? fun q => q.sel == Sel.enc (.queue h k) && q.ready with
    | some q => q.p
    | none => e.s.spadPoisoned (e.b.key (e.entry h k)) 8
  | .imm _ => false
  | .whole => false
  | .const _ => false

/-- A pair operand (R157): element ℓ of the even register plus 2^32 times element ℓ of the odd one, or a constant
sign-extended to 64 bits. -/
def Env.pair (e : Env) (x : Sel) (l : Nat) : Word :=
  match x with
  | .reg n => (e.t.elem .va (n.toNat + 1) l ++ e.t.elem .va n.toNat l).cast rfl
  | .queue _ _ => 0
  | .imm j => constVal e.c.imm (.imm j)
  | .whole => constVal e.c.imm .whole
  | .const v => constVal e.c.imm (.const v)

/-- The base register a AB (R179). -/
def Env.base (e : Env) (ab : BitVec 5) : Word := e.t.a.get ab.toNat

/-- The address of lane ℓ: contiguous, or indexed when the operand is a register (R179). -/
def Env.laneAddr (e : Env) (ab : BitVec 5) (oa : Sel) (l : Nat) : Word :=
  match oa with
  | .reg n => e.base ab + (e.lane .vm (.reg n) l).signExtend 64
  | .queue h k => e.base ab + e.addrVal .vm (.queue h k) + BitVec.ofNat 64 (4 * l)
  | .imm j => e.base ab + e.addrVal .vm (.imm j) + BitVec.ofNat 64 (4 * l)
  | .whole => e.base ab + e.addrVal .vm .whole + BitVec.ofNat 64 (4 * l)
  | .const v => e.base ab + e.addrVal .vm (.const v) + BitVec.ofNat 64 (4 * l)

/-- The indexed address of lane ℓ (R179). The spec calls X a vm register and refuses no other selector there; the model reads a
constant, an immediate or a queue entry per lane like any data operand (DESIGN CHOICE, log entry 52). -/
def Env.indexAddr (e : Env) (ab : BitVec 5) (x : Sel) (l : Nat) : Word := e.base ab + (e.lane .vm x l).signExtend 64

/-- The scalar address (R179). -/
def Env.scalarAddr (e : Env) (ab : BitVec 5) (oa : Sel) : Word := e.base ab + e.addrVal .a oa

/-- The modes an operation samples: FMODE and COMPAT as at its word's start (R46). -/
def Env.modes (e : Env) (rm : Rm) : Modes := modesOf e.c.fm e.c.cm rm

/-- Samples the queue selectors of an operation at issue (R36), so before any write of its word (DEDUCED, log entry 63). -/
def Env.capture (e : Env) (i : Instr) : List QCap :=
  i.sels.filterMap fun
    | .reg _ => none
    | .queue h k =>
      let a := qhEntry (e.handle h) k.toNat
      some ⟨Sel.enc (.queue h k), a, BitVec.ofNat 64 (leNat (e.spadBytes a 8)), e.s.spadPoisoned (e.b.key a) 8,
        e.readable a 8, if !i.perLane then [] else (List.range e.t.width).map fun l =>
          if e.readable (a + l / 32 * 128) 128 then
            some (BitVec.ofNat 32 (leNat (e.spadBytes (a + 4 * l) 4)), e.s.spadPoisoned (e.b.key (a + 4 * l)) 4)
          else none⟩
    | .imm _ => none
    | .whole => none
    | .const _ => none

/-- The bytes the queue reads among some selectors take from the scratchpad: address and length (R36). -/
def Env.spansOf (e : Env) (i : Instr) (l : List Sel) : List (Nat × Nat) :=
  l.flatMap fun
    | .reg _ => []
    | .queue h k =>
      if i.perLane then (livePasses e.t i.maskOf).map fun p => (e.entry h k + 128 * p, 128)
      else [(e.entry h k, 8)]
    | .imm _ => []
    | .whole => []
    | .const _ => []

/-- The bytes an operation's queue reads take from the scratchpad (R36). -/
def Env.queueSpans (e : Env) (i : Instr) : List (Nat × Nat) := e.spansOf i i.valSels

/-- What a selector reads from a queue was sampled at issue. -/
def Env.sampled (e : Env) (i : Instr) (x : Sel) : Bool :=
  match x with
  | .reg _ => true
  | .queue h k =>
    if i.perLane then (livePasses e.t i.maskOf).all fun p => (e.sampledLane h k (32 * p)).isSome
    else e.c.qv.any fun q => q.sel == Sel.enc (.queue h k) && q.ready
  | .imm _ => true
  | .whole => true
  | .const _ => true

/-- The bytes an operation has still to read from a queue. -/
def Env.dueReads (e : Env) (i : Instr) : List (Nat × Nat) := i.valSels.flatMap fun x => if e.sampled i x then [] else e.spansOf i [x]

/-- An operation before the one numbered id in the word has bytes to read from a queue among n at a place (R184, R230). -/
def Env.readBefore (e : Env) (id : Nat) (p : Place) (n : Nat) : Bool :=
  (e.c.ops.takeWhile fun o => o.id != some id).any fun o =>
    o.st != .done && (e.dueReads o.op.ins).any fun x => Place.overlaps (.spad (e.b.key x.1)) p x.2 n

/-- The queue reads among some selectors of an operation were sampled at issue or may be made now. -/
def Env.selsReady (e : Env) (i : Instr) (l : List Sel) : Bool :=
  l.all fun
    | .reg _ => true
    | .queue h k =>
      if i.perLane then (livePasses e.t i.maskOf).all fun p =>
        (e.sampledLane h k (32 * p)).isSome || e.readable (e.entry h k + 128 * p) 128
      else (e.c.qv.any fun q => q.sel == Sel.enc (.queue h k) && q.ready) || e.readable (e.entry h k) 8
    | .imm _ => true
    | .whole => true
    | .const _ => true

/-- A queue read is a slot read: it blocks while its bytes are not ready (R36, R42, R43), or the team has an earlier access of them still
to make (R184). -/
def Env.queueReady (e : Env) (i : Instr) : Bool := e.selsReady i i.valSels

end Sys2Proof.Machine
end

