-- ==== Sys2Proof/Machine/Fetch.lean ====
section
/-!
DEFINITION. Fetching (R69 to R78, R422): parcels, decode-table windows, lookups, installs and refill requests.
-/
namespace Sys2Proof.Machine

/-! ## Soft errors (R419) -/

/-- SERR of a structure of a leaf, at platform offset 0x1000 + 8·(8·leaf + structure). -/
def serrOff (leaf structure_ : Nat) : Nat := 0x1000 + 8 * (8 * leaf + structure_)

/-- Counts an error of a structure and sets PEV.SERR when its threshold is crossed (R417, R419). -/
def State.countSoft (s : State) (leaf structure_ : Nat) (corrected : Bool) : State :=
  let off := serrOff leaf structure_
  let v := s.reg off
  let corr := v.toNat % 2 ^ 32
  let unc := v.toNat / 2 ^ 32 % 2 ^ 16
  let thr := v.toNat / 2 ^ 48
  let corr' := if corrected then min (corr + 1) (2 ^ 32 - 1) else corr
  let unc' := if corrected then unc else min (unc + 1) (2 ^ 16 - 1)
  let hit := thr != 0 && (decide (corr < thr * 1024 ∧ thr * 1024 ≤ corr') || (unc == 0 && unc' != 0))
  let s := s.setReg off (BitVec.ofNat 64 (corr' + 2 ^ 32 * unc' + 2 ^ 48 * thr))
  if hit then s.platformEvent 3 else s

/-! ## Windows (R50, R72, R73, R422) -/

/-- The window a team's words use: first entry, number of sets, dictionary base, entries of the dictionary, and whether it is
the system window. -/
structure Win where
  base : Nat
  sets : Nat
  dict : Word
  len : Nat
  sys : Bool
  deriving DecidableEq, Repr, Inhabited

/-- DWIN.BASE. -/
def dwinBase (v : Word) : Nat := (v.extractLsb' 3 6).toNat * 8
/-- DWIN.SIZE. -/
def dwinSize (v : Word) : Nat := (v.extractLsb' 16 7).toNat
/-- DWIN.DLEN. -/
def dwinLen (v : Word) : Nat := (v.extractLsb' 32 15).toNat

/-- The user window of a DWIN and DBASE value. -/
def userWin (dwin dbase : Word) : Win := ⟨dwinBase dwin, 2 * dwinSize dwin, dbase, dwinLen dwin + 1, false⟩

/-- The system window of a partition (R72). -/
def Part.sysWin (p : Part) : Win := ⟨480, 8, p.sysBase, p.sysLen, true⟩

/-- The window of a team's next word: the system window in trap mode, else the user window in effect (R77). -/
def Team.win (t : Team) (p : Part) : Win := if t.tmode then p.sysWin else userWin t.dwinU t.dbaseU

/-- First entry of the set of a token index (R72). -/
def Win.set0 (w : Win) (idx : Nat) : Nat := w.base + 4 * (idx % w.sets)

/-- The tag of an entry agrees (R73, R422). -/
def DEntry.tagged (e : DEntry) (w : Win) (asid : BitVec 16) (idx : Nat) : Bool :=
  e.token == idx && e.base == w.dict && e.sys == w.sys && (w.sys || e.asid == asid)

/-- The entry that holds a token of a window, if one is installed. -/
def Part.find (p : Part) (w : Win) (asid : BitVec 16) (idx : Nat) : Option Nat :=
  if w.sets = 0 then none
  else ((List.range 4).map fun i => w.set0 idx + i).find? fun e => match p.table.get? e with
    | some x => x.tagged w asid idx
    | none => false

/-- Makes an entry the most recent of its set (R73). -/
def Part.touch (p : Part) (set0 e : Nat) : Part :=
  { p with lru := p.lru.put set0 (((p.lru.getD set0 []).filter fun x => x != e) ++ [e]) }

/-- Installs an entry: in place of the same tag, else in the lowest invalid way, else in the least recent (R73). -/
def Part.install (p : Part) (w : Win) (x : DEntry) : Part :=
  if w.sets = 0 then p
  else
    let s0 := w.set0 x.token
    let ways := (List.range 4).map fun i => s0 + i
    let e := match p.find w x.asid x.token with
      | some e => e
      | none =>
        match ways.find? fun e => (p.table.get? e).isNone with
        | some e => e
        | none => (((p.lru.getD s0 []).filter fun e => ways.contains e).head?).getD s0
    { p with table := p.table.put e x }.touch s0 e

/-- Invalidates the entries from base to base + n − 1 (R77, R146, R305). -/
def Part.invalidate (p : Part) (base n : Nat) : Part :=
  { p with table := p.table.filter fun e => decide (e.1 < base) || decide (base + n ≤ e.1) }

/-! ## Parcels (R69, R71, R422) -/

/-- The SUB of FETCH_FAULT and DICT_FETCH (R320). -/
def XErr.sub : XErr → Nat
  | .notPresent => 1
  | .protection _ => 2
  | .poison => 3

/-- Reads n bytes for a fetch: in the system space without translation, else by a fetch translation (R71, R245, R422). DESIGN
CHOICE: a system address outside the HBM range is DETAIL.SUB 2, protection (log entry 57). -/
def State.fetchBytes (s : State) (core : Nat) (sys : Bool) (asid : BitVec 16) (root va n : Nat) :
    Except XErr (State × List Byte) :=
  if sys then
    if !(isHbm va && isHbm (va + n - 1)) then .error (.protection 6)
    else if s.memPoisoned va n then .error .poison
    else .ok (s.l2Range core va n .ap false, s.readView core va n)
  else
    match s.translate core asid root va .fetch with
    | .error e => .error e
    | .ok (w, pa) =>
      if s.memPoisoned pa n then .error .poison
      else
        let s := (s.useXlat core w).refetch core pa n w.e.attr
        .ok (s.l2Range core pa n w.e.attr false, s.readView core pa n)

/-- A running commit of the address-range table holds a fetch (R268). -/
def State.fetchHeld (s : State) (core : Nat) (sys : Bool) (asid : BitVec 16) (root va : Nat) : Bool :=
  if sys then s.artHolds va
  else match s.translate core asid root va .fetch with
    | .ok (_, pa) => s.artHolds pa
    | .error _ => false

/-- A parcel of a team's stream. -/
def State.parcel (s : State) (z : Nat) (t : Team) (va : Nat) : Except XErr (State × BitVec 16) :=
  match s.fetchBytes (coreOf z) t.tmode t.asid t.root va 2 with
  | .error e => .error e
  | .ok (s', l) => .ok (s', leWord 16 l)

/-- DETAIL of a fetch cause (R320). -/
def fetchDetail (step token check pos sub : Nat) (sys : Bool) : BitVec 32 :=
  BitVec.ofNat 32 (step + 2 ^ 3 * token + 2 ^ 18 * check + 2 ^ 21 * pos + 2 ^ 24 * sub + (if sys then 2 ^ 28 else 0))

/-- A fetch fault; TF.SLOT is 3 unless a slot's own lookup met it (R130). -/
def fetchFlt (cause : Nat) (d : BitVec 32) (addr : Nat) : Flt := ⟨cause, d, BitVec.ofNat 64 addr, 3, 0, 0⟩

/-- How the lookup of a token parcel ends (R71 steps 1 to 4): a fault, a resident word, or a miss on an index. -/
inductive Look where
  | fault (f : Flt)
  | word (idx : Nat) (w : Word3)
  | miss (idx : Nat)
  deriving DecidableEq, Repr

/-- Steps 1 to 4 at a parcel address. An entry whose parity fails is dropped, counted and missed (R75). DESIGN CHOICE: TF.ADDR of
ILLEGAL_TOKEN is the parcel's address, and DETAIL.TOKEN of an immediate parcel where a token must stand is its payload (log entry 57). -/
def State.lookParcel (s : State) (z : Nat) (t : Team) (va : Nat) : State × Look :=
  match s.parcel z t va with
  | .error e => (s, .fault (fetchFlt 0x04 (fetchDetail 1 0 0 0 e.sub t.tmode) va))
  | .ok (s, p) =>
    let idx := (payload p).toNat
    if isImm p then (s, .fault (fetchFlt 0x01 (fetchDetail 2 idx 0 0 0 t.tmode) va))
    else
      match s.parts.get? (partOf z) with
      | none => (s, .miss idx)
      | some q =>
        let w := t.win q
        if w.len ≤ idx then (s, .fault (fetchFlt 0x01 (fetchDetail 3 idx 0 0 0 t.tmode) va))
        else
          match q.find w t.asid idx with
          | none => (s, .miss idx)
          | some e =>
            match q.table.get? e with
            | none => (s, .miss idx)
            | some x =>
              if x.bad then
                (({ s with parts := s.parts.put (partOf z) { q with table := q.table.del e } }).countSoft (leafOf z) 6 true,
                  .miss idx)
              else
                match decodeWord x.bits with
                | .ok w3 => ({ s with parts := s.parts.put (partOf z) (q.touch (w.set0 idx) e) }, .word idx w3)
                | .error _ => (s, .miss idx)

/-- Step 5: the immediate parcels, in stream order. -/
def State.immParcels (s : State) (z : Nat) (t : Team) (idx : Nat) : Nat → Nat → Except Flt (State × List (BitVec 15))
  | 0, _ => .ok (s, [])
  | n + 1, va =>
    match s.parcel z t va with
    | .error e => .error (fetchFlt 0x04 (fetchDetail 5 idx 0 0 e.sub t.tmode) va)
    | .ok (s', p) =>
      if !isImm p then .error (fetchFlt 0x01 (fetchDetail 5 idx 0 0 0 t.tmode) va)
      else
        match State.immParcels s' z t idx n (va + 2) with
        | .error f => .error f
        | .ok (s'', l) => .ok (s'', payload p :: l)

/-- Asks the refill engine for a missed entry: a fetch under the same tag is shared (R74). -/
def State.requestRefill (s : State) (z : Nat) (t : Team) (idx : Nat) : State :=
  s.updPart (partOf z) fun p =>
    let w := t.win p
    let same (r : Refill) : Bool := r.token == idx && r.base == w.dict && r.sys == w.sys && (w.sys || r.asid == t.asid)
    if p.refills.any same then
      { p with refills := p.refills.map fun r =>
          if same r && !r.teams.contains z then { r with teams := r.teams ++ [z] } else r }
    else
      let busy := (p.refills.filter Refill.started).length
      { p with refills := p.refills ++ [⟨idx, w.dict, t.asid, w.sys, t.root, w.base, w.sets, decide (busy < 4), [z], none⟩] }

/-- A parcel address plus a count of parcels, in the 57-bit space. -/
def parcelAdd (pc : Word) (n : Nat) : Word := (pc + BitVec.ofNat 64 (2 * n)) &&& 0x01FFFFFFFFFFFFFF#64

end Sys2Proof.Machine
end

