-- ==== Sys2Proof/Machine/Checks.lean ====
section
/-!
DEFINITION. The checks a word's operations meet at issue (R17, R25, R31, R36, R124, R153, R181, R213), before any of them
commits, with the cause and detail of each (R54, R320).
-/
namespace Sys2Proof

/-- The MU operations whose address base is a AB (R90, R179). -/
def Instr.baseReg : Instr → Option (BitVec 5)
  | .muLds _ _ _ ab _ _ => some ab
  | .muSts _ ab _ _ _ => some ab
  | .muGths _ _ _ ab _ _ => some ab
  | .muScts _ ab _ _ _ => some ab
  | .muLdsa _ ab _ _ => some ab
  | .muStsa _ ab _ _ => some ab
  | .muLdr _ _ _ ab _ _ _ => some ab
  | .muStr _ ab _ _ _ => some ab
  | .muAtmr _ _ _ ab _ _ _ => some ab
  | .muLdg _ _ _ ab _ _ => some ab
  | .muStg _ ab _ _ _ => some ab
  | .muGthg _ _ _ ab _ _ => some ab
  | .muSctg _ ab _ _ _ => some ab
  | .muLdga _ ab _ _ => some ab
  | .muStga _ ab _ _ => some ab
  | .muPfg ab _ _ => some ab
  | .muAtms _ _ _ ab _ _ _ => some ab
  | .muAtmg _ _ _ ab _ _ _ => some ab
  | .muCprog _ ab _ _ => some ab
  | .muMsend ab _ _ _ => some ab
  | .muMpost ab _ _ _ => some ab
  | .muCpost ab _ _ => some ab
  | .muTget _ ab _ _ => some ab
  | .muAdda _ ab _ => some ab
  | _ => none

/-- Scalar registers an operation reads besides its selectors: a data register in MD, format descriptors (R187, R194,
R213). -/
def Instr.extraRegs : Instr → List (RFile × Nat)
  | .muStsa md _ _ _ => [(.a, md.toNat)]
  | .muStga md _ _ _ => [(.a, md.toNat)]
  | .muQbind _ md => [(.a, md.toNat)]
  | .xuMma _ fa fb _ _ _ _ => [(.f, fa.toNat), (.f, fb.toNat)]
  | .xuMmat _ fa fb _ _ _ _ => [(.f, fa.toNat), (.f, fb.toNat)]
  | .xuDist _ fa fb _ _ _ _ => [(.f, fa.toNat), (.f, fb.toNat)]
  | .xuAccst _ _ _ fa _ _ => [(.f, fa.toNat)]
  | .xuAccld _ fa _ _ => [(.f, fa.toNat)]
  | _ => []

/-- The accumulators an operation names, ACC first (R213). -/
def Instr.accs : Instr → List Nat
  | .xuMma acc _ _ _ _ _ _ => [acc.toNat]
  | .xuMmat acc _ _ _ _ _ _ => [acc.toNat]
  | .xuDist acc _ _ _ _ _ _ => [acc.toNat]
  | .xuTopk _ _ acc _ _ _ => [acc.toNat]
  | .xuAccst _ _ acc _ _ _ => [acc.toNat]
  | .xuAccld acc _ _ _ => [acc.toNat]
  | .xuAcczr acc _ => [acc.toNat]
  | .xuAccadd acc acb _ => [acc.toNat, acb.toNat]
  | .xuAccscl acc _ _ => [acc.toNat]
  | .xuAccmv acc acb _ => [acc.toNat, acb.toNat]
  | .xuAcctr acc acb _ => [acc.toNat, acb.toNat]
  | _ => []

/-- The vm register whose elements are the compare values of a .cas (R191). -/
def Instr.casReg : Instr → Option (BitVec 6)
  | .muAtmr _ .cas md _ _ _ _ => some md
  | .muAtms _ .cas md _ _ _ _ => some md
  | .muAtmg _ .cas md _ _ _ _ => some md
  | _ => none

/-- The lane of A that lane ℓ of an in-pass permute reads (R173). -/
def permLane (i : Instr) (l : Nat) (b : Lane) : Nat :=
  let p := l / 32 * 32
  match i with
  | .vbPerm _ _ _ _ => p + b.toNat % 32
  | .vbShfl _ _ _ _ => p + (l % 32 ^^^ b.toNat % 32)
  | .vbRot _ _ _ _ => p + (l % 32 + b.toNat) % 32
  | .vbBcl _ _ _ _ => p + b.toNat % 32
  | _ => l

/-- The source and index operands of an in-pass permute (R173). -/
def Instr.permSels : Instr → Option (Sel × Sel)
  | .vbPerm _ _ oa ob => some (oa, ob)
  | .vbShfl _ _ oa ob => some (oa, ob)
  | .vbRot _ _ oa ob => some (oa, ob)
  | .vbBcl _ _ oa ob => some (oa, ob)
  | _ => none

/-- A transfer of one lane, the lowest enabled one (R176). -/
def Instr.isFirst : Instr → Bool
  | .vaXfer _ .first _ _ _ => true
  | .vaXfer _ .first64 _ _ _ => true
  | .vbXfer _ .first _ _ _ => true
  | _ => false

end Sys2Proof

namespace Sys2Proof.Machine

/-! ## Causes (R54) -/

/-- LANDING_OVERFLOW. -/
def cLanding : Nat := 0x05
/-- REG_RANGE. -/
def cRegRange : Nat := 0x06
/-- MISALIGNED. -/
def cMisaligned : Nat := 0x07
/-- PAGE_NOT_PRESENT. -/
def cNotPresent : Nat := 0x08
/-- PROTECTION. -/
def cProtection : Nat := 0x09
/-- SPAD_RANGE. -/
def cSpadRange : Nat := 0x0A
/-- STREAM_WAIT_RANGE. -/
def cWaitRange : Nat := 0x0E
/-- QUEUE_HANDLE. -/
def cQueue : Nat := 0x0F
/-- COPY_PROGRAM. -/
def cCopyProgram : Nat := 0x11
/-- SOFTWARE_TRAP. -/
def cSoftware : Nat := 0x12
/-- LAZY_BIND. -/
def cLazyBind : Nat := 0x13
/-- DOMAIN. -/
def cDomain : Nat := 0x18
/-- PRIVILEGE. -/
def cPrivilege : Nat := 0x19
/-- UNCORRECTABLE. -/
def cUncorrectable : Nat := 0x1A

/-- A fault at the slot of an operation. -/
def Env.flt (e : Env) (cause detail : Nat) (addr : Word) : Flt := ⟨cause, BitVec.ofNat 32 detail, addr, e.slot, 0, 0⟩

/-- Why a word does not issue: a fault; or a hold until a zero-trip lookup, remote probes, or a counter or pool allow it. -/
inductive Stop where
  | fault (f : Flt)
  | zeroTrip (le : Word)
  | probe (l : List (Nat × AccKind))
  | wait
  deriving DecidableEq, Repr

/-- The first of two checks that stops. -/
def orStop (a b : Option Stop) : Option Stop :=
  match a with
  | some x => some x
  | none => b

/-! ## Registers, queue handles, landings and poison (R153, R181 item 1, R213 items 1 to 3) -/

/-- REG_RANGE of a per-lane register (R25): reason 2 for a pair that is odd or overruns, 1 at or above the budget. -/
def Env.laneReg (e : Env) (fl : RFile) (n : Nat) (pair : Bool) : Option Stop :=
  if !fl.perLane then none
  else if pair && (decide (n % 2 = 1) || decide (e.t.budget fl ≤ n + 1)) then
    some (.fault (e.flt cRegRange (2 + 16 * n) 0))
  else if e.t.budget fl ≤ n then some (.fault (e.flt cRegRange (1 + 16 * n) 0)) else none

/-- REG_RANGE of an operation: mask range, sources, destination, ballot range, accumulators (R17, R21, R25, R176). -/
def Env.regStop (e : Env) (i : Instr) : Option Stop :=
  let half := (e.t.passes + 1) / 2
  let own := i.ownFile
  let mask := match i.maskOf with
    | some m => if i.perLane && decide (63 < m.toNat + half - 1) then
        some (Stop.fault (e.flt cRegRange (3 + 16 * m.toNat) 0)) else none
    | none => none
  let srcs := i.sels.foldl (fun a x => orStop a (match x with
    | .reg n => e.laneReg own n.toNat (i.pairSels.contains x)
    | .queue _ _ => none
    | .imm _ => none
    | .whole => none
    | .const _ => none)) none
  let d := i.fields.d.toNat
  let dst := match i.result with
    | some (fl, _) => e.laneReg fl d i.pairDest
    | none => none
  let bal := if i.isBallot && decide (63 < d + half - 1) then some (Stop.fault (e.flt cRegRange (4 + 16 * d) 0)) else none
  let acc := match i.accs.find? fun a => decide (e.b.accs.length ≤ a) with
    | some a => some (Stop.fault (e.flt cRegRange (5 + 16 * a) 0))
    | none => none
  orStop mask (orStop srcs (orStop dst (orStop bal acc)))

/-- QUEUE_HANDLE of the queue reads (R36): unbound, k too large, and outside the address positions an entry smaller than 4W or a
64-bit read with ESZ 0. -/
def Env.queueStop (e : Env) (i : Instr) : Option Stop :=
  ((i.addrSels.map fun x => (x, true)) ++ i.valSels.map fun x => (x, false)).foldl (fun a x => orStop a (match x.1 with
    | .reg _ => none
    | .queue h k =>
      let q := e.handle h
      let bad (r : Nat) : Option Stop := some (.fault (e.flt cQueue (h.toNat + 8 * r) 0))
      if !qhValid q then bad 1
      else if 2 ^ qhNlog q ≤ k.toNat then bad 2
      else if x.2 then none
      else if i.perLane then (if 2 ^ (qhEsz q + 2) < 4 * e.t.width then bad 3 else none)
      else if qhEsz q = 0 then bad 4 else none
    | .imm _ => none
    | .whole => none
    | .const _ => none)) none

/-- The landing an operation makes: its file and team-cycle (R85, R86). -/
def Ctx.landAt (c : Ctx) (i : Instr) : Option (RFile × Nat) := i.lands.map fun x => (x.1, c.t + x.2)

/-- The key of an operation's landing, its place in program order (R230): a held repeat by its kind, then the positions. -/
def landKey (slot : Nat) (k : Kind) : Nat := if slot = 3 then k.enc.toNat else 8 + slot

/-- LANDING_OVERFLOW: earlier landings, replayed ones and those of the issues before it in the word fill both ports (R31). A
replayed landing of the operation itself is the same landing (R329). -/
def Env.landStop (e : Env) (o : OpSt) (before : List (RFile × Nat)) : Option Stop :=
  match e.c.landAt o.op.ins with
  | none => none
  | some (fl, u) =>
    let n := (e.t.land.filter fun l => l.file == fl && l.due == u && l.key != some (landKey (o.pos.getD 3) o.op.kind)).length
      + (before.filter fun x => x == (fl, u)).length
    if 2 ≤ n then some (.fault (e.flt cLanding (fileCode fl + 8 * (u - e.c.t)) 0)) else none

/-- The per-lane elements enabled lane ℓ reads (R152, R173, R321). -/
def Env.laneReads (e : Env) (i : Instr) (l : Nat) : List (RFile × Nat × Nat) :=
  let own := i.ownFile
  let regs := i.sels.flatMap fun x => match x with
    | .reg n => if i.pairSels.contains x then [(own, n.toNat, l), (own, n.toNat + 1, l)] else [(own, n.toNat, l)]
    | .queue _ _ => []
    | .imm _ => []
    | .whole => []
    | .const _ => []
  match i.permSels, i.casReg with
  | some (.reg n, ob), _ => (own, n.toNat, permLane i l (e.lane own ob l)) ::
    (match ob with
      | .reg m => [(own, m.toNat, l)]
      | _ => [])
  | _, some md => (RFile.vm, md.toNat, l) :: regs
  | _, none => regs

/-- UNCORRECTABLE of a poisoned register an operation reads: scalars, mask words, then the lanes of the first pass that has
one (R321). -/
def Env.poisonStop (e : Env) (i : Instr) : Option Stop :=
  let own := i.ownFile
  let half := (e.t.passes + 1) / 2
  let scalars : List (RFile × Nat) :=
    (if own.perLane then [] else i.sels.filterMap fun
      | .reg n => some (own, n.toNat)
      | .queue _ _ => none
      | .imm _ => none
      | .whole => none
      | .const _ => none)
    ++ (match i.baseReg with
      | some ab => [(RFile.a, ab.toNat)]
      | none => [])
    ++ i.extraRegs
    ++ (match i.maskOf with
      | some m => if i.perLane then (List.range half).map fun j => (RFile.s, m.toNat + j) else []
      | none => [])
  match scalars.find? fun x => e.t.elemP x.1 x.2 0 with
  | some x => some (.fault (e.flt cUncorrectable (1 + 16 * fileCode x.1) 0))
  | none =>
    if !i.perLane then none
    else
      let lanes := if i.isFirst then (lanesAll e.t i.maskOf).take 1 else lanesAll e.t i.maskOf
      let bad (l : Nat) : Bool := (e.laneReads i l).any fun x => e.t.elemP x.1 x.2.1 x.2.2
      match lanes.find? bad with
      | none => none
      | some l0 =>
        let p := l0 / 32
        let m := (lanes.filter fun l => l / 32 == p && bad l).foldl (fun (m : BitVec 32) l => m ||| (1#32 <<< (l % 32))) 0
        let fl := ((e.laneReads i l0).find? fun x => e.t.elemP x.1 x.2.1 x.2.2).map fun x => x.1
        some (.fault ⟨cUncorrectable, BitVec.ofNat 32 (1 + 16 * fileCode (fl.getD own)), 0, e.slot, p, m⟩)

/-! ## Addresses (R180 to R182, R354, R355) -/

/-- Spaces of an MU access. -/
inductive Space where
  | block | bench | global
  deriving DecidableEq, Repr, Inhabited

/-- ACC of DETAIL (R320). -/
def accCode : AccKind → Nat
  | .read => 0
  | .write => 1
  | .fetch => 0
  | .atomic => 2

/-- The team's fabric-set entry (R354): its register offset. -/
def State.fabEntry (s : State) (t : Team) : Option Nat :=
  match s.launches.get? t.launch with
  | none => none
  | some l => ((List.range 64).map fun i => fabBase + 0x2000 + 32 * i).find? fun off =>
      (s.reg off).getLsbD 0 && s.regBits off 16 16 == l.bits 0x28 0 16 && s.regBits off 32 16 == t.asid.toNat

/-- The fabric set of a team's launch (LR.SET). -/
def State.setOf (s : State) (t : Team) : BitVec 16 := BitVec.ofNat 16 (((s.launches.get? t.launch).map fun l => l.bits 0x28 0 16).getD 0)

/-- The node of a remote global address, or none for a local one (R354). -/
def State.remoteNode (s : State) (t : Team) (va : Nat) : Option Nat :=
  match s.fabEntry t with
  | none => none
  | some off =>
    let wlog := s.regBits (off + 8) 32 6
    let ndev := s.regBits off 48 16
    let base := s.regBits (off + 16) 0 57
    if base ≤ va ∧ va < base + ndev * 2 ^ wlog then
      let d := (va - base) / 2 ^ wlog
      if d = s.regBits (off + 8) 0 16 then none else some ((s.regBits (off + 8) 16 16 + d) % 2 ^ 16)
    else none

/-- What an address check answers. -/
inductive Addr where
  | bad (cause reason : Nat)
  | ask (va : Nat)
  | ok (p : Place) (w : Option WalkRes)
  deriving DecidableEq, Repr

/-- The checks of one access, in the order of R181. -/
def Env.place (e : Env) (sp : Space) (acc : AccKind) (size : Nat) (a : Word) : Addr :=
  let n := a.toNat
  if n % size ≠ 0 then .bad cMisaligned 0
  else
    match sp with
    | .block => if e.b.bytes < n + size then .bad cSpadRange 0 else .ok (.spad (e.b.key n)) none
    | .bench =>
      if 2 ^ 22 ≤ n then .bad cSpadRange 0
      else
        let core := coreOf e.z / 8 * 8 + n / 2 ^ 19
        let tile := n % 2 ^ 19 / 8192
        if e.s.blocks.any fun x => x.2.core == core && decide (x.2.tile0 ≤ tile) && decide (tile < x.2.tile0 + x.2.nt)
            && x.2.asid == e.t.asid && !x.2.settled then .ok (.spad (spadKey core (n % 2 ^ 19))) none
        else .bad cProtection 4
    | .global =>
      if 2 ^ 57 ≤ n then .bad cProtection 1
      else
        match e.s.remoteNode e.t n with
        | some node =>
          match e.t.probes.find? fun p => p.va == n / 256 && p.acc == acc with
          | none => .ask n
          | some p =>
            match p.answer with
            | none => .ask n
            | some none => .ok (.remote node n) none
            | some (some 0) => .bad cNotPresent 0
            | some (some r) => .bad cProtection r
        | none =>
          match e.s.translate (coreOf e.z) e.t.asid e.t.root n acc with
          | .ok (w, pa) => .ok (.mem pa w.e.attr w.e.nc) (some w)
          | .error .notPresent => .bad cNotPresent 0
          | .error (.protection r) => .bad cProtection r
          | .error .poison => .bad cUncorrectable 0

/-- The accesses of an operation: lane (0 for a scalar one) and address, with space, kind and size. -/
structure Accs where
  sp : Space
  acc : AccKind
  size : Nat
  l : List (Nat × Word)
  deriving DecidableEq, Repr

/-- The enabled lanes with their addresses. -/
def Env.laneAddrs (e : Env) (i : Instr) (f : Nat → Word) : List (Nat × Word) :=
  (lanesAll e.t i.maskOf).map fun l => (l, f l)

/-- mu.ldr's address A′: core bits replaced by A[21:19] ⊕ Src(OB, ℓ)[2:0] (R188). -/
def benchXor (a : Word) (b : Lane) : Word := a ^^^ ((b.setWidth 64 &&& 7) <<< 19)

/-- The accesses an operation makes at issue (R179, R187 to R190). -/
def Env.accesses (e : Env) (i : Instr) : Option Accs :=
  match i with
  | .muLds _ _ _ ab oa _ => some ⟨.block, .read, 4, e.laneAddrs i (e.laneAddr ab oa)⟩
  | .muSts _ ab oa _ _ => some ⟨.block, .write, 4, e.laneAddrs i (e.laneAddr ab oa)⟩
  | .muGths _ _ _ ab ob _ => some ⟨.block, .read, 4, e.laneAddrs i (e.indexAddr ab ob)⟩
  | .muScts _ ab _ ob _ => some ⟨.block, .write, 4, e.laneAddrs i (e.indexAddr ab ob)⟩
  | .muLdsa _ ab oa _ => some ⟨.block, .read, 8, [(0, e.scalarAddr ab oa)]⟩
  | .muStsa _ ab oa _ => some ⟨.block, .write, 8, [(0, e.scalarAddr ab oa)]⟩
  | .muLdr _ _ _ ab oa ob _ =>
    some ⟨.bench, .read, 4, e.laneAddrs i fun l => benchXor (e.laneAddr ab oa l) (e.lane .vm ob l)⟩
  | .muStr _ ab oa _ _ => some ⟨.bench, .write, 4, e.laneAddrs i (e.laneAddr ab oa)⟩
  | .muAtmr _ _ _ ab oa _ _ => some ⟨.bench, .atomic, 4, e.laneAddrs i (e.laneAddr ab oa)⟩
  | .muLdg _ _ _ ab oa _ => some ⟨.global, .read, 4, e.laneAddrs i (e.laneAddr ab oa)⟩
  | .muStg _ ab oa _ _ => some ⟨.global, .write, 4, e.laneAddrs i (e.laneAddr ab oa)⟩
  | .muGthg _ _ _ ab ob _ => some ⟨.global, .read, 4, e.laneAddrs i (e.indexAddr ab ob)⟩
  | .muSctg _ ab _ ob _ => some ⟨.global, .write, 4, e.laneAddrs i (e.indexAddr ab ob)⟩
  | .muLdga _ ab oa _ => some ⟨.global, .read, 8, [(0, e.scalarAddr ab oa)]⟩
  | .muStga _ ab oa _ => some ⟨.global, .write, 8, [(0, e.scalarAddr ab oa)]⟩
  | .muAtms _ _ _ ab oa _ _ => some ⟨.block, .atomic, 4, e.laneAddrs i (e.laneAddr ab oa)⟩
  | .muAtmg _ _ _ ab oa _ _ => some ⟨.global, .atomic, 4, e.laneAddrs i (e.laneAddr ab oa)⟩
  | _ => none

/-- The first failing lane's fault, with the lanes of its pass that meet the same cause (R181); else the probes still to be
answered (R355). -/
def Env.accStop (e : Env) (perLane : Bool) (x : Accs) : Option Stop :=
  let r := x.l.map fun y => (y.1, y.2, e.place x.sp x.acc x.size y.2)
  let bad := r.filterMap fun y => match y.2.2 with
    | .bad c n => some (y.1, y.2.1, c, n)
    | .ask _ => none
    | .ok _ _ => none
  let asks := (r.filterMap fun y => match y.2.2 with
    | .bad _ _ => none
    | .ask va => some (va / 256, x.acc)
    | .ok _ _ => none).eraseDups
  if !asks.isEmpty then some (.probe asks)
  else
    match bad with
    | (l0, a0, c, n) :: _ =>
      let p := l0 / 32
      let m := (bad.filter fun y => y.1 / 32 == p && y.2.2.1 == c).foldl (fun (m : BitVec 32) y => m ||| (1#32 <<< (y.1 % 32))) 0
      some (.fault ⟨c, if c = cUncorrectable then 0 else BitVec.ofNat 32 (accCode x.acc + 16 * n), a0, e.slot, p,
        if perLane then m else 0⟩)
    | [] => none

/-- The places of an operation's accesses, and the translations they use. -/
def Env.accPlaces (e : Env) (x : Accs) : List (Nat × Place) × List WalkRes :=
  x.l.foldr (fun y a => match e.place x.sp x.acc x.size y.2 with
    | .ok p w => ((y.1, p) :: a.1, w.toList ++ a.2)
    | .bad _ _ => a
    | .ask _ => a) ([], [])

/-! ## Stream exhaustion and the miss-status pool (R39, R185, R264) -/

/-- The 64-byte sectors of an operation's global, bench and remote accesses, each once: its key, and its physical address when a
load may find it in L1 (R185, R261). -/
def sectorsOf (l : List (Nat × Place)) : List (Nat × Option Nat) :=
  (l.filterMap fun x => match x.2 with
    | .mem pa _ nc => some (pa / 64, if nc || !isHbm pa then none else some (pa / 64 * 64))
    | .spad k => some (k / 64 + 2 ^ 61, none)
    | .remote _ va => some (va / 64 + 2 ^ 60, none)).eraseDups

/-- A sector is served from L1. -/
def State.inL1 (s : State) (core : Nat) (x : Nat × Option Nat) : Bool :=
  match x.2 with
  | some pa => s.l1Hit core pa
  | none => false

/-- Miss-status entries an operation needs (R264): a load takes none for a sector valid in L1; every other access misses. -/
def State.missSectors (s : State) (core : Nat) (acc : AccKind) (l : List (Nat × Place)) : Nat :=
  let l := sectorsOf l
  if acc == .read then (l.filter fun x => !s.inL1 core x).length else l.length

/-- Counts the L1 sector hits and misses of a load (R391). -/
def State.countL1 (s : State) (core : Nat) (l : List (Nat × Place)) : State :=
  let l := (sectorsOf l).filter fun x => x.2.isSome
  let h := (l.filter (s.inL1 core)).length
  (s.count core 0x0B 0 false h).count core 0x0C 0 false (l.length - h)

/-! ## The causes of single operations -/

/-- PRIVILEGE of a trap-mode operation in user mode (R19, R142, R144, R146). -/
def Env.privStop (e : Env) (i : Instr) : Option Stop :=
  let priv (csr : Nat) : Option Stop :=
    some (.fault (e.flt cPrivilege (i.fields.op.toNat + 2 ^ 8 * (i.kind.map fun k => k.enc.toNat).getD 0 + 2 ^ 11 * csr) 0))
  if e.t.tmode then none
  else
    match i with
    | .suEret => priv 0
    | .suDinv => priv 0
    | .suCsrw csr _ => if [1, 3, 4, 8, 9, 10].contains csr.toNat then priv csr.toNat else none
    | _ => none

/-- I′ of R135: I[n] after the issues of the word's own operations. -/
def Env.iPrime (e : Env) (n : Nat) : BitVec 16 :=
  e.t.ic.get n + BitVec.ofNat 16 ((e.c.ops.filter fun o => o.st != .done && (o.op.ins.stream.map fun x => x.str.toNat) == some n
    && (o.id.isNone || e.t.ops.any fun m => some m.id == o.id && !m.issued)).length)

/-- Whether a su.swait on c is satisfied: (D − c) mod 2^16 below 32,768 (R135). -/
def waitDone (d c : BitVec 16) : Bool := decide ((d - c).toNat < 32768)

/-- STREAM_WAIT_RANGE (R135). -/
def Env.swaitStop (e : Env) (n : Nat) (c : BitVec 16) : Option Stop :=
  let d := e.t.dc.get n
  let o := (e.iPrime n - d).toNat
  let delta := (c - d).toNat
  if o < delta ∧ delta ≤ 32768 then some (.fault (e.flt cWaitRange (n + 2 ^ 16 * delta) 0)) else none

/-- REG_RANGE of a control-register access (R46, R48, R50): reason 6 number, 7 COMPAT value, 8 DWIN value. -/
def Env.csrStop (e : Env) (csr : BitVec 12) (write : Option Word) : Option Stop :=
  let bad (r : Nat) : Option Stop := some (.fault (e.flt cRegRange (r + 16 * csr.toNat) 0))
  if 0x00C ≤ csr.toNat then bad 6
  else
    match write with
    | none => none
    | some v =>
      if csr = 1 then (if 2 ≤ (v.extractLsb' 0 2).toNat then bad 7 else none)
      else if csr = 3 then
        (if dwinSize v = 0 ∨ 480 < dwinBase v + 8 * dwinSize v then bad 8 else none)
      else none

/-- LAZY_BIND (R129): bit 0 of the target is 1. -/
def Env.lazyStop (e : Env) (sa : Sel) : Option Stop :=
  let v := e.scalar .s sa
  if v.getLsbD 0 then
    some (.fault (e.flt cLazyBind (sa.enc.toNat + 2 ^ 8 * (v.extractLsb' 1 24).toNat) v))
  else none

/-- A tile number at or above N_T (R197). -/
def Env.tileStop (e : Env) (oa : Sel) : Option Stop :=
  if e.b.nt ≤ (e.scalar .a oa).toNat then some (.fault (e.flt cSpadRange 0 0)) else none

/-- A block scratchpad range: aligned to n, inside the allotment. -/
def Env.rangeStop (e : Env) (acc align len : Nat) (a : Word) : Option Stop :=
  if a.toNat % align ≠ 0 then some (.fault (e.flt cMisaligned acc a))
  else if e.b.bytes < a.toNat + len then some (.fault (e.flt cSpadRange acc a)) else none

/-- The count field of a length word (R205). -/
def lenCount (w : Word) : Nat := (w.extractLsb' 0 6).toNat

/-- mu.msend (R205, R346): the address, the length, then the destination. -/
def Env.msendStop (e : Env) (ab : BitVec 5) (oa ob : Sel) : Option Stop :=
  let a := e.base ab
  let d := e.scalar .a oa
  let w := e.scalar .a ob
  let n := lenCount w
  let prot : Option Stop := some (.fault (e.flt cProtection (5 + 16 * 8) a))
  if a.toNat % 8 ≠ 0 then some (.fault (e.flt cMisaligned 5 a))
  else if 32 < n then some (.fault (e.flt cSpadRange 5 a))
  else if n ≠ 0 ∧ e.b.bytes < a.toNat + 8 * n then some (.fault (e.flt cSpadRange 5 a))
  else
    let dev := (d.extractLsb' 48 16).toNat
    let blk := (d.extractLsb' 16 32).toNat
    let ndev := match e.s.fabEntry e.t with
      | some off => e.s.regBits off 48 16
      | none => 1
    let own := match e.s.fabEntry e.t with
      | some off => e.s.regBits (off + 8) 0 16
      | none => 0
    if ndev ≤ dev then prot
    else if w.getLsbD 16 then
      let g := fabBase + 0x1000 + 16 * blk
      if 256 ≤ blk then prot
      else if dev = own ∧ !((e.s.reg g).getLsbD 0 && e.s.regBits g 16 16 == e.t.asid.toNat) then prot
      else none
    else
      match e.s.launches.get? e.t.launch with
      | none => none
      | some l => if l.blocks ≤ blk then prot else none

/-- mu.mpost (R206): 16-byte aligned, within one chunk, a count of at most 32. -/
def Env.mpostStop (e : Env) (ab : BitVec 5) (ob : Sel) : Option Stop :=
  let a := e.base ab
  let n := lenCount (e.scalar .a ob)
  if a.toNat % 16 ≠ 0 then some (.fault (e.flt cMisaligned 5 a))
  else if 32 < n then some (.fault (e.flt cSpadRange 5 a))
  else if a.toNat / 512 ≠ (a.toNat + 16 + 8 * n - 1) / 512 then some (.fault (e.flt cMisaligned 5 a))
  else if e.b.bytes < a.toNat + 16 + 8 * n then some (.fault (e.flt cSpadRange 5 a)) else none

/-- mu.qbind (R34, R35, R194). -/
def Env.qbindStop (e : Env) (qh : BitVec 3) (md : BitVec 6) : Option Stop :=
  let v := e.t.a.get md.toNat
  let bad (r : Nat) : Option Stop := some (.fault (e.flt cQueue (qh.toNat + 8 * r) 0))
  if !qhValid v then none
  else if 12 ≤ qhEsz v ∨ 13 ≤ qhNlog v then bad 6
  else if qhBase v % 2 ^ (qhEsz v + 2) ≠ 0 ∨ e.b.bytes < qhBase v + 2 ^ (qhEsz v + 2 + qhNlog v) then bad 5
  else none

/-- mu.qwait and mu.qadv: unbound, or a wait count above the entries (R195, R196). -/
def Env.qopStop (e : Env) (qh : BitVec 3) (wait : Option Sel) : Option Stop :=
  let q := e.handle qh
  let bad (r : Nat) : Option Stop := some (.fault (e.flt cQueue (qh.toNat + 8 * r) 0))
  if !qhValid q then bad 1
  else
    match wait with
    | none => none
    | some oa => if 2 ^ qhNlog q < (e.scalar .a oa).toNat then bad 8 else none

end Sys2Proof.Machine
end

