-- ==== Sys2Proof/Machine/CopyProgram.lean ====
section
/-!
DEFINITION. Copy programs (R199 to R203): the record's fields, the loop nest, its footprints and its checks.
-/
namespace Sys2Proof.Machine

/-- A loop level of a copy program. -/
structure CpLevel where
  count : Nat
  sstr : Int
  dstr : Int
  orig : Int
  ext : Nat
  deriving DecidableEq, Repr, Inhabited

/-- A copy program with its effective bases: levels 0 to NLEV − 1, innermost first. -/
structure CpProg where
  src : Nat
  dst : Nat
  srcGlobal : Bool
  dstGlobal : Bool
  elog : Nat
  edge : Nat
  lev : List CpLevel
  deriving DecidableEq, Repr, Inhabited

/-- Bits lo+n−1..lo of a copy record. -/
def cpBits (b : BitVec 1024) (lo n : Nat) : Nat := (b >>> lo).toNat % 2 ^ n

/-- An n-bit field read as signed. -/
def cpInt (b : BitVec 1024) (lo n : Nat) : Int := (BitVec.ofNat n (cpBits b lo n)).toInt

/-- Level k of a record. -/
def cpLevel (b : BitVec 1024) (k : Nat) : CpLevel :=
  let o := 8 * (0x18 + 16 * k)
  ⟨cpBits b o 32, cpInt b (o + 32) 32, cpInt b (o + 64) 32, cpInt b (o + 96) 16, cpBits b (o + 112) 16⟩

/-- CP.NLEV. -/
def cpNlev (b : BitVec 1024) : Nat := cpBits b (0x80 + 10) 3
/-- CP.ELOG. -/
def cpElog (b : BitVec 1024) : Nat := cpBits b (0x80 + 4) 3

/-- The program of a record with operands A and B. -/
def cpProg (b : BitVec 1024) (oa ob : Word) : CpProg :=
  ⟨(BitVec.ofNat 64 (cpBits b 0 64) + oa).toNat, (BitVec.ofNat 64 (cpBits b 64 64) + ob).toNat,
    cpBits b 0x80 2 == 1, cpBits b (0x80 + 2) 2 == 1, cpElog b, cpBits b (0x80 + 8) 2,
    (List.range (cpNlev b)).map (cpLevel b)⟩

/-- The coordinate a level reads for index i, or none where zero is written (R200). -/
def CpLevel.coord (l : CpLevel) (edge : Nat) (i : Nat) : Option Int :=
  let c := l.orig + i
  if l.ext = 0 ∨ (0 ≤ c ∧ c < l.ext) then some c
  else if edge = 3 then none
  else if edge = 2 then
    let p : Int := 2 * l.ext
    let c := c % p
    some (if (l.ext : Int) ≤ c then p - 1 - c else c)
  else if l.ext = 1 then some 0
  else
    let p : Int := 2 * ((l.ext : Int) - 1)
    let c := c % p
    some (if (l.ext : Int) ≤ c then p - c else c)

/-- Elements of the nest. -/
def CpProg.total (p : CpProg) : Nat := p.lev.foldl (fun n l => n * l.count) 1

/-- Indices of element e in nest order, level 0 innermost. -/
def CpProg.index (p : CpProg) (e : Nat) : List Nat :=
  (p.lev.foldl (fun (a : Nat × List Nat) l => (a.1 / l.count, a.2 ++ [a.1 % l.count])) (e, [])).2

/-- Element of a list of indices. -/
def CpProg.ofIndex (p : CpProg) (ix : List Nat) : Nat :=
  ((p.lev.zip ix).foldr (fun x n => x.2 + x.1.count * n) 0)

/-- Destination of element e (R200). -/
def CpProg.dstOf (p : CpProg) (e : Nat) : Int :=
  ((p.lev.zip (p.index e)).foldl (fun (a : Int) x => a + x.2 * x.1.dstr) 0) + p.dst

/-- Source of element e, or none for zero fill. -/
def CpProg.srcOf (p : CpProg) (e : Nat) : Option Int :=
  (p.lev.zip (p.index e)).foldl (fun (a : Option Int) x => match a, x.1.coord p.edge x.2 with
    | some v, some c => some (v + c * x.1.sstr)
    | _, _ => none) (some (p.src : Int))

/-- Bytes of an element. -/
def CpProg.esize (p : CpProg) : Nat := 2 ^ p.elog

/-- The coordinates a level reads, up to repetition. -/
def CpLevel.coords (l : CpLevel) (edge : Nat) : List Int :=
  if l.ext = 0 then [l.orig, l.orig + l.count - 1]
  else (List.range (min l.count (l.ext + 2 * l.ext + 65536))).filterMap fun i => l.coord edge i

/-- The least and greatest of a level's contributions, if it reads anything. -/
def levelSpan (l : List Int) : Option (Int × Int) :=
  match l with
  | [] => none
  | x :: r => some (r.foldl (fun a y => (min a.1 y, max a.2 y)) (x, x))

/-- The lowest destination byte, and the highest. -/
def CpProg.dstSpan (p : CpProg) : Int × Int :=
  let a := p.lev.foldl (fun (a : Int × Int) l =>
    let e := ((l.count : Int) - 1) * l.dstr
    (a.1 + min 0 e, a.2 + max 0 e)) ((p.dst : Int), (p.dst : Int))
  (a.1, a.2 + p.esize - 1)

/-- The lowest and highest source byte read, if any is. -/
def CpProg.srcSpan (p : CpProg) : Option (Int × Int) :=
  (p.lev.foldl (fun (a : Option (Int × Int)) l =>
    match a, levelSpan ((l.coords p.edge).map fun c => c * l.sstr) with
    | some x, some y => some (x.1 + y.1, x.2 + y.2)
    | _, _ => none) (some ((p.src : Int), (p.src : Int)))).map fun x => (x.1, x.2 + p.esize - 1)

/-- The virtual address of a global element: its computed address modulo 2⁶⁴ (R179, R200). -/
def gaddr (a : Int) : Nat := (BitVec.ofInt 64 a).toNat

/-- Destination unit of a byte: a 512-byte chunk of the block, or a 256-byte line (R203). -/
def CpProg.unit (p : CpProg) (a : Int) : Nat := if p.dstGlobal then gaddr a / 256 else (a / 512).toNat

/-- The units that some element is written in. -/
def CpProg.units (p : CpProg) : List Nat := ((List.range p.total).map fun e => p.unit (p.dstOf e)).eraseDups

/-- The footprint's units: those overlapping the span (R201). -/
def CpProg.footprint (p : CpProg) : List Nat :=
  let s := p.dstSpan
  (List.range (p.unit s.2 + 1 - p.unit s.1)).map fun i => p.unit s.1 + i

/-- Block tiles of the footprint of a scratchpad destination. -/
def CpProg.dstTiles (p : CpProg) : List Nat :=
  if p.dstGlobal then [] else (p.footprint.map fun u => u / 16).eraseDups

/-- Some element of the nest reads a byte for which q holds. -/
def CpProg.readsAny (p : CpProg) (q : Int → Bool) : Bool :=
  (List.range p.total).any fun e => match p.srcOf e with
    | some a => q a
    | none => false

/-- Block tiles the nest reads in a scratchpad source. -/
def CpProg.srcTiles (p : CpProg) : List Nat :=
  if p.srcGlobal then []
  else
    match p.srcSpan with
    | none => []
    | some s => ((List.range ((s.2 / 8192 - s.1 / 8192).toNat + 1)).map fun i => (s.1 / 8192).toNat + i).filter fun t =>
        p.readsAny fun a => a / 8192 == (t : Int)

/-- The checks of R201 on a record: the lowest-numbered that fails, with the lowest level involved (R320). -/
def cpCheck (b : BitVec 1024) (oa ob : Word) (bytes : Nat) : Option (Nat × Nat) :=
  let nlev := cpNlev b
  let p := cpProg b oa ob
  let lev := (List.range nlev).map fun k => (k, cpLevel b k)
  let first (l : List (Nat × CpLevel)) (q : CpLevel → Bool) : Option Nat := (l.find? fun x => q x.2).map (·.1)
  if 1 < cpBits b 0x80 2 ∨ 1 < cpBits b (0x80 + 2) 2 ∨ 4 < cpElog b ∨ nlev = 0 ∨ 6 < nlev then some (1, 0)
  else
    match first lev fun l => l.count == 0 || decide (2 ^ 24 < l.count) with
    | some k => some (1, k)
    | none =>
      if cpBits b (0x80 + 7) 1 ≠ 0 ∨ cpBits b (0x80 + 13) 51 ≠ 0 ∨ cpBits b (8 * 0x78) 64 ≠ 0 then some (2, 0)
      else
        let es : Int := p.esize
        if p.src % p.esize ≠ 0 ∨ p.dst % p.esize ≠ 0 then some (3, 0)
        else
          match first lev fun l => l.sstr % es != 0 || l.dstr % es != 0 with
          | some k => some (3, k)
          | none =>
            match (if p.edge = 0 then first lev fun l =>
                l.ext != 0 && (decide (l.orig < 0) || decide ((l.ext : Int) < l.orig + l.count)) else none) with
            | some k => some (4, k)
            | none =>
              let out (s : Int × Int) : Bool := decide (s.1 < 0) || decide ((bytes : Int) ≤ s.2)
              let badD := !p.dstGlobal && out p.dstSpan
              let badS := !p.srcGlobal && match p.srcSpan with
                | some s => out s
                | none => false
              if badD || badS then some (5, 0) else none

/-- COPY_PROGRAM at a mu.copy's slot (R201). -/
def Env.copyStop (e : Env) (cp : BitVec 4) (oa ob : Sel) : Option Stop :=
  match cpCheck e.c.cpv (e.scalar .a oa) (e.scalar .a ob) e.b.bytes with
  | none => none
  | some (c, k) => some (.fault (e.flt cCopyProgram (cp.toNat + 16 * c + 256 * k) 0))

end Sys2Proof.Machine
end

