-- ==== Sys2Proof/Machine/MatrixFormat.lean ====
section
/-!
DEFINITION. Format descriptors, operand layouts and the issue checks of the matrix commands (R119, R213, R219 to R228).
-/
namespace Sys2Proof.Machine

/-- MATRIX_FORMAT. -/
def cMatrixFormat : Nat := 0x0B
/-- MATRIX_BANK. -/
def cMatrixBank : Nat := 0x0C

/-- Formats a descriptor may name (R101). -/
inductive MFmt where
  | fp32 | fp16 | bf16 | int8 | uint8 | int32 | uint32 | int64 | ts2 | ts4 | ts7
  deriving DecidableEq, Repr, Inhabited

/-- Code of R101. -/
def MFmt.dec (n : Nat) : Option MFmt :=
  match n with
  | 1 => some .fp32 | 2 => some .fp16 | 3 => some .bf16 | 4 => some .int8 | 5 => some .uint8 | 6 => some .int32
  | 7 => some .uint32 | 8 => some .int64 | 9 => some .ts2 | 10 => some .ts4 | 11 => some .ts7 | _ => none

/-- Mantissa width of a TS format (R102). -/
def MFmt.tsM : MFmt → Option Nat
  | .ts2 => some 2
  | .ts4 => some 4
  | .ts7 => some 7
  | .fp32 => none
  | .fp16 => none
  | .bf16 => none
  | .int8 => none
  | .uint8 => none
  | .int32 => none
  | .uint32 => none
  | .int64 => none

/-- Bytes of a plain element; of a TS block's payload (R104, R221). -/
def MFmt.bytes : MFmt → Nat
  | .fp32 => 4
  | .int32 => 4
  | .uint32 => 4
  | .fp16 => 2
  | .bf16 => 2
  | .int8 => 1
  | .uint8 => 1
  | .int64 => 8
  | .ts2 => 6
  | .ts4 => 10
  | .ts7 => 16

/-- Alignment unit of payload addresses and strides (R219). -/
def MFmt.align (f : MFmt) : Nat :=
  match f with
  | .fp32 => 4
  | .int32 => 4
  | .uint32 => 4
  | .int64 => 8
  | .int8 => 1
  | .uint8 => 1
  | .fp16 => 2
  | .bf16 => 2
  | .ts2 => 2
  | .ts4 => 2
  | .ts7 => 2

/-- An integer operand format (R117). -/
def MFmt.isInt8 (f : MFmt) : Bool := f == .int8 || f == .uint8

/-- A descriptor's fields (R219). -/
structure Desc where
  fmt : MFmt
  rstr : Nat
  scl : Nat
  sstr : Nat
  deriving DecidableEq, Repr, Inhabited

/-- F.FMT and F.BLEN make a valid descriptor (R219). -/
def descOf (f : BitVec 128) : Option Desc :=
  match MFmt.dec (f.extractLsb' 0 4).toNat with
  | none => none
  | some m =>
    if (f.extractLsb' 4 5).toNat = (if m.tsM.isSome then 16 else 1) then
      some ⟨m, (f.extractLsb' 16 16).toNat, (f.extractLsb' 32 19).toNat, (f.extractLsb' 64 16).toNat⟩
    else none

/-- The value xu.fmt lands: reserved bits written 0 (R219, R220). -/
def descMask : BitVec 128 := 0xFFFF0007FFFFFFFF01FF#128

/-- Pairs of formats with a rate (R119); dist for xu.dist. -/
def rated (dist : Bool) (a b : MFmt) : Bool :=
  if a.isInt8 && b.isInt8 then true
  else if a.tsM.isSome && b.tsM.isSome then (if dist then a == .ts7 && b == .ts7 else true)
  else a == b && (a == .bf16 || a == .fp16 || a == .fp32)

/-- Byte ranges an operand's payload and scale records take: A and B of xu.mma and xu.dist, and A of every form, run along K by
row; B of xu.mmat runs by K (R221). -/
def operandSpans (d : Desc) (base k : Nat) (trans : Bool) : List (Nat × Nat) :=
  match d.fmt.tsM with
  | none =>
    if trans then (List.range k).map fun r => (base + r * d.rstr, 64 * d.fmt.bytes)
    else (List.range 64).map fun r => (base + r * d.rstr, k * d.fmt.bytes)
  | some _ =>
    let g := k / 16
    if trans then
      (List.range g).map (fun r => (base + r * d.rstr, 64 * d.fmt.bytes))
        ++ (List.range g).map fun r => (d.scl + r * d.sstr, 128)
    else
      (List.range 64).map (fun r => (base + r * d.rstr, g * d.fmt.bytes))
        ++ (List.range 64).map fun r => (d.scl + r * d.sstr, 2 * g)

/-- Block tiles of ranges. -/
def spanTiles (l : List (Nat × Nat)) : List Nat := (l.flatMap fun x => tilesOf x.1 x.2).eraseDups

/-- Bank groups of ranges of a block (R222). -/
def Block.groups (b : Block) (l : List (Nat × Nat)) : List Nat :=
  ((spanTiles l).map fun t => (b.tile0 + t) / 16).eraseDups

/-- Row bytes of an accumulator in memory (R224). -/
def accRowBytes (f : MFmt) : Nat :=
  match f.tsM with
  | some _ => 4 * f.bytes
  | none => 64 * f.bytes

/-- Ranges of an accumulator's image at T (R224). -/
def accSpans (d : Desc) (t : Nat) : List (Nat × Nat) :=
  (List.range 64).map (fun r => (t + r * d.rstr, accRowBytes d.fmt))
    ++ (if d.fmt.tsM.isSome then (List.range 64).map fun r => (d.scl + r * d.sstr, 8) else [])

/-- Some byte of the ranges lies outside the allotment. -/
def spansOut (bytes : Nat) (l : List (Nat × Nat)) : Option Nat :=
  (l.find? fun x => decide (bytes < x.1 + x.2)).map fun x => x.1

/-- A payload address, row stride and, for TS, scale address and stride not multiples of their units (R219). -/
def misfit (d : Desc) (base : Nat) : Option Nat :=
  if base % d.fmt.align ≠ 0 ∨ d.rstr % d.fmt.align ≠ 0 then some base
  else if d.fmt.tsM.isSome ∧ (d.scl % 2 ≠ 0 ∨ d.sstr % 2 ≠ 0) then some d.scl
  else none

/-- The operands an XU slot captures at issue (R213). -/
def Env.xuArgs (e : Env) (i : Instr) : MArgs :=
  let f (n : BitVec 3) : BitVec 128 := e.t.f.get n.toNat
  let z : MArgs := ⟨0, 0, 0, 0, 0, e.c.fm, e.c.cm, i.valSels.any e.scalarP⟩
  let v (x : Sel) : Word := e.scalar .f x
  let a (x : Sel) : Word := e.addrVal .f x
  match i with
  | .xuMma _ fa fb oa ob oc _ => { z with oa := a oa, ob := a ob, oc := v oc, fa := f fa, fb := f fb }
  | .xuMmat _ fa fb oa ob oc _ => { z with oa := a oa, ob := a ob, oc := v oc, fa := f fa, fb := f fb }
  | .xuDist _ fa fb oa ob oc _ => { z with oa := a oa, ob := a ob, oc := v oc, fa := f fa, fb := f fb }
  | .xuTopk _ _ _ oa ob _ => { z with oa := a oa, ob := v ob }
  | .xuAccst _ _ _ fa oa _ => { z with oa := a oa, fa := f fa }
  | .xuAccld _ fa oa _ => { z with oa := a oa, fa := f fa }
  | .xuAccscl _ oc _ => { z with oc := v oc }
  | .xuFmt _ oa _ => { z with oa := a oa }
  | _ => z

/-- MATRIX_FORMAT with a reason (R320). -/
def Env.mfStop (e : Env) (reason : Nat) : Option Stop := some (.fault (e.flt cMatrixFormat reason 0))

/-- MISALIGNED and SPAD_RANGE of a matrix operand, ACC 6 (R320). -/
def Env.mStop (e : Env) (cause addr : Nat) : Option Stop := some (.fault (e.flt cause 6 (BitVec.ofNat 64 addr)))

/-- Checks 4 to 7 of R213 for xu.mma, xu.mmat and xu.dist (R219, R221 to R223). -/
def Env.mmaStop (e : Env) (dist trans : Bool) (m : MArgs) : Option Stop :=
  match descOf m.fa, descOf m.fb with
  | none, _ => e.mfStop 1
  | some _, none => e.mfStop 2
  | some da, some db =>
    let k := m.oc.toInt
    if !rated dist da.fmt db.fmt then e.mfStop 3
    else if k < 16 ∨ 4096 < k ∨ k % 16 ≠ 0 then e.mfStop 4
    else
      let n := k.toNat
      match orStop ((misfit da m.oa.toNat).bind (e.mStop cMisaligned)) ((misfit db m.ob.toNat).bind (e.mStop cMisaligned)) with
      | some x => some x
      | none =>
        let sa := operandSpans da m.oa.toNat n false
        let sb := operandSpans db m.ob.toNat n trans
        match spansOut e.b.bytes (sa ++ sb) with
        | some a => e.mStop cSpadRange a
        | none =>
          let ga := e.b.groups sa
          let gb := e.b.groups sb
          if 1 < ga.length ∨ 1 < gb.length ∨ ga.any gb.contains then
            let g (a : Word) : Nat := (e.b.tile0 + a.toNat / 8192) / 16 % 4
            some (.fault (e.flt cMatrixBank (g m.oa + 4 * g m.ob + (if 1 < ga.length then 16 else 0)
              + (if 1 < gb.length then 32 else 0)) 0))
          else none

/-- The payload of a TS store overlaps its scale records (R225): from lowest to highest byte written. -/
def tsOverlap (d : Desc) (t : Nat) : Bool :=
  let p1 := t + 63 * d.rstr + accRowBytes d.fmt
  let s1 := d.scl + 63 * d.sstr + 8
  decide (t < s1) && decide (d.scl < p1)

/-- Checks of xu.accst (R225). -/
def Env.accstStop (e : Env) (i32 : Bool) (m : MArgs) : Option Stop :=
  match descOf m.fa with
  | none => e.mfStop 1
  | some d =>
    let t := m.oa.toNat
    if d.fmt == .uint32 || d.fmt == .int64 || (i32 && d.fmt.tsM.isSome) then e.mfStop 7
    else if d.rstr < accRowBytes d.fmt then e.mfStop 6
    else if d.fmt.tsM.isSome && (decide (d.sstr < 8) || tsOverlap d t) then e.mfStop 6
    else
      match misfit d t with
      | some a => e.mStop cMisaligned a
      | none => (spansOut e.b.bytes (accSpans d t)).bind (e.mStop cSpadRange)

/-- Checks of xu.accld (R226). -/
def Env.accldStop (e : Env) (m : MArgs) : Option Stop :=
  match descOf m.fa with
  | none => e.mfStop 1
  | some d =>
    let t := m.oa.toNat
    if d.fmt == .uint32 || d.fmt == .int64 || d.fmt.isInt8 then e.mfStop 7
    else
      match misfit d t with
      | some a => e.mStop cMisaligned a
      | none => (spansOut e.b.bytes (accSpans d t)).bind (e.mStop cSpadRange)

/-- Checks of xu.topk (R228). -/
def Env.topkStop (e : Env) (m : MArgs) : Option Stop :=
  let n := m.ob.toInt
  if n < 1 ∨ 16 < n then e.mfStop 5
  else if m.oa.toNat % 8192 ≠ 0 then e.mStop cMisaligned m.oa.toNat
  else if e.b.bytes < m.oa.toNat + 8192 then e.mStop cSpadRange m.oa.toNat
  else none

/-- Checks of xu.fmt (R220), ACC 7. -/
def Env.fmtStop (e : Env) (m : MArgs) : Option Stop := e.rangeStop 7 16 16 m.oa

/-! ## Every operation's own checks -/

/-- The checks of an operation beyond the common ones, in the order its rule gives. -/
def Env.ownStop (e : Env) (i : Instr) : Option Stop :=
  match e.accesses i with
  | some x => e.accStop i.perLane x
  | none =>
    match i with
    | .suCsrr _ csr => e.csrStop csr none
    | .suCsrw csr sa => e.csrStop csr (some (e.scalar .s sa))
    | .suBar lv => if e.t.tmode || decide ((e.t.domr.extractLsb' 0 3).toNat < lv.toNat) then
        some (.fault (e.flt cDomain (lv.toNat + (if e.t.tmode then 8 else 0)) 0)) else none
    | .suSwait str sb => e.swaitStop str.toNat ((e.scalar .s sb).setWidth 16)
    | .suCalli _ sa => e.lazyStop sa
    | .suJmpi sa => e.lazyStop sa
    | .suLoop _ sa sc =>
      if e.scalar .s sa = 0 then
        let le := (e.c.pc + 2 * e.scalar .s sc) &&& 0x01FFFFFFFFFFFFFF#64
        match e.t.zeroTrip with
        | some (a, _) => if a = le then none else some (.zeroTrip le)
        | none => some (.zeroTrip le)
      else none
    | .muQbind qh md => e.qbindStop qh md
    | .muQwait _ qh oa => e.qopStop qh (some oa)
    | .muQadv _ qh _ => e.qopStop qh none
    | .muTfull oa => e.tileStop oa
    | .muTgate _ oa => e.tileStop oa
    | .muTclr oa => e.tileStop oa
    | .muCwait oa _ => e.tileStop oa
    | .muTstat _ oa => e.tileStop oa
    | .muCprog _ ab oa _ => e.rangeStop 0 64 128 (e.scalarAddr ab oa)
    | .muCopy cp oa ob _ => e.copyStop cp oa ob
    | .muMsend ab oa ob _ => e.msendStop ab oa ob
    | .muMpost ab _ ob _ => e.mpostStop ab ob
    | .muCpost ab oa _ => e.rangeStop 8 64 64 (e.scalarAddr ab oa)
    | .muTget _ ab oa _ => e.rangeStop 8 64 64 (e.scalarAddr ab oa)
    | .xuFmt _ _ _ => e.fmtStop (e.xuArgs i)
    | .xuMma _ _ _ _ _ _ _ => e.mmaStop false false (e.xuArgs i)
    | .xuMmat _ _ _ _ _ _ _ => e.mmaStop false true (e.xuArgs i)
    | .xuDist _ _ _ _ _ _ _ => e.mmaStop true false (e.xuArgs i)
    | .xuTopk _ _ _ _ _ _ => e.topkStop (e.xuArgs i)
    | .xuAccst i32 _ _ _ _ _ => e.accstStop i32 (e.xuArgs i)
    | .xuAccld _ _ _ _ => e.accldStop (e.xuArgs i)
    | _ => none

/-- The queue bytes whose value the operation's own checks need are ready. -/
def Env.checkable (e : Env) (i : Instr) : Bool := e.selsReady i i.checkSels

/-- What stops an operation at issue. Checks that depend on a queue read's value need its bytes: while these are not ready the word
waits whole, so that no check comes after a commit (R124, R181, R213; log entry 47). -/
def Env.slotStop (e : Env) (o : OpSt) (before : List (RFile × Nat)) : Option Stop :=
  let i := o.op.ins
  orStop (e.privStop i) (orStop (e.regStop i) (orStop (e.queueStop i) (orStop (e.landStop o before)
    (orStop (e.poisonStop i) (if e.checkable i then e.ownStop i else some .wait)))))

end Sys2Proof.Machine
end

