-- ==== Sys2Proof/Machine/Slot.lean ====
section
/-!
DEFINITION. What every slot operation shares: finding it in the word in progress, its issue checks when they have not been
made, blocking under R32, its passes under R84, and landing its result (R29).
-/
namespace Sys2Proof

/-- Integer conditions (R65). -/
def Cond.holds {n : Nat} (c : Cond) (a b : BitVec n) : Bool :=
  match c with
  | .eq => a == b
  | .ne => a != b
  | .lt => a.slt b
  | .ge => !a.slt b
  | .ltu => a.ult b
  | .geu => !a.ult b
  | .gt => b.slt a
  | .le => !b.slt a
  | .gtu => b.ult a
  | .leu => !b.ult a

end Sys2Proof

namespace Sys2Proof.Machine

/-- TF.SLOT of an operation: its position, or 3 for a held repeat (R53, R67). -/
def OpSt.slot (o : OpSt) : Nat := o.pos.getD 3

/-- The view of a team's word for one of its operations. -/
def State.envOf (s : State) (z : Nat) (slot : Nat) : Option Env :=
  match s.teams.get? z with
  | none => none
  | some t =>
    match s.blocks.get? t.blk, t.ctx with
    | some b, some c => some ⟨s, z, t, b, c, slot⟩
    | _, _ => none

/-- The operation of the word in progress that an instruction names, if it has not committed. -/
def Ctx.opOf (c : Ctx) (i : Instr) : Option (Nat × OpSt) :=
  match c.ops.findIdx? fun o => o.op.ins == i && o.st != .done with
  | none => none
  | some k => (c.ops[k]?).map fun o => (k, o)

/-- Where a slot operation stands when it executes: its view, its index in the word, and its record. -/
structure Slot where
  e : Env
  k : Nat
  o : OpSt

/-- The slot an instruction executes in: that of the team whose word is executing. -/
def State.slotOf (s : State) (i : Instr) : Option Slot :=
  match s.cur with
  | none => none
  | some z =>
    match s.envOf z 3 with
    | none => none
    | some e =>
      match e.c.opOf i with
      | none => none
      | some (k, o) => some ⟨{ e with slot := o.slot }, k, o⟩

/-- Changes the word in progress of a team. -/
def State.updCtx (s : State) (z : Nat) (f : Ctx → Ctx) : State :=
  s.updTeam z fun t => { t with ctx := t.ctx.map f }

/-- Changes an operation of the word in progress. -/
def State.updOpSt (s : State) (z k : Nat) (f : OpSt → OpSt) : State :=
  s.updCtx z fun c => { c with ops := c.ops.modify k f }

/-- Sets where an operation stands. -/
def State.setSt (s : State) (z k : Nat) (st : OpStatus) : State :=
  s.updOpSt z k fun o => { o with st := st }

/-- Fixes the places of an operation's accesses once its checks have passed, and keeps the translations they used (R181). -/
def State.fixPlaces (s : State) (x : Slot) : State :=
  match x.e.accesses x.o.op.ins with
  | none => s
  | some a =>
    let r := x.e.accPlaces a
    (r.2.foldl (fun s w => s.useXlat (coreOf x.e.z) w) s).updOpSt x.e.z x.k fun o => { o with places := r.1 }

/-- The exit lookup of a zero-trip su.loop (R130): its word is found, is asked for, or faults at the su.loop's slot. -/
def State.zeroTripLook (s : State) (z slot : Nat) (le : Word) : State :=
  match s.teams.get? z with
  | none => s
  | some t =>
    match s.lookParcel z t le.toNat with
    | (s, .fault f) => s.takeTrap z { f with slot := slot }
    | (s, .word _ w) => s.updTeam z fun t => { t with zeroTrip := some (le, parcelAdd le (1 + w.nimm)), waiting := false }
    | (s, .miss idx) => (s.requestRefill z t idx).updTeam z fun t => { t with waiting := true }

/-- A team asks for the translations of remote lines it has no probe of: one packet to a line (R355). -/
def State.askProbes (s : State) (z : Nat) (l : List (Nat × AccKind)) : State :=
  l.foldl (fun s a => match s.teams.get? z with
    | none => s
    | some t =>
      if t.probes.any fun p => p.va == a.1 && p.acc == a.2 then s
      else
        (s.updTeam z fun t => { t with probes := t.probes ++ [⟨a.1, a.2, none⟩] }).sendProbe ((s.remoteNode t (256 * a.1)).getD 0) (s.setOf t)
          a.1 a.2 (some z) 0) s

/-- What becomes of a team whose word is stopped by a check. -/
def State.stopWord (s : State) (z slot : Nat) (x : Stop) : State :=
  match x with
  | .fault f => s.takeTrap z f
  | .zeroTrip le => s.zeroTripLook z slot le
  | .probe l => s.askProbes z l
  | .wait => s

/-- An operation is of the second part of a split word (R83). -/
def Ctx.second (c : Ctx) (o : OpSt) : Bool := c.split && o.op.kind == .vb

/-- The held repeats of a position's part that have not committed: a position commits after them (R67). -/
def Ctx.repeatsDue (c : Ctx) (o : OpSt) : List OpSt :=
  if o.pos.isNone then [] else c.ops.filter fun x => x.pos.isNone && x.st != .done && c.second x == c.second o

/-- Whether a slot may commit now, as far as the held repeats before it allow (R67). -/
def Ctx.free (c : Ctx) (o : OpSt) : Bool := (c.repeatsDue o).isEmpty

/-- A held repeat before a position has blocked: the position has not begun, and waits as a blocked slot does (R32, R67; log entry 47). -/
def Ctx.heldUp (c : Ctx) (o : OpSt) : Bool := o.st == .pending && (c.repeatsDue o).any fun x => x.st == .blocked

/-- Lets an operation act in its turn: a position waits while a held repeat before it has not committed, a per-lane one only when that
repeat has blocked (R67, R84). -/
def Slot.inTurn (x : Slot) (i : Instr) (act : Slot → State) : State :=
  if x.e.c.heldUp x.o then x.e.s.setSt x.e.z x.k .blocked
  else if !i.perLane && !x.e.c.free x.o then x.e.s
  else act x

/-- Runs a slot operation: none issues without its word (fault), its checks if they are still to be made, then what it does.
What it does reads the state in its slot's view. -/
def runSlot (i : Instr) (s : State) (act : Slot → State) : Host.Outcome State Fault Refusal :=
  match s.slotOf i with
  | none => .fault .noWordIssuing
  | some x =>
    if x.e.c.checked then .next (x.inTurn i act)
    else
      match x.e.slotStop x.o [] with
      | some st => .next (s.stopWord x.e.z x.o.slot st)
      | none =>
        match (s.fixPlaces x).slotOf i with
        | some y => .next (y.inTurn i act)
        | none => .next s

/-- A transfer to S has no partial result, and commits in the last clock of its part (R176). -/
def commitsWhole (i : Instr) : Bool := i.perLane && i.result.any fun x => x.1 == .s

/-- A scalar operation (R16, R32): it blocks while its queue bytes or its own condition are not ready; else it takes effect
and has committed. -/
def runScalar (i : Instr) (s : State) (ready : Env → Bool) (eff : Env → State → State) :
    Host.Outcome State Fault Refusal :=
  runSlot i s fun x =>
    if x.e.queueReady i && ready x.e then (eff x.e x.e.s).setSt x.e.z x.k .done
    else x.e.s.setSt x.e.z x.k .blocked

/-- The passes a per-lane operation executes: those not skipped, from the word's first pass on (R18, R329). -/
def Env.runPasses (e : Env) (i : Instr) : List Nat := (livePasses e.t i.maskOf).filter fun p => decide (e.c.pass0 ≤ p)

/-- The clock in which a per-lane operation commits has come: none of its passes is left, no held repeat before it is still to commit
(R67), and a transfer to S is in its part's last clock (R176). -/
def Slot.commits (x : Slot) (i : Instr) : Bool :=
  ((x.e.runPasses i).all fun q => (x.e.c.passes.head?).any fun p => decide (q ≤ p)) && x.e.c.free x.o
    && (!commitsWhole i || x.e.c.passes.tail.isEmpty)

/-- A clock of a per-lane operation: eff executes the clock's pass if it is one of its own, fin the commit after the last. -/
def Slot.laneClock (x : Slot) (i : Instr) (eff : Env → Nat → State → State) (fin : Env → State → State) : State :=
  let s := match x.e.c.passes with
    | [] => x.e.s
    | p :: _ => if (x.e.runPasses i).contains p then eff x.e p x.e.s else x.e.s
  if x.commits i then (fin x.e s).setSt x.e.z x.k .done else s.setSt x.e.z x.k .running

/-- A blocked per-lane operation that has become ready takes the clocks of its passes, or commits when it has none (R32). -/
def Slot.unblock (x : Slot) (i : Instr) (fin : Env → State → State) : State :=
  let ps := x.e.runPasses i
  if ps.isEmpty then (fin x.e x.e.s).setSt x.e.z x.k .done
  else
    ((x.e.s.updCtx x.e.z fun c => { c with passes := ps }).updPart (partOf x.e.z) fun p =>
      { p with busy := some x.e.z }).setSt x.e.z x.k .running

/-- A per-lane operation (R16, R84): while it is not ready it blocks; once ready after blocking it takes the clocks of its passes
anew (R32). -/
def runLanes (i : Instr) (s : State) (ready : Env → Bool) (eff : Env → Nat → State → State) (fin : Env → State → State) :
    Host.Outcome State Fault Refusal :=
  runSlot i s fun x =>
    match x.o.st with
    | .running => x.laneClock i eff fin
    | .done => x.e.s
    | .pending => if x.e.queueReady i && ready x.e then x.laneClock i eff fin else x.e.s.setSt x.e.z x.k .blocked
    | .blocked => if x.e.queueReady i && ready x.e && x.e.c.free x.o then x.unblock i fin else x.e.s

/-! ## Landing results (R29, R47, R86) -/

/-- A landing of the word's team-cycle plus a stated latency and QX. -/
def Env.landing (e : Env) (i : Instr) (k : Kind) (fl : RFile) (reg lat : Nat) (vals : List LaneVal) (flags : FFlags)
    (pend : Option Nat) : Landing :=
  { due := e.c.t + lat + i.qx, file := fl, reg := reg, pair := i.pairDest, bal := i.isBallot, vals := vals, flags := flags,
    pend := pend, lanes := [], key := some (landKey e.slot k) }

/-- The landing that waits for an operation's reply in the lanes given. -/
def Env.awaited (e : Env) (i : Instr) (k : Kind) (fl : RFile) (reg lat id : Nat) (lanes : List Nat) : Landing :=
  { e.landing i k fl reg lat [] 0 (some id) with lanes := lanes }

/-- Puts a landing into the team's buffer. -/
def State.land (s : State) (z : Nat) (l : Landing) : State := s.updTeam z fun t => t.addLanding l

/-- Lands a scalar result in a register. -/
def State.landScalar (s : State) (e : Env) (i : Instr) (k : Kind) (reg : Nat) (v : BitVec 128) (p : Bool) : State :=
  match i.result with
  | none => s
  | some (fl, lat) => s.land e.z (e.landing i k fl reg lat [⟨0, v, p⟩] 0 none)

/-- Lands the lanes of one pass. -/
def State.landLanes (s : State) (e : Env) (i : Instr) (k : Kind) (reg : Nat) (vals : List LaneVal) (flags : FFlags) : State :=
  match i.result with
  | none => s
  | some (fl, lat) => s.land e.z (e.landing i k fl reg lat vals flags none)

/-- Poison the scalar operands of an operation bring to its result. -/
def Env.scalarsP (e : Env) (i : Instr) : Bool := i.sels.any e.scalarP

/-- Poison the per-lane operands of an operation bring to lane ℓ. -/
def Env.lanesP (e : Env) (i : Instr) (l : Nat) : Bool := i.sels.any fun x => e.laneP x l

/-- An operation that computes one value per enabled lane, with the flags it raises (R152). -/
def runVec (i : Instr) (k : Kind) (vd : BitVec 6) (s : State) (f : Env → Nat → BitVec 128 × FFlags) :
    Host.Outcome State Fault Refusal :=
  runLanes i s (fun _ => true)
    (fun e p s =>
      let r := (lanesIn e.t i.maskOf p).map fun l => (l, f e l)
      s.landLanes e i k vd.toNat (r.map fun x => ⟨x.1, x.2.1, e.lanesP i x.1⟩) (r.foldl (fun m x => m ||| x.2.2) 0))
    (fun e s => if (e.runPasses i).isEmpty then s.landLanes e i k vd.toNat [] 0 else s)

/-- A 32-bit value per enabled lane, with no flag. -/
def runInt (i : Instr) (k : Kind) (vd : BitVec 6) (s : State) (f : Env → Nat → Lane) :
    Host.Outcome State Fault Refusal :=
  runVec i k vd s fun e l => ((f e l).setWidth 128, 0)

/-- A 32-bit floating-point value per enabled lane. -/
def runFp (i : Instr) (k : Kind) (vd : BitVec 6) (s : State) (f : Env → Nat → Lane × FFlags) :
    Host.Outcome State Fault Refusal :=
  runVec i k vd s fun e l => ((f e l).1.setWidth 128, (f e l).2)

/-! ## The integer functions SU, VA and VB share (R126, R156) -/

/-- Bit counts. -/
def popc {n : Nat} (a : BitVec n) : Nat := ((List.range n).filter fun i => a.getLsbD i).length
/-- Zero bits above the highest one bit. -/
def clz {n : Nat} (a : BitVec n) : Nat := if a = 0 then n else n - 1 - a.toNat.log2
/-- Zero bits below the lowest one bit. -/
def ctz {n : Nat} (a : BitVec n) : Nat := ((List.range n).find? fun i => a.getLsbD i).getD n
/-- High half of the signed product. -/
def mulhS {n : Nat} (a b : BitVec n) : BitVec n := BitVec.ofInt n (a.toInt * b.toInt / 2 ^ n)
/-- High half of the unsigned product. -/
def mulhU {n : Nat} (a b : BitVec n) : BitVec n := BitVec.ofNat n (a.toNat * b.toNat / 2 ^ n)
/-- Shift left by a whole count; 0 past the width. -/
def shlW {n : Nat} (a : BitVec n) (b : Nat) : BitVec n := if b < n then a <<< b else 0
/-- Logical shift right by a whole count. -/
def shrW {n : Nat} (a : BitVec n) (b : Nat) : BitVec n := if b < n then a >>> b else 0
/-- Arithmetic shift right by a whole count; all sign past the width. -/
def sarW {n : Nat} (a : BitVec n) (b : Nat) : BitVec n := if b < n then a.sshiftRight b else a.sshiftRight (n - 1)
/-- Signed minimum. -/
def minS {n : Nat} (a b : BitVec n) : BitVec n := if b.slt a then b else a
/-- Signed maximum. -/
def maxS {n : Nat} (a b : BitVec n) : BitVec n := if a.slt b then b else a
/-- Unsigned minimum. -/
def minU {n : Nat} (a b : BitVec n) : BitVec n := if b < a then b else a
/-- Unsigned maximum. -/
def maxU {n : Nat} (a b : BitVec n) : BitVec n := if a < b then b else a

/-- 1 when a condition holds. -/
def boolBits {n : Nat} (b : Bool) : BitVec n := if b then 1 else 0

end Sys2Proof.Machine
end

