-- ==== Sys2Proof/Machine/Trace.lean ====
section
/-!
DEFINITION. Bench stops on their way (R369) and watchpoints (R376 to R379).
-/
namespace Sys2Proof.Machine

/-! ## Slot-operation addresses (R364) -/

/-- The SOA of an operation of the word in progress. -/
def Env.soa (e : Env) (i : Instr) : Word := soaOf e.c.pc e.slot ((i.kind.map fun k => k.enc.toNat).getD 0) e.t.tmode

/-! ## Halts on their way (R368, R369) -/

/-- The bench of a core, in device numbering. -/
def benchOf (core : Nat) : Nat := core / 8

/-- A debug halt of a team with its trigger in this clock; a halt already on its way keeps its trigger. -/
def Team.haltSoon (t : Team) (clock : Nat) : Team :=
  if t.skid.isSome || t.halted then t else { t with skid := some (clock, 0) }

/-- Triggers a bench stop with a cause; a stop in progress keeps its own (R369). -/
def State.triggerBench (s : State) (bench cause : Nat) : State :=
  if (s.bstop.get? bench).isSome || (s.reg (bstatOff bench)).getLsbD 0 then s
  else
    { (s.putReg (bstatOff bench) 1 3 cause) with
        bstop := s.bstop.put bench (s.clock, cause),
        teams := s.teams.map fun x => if benchOf (coreOf x.1) = bench then (x.1, x.2.haltSoon s.clock) else x }

/-! ## Watchpoints (R376 to R379) -/

/-- An access as a watchpoint sees it: the core whose comparators look, whether it is that core's scratchpad, requester and
access codes, address space, address and length, where its bytes are (physical address or scratchpad key), its team, SOA and
TCYC at issue, the comparators its operation has hit, and the operation's accesses of the kind that come before it by lane or address:
a hit is the first that matches (R377). -/
structure Watched where
  core : Nat
  sp : Bool
  req : Nat
  acc : Nat
  asid : BitVec 16
  addr : Nat
  n : Nat
  place : Nat
  z : Option Nat
  soa : Word
  tcyc : Word
  hits : List Nat
  ahead : List (Nat × Nat)
  deriving DecidableEq, Repr, Inhabited

/-- The first byte of the access in the range of comparator w, when it matches (R376, R377). -/
def State.watchMatch (s : State) (a : Watched) (w : Nat) : Option Nat :=
  let off := coreDbg a.core + 0x100 + 32 * w
  let f (lo n : Nat) : Nat := s.regBits (off + 8) lo n
  let llog := f 0 4
  let len := if llog = 0 then 65536 else 2 ^ llog
  let base := (s.reg off).toNat / len * len
  let reach (addr n : Nat) : Bool := decide (addr < base + len) && decide (base < addr + n)
  if f 10 1 = 1 && llog != 1 && llog != 2 && (f 4 1 == 1) == a.sp && (f 5 3).testBit a.acc
      && (f 32 10 == 0 || (f 32 10).testBit a.req) && (a.sp || f 16 16 == a.asid.toNat)
      && reach a.addr a.n && !a.hits.contains (4 * a.core + w) && !a.ahead.any fun x => reach x.1 x.2
  then some (max a.addr base) else none

/-- The aligned 8 bytes that hold a byte of an access. -/
def State.watchWord (s : State) (a : Watched) (byte : Nat) : Word :=
  let k := (a.place + (byte - a.addr)) / 8 * 8
  BitVec.ofNat 64 (leNat (if a.sp then s.readSpad k 8 else s.readMem k 8))

/-- A core has a comparator enabled. -/
def State.watching (s : State) (core : Nat) : Bool := (List.range 4).any fun w => (s.reg (coreDbg core + 0x108 + 32 * w)).getLsbD 10

/-- One hit: the record if it is free or holds a hit of this clock that comes after it by comparator and requester, else HITLOST; then
the comparator's action (R378, R379). before is the state just before the access. -/
def State.watchHit (s before : State) (a : Watched) (w byte : Nat) : State :=
  let b := coreDbg a.core
  let live := match a.z with
    | some z => ((s.teams.get? z).map fun t => !t.ended).getD false
    | none => false
  let z := a.z.getD 0
  let bits := w + 4 * a.acc + 16 * a.req
  let who := if a.z.isSome then 2 ^ 8 * (coreOf z % 8) + 2 ^ 11 * (partOf z % 4) + 2 ^ 13 * (z % 16) else 0
  let rank := 16 * w + a.req + 1
  let full := (s.reg (b + 0x180)).getLsbD 17
  let s := if full then s.satReg (b + 0x180) 18 8 1 else s
  let s :=
    if full && s.turn (turnHit a.core) ≤ rank then s
    else
      ((((((State.setReg (s.takeTurn (turnHit a.core) rank) (b + 0x180) (BitVec.ofNat 64 (bits + who + 2 ^ 17
          + 2 ^ 18 * s.regBits (b + 0x180) 18 8 + 2 ^ 32 * (a.tcyc.toNat % 2 ^ 32)))).setReg (b + 0x188) a.soa).setReg
        (b + 0x190) (BitVec.ofNat 64 byte)).setReg (b + 0x198) (before.watchWord a byte)).setReg
        (b + 0x1A0) (s.watchWord a byte)).setReg (b + 0x1A8) (BitVec.ofNat 64 s.ns))
  let s := s.trace a.core 4 (if a.z.isSome then partOf z % 4 else 0) (z % 16) bits a.soa
  let act := s.regBits (b + 0x108 + 32 * w) 8 2
  let detail := BitVec.ofNat 32 (bits + 2 ^ 8 * (a.core % 8))
  if act = 0 && live then s.updTeam z fun t => t.pendCause (.watchpoint detail (BitVec.ofNat 64 byte))
  else if act = 1 && live then s.updTeam z fun t => t.haltSoon s.clock
  else if act = 2 then s.triggerBench (benchOf a.core) 3
  else s

/-- Every comparator looks at a performed access, in ascending order; the operation's hits grow. -/
def State.watch (s before : State) (a : Watched) : State × List Nat :=
  (List.range 4).foldl (fun (x : State × List Nat) w =>
    match s.watchMatch { a with hits := x.2 } w with
    | some byte => (x.1.watchHit before a w byte, (4 * a.core + w) :: x.2)
    | none => x) (s, a.hits)

end Sys2Proof.Machine
end

