-- ==== Sys2Proof/Machine/Blocks.lean ====
section
/-!
DEFINITION. What the teams of a block and a domain share: barriers (R23, R136, R137, R357), switch points (R138, R310, R343), the
end of a team (R149) and the resources it gives back (R27, R305).
-/
namespace Sys2Proof.Machine

/-! ## Domains (R23, R136) -/

/-- Number of a launch's level-L domain that holds a block. -/
def Launch.domOf (l : Launch) (level lin : Nat) : Nat :=
  match level with
  | 1 => lin / l.bits 0x20 0 32
  | 2 => lin / l.bits 0x20 32 32
  | _ => 0

/-- The blocks of a domain on this device: the first, and the first after. -/
def Launch.domSpan (l : Launch) (level dom : Nat) : Nat × Nat :=
  match level with
  | 1 => (dom * l.bits 0x20 0 32, min l.blocks ((dom + 1) * l.bits 0x20 0 32))
  | 2 => (dom * l.bits 0x20 32 32, min l.blocks ((dom + 1) * l.bits 0x20 32 32))
  | _ => l.share

/-- Key of a domain's record. -/
def domKey (level dom : Nat) : Nat := 2 ^ 33 * level + dom

/-- The record of a domain; one that nothing has touched has no arrivals. -/
def Launch.dom (l : Launch) (level dom : Nat) : DomRec := (l.doms.get? (domKey level dom)).getD ⟨0, 0, false⟩

/-- Teams of a variant. -/
def Launch.teamsOf (l : Launch) (v : Nat) : Nat := ((l.vars[v]?).map Variant.nteams).getD 0

/-- Teams of a block that have not ended. -/
def State.liveTeams (s : State) (b : Block) : Nat :=
  (b.teams.filter fun z => ((s.teams.get? z).map fun t => !t.ended).getD false).length

/-- The arrivals a domain's release asks for (R136, R137): of the teams of its blocks, resident or saved, that have not ended. A team that
has ended stands on both sides of R136's count. None while some block has neither been placed nor ended. -/
def State.arrivalsDue (s : State) (n : Nat) (l : Launch) (level dom : Nat) : Option Nat :=
  let sp := l.domSpan level dom
  let inn (lin : Nat) : Bool := decide (sp.1 ≤ lin) && decide (lin < sp.2)
  let res := s.blocks.filter fun x => x.2.launch == n && inn x.2.lin
  let kept := l.saved.filter fun x => inn x.1
  let fin := l.ended.filter fun x => inn x.1
  if res.length + kept.length + fin.length < sp.2 - sp.1 then none
  else some ((res.map fun x => s.liveTeams x.2).sum + (kept.map Prod.snd).sum)

/-- The fabric-set entry of a launch (R354): its register offset. -/
def State.launchFab (s : State) (l : Launch) : Option Nat :=
  ((List.range 64).map fun i => fabBase + 0x2000 + 32 * i).find? fun off =>
    (s.reg off).getLsbD 0 && s.regBits off 16 16 == l.bits 0x28 0 16 && s.regBits off 32 16 == l.asid.toNat

/-- The generation bit of a domain of a team. -/
def State.barGen (s : State) (b : Block) (level : Nat) : Bool :=
  if level = 0 then b.barGen
  else
    match s.launches.get? b.launch with
    | none => false
    | some l =>
      if level = 4 then
        match s.launchFab l with
        | none => false
        | some off => (s.reg (off + 24)).getLsbD 32
      else (l.dom level (l.domOf level b.lin)).gen

/-- A level-4 share is complete: one arrival goes to device index 0, once (R357). The record's gen says it has gone. -/
def State.shareDone (s : State) (n : Nat) (l : Launch) : State :=
  match s.launchFab l, s.arrivalsDue n l 4 0 with
  | some off, some p =>
    let d := l.dom 4 0
    if d.gen || s.regBits (off + 24) 0 32 != p then s
    else
      let s := { s with launches := s.launches.put n { l with doms := l.doms.put (domKey 4 0) { d with gen := true } } }
      if s.regBits (off + 8) 0 16 = 0 then { s with agenda := s.agenda ++ [.level4Arrival ((off - fabBase - 0x2000) / 32)] }
      else s.sendBarrier (s.regBits (off + 8) 16 16) false (s.regBits off 16 16)
  | _, _ => s

/-- Releases a domain none of whose arrivals is due any more: the arrival count returns to 0, the ended count stays,
the generation inverts (R136). -/
def State.checkRelease (s : State) (blk level : Nat) : State :=
  match s.blocks.get? blk with
  | none => s
  | some b =>
    match s.launches.get? b.launch with
    | none => s
    | some l =>
      if level = 0 then
        if l.teamsOf b.variant ≤ b.barArr + b.barEnd then
          { s with blocks := s.blocks.put blk { b with barArr := 0, barGen := !b.barGen } }
        else s
      else if level = 4 then s.shareDone b.launch l
      else
        let dom := l.domOf level b.lin
        let d := l.dom level dom
        match s.arrivalsDue b.launch l level dom with
        | none => s
        | some p =>
          if p ≤ d.arr then
            { s with launches := s.launches.put b.launch { l with
                doms := l.doms.put (domKey level dom) ⟨0, d.fin, !d.gen⟩ } }
          else s

/-- Adds an arrival (R136 step 2) or an end (step 3) at a level. -/
def State.barCount (s : State) (blk level : Nat) (fin : Bool) : State :=
  match s.blocks.get? blk with
  | none => s
  | some b =>
    let s :=
      if level = 0 then
        { s with blocks := s.blocks.put blk (if fin then { b with barEnd := b.barEnd + 1 } else { b with barArr := b.barArr + 1 }) }
      else
        match s.launches.get? b.launch with
        | none => s
        | some l =>
          let dom := l.domOf level b.lin
          let d := l.dom level dom
          if fin then
            { s with launches := s.launches.put b.launch { l with
                doms := l.doms.put (domKey level dom) { d with fin := d.fin + 1 } } }
          else if level = 4 then
            match s.launchFab l with
            | none => s
            | some off => s.putReg (off + 24) 0 32 (s.regBits (off + 24) 0 32 + 1)
          else
            { s with launches := s.launches.put b.launch { l with
                doms := l.doms.put (domKey level dom) { d with arr := d.arr + 1 } } }
    s.checkRelease blk level

/-- Every operation of a team is performed at a scope (R136 step 1, R138). -/
def Team.allPerformed (t : Team) (scp : Scope) : Bool := t.ops.all fun o => o.performedAt scp

/-- One evaluation of su.bar (R136, R137): an arrived team waits for the generation to differ from its record; another waits
for its operations, arrives, and may be released by its own arrival. True when the slot commits. -/
def State.barStep (s : State) (z level : Nat) : State × Bool :=
  match s.teams.get? z with
  | none => (s, false)
  | some t =>
    let gen (s : State) : Bool := ((s.blocks.get? t.blk).map fun b => s.barGen b level).getD false
    let clear (s : State) : State := s.updTeam z fun t => { t with bars := t.bars.del level }
    match t.bars.get? level with
    | some r => if gen s != r.gen then (clear s, true) else (s, false)
    | none =>
      if t.allPerformed (if level = 4 then .sys else .dev) then
        let g := gen s
        let s := (s.updTeam z fun t => { t with bars := t.bars.put level ⟨true, g⟩ }).barCount t.blk level false
        if gen s != g then (clear s, true) else (s, false)
      else (s, false)

/-! ## Giving resources back (R27, R305) -/

/-- Takes a team out of its window; the last one frees it and invalidates its entries (R305). -/
def State.freeWindow (s : State) (z : Nat) : State :=
  s.updPart (partOf z) fun p =>
    let ws := p.windows.map fun w => { w with users := w.users.filter fun y => y != z }
    let gone := ws.filter fun w => w.users.isEmpty
    gone.foldl (fun p w => p.invalidate w.base w.size) { p with windows := ws.filter fun w => !w.users.isEmpty }

/-- Takes a block and its teams off the device. -/
def State.removeBlock (s : State) (blk : Nat) : State :=
  match s.blocks.get? blk with
  | none => s
  | some b =>
    let s := b.teams.foldl (fun s z => { ((s.freeWindow z).abandonRefill z).updPart (partOf z) (fun p =>
      { p with refills := p.refills.filter fun r => r.pre != some z }) with teams := s.teams.del z }) s
    { s with blocks := s.blocks.del blk, copies := s.copies.filter fun c => c.blk != blk,
             cores := s.cores.upd b.core (fun c => { c with mq := c.mq.filter fun m => m.blk != blk }) }

/-! ## Switch points (R138, R310, R343) -/

/-- A landing buffer drained: every result in it lands, in order of team-cycle and issue. -/
def Team.drained (t : Team) : Team :=
  let last := t.land.foldl (fun a l => max a l.due) t.tc
  { (Team.landDue { t with tc := last }) with tc := t.tc }

/-- Messages of the overflow queue to a block of a launch. -/
def Msg.toBlock (m : Msg) (n lin : Nat) : Bool := m.launch == n && (m.dest.extractLsb' 16 32).toNat == lin

/-- A block all of whose teams have stopped at k ends there: its carry waits for the restart (R138, R310), its receives and
queued messages are discarded (R343). -/
def State.switchStop (s : State) (blk k : Nat) : State :=
  match s.blocks.get? blk with
  | none => s
  | some b =>
    let ts := b.teams.filterMap fun z => s.teams.get? z
    let regs := ts.map fun t => (List.range 16).map fun i => (t.drained.s.get i, t.drained.sP.get i != 0)
    let r : Restart := ⟨b.lin, k, regs, s.readSpad (b.key 0) b.carry,
      (List.range (b.carry / 4)).map fun i => s.spadPoisoned (b.key (4 * i)) 4, ts.map fun t => t.activeTasks, b.shrink⟩
    let n := match s.cores.get? b.core with
      | none => 0
      | some c => (c.overflow.filter fun m => m.toBlock b.launch b.lin).length
    let s := { s with
      cores := s.cores.upd b.core (fun c => { c with overflow := c.overflow.filter fun m => !m.toBlock b.launch b.lin }),
      launches := s.launches.upd b.launch (fun l => { l with restarts := l.restarts ++ [r] }) }
    (ts.foldl State.signTeam (s.satReg fabBase 48 16 n)).removeBlock blk

/-- Withdraws a block's switch request: each stopped team continues (R138). -/
def State.withdrawSwitch (s : State) (blk : Nat) : State :=
  s.updBlock blk fun b => { b with flagged := false, shrink := none, switches := [] }

/-- Switch point k is declared in a block's variant (R138, R315). -/
def State.switchAt (s : State) (b : Block) (k : Nat) : Bool :=
  match s.launches.get? b.launch with
  | none => false
  | some l => ((l.vars[b.variant]?).map fun v => v.sw.any fun x => x.1 == k).getD false

/-- One evaluation of su.swpt k (R138): a team stops once its operations have completed, and its landing buffer drains; true when the slot commits as no operation. -/
def State.swptStep (s : State) (z : Nat) (k : Word) : State × Bool :=
  match s.teams.get? z with
  | none => (s, false)
  | some t =>
    match s.blocks.get? t.blk with
    | none => (s, false)
    | some b =>
      if !b.flagged || t.tmode || !s.switchAt b k.toNat then (s, true)
      else if b.switches.any fun x => x.1 != z && x.2 != k then (s.withdrawSwitch t.blk, true)
      else if (t.ops.all fun o => o.done && o.performedAt .dev) && t.land.all fun l => l.pend.isNone then
        let sw := (b.switches.filter fun x => x.1 != z) ++ [(z, k)]
        let s := (s.updTeam z Team.drained).updBlock t.blk fun b => { b with switches := sw }
        if b.teams.all fun y => sw.any fun x => x.1 == y then (s.switchStop t.blk k.toNat, false) else (s, false)
      else (s, false)

/-! ## The end of a team (R149) -/

/-- The team itself when it ends (R68, R149). -/
def Team.finish (t : Team) : Team :=
  { t with ended := true, held := [], prefetch := [], ctx := none, fetched := none, zeroTrip := none, waiting := false,
           keep := none, userKeep := none, async := [], replay := [], activeTasks := 0, stepping := none }

/-- A team ends: it issues nothing further, its held records clear, it counts at every later barrier, a switch request of
others is withdrawn, its window is freed, and its tasks are no longer active (R136, R138, R149, R305, R312). -/
def State.endTeam (s : State) (z : Nat) : State :=
  match s.teams.get? z with
  | none => s
  | some t =>
    let s := (s.updTeam z Team.finish).abandonRefill z
    let s := ((s.blocks.get? t.blk).map fun b => if b.switches.isEmpty then s else s.withdrawSwitch t.blk).getD s
    let s := s.signTeam t
    let s := (List.range ((t.domr.extractLsb' 0 3).toNat + 1)).foldl (fun s l => s.barCount t.blk l true) s
    s.freeWindow z

end Sys2Proof.Machine
end

