-- ==== Sys2Proof/Machine/MemoryUnit.lean ====
section
/-!
DEFINITION. The MU operations (R178 to R210). Scratchpad accesses are made in the word's clocks; global and bench-remote ones
are handed to the memory system, which performs them later (R183); copies, messages and tasks are started here.
-/
namespace Sys2Proof.Machine

/-! ## The operation's record -/

/-- The record of an operation in the word in progress. -/
def Env.opSt (e : Env) (i : Instr) : Option OpSt := (e.c.opOf i).map fun x => x.2

/-- Its number among the operations of the team's streams. -/
def Env.opId (e : Env) (i : Instr) : Nat := ((e.opSt i).bind OpSt.id).getD 0

/-- Its entry in the team's list. -/
def Env.memOp (e : Env) (i : Instr) : Option MemOp := e.t.ops.find? fun o => o.id == e.opId i

/-- Every operation its mask names is performed at its scope (R183). -/
def Env.predsReady (e : Env) (i : Instr) : Bool :=
  match e.memOp i with
  | none => true
  | some o => e.t.predsDone o.preds o.scp

/-- The checked place of a lane's access. -/
def Env.placed (e : Env) (i : Instr) (l : Nat) : Option Place := (e.opSt i).bind fun o => AL.get? o.places l

/-- No earlier operation of the team has an access of the byte still to make (R184). -/
def Team.locFree (t : Team) (id : Nat) (p : Place) (n : Nat) : Bool :=
  t.ops.all fun o => decide (id ≤ o.id) || o.accs.all fun a => !a.place.overlaps p a.size n

/-- The core reads every earlier write of the team to the bytes already (R184, R233, R243, R244). -/
def State.ownSeen (s : State) (t : Team) (id core pa n : Nat) : Bool :=
  s.views.all fun w => !w.hits pa n || w.seenBy core || !t.ops.any fun o => o.id == w.op && decide (o.id < id)

/-- The cores a scope takes in, as groups of a pending write. -/
def PendWrite.scopeSeen (w : PendWrite) (core width : Nat) : PendWrite :=
  let groups := if w.repl then [core / 128]
    else if width = 1 then [core] else (List.range 8).map fun i => core / 8 * 8 + i
  { w with seen := (groups.filter fun g => !w.seen.contains g) ++ w.seen }

/-- An operation's writes are performed at a scope: every agent of it reads them or a later one, and so every earlier write of the
bytes (R232, R243, R244). -/
def State.performViews (s : State) (core id width : Nat) : State :=
  { s with views := (upTo s.views fun w => w.op == id).filterMap fun x =>
      if !x.2 then some x.1 else if 3 ≤ width then none else some (x.1.scopeSeen core width) }

/-- How wide an operation's writes are performed when it completes at its scope (R183): everywhere, where every agent reads them. -/
def State.doneWidth (s : State) (id : Nat) (scp : Scope) : Nat := if s.views.any fun w => w.op == id then scopeWidth scp else 4

/-! ## Banks (R256 to R258) -/

/-- The core bank of a scratchpad byte. -/
def bankOf (p : Nat) : Nat := 8 * (p % 2 ^ 19 / 2 ^ 17) + p / 16 % 8

/-- The rows and atomic lanes a pass needs of each bank. -/
def bankRows (bytes atomics : List Nat) : List (Nat × Nat) :=
  ((bytes ++ atomics).map bankOf).eraseDups.map fun b =>
    (b, (((bytes.filter fun p => bankOf p == b).map fun p => p / 16).eraseDups).length
      + (atomics.filter fun p => bankOf p == b).length)

/-- Count (r, b) of a core's lost-time matrix, by 32·r + b (R386). -/
def State.lostAt (s : State) (core i : Nat) : Nat := s.regBits (coreDbg core + 0x1000 + 8 * (i / 2)) (32 * (i % 2)) 32

/-- Adds lost time of a requester at a core bank (R259, R386); the count at the start of the clock is kept (R388). -/
def State.loseTime (s : State) (core req bank n : Nat) : State :=
  let i := 32 * req + bank
  ((s.updCore core fun c => if (c.lt0.get? i).isSome then c else { c with lt0 := c.lt0.put i (s.lostAt core i) }).satReg (coreDbg core + 0x1000 + 8 * (i / 2)) (32 * (i % 2)) 32 n).count core 0x10 0 false n

/-- Posts the rows a requester needs; a slot pass of k > 1 clocks loses k - 1 at the bank that needs the most, the lowest on a
tie (R259). -/
def State.postRows (s : State) (core req : Nat) (l : List (Nat × Nat)) : State :=
  let s := s.updCore core fun c => { c with breq := c.breq ++ l.map fun x => (x.1, req, x.2) }
  let k := l.foldl (fun m x => max m x.2) 0
  if req < 4 && decide (1 < k) then
    s.loseTime core req (l.foldl (fun m x => if x.2 = k then min m x.1 else m) 31) (k - 1)
  else s

/-! ## Watched accesses (R377) -/

/-- One access of a team's operation shown to the comparators of a core; the operation keeps the comparators it has hit. -/
def State.watchOp (s before : State) (z id : Nat) (a : Watched) : State :=
  let hits := ((s.teams.get? z).bind fun t => t.ops.find? fun o => o.id == id).map MemOp.hits
  let r := s.watch before { a with hits := hits.getD [] }
  r.1.updTeam z fun t => t.updOp id fun o => { o with hits := r.2 }

/-- An access of another device's memory shown to the comparators: what its 8 bytes hold there is known to that device only (R379; log
entry 32). -/
def State.watchFar (s : State) (z id : Nat) (a : Watched) : State :=
  let r := s.watchOp s z id a
  let b := coreDbg a.core
  if r.turn (turnHit a.core) = s.turn (turnHit a.core) then r
  else
    let old := Config.freeWord s.fresh
    State.setReg { (r.setReg (b + 0x198) old) with fresh := r.fresh + 2 } (b + 0x1A0) (if a.acc = 0 then old else Config.freeWord (s.fresh + 1))

/-- A slot's access to a scratchpad byte, as its core sees it: the partition's MU. -/
def Env.spadWatch (e : Env) (i : Instr) (acc k n : Nat) : Watched :=
  ⟨k / 2 ^ 19, true, partOf e.z % 4, acc, e.t.asid, k % 2 ^ 19, n, k, some e.z, e.soa i, e.t.tcyc, [], []⟩

/-! ## Scratchpad loads and stores (R187) -/

/-- A slot access may proceed: its predecessors are performed, its tiles are ready, and no earlier access of the team to the
same bytes is outstanding (R42, R43, R183, R184). -/
def Env.spadReady (e : Env) (i : Instr) : Bool :=
  e.predsReady i && match e.accesses i with
    | none => true
    | some x => x.l.all fun y =>
        let a := y.2.toNat
        (match x.acc with
          | .read => e.b.readReady a x.size
          | .write => e.b.writeReady a x.size
          | .atomic => e.b.readReady a x.size && e.b.writeReady a x.size
          | .fetch => true) && e.t.locFree (e.opId i) (.spad (e.b.key a)) x.size
            && (x.acc == .read || !e.readBefore (e.opId i) (.spad (e.b.key a)) x.size)

/-- A slot operation issues on its stream and is complete and performed everywhere (R183). -/
def State.slotDone (s : State) (e : Env) (i : Instr) : State :=
  s.updTeam e.z fun t => (t.orderAfter (e.opId i)).complete (e.opId i) 4

/-- The scratchpad key of a lane's access. -/
def Env.spadAt (e : Env) (i : Instr) (l : Nat) : Option Nat :=
  match e.placed i l with
  | some (.spad k) => some k
  | _ => none

/-- The keys of the lanes of a pass. -/
def Env.passKeys (e : Env) (i : Instr) (p : Nat) : List (Nat × Nat) :=
  (lanesIn e.t i.maskOf p).filterMap fun l => (e.spadAt i l).map fun k => (l, k)

/-- Reads n bytes at a key and lets the comparators see it. -/
def State.spadLoad (s : State) (e : Env) (i : Instr) (k n : Nat) : State × BitVec 128 × Bool :=
  (s.watchOp s e.z (e.opId i) (e.spadWatch i 0 k n), leWord 128 (s.readSpad k n), s.spadPoisoned k n)

/-- Writes n bytes at a key and lets the comparators see it. -/
def State.spadStore (s : State) (e : Env) (i : Instr) (k : Nat) (l : List Byte) (p : Bool) : State :=
  (s.writeSpad k l p).watchOp s e.z (e.opId i) (e.spadWatch i 1 k l.length)

/-- Loads and gathers: each pass's words are read in its clock. -/
def runSpadLoad (i : Instr) (md : BitVec 6) (s : State) : Host.Outcome State Fault Refusal :=
  runLanes i s (fun e => e.spadReady i)
    (fun e p s =>
      let ks := e.passKeys i p
      let r := ks.foldl (fun (x : State × List LaneVal) y =>
        let v := x.1.spadLoad e i y.2 4
        (v.1, x.2 ++ [⟨y.1, v.2.1, v.2.2⟩])) (s, [])
      (r.1.postRows (coreOf e.z) (partOf e.z % 4) (bankRows (ks.map Prod.snd) [])).landLanes e i .mu md.toNat r.2 0)
    (fun e s => (if (e.runPasses i).isEmpty then s.landLanes e i .mu md.toNat [] 0 else s).slotDone e i)

/-- Stores and scatters: the lanes of each pass in ascending order (R187). -/
def runSpadStore (i : Instr) (data : Sel) (s : State) : Host.Outcome State Fault Refusal :=
  runLanes i s (fun e => e.spadReady i)
    (fun e p s =>
      let ks := e.passKeys i p
      (ks.foldl (fun s y => s.spadStore e i y.2 (leBytes 4 (e.lane .vm data y.1)) (e.laneP data y.1)) s).postRows
        (coreOf e.z) (partOf e.z % 4) (bankRows (ks.map Prod.snd) []))
    (fun e s => s.slotDone e i)

/-- mu.lds (R187). -/
def execMuLds (mk : Mask) (df : RFile) (md : BitVec 6) (ab : BitVec 5) (oa : Sel) (st : Strm) (s : State) :
    Host.Outcome State Fault Refusal := runSpadLoad (.muLds mk df md ab oa st) md s

/-- mu.sts (R187). -/
def execMuSts (mk : Mask) (ab : BitVec 5) (oa ob : Sel) (st : Strm) (s : State) : Host.Outcome State Fault Refusal :=
  runSpadStore (.muSts mk ab oa ob st) ob s

/-- mu.gths (R187). -/
def execMuGths (mk : Mask) (df : RFile) (md : BitVec 6) (ab : BitVec 5) (ob : Sel) (st : Strm) (s : State) :
    Host.Outcome State Fault Refusal := runSpadLoad (.muGths mk df md ab ob st) md s

/-- mu.scts (R187): the data are OA. -/
def execMuScts (mk : Mask) (ab : BitVec 5) (oa ob : Sel) (st : Strm) (s : State) : Host.Outcome State Fault Refusal :=
  runSpadStore (.muScts mk ab oa ob st) oa s

/-- mu.ldsa (R187). -/
def execMuLdsa (md : BitVec 6) (ab : BitVec 5) (oa : Sel) (st : Strm) (s : State) : Host.Outcome State Fault Refusal :=
  let i := Instr.muLdsa md ab oa st
  runScalar i s (fun e => e.spadReady i) fun e s =>
    match e.spadAt i 0 with
    | none => s.slotDone e i
    | some k =>
      let v := s.spadLoad e i k 8
      ((v.1.postRows (coreOf e.z) (partOf e.z % 4) (bankRows [k] [])).landScalar e i .mu md.toNat v.2.1 v.2.2).slotDone e i

/-- mu.stsa (R187). -/
def execMuStsa (md : BitVec 6) (ab : BitVec 5) (oa : Sel) (st : Strm) (s : State) : Host.Outcome State Fault Refusal :=
  let i := Instr.muStsa md ab oa st
  runScalar i s (fun e => e.spadReady i) fun e s =>
    match e.spadAt i 0 with
    | none => s.slotDone e i
    | some k =>
      ((s.spadStore e i k (leBytes 8 (e.t.a.get md.toNat)) false).postRows (coreOf e.z) (partOf e.z % 4)
        (bankRows [k] [])).slotDone e i

/-! ## Atomics (R190 to R192) -/

/-- The new value of a word w with operand v and compare value c (R191). -/
def AtomFn.apply (f : AtomFn) (w v c : Lane) : Lane :=
  match f with
  | .add => w + v
  | .min => minS w v
  | .max => maxS w v
  | .minu => minU w v
  | .maxu => maxU w v
  | .and => w &&& v
  | .or => w ||| v
  | .xor => w ^^^ v
  | .xchg => v
  | .cas => if w = c then v else w

/-- Poison of an atomic's result: the operand's, and the old word's unless it is replaced (log entry 12). -/
def AtomFn.poison (f : AtomFn) (wp vp : Bool) : Bool := vp || (wp && f != .xchg)

/-- The compare value of a lane. -/
def Env.casVal (e : Env) (md : BitVec 6) (l : Nat) : Lane := e.t.elem .vm md.toNat l

/-- mu.atms (R190): the lanes in ascending order, each reading what the one before it left (R192). -/
def execMuAtms (mk : Mask) (af : AtomFn) (md : BitVec 6) (ab : BitVec 5) (oa ob : Sel) (st : Strm) (s : State) :
    Host.Outcome State Fault Refusal :=
  let i := Instr.muAtms mk af md ab oa ob st
  runLanes i s (fun e => e.spadReady i)
    (fun e p s =>
      let ks := e.passKeys i p
      let r := ks.foldl (fun (x : State × List LaneVal) y =>
        let w : Lane := leWord 32 (x.1.readSpad y.2 4)
        let wp := x.1.spadPoisoned y.2 4
        let v := AtomFn.apply af w (e.lane .vm ob y.1) (e.casVal md y.1)
        (((x.1.writeSpad y.2 (leBytes 4 v) (AtomFn.poison af wp (e.laneP ob y.1))).watchOp x.1 e.z (e.opId i)
          (e.spadWatch i 2 y.2 4)).signAtomic e.t.asid (e.laneAddr ab oa y.1).toNat w, x.2 ++ [⟨y.1, w.setWidth 128, wp⟩])) (s, [])
      ((r.1.postRows (coreOf e.z) (partOf e.z % 4) (bankRows [] (ks.map Prod.snd))).countTeam e.z 0x12 ks.length).landLanes
        e i .mu md.toNat r.2 0)
    (fun e s => (if (e.runPasses i).isEmpty then s.landLanes e i .mu md.toNat [] 0 else s).slotDone e i)

/-! ## Global and bench-remote accesses (R188, R189) -/

/-- The access of a lane, once its place is known. -/
def Env.access (e : Env) (i : Instr) (l size : Nat) (v : Word) (p : Bool) (c : Lane) : Option Access :=
  (e.placed i l).map fun q =>
    ⟨l, (((e.accesses i).bind fun x => x.l.find? fun y => y.1 == l).map fun y => y.2.toNat).getD 0, q, size, v, p, c⟩

/-- Hands a pass's accesses to the memory system: its requests leave the core (R273). -/
def State.handOver (s : State) (e : Env) (i : Instr) (l : List Access) : State :=
  s.updTeam e.z fun t => t.updOp (e.opId i) fun o => { o with accs := o.accs ++ l, sentAt := s.clock }

/-- The operation issues; with no access it is complete (R183). -/
def State.handedOver (s : State) (e : Env) (i : Instr) : State :=
  s.updTeam e.z fun t =>
    let t := t.orderAfter (e.opId i)
    if t.ops.any fun o => o.id == e.opId i && o.accs.isEmpty && o.got.isEmpty && o.perf == 0 && (e.runPasses i).isEmpty then
      t.complete (e.opId i) 4
    else t

/-- Loads and gathers: the landing waits for the reply. -/
def runFarLoad (i : Instr) (md : BitVec 6) (s : State) : Host.Outcome State Fault Refusal :=
  runLanes i s (fun _ => true)
    (fun e p s =>
      let l := (lanesIn e.t i.maskOf p).filterMap fun l => e.access i l 4 0 false 0
      match i.result with
      | none => s
      | some (fl, lat) => (s.handOver e i l).land e.z (e.awaited i .mu fl md.toNat lat (e.opId i) (l.map Access.lane)))
    (fun e s => (if (e.runPasses i).isEmpty then s.landLanes e i .mu md.toNat [] 0 else s).handedOver e i)

/-- Stores and scatters. -/
def runFarStore (i : Instr) (data : Sel) (s : State) : Host.Outcome State Fault Refusal :=
  runLanes i s (fun _ => true)
    (fun e p s =>
      let l := (lanesIn e.t i.maskOf p).filterMap fun l =>
        e.access i l 4 ((e.lane .vm data l).setWidth 64) (e.laneP data l) 0
      s.handOver e i l)
    (fun e s => s.handedOver e i)

/-- Atomics: the operand and compare value go with each lane; the old value lands in vm MD. -/
def runFarAtomic (i : Instr) (md : BitVec 6) (ob : Sel) (s : State) : Host.Outcome State Fault Refusal :=
  runLanes i s (fun _ => true)
    (fun e p s =>
      let l := (lanesIn e.t i.maskOf p).filterMap fun l =>
        e.access i l 4 ((e.lane .vm ob l).setWidth 64) (e.laneP ob l) (e.casVal md l)
      match i.result with
      | none => s
      | some (fl, lat) => (s.handOver e i l).land e.z (e.awaited i .mu fl md.toNat lat (e.opId i) (l.map Access.lane)))
    (fun e s => (if (e.runPasses i).isEmpty then s.landLanes e i .mu md.toNat [] 0 else s).handedOver e i)

/-- mu.ldr (R188). -/
def execMuLdr (mk : Mask) (df : RFile) (md : BitVec 6) (ab : BitVec 5) (oa ob : Sel) (st : Strm) (s : State) :
    Host.Outcome State Fault Refusal := runFarLoad (.muLdr mk df md ab oa ob st) md s

/-- mu.str (R188). -/
def execMuStr (mk : Mask) (ab : BitVec 5) (oa ob : Sel) (st : Strm) (s : State) : Host.Outcome State Fault Refusal :=
  runFarStore (.muStr mk ab oa ob st) ob s

/-- mu.atmr (R188). -/
def execMuAtmr (mk : Mask) (af : AtomFn) (md : BitVec 6) (ab : BitVec 5) (oa ob : Sel) (st : Strm) (s : State) :
    Host.Outcome State Fault Refusal := runFarAtomic (.muAtmr mk af md ab oa ob st) md ob s

/-- mu.ldg (R189). -/
def execMuLdg (mk : Mask) (df : RFile) (md : BitVec 6) (ab : BitVec 5) (oa : Sel) (st : Strm) (s : State) :
    Host.Outcome State Fault Refusal := runFarLoad (.muLdg mk df md ab oa st) md s

/-- mu.stg (R189). -/
def execMuStg (mk : Mask) (ab : BitVec 5) (oa ob : Sel) (st : Strm) (s : State) : Host.Outcome State Fault Refusal :=
  runFarStore (.muStg mk ab oa ob st) ob s

/-- mu.gthg (R189). -/
def execMuGthg (mk : Mask) (df : RFile) (md : BitVec 6) (ab : BitVec 5) (ob : Sel) (st : Strm) (s : State) :
    Host.Outcome State Fault Refusal := runFarLoad (.muGthg mk df md ab ob st) md s

/-- mu.sctg (R189): the data are OA. -/
def execMuSctg (mk : Mask) (ab : BitVec 5) (oa ob : Sel) (st : Strm) (s : State) : Host.Outcome State Fault Refusal :=
  runFarStore (.muSctg mk ab oa ob st) oa s

/-- mu.atmg (R190). -/
def execMuAtmg (mk : Mask) (af : AtomFn) (md : BitVec 6) (ab : BitVec 5) (oa ob : Sel) (st : Strm) (s : State) :
    Host.Outcome State Fault Refusal := runFarAtomic (.muAtmg mk af md ab oa ob st) md ob s

/-- mu.ldga (R189). -/
def execMuLdga (md : BitVec 6) (ab : BitVec 5) (oa : Sel) (st : Strm) (s : State) : Host.Outcome State Fault Refusal :=
  let i := Instr.muLdga md ab oa st
  runScalar i s (fun _ => true) fun e s =>
    let s := match i.result, e.access i 0 8 0 false 0 with
      | some (fl, lat), some q => (s.handOver e i [q]).land e.z (e.awaited i .mu fl md.toNat lat (e.opId i) [0])
      | _, _ => s
    s.updTeam e.z fun t => t.orderAfter (e.opId i)

/-- mu.stga (R189). -/
def execMuStga (md : BitVec 6) (ab : BitVec 5) (oa : Sel) (st : Strm) (s : State) : Host.Outcome State Fault Refusal :=
  let i := Instr.muStga md ab oa st
  runScalar i s (fun _ => true) fun e s =>
    let s := match e.access i 0 8 (e.t.a.get md.toNat) false 0 with
      | some q => s.handOver e i [q]
      | none => s
    s.updTeam e.z fun t => t.orderAfter (e.opId i)

/-- mu.pfg (R189): a translation that fails, a remote address or an empty pool drops it. DESIGN CHOICE: the fill is of the addressed
64-byte sector and ends in the clock it starts in, so that it holds no miss-status entry after it (log entry 58). -/
def execMuPfg (ab : BitVec 5) (oa : Sel) (st : Strm) (s : State) : Host.Outcome State Fault Refusal :=
  let i := Instr.muPfg ab oa st
  runScalar i s (fun _ => true) fun e s =>
    let va := (e.scalarAddr ab oa).toNat
    let s := if decide (3072 ≤ s.missUsed (coreOf e.z)) || decide (2 ^ 57 ≤ va) || (s.remoteNode e.t va).isSome then s
      else
        match s.translate (coreOf e.z) e.t.asid e.t.root va .read with
        | .ok (w, pa) =>
          let s := s.useXlat (coreOf e.z) w
          if w.e.nc || !isHbm pa then s
          else
            let s := if s.l1Hit (coreOf e.z) pa then s else (s.refetch (coreOf e.z) pa 1 w.e.attr).l2Range (coreOf e.z) pa 1 w.e.attr false
            s.l1Fill (coreOf e.z) pa
        | .error _ => s
    s.updTeam e.z fun t => t.orderAfter (e.opId i)

/-! ## Address registers and transfers (R193) -/

/-- mu.adda (R193). -/
def execMuAdda (md : BitVec 6) (ab : BitVec 5) (oa : Sel) (s : State) : Host.Outcome State Fault Refusal :=
  let i := Instr.muAdda md ab oa
  runScalar i s (fun _ => true) fun e s =>
    s.landScalar e i .mu md.toNat ((e.base ab + e.scalar .a oa).setWidth 128) (e.scalarsP i)

/-- mu.mova (R193). -/
def execMuMova (md : BitVec 6) (oa : Sel) (s : State) : Host.Outcome State Fault Refusal :=
  let i := Instr.muMova md oa
  runScalar i s (fun _ => true) fun e s => s.landScalar e i .mu md.toNat ((e.scalar .a oa).setWidth 128) (e.scalarsP i)

/-- mu.xfer, scalar (R193). -/
def execMuXfer (md : BitVec 6) (oa : Sel) (s : State) : Host.Outcome State Fault Refusal :=
  let i := Instr.muXfer md oa
  runScalar i s (fun _ => true) fun e s => s.landScalar e i .mu md.toNat ((e.scalar .a oa).setWidth 128) (e.scalarsP i)

/-- mu.xfer, per lane (R193). -/
def execMuXferPerLane (mk : Mask) (df : RFile) (md : BitVec 6) (oa : Sel) (s : State) : Host.Outcome State Fault Refusal :=
  runInt (.muXferPerLane mk df md oa) .mu md s fun e l => e.lane .vm oa l

/-! ## Queue handles (R37, R194 to R196) -/

/-- mu.qbind (R194): its checks are issue checks; bits 63:54 are not kept. -/
def execMuQbind (qh : BitVec 3) (md : BitVec 6) (s : State) : Host.Outcome State Fault Refusal :=
  runScalar (.muQbind qh md) s (fun _ => true) fun e s =>
    let v := e.t.a.get md.toNat
    let q : Word := if qhValid v then v &&& 0x003FFFFFFFFFFFFF#64 else 0
    s.updBlock e.t.blk fun b => { b with q := b.q.set qh.toNat q, qP := b.qP.set qh.toNat 0 }

/-- mu.qwait (R195): the test is against the updates applied before this clock. -/
def execMuQwait (qs : QSide) (qh : BitVec 3) (oa : Sel) (s : State) : Host.Outcome State Fault Refusal :=
  runScalar (.muQwait qs qh oa) s (fun e =>
    let q := e.b.q0.get qh.toNat
    let n := (e.scalar .a oa).toNat
    match qs with
    | .c => decide (n ≤ qhFill q)
    | .p => decide (n ≤ 2 ^ qhNlog q - qhFill q)) fun _ s => s

/-- What a handle becomes when it is advanced by n (R37, R196), if F stays in range. -/
def qhAdvance (q : Word) (qs : QSide) (n : Nat) : Option Word :=
  let m := 2 ^ (qhNlog q + 1)
  match qs with
  | .c => if n ≤ qhFill q then some (qhSet q ((qhHead q + n) % m) (qhTail q)) else none
  | .p => if qhFill q + n ≤ 2 ^ qhNlog q then some (qhSet q (qhHead q) ((qhTail q + n) % m)) else none

/-- The operations of the team that precede the k-th of its word. -/
def Env.opsBefore (e : Env) (k : Nat) : List MemOp :=
  let later := (e.c.ops.drop k).filterMap OpSt.id
  e.t.ops.filter fun o => !later.contains o.id

/-- An advance may be applied (R196): no earlier operation that writes (tail) or whose engine reads (head) the scratchpad is
incomplete. -/
def Env.advReady (e : Env) (k : Nat) (qs : QSide) : Bool :=
  (e.opsBefore k).all fun o => o.done || !(match qs with
    | .p => o.writesSpad
    | .c => o.readsSpad)

/-- Applies a queue-handle advance of slot x (R37): out of range it traps at the slot, which has not committed. -/
def State.applyAdvance (s : State) (x : Slot) (qs : QSide) (qh : BitVec 3) (oa : Sel) : State :=
  match s.blocks.get? x.e.t.blk with
  | none => s
  | some b =>
    match qhAdvance (b.q.get qh.toNat) qs (x.e.scalar .a oa).toNat with
    | some q => (s.updBlock x.e.t.blk fun b => { b with q := b.q.set qh.toNat q }).setSt x.e.z x.k .done
    | none => s.takeTrap x.e.z (x.e.flt cQueue (qh.toNat + 8 * 7) 0)

/-- mu.qadv (R196): it blocks until the queue-handle unit applies it. -/
def execMuQadv (qs : QSide) (qh : BitVec 3) (oa : Sel) (s : State) : Host.Outcome State Fault Refusal :=
  let i := Instr.muQadv qs qh oa
  runSlot i s fun x =>
    if x.e.queueReady i && x.e.advReady x.k qs then x.e.s.applyAdvance x qs qh oa
    else x.e.s.setSt x.e.z x.k .blocked

/-! ## Tile state (R197) -/

/-- The state word of the tile an operand names, as at the start of the clock (R44). -/
def Env.tile (e : Env) (oa : Sel) : BitVec 32 := e.b.tiles0.get (e.scalar .a oa).toNat

/-- A tile-state operation: it blocks while BUSYW = 1 (R43). f makes the new word from the old and the chunks completed in this
clock. -/
def runTile (i : Instr) (oa : Sel) (s : State) (f : BitVec 32 → BitVec 16 → BitVec 32) : Host.Outcome State Fault Refusal :=
  runScalar i s (fun e => !tsBusyW (e.tile oa)) fun e s =>
    let n := (e.scalar .a oa).toNat
    s.updBlock e.t.blk fun b => { b with tiles := b.tiles.set n (f (b.tiles.get n) (b.chunkNow.get n)) }

/-- mu.tfull. -/
def execMuTfull (oa : Sel) (s : State) : Host.Outcome State Fault Refusal :=
  runTile (.muTfull oa) oa s fun w _ => tsMake (tsChunk w) true (tsGate w) (tsBusyW w) (tsBusyR w)

/-- mu.tgate. -/
def execMuTgate (gate : Bool) (oa : Sel) (s : State) : Host.Outcome State Fault Refusal :=
  runTile (.muTgate gate oa) oa s fun w _ => tsMake (tsChunk w) (tsFull w) gate (tsBusyW w) (tsBusyR w)

/-- mu.tclr: a chunk completed in the same clock is set at its end, and FULL with all sixteen (R44, R197). -/
def execMuTclr (oa : Sel) (s : State) : Host.Outcome State Fault Refusal :=
  runTile (.muTclr oa) oa s fun w c => tsMake c (c == 0xFFFF) (tsGate w) (tsBusyW w) (tsBusyR w)

/-- mu.cwait. -/
def execMuCwait (oa ob : Sel) (s : State) : Host.Outcome State Fault Refusal :=
  runScalar (.muCwait oa ob) s (fun e =>
    let w := e.tile oa
    let m : BitVec 16 := (e.scalar .a ob).setWidth 16
    m == 0 || tsFull w || (tsChunk w &&& m) == m) fun _ s => s

/-- mu.tstat: the state word, and the physical tile. -/
def execMuTstat (md : BitVec 6) (oa : Sel) (s : State) : Host.Outcome State Fault Refusal :=
  let i := Instr.muTstat md oa
  runScalar i s (fun _ => true) fun e s =>
    let n := (e.scalar .a oa).toNat
    s.landScalar e i .mu md.toNat (BitVec.ofNat 128 ((e.b.tiles0.get n).toNat + 2 ^ 32 * ((e.b.tile0 + n) % 64))) false

/-! ## Copy programs (R198 to R201) -/

/-- mu.cprog (R198): a slot read of 128 bytes; poison makes the register poisoned. -/
def execMuCprog (cp : BitVec 4) (ab : BitVec 5) (oa : Sel) (st : Strm) (s : State) : Host.Outcome State Fault Refusal :=
  let i := Instr.muCprog cp ab oa st
  runScalar i s (fun e =>
    let a := (e.scalarAddr ab oa).toNat
    e.predsReady i && e.b.readReady a 128 && e.t.locFree (e.opId i) (.spad (e.b.key a)) 128) fun e s =>
    let k := e.b.key (e.scalarAddr ab oa).toNat
    let s := s.watchOp s e.z (e.opId i) (e.spadWatch i 0 k 128)
    let s := s.postRows (coreOf e.z) (partOf e.z % 4) (bankRows ((List.range 8).map fun j => k + 16 * j) [])
    (s.updBlock e.t.blk fun b => { b with
      cp := b.cp.set cp.toNat (leWord 1024 (s.readSpad k 128)),
      cpP := b.cpP.set cp.toNat (pBit (s.spadPoisoned k 128)) }).slotDone e i

/-- The lines of a copy's global footprint in which it has a byte to write and which translations name without a fault (R201, R246): line
numbers. -/
def State.nameLines (s : State) (core : Nat) (t : Team) (p : CpProg) : List Nat :=
  if !p.dstGlobal then []
  else p.units.filterMap fun u =>
    match s.remoteNode t (256 * u) with
    | some _ => none
    | none =>
      match s.translate core t.asid t.root (256 * u) .write with
      | .ok (w, pa) => if w.e.attr == .repl then none else some (pa / 256)
      | .error _ => none

/-- No recall waits on a line: a copy that asks for it gains it at once (R246). -/
def State.lineFree (s : State) (line : Nat) : Bool := !s.recalls.any fun r => r.line == line

/-- R43 for an issuing copy: no tile it reads is being written, none it writes is busy, and no BUSYR count would pass 7. -/
def Block.copyReady (b : Block) (p : CpProg) : Bool :=
  (p.srcTiles.all fun i => !tsBusyW (b.tiles0.get i) && b.roomR i)
    && p.dstTiles.all fun i => !tsBusyW (b.tiles0.get i) && tsBusyR (b.tiles0.get i) == 0

/-- The tiles of a copy become busy and lose the chunks of its footprint (R44, R201). -/
def Block.copyStart (b : Block) (p : CpProg) : Block :=
  let b := b.busyR p.srcTiles true
  if p.dstGlobal then b
  else
    let sp := p.dstSpan
    let lo := (sp.1 / 512 * 512).toNat
    b.clearChunks lo ((sp.2 / 512).toNat * 512 + 512 - lo) true

/-- mu.copy (R200, R201): it blocks while the core runs 16 copies or under R43; a poisoned program,
or one that uses a tile of poisoned state, is abandoned (R321). -/
def execMuCopy (cp : BitVec 4) (oa ob : Sel) (st : Strm) (s : State) : Host.Outcome State Fault Refusal :=
  let i := Instr.muCopy cp oa ob st
  let prog (e : Env) : CpProg := cpProg e.c.cpv (e.scalar .a oa) (e.scalar .a ob)
  runScalar i s (fun e =>
    decide ((e.s.copies.filter fun c => coreOf c.z == coreOf e.z).length < 16) && e.b.copyReady (prog e)) fun e s =>
    let s := s.updTeam e.z fun t => t.orderAfter (e.opId i)
    let p := prog e
    if e.c.cpvP then s.updTeam e.z fun t => t.pendCause (.uncorrectable 4)
    else if (p.srcTiles ++ p.dstTiles).any fun n => e.b.tileP.get n != 0 then s.updTeam e.z fun t => t.pendCause (.uncorrectable 5)
    else
      let preds := ((e.memOp i).map MemOp.preds).getD []
      let lines := s.nameLines (coreOf e.z) e.t p
      let c : Copy := ⟨e.opId i, e.t.blk, e.z, cp.toNat, e.c.cpv, e.scalar .a oa, e.scalar .a ob, st.scp, st.pm, preds, 0,
        [], [], .running, lines.filter s.lineFree, lines.filter fun x => !s.lineFree x, [], false, 0, [], []⟩
      { s.updBlock e.t.blk fun b => b.copyStart p with copies := s.copies ++ [c] }

/-! ## Messages (R204 to R208) -/

/-- The sender fields and tag of a message as a match word (R204). -/
def Msg.matchWord (m : Msg) : Word :=
  BitVec.ofNat 64 (m.dest.toNat % 2 ^ 12 + 2 ^ 12 * m.srcTidx + 2 ^ 16 * m.srcBlk + 2 ^ 48 * m.srcDev)

/-- A receive takes a message (R206, R207). -/
def Receive.takes (r : Receive) (m : Msg) : Bool :=
  let x := r.mword ^^^ m.matchWord
  r.entered && (r.lword.getLsbD 17 || x.extractLsb' 0 12 == 0) && (r.lword.getLsbD 16 || x.extractLsb' 12 52 == 0)

/-- A message of the overflow queue is for a team (R207). -/
def Msg.forTeam (m : Msg) (t : Team) : Bool :=
  m.launch == t.launch && (m.dest.extractLsb' 16 32).toNat == (t.blkid.extractLsb' 0 32).toNat
    && (m.dest.extractLsb' 12 4).toNat == t.teamid.toNat % 16

/-- The header of a delivered message (R206). -/
def Msg.header (m : Msg) (room : Nat) : List Byte :=
  leBytes 8 (BitVec.ofNat 64 (m.dest.toNat % 2 ^ 12 + 2 ^ 12 * m.srcTidx + 2 ^ 16 * (m.payload.length % 2 ^ 9)
    + (if room < m.payload.length then 2 ^ 25 else 0)))
    ++ leBytes 8 (BitVec.ofNat 64 (m.srcBlk + 2 ^ 32 * m.srcDev))

/-- Writes a message into a receive: header, payload and the CHUNK bit (R206), through the bench remote port (R258). -/
def State.writeReceive (s : State) (z : Nat) (r : Receive) (m : Msg) : State :=
  match s.teams.get? z with
  | none => s
  | some t =>
    match s.blocks.get? t.blk with
    | none => s
    | some b =>
      let k := b.key r.buf
      let room := 8 * lenCount r.lword
      let pay := m.payload.take room
      let before := s
      let s := s.writeSpad k (m.header room) false
      let s := (List.range ((pay.length + 3) / 4)).foldl (fun s j =>
        s.writeSpad (k + 16 + 4 * j) ((pay.drop (4 * j)).take 4) (m.poison.getD j false)) s
      let n := 16 + pay.length
      let o := t.ops.find? fun o => o.id == r.op
      let s := s.watchOp before z r.op ⟨coreOf z, true, 8, 1, t.asid, k % 2 ^ 19, n, k, some z, (o.map MemOp.soa).getD 0,
        (o.map MemOp.tcyc).getD 0, [], []⟩
      (s.postRows (coreOf z) 7 (bankRows ((List.range ((n + 15) / 16)).map fun j => k + 16 * j) [])).updBlock t.blk fun b =>
        b.setChunks (r.buf / 8192) (1#16 <<< (r.buf / 512 % 16))

/-- Enters a receive in the message unit: it takes the oldest message of the overflow queue that it matches (R207). -/
def State.enterReceive (s : State) (z op : Nat) : State :=
  let s := s.updTeam z fun t => { t with recv := t.recv.map fun r => if r.op = op then { r with entered := true } else r }
  match s.teams.get? z, s.cores.get? (coreOf z) with
  | some t, some c =>
    match t.recv.find? fun r => r.op == op with
    | none => s
    | some r =>
      match c.overflow.findIdx? fun m => m.forTeam t && r.takes m with
      | none => s
      | some j =>
        match c.overflow[j]? with
        | none => s
        | some m =>
          ((s.updCore (coreOf z) fun c => { c with overflow := c.overflow.eraseIdx j }).updTeam z fun t =>
            { t with recv := t.recv.filter fun r => r.op != op }).writeReceive z r m
  | _, _ => s

/-- mu.msend (R205): the payload is read at issue; the message leaves when its predecessors are performed. -/
def execMuMsend (ab : BitVec 5) (oa ob : Sel) (st : Strm) (s : State) : Host.Outcome State Fault Refusal :=
  let i := Instr.muMsend ab oa ob st
  let len (e : Env) : Nat := 8 * lenCount (e.scalar .a ob)
  runScalar i s (fun e => e.b.readReady (e.base ab).toNat (len e)
      && e.t.locFree (e.opId i) (.spad (e.b.key (e.base ab).toNat)) (len e)) fun e s =>
    let k := e.b.key (e.base ab).toNat
    let n := len e
    let own := match s.fabEntry e.t with
      | some off => s.regBits (off + 8) 0 16
      | none => 0
    let m : Msg := ⟨e.scalar .a oa, (e.scalar .a ob).getLsbD 16, e.t.launch, own, (e.t.blkid.extractLsb' 0 32).toNat,
      e.t.teamid.toNat % 16, s.readSpad k n, (List.range (n / 4)).map fun j => s.spadPoisoned (k + 4 * j) 4,
      some (e.z, e.opId i), s.nextId, none⟩
    let s := if n = 0 then s else s.watchOp s e.z (e.opId i) (e.spadWatch i 0 k n)
    let s := s.postRows (coreOf e.z) (partOf e.z % 4) (bankRows ((List.range ((n + 15) / 16)).map fun j => k + 16 * j) [])
    { s.updTeam e.z fun t => t.orderAfter (e.opId i) with msgs := s.msgs ++ [m], nextId := s.nextId + 1 }

/-- mu.mpost (R206): a ninth receive blocks. -/
def execMuMpost (ab : BitVec 5) (oa ob : Sel) (st : Strm) (s : State) : Host.Outcome State Fault Refusal :=
  let i := Instr.muMpost ab oa ob st
  runScalar i s (fun e => decide (e.t.recv.length < 8)) fun e s =>
    let a := (e.base ab).toNat
    let s := s.updBlock e.t.blk fun b => b.clearChunks a 16 false
    let s := s.updTeam e.z fun t => { t.orderAfter (e.opId i) with
      recv := t.recv ++ [⟨a, e.scalar .a oa, e.scalar .a ob, e.opId i, false⟩] }
    if e.predsReady i then (s.enterReceive e.z (e.opId i)).updTeam e.z fun t => t.complete (e.opId i) 4 else s

/-- mu.mprobe (R208). -/
def execMuMprobe (md : BitVec 6) (oa : Sel) (s : State) : Host.Outcome State Fault Refusal :=
  let i := Instr.muMprobe md oa
  runScalar i s (fun _ => true) fun e s =>
    let q := ((s.cores.get? (coreOf e.z)).map CoreSt.overflow).getD []
    let n := (q.filter fun m => m.forTeam e.t && m.matchWord == e.scalar .a oa).length
    s.landScalar e i .mu md.toNat (BitVec.ofNat 128 (n % 128 + 2 ^ 8 * (e.t.recv.length % 16)
      + (if 64 ≤ q.length then 2 ^ 15 else 0))) false

/-! ## Device tasks (R209, R210) -/

/-- mu.cpost (R209): the record is read at issue. -/
def execMuCpost (ab : BitVec 5) (oa : Sel) (st : Strm) (s : State) : Host.Outcome State Fault Refusal :=
  let i := Instr.muCpost ab oa st
  runScalar i s (fun e => e.b.readReady (e.scalarAddr ab oa).toNat 64
      && e.t.locFree (e.opId i) (.spad (e.b.key (e.scalarAddr ab oa).toNat)) 64) fun e s =>
    let k := e.b.key (e.scalarAddr ab oa).toNat
    let s := s.watchOp s e.z (e.opId i) (e.spadWatch i 0 k 64)
    let s := s.postRows (coreOf e.z) (partOf e.z % 4) (bankRows ((List.range 4).map fun j => k + 16 * j) [])
    s.updTeam e.z fun t => (t.orderAfter (e.opId i)).updOp (e.opId i) fun o =>
      { o with data := s.readSpad k 64, dataP := s.spadPoisoned k 64 }

/-- mu.tget (R210, R312): the team has no active task until the reply. -/
def execMuTget (md : BitVec 6) (ab : BitVec 5) (oa : Sel) (st : Strm) (s : State) : Host.Outcome State Fault Refusal :=
  let i := Instr.muTget md ab oa st
  runScalar i s (fun _ => true) fun e s =>
    match i.result with
    | none => s
    | some (fl, lat) =>
      let q := Place.spad (e.b.key (e.scalarAddr ab oa).toNat)
      ((s.handOver e i [⟨0, (e.scalarAddr ab oa).toNat, q, 64, 0, false, 0⟩]).land e.z (e.awaited i .mu fl md.toNat lat (e.opId i) [0])).updTeam e.z
        fun t => { t.orderAfter (e.opId i) with activeTasks := 0 }

end Sys2Proof.Machine
end

