-- ==== Sys2Proof/Machine/Float.lean ====
section
/-!
DEFINITION. Number formats and arithmetic rules (03_number_formats.md): plain formats (R98), rounding (R106 to R109), flush
(R110), NaN results (R112), conversions (R114), tiered-scale blocks (R102 to R105) and the floating-point operations
(R158 to R164). Every value is an exact sign, magnitude and power of two until it is rounded.
-/
namespace Sys2Proof.Machine

/-! ## Plain formats (R98) -/

/-- A plain format: precision p, exponent bits, bias, and its flush class (16-bit or FP32, R110). -/
structure Fmt where
  p : Nat
  eb : Nat
  bias : Nat
  is32 : Bool
  deriving DecidableEq, Repr

def fp32 : Fmt := ⟨24, 8, 127, true⟩
def fp16 : Fmt := ⟨11, 5, 15, false⟩
def bf16 : Fmt := ⟨8, 8, 127, false⟩

/-- Exponent of the least normal value. -/
def Fmt.emin (f : Fmt) : Int := 1 - (f.bias : Int)
/-- The exponent field of infinities and NaNs. -/
def Fmt.emax (f : Fmt) : Nat := 2 ^ f.eb - 1
/-- Position of the sign bit. -/
def Fmt.signPos (f : Fmt) : Nat := f.p - 1 + f.eb
/-- Input flush of the format's class. -/
def Fmt.flushIn (f : Fmt) (md : Modes) : Bool := if f.is32 then md.if32 else md.if16
/-- Output flush of the format's class. -/
def Fmt.flushOut (f : Fmt) (md : Modes) : Bool := if f.is32 then md.of32 else md.of16

/-- A decoded value: a NaN with its payload, an infinity, or the finite value ±m·2^e (m = 0 a zero). -/
inductive FV where
  | nan (s quiet : Bool) (pay : Nat)
  | inf (s : Bool)
  | fin (s : Bool) (m : Nat) (e : Int)
  deriving DecidableEq, Repr, Inhabited

/-- Reads a bit pattern (R98). -/
def Fmt.dec (f : Fmt) (b : Nat) : FV :=
  let s := b.testBit f.signPos
  let x := (b >>> (f.p - 1)) % 2 ^ f.eb
  let fr := b % 2 ^ (f.p - 1)
  if x = f.emax then
    if fr = 0 then .inf s else .nan s (fr.testBit (f.p - 2)) (fr % 2 ^ (f.p - 2))
  else if x = 0 then .fin s fr (f.emin - (f.p - 1 : Nat))
  else .fin s (fr + 2 ^ (f.p - 1)) ((x : Int) - f.bias - (f.p - 1 : Nat))

/-- Sign bit pattern. -/
def Fmt.signBits (f : Fmt) (s : Bool) : Nat := if s then 2 ^ f.signPos else 0
/-- ±∞. -/
def Fmt.infBits (f : Fmt) (s : Bool) : Nat := f.signBits s + f.emax * 2 ^ (f.p - 1)
/-- ±MaxFin. -/
def Fmt.maxBits (f : Fmt) (s : Bool) : Nat := f.infBits s - 1
/-- The canonical NaN. -/
def Fmt.cnan (f : Fmt) : Nat := f.emax * 2 ^ (f.p - 1) + 2 ^ (f.p - 2)
/-- A quiet NaN with sign and payload. -/
def Fmt.nanBits (f : Fmt) (s : Bool) (pay : Nat) : Nat := f.signBits s + f.cnan + pay

/-! ## Rounding -/

/-- |RoundInt(v, mode)| for v = ±m·2^e with sign s (R106). -/
def roundInt (r : Rnd) (s : Bool) (m : Nat) (e : Int) : Nat :=
  if 0 ≤ e then m * 2 ^ e.toNat
  else
    let k := (-e).toNat
    let q := m / 2 ^ k
    let rem := m % 2 ^ k
    let up := match r with
      | .rne => decide (2 ^ k < 2 * rem) || (2 * rem == 2 ^ k && q % 2 == 1)
      | .rz => false
      | .ru => rem != 0 && !s
      | .rd => rem != 0 && s
    if up then q + 1 else q

/-- floor(log2 of m·2^e) for m ≠ 0. -/
def flog2 (m : Nat) (e : Int) : Int := (m.log2 : Int) + e

/-- m·2^e < n·2^k. -/
def dyLt (m : Nat) (e : Int) (n : Nat) (k : Int) : Bool :=
  let lo := min e k
  decide (m * 2 ^ (e - lo).toNat < n * 2 ^ (k - lo).toNat)

/-- m·2^e = n·2^k. -/
def dyEq (m : Nat) (e : Int) (n : Nat) (k : Int) : Bool :=
  let lo := min e k
  m * 2 ^ (e - lo).toNat == n * 2 ^ (k - lo).toNat

/-- Overflow(fmt, mode, sign) (R108). -/
def overflow (f : Fmt) (r : Rnd) (s : Bool) : Nat :=
  match r with
  | .rne => f.infBits s
  | .rz => f.maxBits s
  | .ru => if s then f.maxBits s else f.infBits s
  | .rd => if s then f.infBits s else f.maxBits s

/-- The bit pattern of ±n·2^e, where 2^e is the spacing RoundTo used and n ≤ 2^p. -/
def Fmt.encode (f : Fmt) (s : Bool) (n : Nat) (e : Int) : Nat :=
  -- n·2^e with n < 2^(p-1) only at the subnormal spacing; a carry to 2^p is renormalised by the addition
  f.signBits s + (if n < 2 ^ (f.p - 1) then n
    else ((e + (f.p - 1 : Nat) + f.bias).toNat - 1) * 2 ^ (f.p - 1) + n)

/-- RoundTo of a nonzero finite ±m·2^e, and of a zero, whose sign the caller gives (R107). -/
def roundTo (f : Fmt) (md : Modes) (s : Bool) (m : Nat) (e : Int) : Nat × FFlags :=
  if m = 0 then (f.signBits s, 0)
  else
    let lg := flog2 m e
    let ex := max lg f.emin
    let q := ex - (f.p : Int) + 1
    let n := roundInt md.rnd s m (e - q)
    let tiny :=
      if md.level1 then
        let q1 := lg - (f.p : Int) + 1
        dyLt (roundInt md.rnd s m (e - q1)) q1 1 f.emin
      else decide (lg < f.emin)
    if tiny && f.flushOut md then (f.signBits s, flUFNX)
    else if f.emax * 2 ^ (f.p - 1) ≤ f.encode false n q then (overflow f md.rnd s, flOVNX)
    else if dyEq n q m e then (f.encode s n q, 0)
    else (f.encode s n q, if tiny then flUFNX else flNX)

/-- Reads an operand through FlushIn (R110). -/
def Fmt.read (f : Fmt) (md : Modes) (b : Nat) : FV :=
  match f.dec b with
  | .fin s m e => if f.flushIn md && decide (m < 2 ^ (f.p - 1)) then .fin s 0 e else .fin s m e
  | v => v

/-- A signalling NaN. -/
def FV.isSnan : FV → Bool
  | .nan _ q _ => !q
  | .inf _ => false
  | .fin _ _ _ => false

/-- Any NaN. -/
def FV.isNan : FV → Bool
  | .nan _ _ _ => true
  | .inf _ => false
  | .fin _ _ _ => false

/-- A zero. -/
def FV.isZero : FV → Bool
  | .nan _ _ _ => false
  | .inf _ => false
  | .fin _ m _ => m == 0

/-- An infinity. -/
def FV.isInf : FV → Bool
  | .nan _ _ _ => false
  | .inf _ => true
  | .fin _ _ _ => false

/-- The sign. -/
def FV.sign : FV → Bool
  | .nan s _ _ => s
  | .inf s => s
  | .fin s _ _ => s

/-- The value with its sign inverted; a NaN keeps its own (R158). -/
def FV.neg : FV → FV
  | .nan s q p => .nan s q p
  | .inf s => .inf (!s)
  | .fin s m e => .fin (!s) m e

/-- NV when some operand is a signalling NaN (R112). -/
def snanFlag (l : List FV) : FFlags := if l.any FV.isSnan then flNV else 0

/-- A payload moved between formats: the top payload bits are kept and low bits padded with zeros (R112, R114). -/
def movePay (src dst : Fmt) (pay : Nat) : Nat :=
  if src.p ≤ dst.p then pay * 2 ^ (dst.p - src.p) else pay / 2 ^ (src.p - dst.p)

/-- PickNaN in the operand format src for a result in dst: the first NaN operand, quieted; the canonical NaN at COMPAT
level 1 (R112, R120). -/
def pickNaN (src dst : Fmt) (md : Modes) (l : List FV) : Nat :=
  if md.level1 then dst.cnan
  else
    match l.find? FV.isNan with
    | some (.nan s _ pay) => dst.nanBits s (movePay src dst pay)
    | _ => dst.cnan

/-! ## Arithmetic (R158, R159) -/

/-- ±m·2^e as an integer multiple of 2^k, k ≤ e. -/
def scaled (s : Bool) (m : Nat) (e k : Int) : Int :=
  let v : Int := (m : Int) * 2 ^ (e - k).toNat
  if s then -v else v

/-- RoundTo of an exact integer multiple of 2^k; zero takes the sign zs. -/
def roundSum (f : Fmt) (md : Modes) (zs : Bool) (v : Int) (k : Int) : Nat × FFlags :=
  if v = 0 then (f.signBits zs, 0) else roundTo f md (decide (v < 0)) v.natAbs k

/-- Sign of an exact zero sum of x and y (R109). -/
def zeroSumSign (r : Rnd) (sx sy bothZero : Bool) : Bool :=
  if bothZero && sx == sy then sx else r == .rd

/-- The sum of two values neither of which is a NaN, in format f (R109, R159). -/
def addFV (f : Fmt) (md : Modes) (x y : FV) : Nat × FFlags :=
  match x, y with
  | .inf s, .inf t => if s == t then (f.infBits s, 0) else (f.cnan, flNV)
  | .inf s, _ => (f.infBits s, 0)
  | _, .inf s => (f.infBits s, 0)
  | .fin s m e, .fin t n k =>
    let lo := min e k
    roundSum f md (zeroSumSign md.rnd s t (m == 0 && n == 0)) (scaled s m e lo + scaled t n k lo) lo
  | _, _ => (f.cnan, 0)

/-- The exact product of two values that are no NaN; none when it is 0·∞. -/
def mulFV (x y : FV) : Option FV :=
  match x, y with
  | .inf s, .inf t => some (.inf (s != t))
  | .inf s, .fin t n _ => if n = 0 then none else some (.inf (s != t))
  | .fin s m _, .inf t => if m = 0 then none else some (.inf (s != t))
  | .fin s m e, .fin t n k => some (.fin (s != t) (m * n) (e + k))
  | _, _ => none

/-- fadd of two FP32 patterns; sub negates a number operand b (R158). -/
def fadd32 (md : Modes) (sub : Bool) (a b : Lane) : Lane × FFlags :=
  let x := fp32.read md a.toNat
  let y := fp32.read md b.toNat
  let fl := snanFlag [x, y]
  if x.isNan || y.isNan then (BitVec.ofNat 32 (pickNaN fp32 fp32 md [x, y]), fl)
  else
    let r := addFV fp32 md x (if sub then y.neg else y)
    (BitVec.ofNat 32 r.1, r.2)

/-- fmul of two FP32 patterns (R158, R159). -/
def fmul32 (md : Modes) (a b : Lane) : Lane × FFlags :=
  let x := fp32.read md a.toNat
  let y := fp32.read md b.toNat
  if x.isNan || y.isNan then (BitVec.ofNat 32 (pickNaN fp32 fp32 md [x, y]), snanFlag [x, y])
  else
    match mulFV x y with
    | none => (BitVec.ofNat 32 fp32.cnan, flNV)
    | some (.fin s m e) => let r := roundTo fp32 md s m e; (BitVec.ofNat 32 r.1, r.2)
    | some v => (BitVec.ofNat 32 (fp32.infBits v.sign), 0)

/-- 0·∞ in the product of a and b (R158). -/
def zeroTimesInf (x y : FV) : Bool := (x.isZero && y.isInf) || (x.isInf && y.isZero)

/-- fma and fnma of three FP32 patterns: ±(a·b) + c with one rounding (R158, R159). -/
def fma32 (md : Modes) (negP : Bool) (a b c : Lane) : Lane × FFlags :=
  let x := fp32.read md a.toNat
  let y := fp32.read md b.toNat
  let z := fp32.read md c.toNat
  if x.isNan || y.isNan || z.isNan then
    (BitVec.ofNat 32 (pickNaN fp32 fp32 md [x, y, z]),
      snanFlag [x, y, z] ||| (if zeroTimesInf x y then flNV else 0))
  else
    match mulFV x y with
    | none => (BitVec.ofNat 32 fp32.cnan, flNV)
    | some p =>
      let r := addFV fp32 md (if negP then p.neg else p) z
      (BitVec.ofNat 32 r.1, r.2)

/-- x < y for two values that are no NaN; −0 equals +0. -/
def ltFV (x y : FV) : Bool :=
  match x, y with
  | .inf s, .inf t => s && !t
  | .inf s, _ => s
  | _, .inf t => !t
  | .fin s m e, .fin t n k => let lo := min e k; decide (scaled s m e lo < scaled t n k lo)
  | _, _ => false

/-- x = y for two values that are no NaN. -/
def eqFV (x y : FV) : Bool := !ltFV x y && !ltFV y x

/-- The pattern of an operand as read after FlushIn. -/
def flushedBits (md : Modes) (a : Lane) : Lane :=
  match fp32.read md a.toNat with
  | .fin s 0 _ => BitVec.ofNat 32 (fp32.signBits s)
  | _ => a

/-- va.fmin (mx false) and va.fmax (mx true) (R160). -/
def fminmax32 (md : Modes) (mx : Bool) (a b : Lane) : Lane × FFlags :=
  let x := fp32.read md a.toNat
  let y := fp32.read md b.toNat
  let fl := snanFlag [x, y]
  if x.isNan && y.isNan then (BitVec.ofNat 32 (pickNaN fp32 fp32 md [x, y]), fl)
  else if x.isNan then (flushedBits md b, fl)
  else if y.isNan then (flushedBits md a, fl)
  else if ltFV x y then (flushedBits md (if mx then b else a), fl)
  else if ltFV y x then (flushedBits md (if mx then a else b), fl)
  else if x.sign == y.sign || md.level1 then (flushedBits md a, fl)
  else (BitVec.ofNat 32 (fp32.signBits (!mx)), fl)

/-- va.fcmp (R161). -/
def fcmp32 (md : Modes) (c : FCond) (a b : Lane) : Lane × FFlags :=
  let x := fp32.read md a.toNat
  let y := fp32.read md b.toNat
  let nan := x.isNan || y.isNan
  let ordered := match c with
    | .lt => true | .le => true | .gt => true | .ge => true
    | .eq => false | .ne => false | .un => false | .ord => false
  let res := match c with
    | .eq => !nan && eqFV x y
    | .ne => nan || !eqFV x y
    | .lt => !nan && ltFV x y
    | .le => !nan && !ltFV y x
    | .gt => !nan && ltFV y x
    | .ge => !nan && !ltFV x y
    | .un => nan
    | .ord => !nan
  (if res then 1 else 0, if (ordered && nan) || x.isSnan || y.isSnan then flNV else 0)

/-- va.fcls: exactly one of bits 9:0, without input flush (R161). -/
def fcls32 (a : Lane) : Lane :=
  1 <<< (match fp32.dec a.toNat with
    | .inf true => 0
    | .fin true 0 _ => 3
    | .fin true m _ => if m < 2 ^ 23 then 2 else 1
    | .fin false 0 _ => 4
    | .fin false m _ => if m < 2 ^ 23 then 5 else 6
    | .inf false => 7
    | .nan _ false _ => 8
    | .nan _ true _ => 9)

/-! ## Conversions (R114, R162) -/

/-- FP to FP of another plain format (R114): exact when wider, rounded when narrower. -/
def cvtFF (src dst : Fmt) (md : Modes) (b : Nat) : Nat × FFlags :=
  match src.read md b with
  | .nan s q pay => (pickNaN src dst md [.nan s q pay], snanFlag [.nan s q pay])
  | .inf s => (dst.infBits s, 0)
  | .fin s m e => roundTo dst md s m e

/-- Signed or unsigned saturation of ±v to n bits, as a pattern of 32 bits, and whether it changed the value. -/
def satBits (n : Nat) (signed s : Bool) (v : Nat) : Lane × Bool :=
  let x : Int := if s then -(v : Int) else v
  let lo : Int := if signed then -(2 ^ (n - 1) : Nat) else 0
  let hi : Int := if signed then (2 ^ (n - 1) : Nat) - 1 else (2 ^ n : Nat) - 1
  if x < lo then (BitVec.ofInt 32 lo, true)
  else if hi < x then (BitVec.ofInt 32 hi, true)
  else (BitVec.ofInt 32 x, false)

/-- FP32 to an n-bit integer (R114). -/
def toInt32 (n : Nat) (signed : Bool) (md : Modes) (a : Lane) : Lane × FFlags :=
  match fp32.read md a.toNat with
  | .nan _ _ _ => (if md.level1 then (satBits n signed false (2 ^ 64)).1 else 0, flNV)
  | .inf s => ((satBits n signed s (2 ^ 64)).1, flNV)
  | .fin s m e =>
    let v := roundInt md.rnd s m e
    let r := satBits n signed s v
    (r.1, if r.2 then flNV else if dyEq v 0 m e then 0 else flNX)

/-- Integer to FP32 (R114). -/
def ofInt32 (md : Modes) (v : Int) : Lane × FFlags :=
  let r := roundTo fp32 md (decide (v < 0)) v.natAbs 0
  (BitVec.ofNat 32 r.1, r.2)

/-- .f32_rint (R162). -/
def rint32 (md : Modes) (a : Lane) : Lane × FFlags :=
  match fp32.read md a.toNat with
  | .nan s q p => (BitVec.ofNat 32 (pickNaN fp32 fp32 md [.nan s q p]), snanFlag [.nan s q p])
  | .inf s => (BitVec.ofNat 32 (fp32.infBits s), 0)
  | .fin s m e =>
    let v := roundInt md.rnd s m e
    let r := roundTo fp32 { md with rnd := .rne } s v 0
    (BitVec.ofNat 32 r.1, if dyEq v 0 m e then 0 else flNX)

/-- 16-bit conversion through FP32 (R114): each step reads and writes through the flush of its class. -/
def via32 (src dst : Fmt) (md : Modes) (b : Nat) : Nat × FFlags :=
  let x := cvtFF src fp32 { md with of32 := false } b
  let y := cvtFF fp32 dst { md with if32 := false } x.1
  (y.1, x.2 ||| y.2)

/-- va.cvt (R162). -/
def cvt32 (c : Cvt) (md : Modes) (a : Lane) : Lane × FFlags :=
  let lo := (a.setWidth 16).toNat
  let w (r : Nat × FFlags) : Lane × FFlags := (BitVec.ofNat 32 r.1, r.2)
  match c with
  | .f32ToF16 => w (cvtFF fp32 fp16 md a.toNat)
  | .f32ToBf16 => w (cvtFF fp32 bf16 md a.toNat)
  | .f16ToF32 => w (cvtFF fp16 fp32 md lo)
  | .bf16ToF32 => w (cvtFF bf16 fp32 md lo)
  | .f16ToBf16 => w (via32 fp16 bf16 md lo)
  | .bf16ToF16 => w (via32 bf16 fp16 md lo)
  | .f32ToInt32 => toInt32 32 true md a
  | .f32ToUint32 => toInt32 32 false md a
  | .int32ToF32 => ofInt32 md a.toInt
  | .uint32ToF32 => ofInt32 md a.toNat
  | .f32ToInt8 => toInt32 8 true md a
  | .f32ToUint8 => toInt32 8 false md a
  | .int8ToF32 => ofInt32 md (a.setWidth 8).toInt
  | .uint8ToF32 => ofInt32 md (a.setWidth 8).toNat
  | .f32Rint => rint32 md a

/-! ## Tiered scale (R102 to R105) -/

/-- Mantissa width (R102). -/
def TsFmt.m : TsFmt → Nat
  | .ts2 => 2
  | .ts4 => 4
  | .ts7 => 7

/-- The value of one element: none for an element of a NaN block (R103). -/
def tsValue (m : Nat) (ifts : Bool) (e : Nat) (mu s : Bool) (man : Nat) : Option FV :=
  if e = 255 then none
  else if e = 0 && ifts then some (.fin s 0 0)
  else some (.fin s man ((e : Int) - 127 - (if mu then 1 else 0) - ((m : Int) - 1)))

/-- A quantised block (R105): exponent, micro-exponents, signs and mantissas, and the flags. -/
structure TsBlock where
  e : Nat
  mu : List Bool
  s : List Bool
  m : List Nat
  fl : FFlags
  deriving DecidableEq, Repr, Inhabited

/-- The NaN block of R105's first branch. -/
def tsNanBlock (fl : FFlags) : TsBlock :=
  ⟨255, List.replicate 8 false, List.replicate 16 false, List.replicate 16 0, fl⟩

/-- |RoundInt(x / 2^k, mode)| of a finite value. -/
def tsQuot (r : Rnd) (x : FV) (k : Int) : Nat :=
  match x with
  | .fin s m e => roundInt r s m (e - k)
  | _ => 0

/-- The larger of two magnitudes. -/
def dyMax (a b : Nat × Int) : Nat × Int := if dyLt a.1 a.2 b.1 b.2 then b else a

/-- TsEncode(m, mode, x) for sixteen values already read through the flush of their class (R105, R120). -/
def tsEncode (m : Nat) (md : Modes) (x : List FV) : TsBlock :=
  if x.any (fun v => v.isNan || v.isInf) then
    tsNanBlock (if x.any (fun v => v.isSnan || v.isInf) then flNV else 0)
  else
    let s := x.map FV.sign
    let amax := x.foldl (fun a v => match v with
      | .fin _ n e => dyMax a (n, e)
      | _ => a) (0, 0)
    if amax.1 = 0 then ⟨0, List.replicate 8 false, s, List.replicate 16 0, 0⟩
    else
      let e0 := (max 0 (flog2 amax.1 amax.2 + 127)).toNat
      let top := (x.map fun v => tsQuot md.rnd v ((e0 : Int) - 127 - ((m : Int) - 1))).foldl max 0
      let e1 := if top = 2 ^ m then e0 + 1 else e0
      if e1 = 255 && md.level1 then tsNanBlock flOVNX
      else
        let sat := decide (e1 = 255)
        let e := if sat then 254 else e1
        let q1 : Int := (e : Int) - 128 - ((m : Int) - 1)
        let fits := x.map fun v => decide (tsQuot md.rnd v q1 ≤ 2 ^ m - 1)
        let mu := (List.range 8).map fun j => fits.getD (2 * j) false && fits.getD (2 * j + 1) false
        let q (i : Nat) : Int := (e : Int) - 127 - (if mu.getD (i / 2) false then 1 else 0) - ((m : Int) - 1)
        let man := (List.range 16).map fun i => min (tsQuot md.rnd (x.getD i (.fin false 0 0)) (q i)) (2 ^ m - 1)
        let inexact := (List.range 16).any fun i =>
          match x.getD i (.fin false 0 0) with
          | .fin _ n k => !dyEq (man.getD i 0) (q i) n k
          | _ => false
        let fl := (if inexact then flNX else 0) ||| (if sat then flOVNX else 0)
          ||| (if e = 0 && inexact then 8 else 0)
        if e = 0 && md.ofts then ⟨e, mu, s, List.replicate 16 0, fl ||| flUFNX⟩
        else ⟨e, mu, s, man, fl⟩

/-- The 2-byte scale record (R104). -/
def tsScale (b : TsBlock) : Nat :=
  b.e + (List.range 8).foldl (fun a j => a + (if b.mu.getD j false then 2 ^ (8 + j) else 0)) 0

/-- The field of element i: sign above the m mantissa bits (R104). -/
def tsField (m : Nat) (b : TsBlock) (i : Nat) : Nat :=
  (if b.s.getD i false then 2 ^ m else 0) + b.m.getD i 0

/-- va.tsdq of one lane: element field in a, scale record in bits 31:16 of b, lane i of its block (R164). -/
def tsdq32 (m : Nat) (md : Modes) (i : Nat) (a b : Lane) : Lane × FFlags :=
  let man := a.toNat % 2 ^ m
  let s := a.toNat.testBit m
  match tsValue m md.ifts ((b >>> 16).toNat % 256) ((b >>> 24).toNat.testBit (i % 16 / 2)) s man with
  | none => (BitVec.ofNat 32 fp32.cnan, 0)
  | some (.fin t n e) => let r := roundTo fp32 { md with level1 := false } t n e; (BitVec.ofNat 32 r.1, r.2)
  | some _ => (BitVec.ofNat 32 fp32.cnan, 0)

end Sys2Proof.Machine
end

