-- ==== Sys2Proof/Machine/Special.lean ====
section
/-!
DEFINITION. The special functions of VB (R165 to R172). Where a table gives the result it is computed; elsewhere the spec
gives only an error bound, and the result is the free value Config.approx when that lies within the bound and the correctly
rounded value otherwise, so that every result the bound admits stays possible (log entry 11). Reference values are kept as
integers scaled by 2^192; their own error, below 2^100 on that scale, widens the bound.
-/
namespace Sys2Proof.Machine

/-- 2π·2^192. -/
def twoPiFx : Int := 39440193395453077124792266728456537782926901730380179465120
/-- ln 2·2^192. -/
def ln2Fx : Int := 4350955369971217654477563090224794165364344896676135745069
/-- log2 e·2^192. -/
def log2eFx : Int := 9055943544797870567083544809312461607371518589544137143473

/-- Product of two scaled values. -/
def fxMul (a b : Int) : Int := (a * b) / 2 ^ 192

/-- Σ of a series whose next term is the last one times x/(d k): the sine, cosine and exponential series. -/
def fxSeries (x : Int) (d : Nat → Nat) : Nat → Nat → Int → Int
  | 0, _, _ => 0
  | n + 1, k, t => t + fxSeries x d n (k + 1) (fxMul t x / (d k : Int))

/-- e^y for 0 ≤ y < 1, scaled. -/
def fxExp (y : Int) : Int := fxSeries y (fun k => k + 1) 50 0 (2 ^ 192)

/-- 2^f for a scaled 0 ≤ f < 1. -/
def fxExp2 (f : Int) : Int := fxExp (fxMul f ln2Fx)

/-- Σ z^(2k+1)/(2k+1). -/
def fxAtanh (z2 : Int) : Nat → Nat → Int → Int
  | 0, _, _ => 0
  | n + 1, k, t => t / (2 * k + 1 : Nat) + fxAtanh z2 n (k + 1) (fxMul t z2)

/-- log2 of a scaled 1 ≤ x < 2. -/
def fxLog2 (x : Int) : Int :=
  let z := ((x - 2 ^ 192) * 2 ^ 192) / (x + 2 ^ 192)
  fxMul (2 * fxAtanh (fxMul z z) 64 0 z) log2eFx

/-- sin(2πt) for a scaled |t| ≤ 1/2. -/
def fxSin (t : Int) : Int :=
  let x := fxMul t twoPiFx
  fxSeries (-fxMul x x) (fun k => (2 * k + 2) * (2 * k + 3)) 50 0 x

/-- cos(2πt) for a scaled |t| ≤ 1/2. -/
def fxCos (t : Int) : Int :=
  let x := fxMul t twoPiFx
  fxSeries (-fxMul x x) (fun k => (2 * k + 1) * (2 * k + 2)) 50 0 (2 ^ 192)

/-- ⌊√n⌋ for n < 2^(2i). -/
def isqrt (n : Nat) : Nat → Nat → Nat
  | 0, r => r
  | i + 1, r => isqrt n i (if (r + 2 ^ i) * (r + 2 ^ i) ≤ n then r + 2 ^ i else r)

/-- ±m·2^e scaled by 2^192, for e ≥ −192. -/
def fxOf (s : Bool) (m : Nat) (e : Int) : Int :=
  let v : Int := if 0 ≤ e + 192 then (m : Int) * 2 ^ (e + 192).toNat else (m : Int) / 2 ^ (-(e + 192)).toNat
  if s then -v else v

/-- A candidate within an absolute bound (scaled) of a scaled reference. -/
def nearAbs (r b : Int) (c : FV) : Bool :=
  match c with
  | .fin s m e => decide ((fxOf s m e - r).natAbs ≤ b.natAbs + 2 ^ 100)
  | _ => false

/-- Modes that round to nearest and flush nothing. -/
def plainModes : Modes := ⟨.rne, false, false, false, false, false, false, false⟩

/-- A scaled reference rounded to FP32. -/
def fxRound (r : Int) (e : Int) : Lane :=
  BitVec.ofNat 32 (roundTo fp32 plainModes (decide (r < 0)) r.natAbs (e - 192)).1

/-- The result where only a bound is given: the free value if it meets it, else the reference. -/
def chooseApprox (fn : SpecFn) (fmode compat : Word) (a : Lane) (ok : FV → Bool) (ref : Lane) : Lane :=
  let c := Config.approx fn a fmode compat
  if ok (fp32.dec c.toNat) then c else ref

/-- A nonzero result below 2^−126 in magnitude. -/
def isTiny32 (r : Lane) : Bool :=
  match fp32.dec r.toNat with
  | .fin _ m _ => m != 0 && decide (m < 2 ^ 23)
  | _ => false

/-- A result a table gives exactly: only output flush applies to it (R165). -/
def finishExact (md : Modes) (r : Lane) : Lane × FFlags :=
  if isTiny32 r && md.of32 then (r &&& 0x80000000, flUFNX) else (r, 0)

/-- A result within a bound where the exact value is tiny: it is flushed under FMODE.OF32 and at COMPAT level 1 (R165, R120). -/
def finishApprox (md : Modes) (r : Lane) : Lane × FFlags :=
  if isTiny32 r && (md.of32 || md.level1) then (r &&& 0x80000000, flUFNX) else (r, 0)

/-- A result within a bound where the exact value is not tiny: no flag (R165 to R172). Where a tiny result would be flushed, none is
given. -/
def finishBound (md : Modes) (fn : SpecFn) (fmode compat : Word) (a : Lane) (ok : FV → Bool) (ref : Lane) : Lane × FFlags :=
  let normal (c : FV) : Bool := match c with
    | .fin _ m _ => m == 0 || decide (2 ^ 23 ≤ m)
    | _ => true
  (chooseApprox fn fmode compat a (fun c => ok c && (normal c || !(md.of32 || md.level1))) ref, 0)

def infLane (s : Bool) : Lane := BitVec.ofNat 32 (fp32.infBits s)
def zeroLane (s : Bool) : Lane := BitVec.ofNat 32 (fp32.signBits s)
def oneLane (s : Bool) : Lane := BitVec.ofNat 32 (fp32.signBits s + 0x3F800000)
def cnanLane : Lane := 0x7FC00000

/-- m is a power of two. -/
def isPow2 (m : Nat) : Bool := m != 0 && m == 2 ^ m.log2

/-- The FP32 pattern of ±2^k. -/
def pow2Lane (s : Bool) (k : Int) : Lane := BitVec.ofNat 32 (roundTo fp32 plainModes s 1 k).1

/-- vb.rcp of a finite nonzero ±m·2^e (R166). -/
def rcpFin (fmode compat : Word) (md : Modes) (a : Lane) (s : Bool) (m : Nat) (e : Int) : Lane × FFlags :=
  if dyLt m e 1 (-128) then (infLane s, flOVNX)
  else if dyEq m e 1 (-128) then (BitVec.ofNat 32 (fp32.maxBits s), 0)
  else if isPow2 m && !dyLt m e 1 (-126) && !dyLt 1 126 m e then (pow2Lane s (-(flog2 m e)), 0)
  else
    let tiny := dyLt 1 126 m e
    -- |v·a − 1| within 2^−22, or |v − 1/a| within 2^−150 where the result is tiny; a·v scaled by 2^400
    let ok (c : FV) : Bool := match c with
      | .fin t n k =>
        let p : Int := (m * n * 2 ^ (e + k + 400).toNat : Nat)
        let d := (p - 2 ^ 400).natAbs
        t == s && n != 0 && (decide (d ≤ 2 ^ 378) || (tiny && decide (d ≤ m * 2 ^ (e + 250).toNat)))
          && (!tiny || decide (n < 2 ^ 23))
      | _ => false
    let ref := BitVec.ofNat 32 (roundTo fp32 plainModes s (2 ^ 100 / m) (-100 - e)).1
    if tiny then finishApprox md (chooseApprox .rcp fmode compat a ok ref) else finishBound md .rcp fmode compat a ok ref

/-- vb.rsqrt of a positive finite m·2^e (R167). -/
def rsqrtFin (fmode compat : Word) (md : Modes) (a : Lane) (m : Nat) (e : Int) : Lane × FFlags :=
  let lg := flog2 m e
  if isPow2 m && lg % 2 == 0 then (pow2Lane false (-(lg / 2)), 0)
  else
    let ok (c : FV) : Bool := match c with
      | .fin false n k =>
        let p := n * n * m * 2 ^ (2 * k + e + 700).toNat
        decide ((2 ^ 22 - 1) * (2 ^ 22 - 1) * 2 ^ 656 ≤ p) && decide (p ≤ (2 ^ 22 + 1) * (2 ^ 22 + 1) * 2 ^ 656)
      | _ => false
    -- e made even: 1/√(m·2^e) = √(2^200 / m)·2^(−100 − e/2)
    let m' := if e % 2 == 0 then m else 2 * m
    let e' := if e % 2 == 0 then e else e - 1
    let ref := BitVec.ofNat 32 (roundTo fp32 plainModes false (isqrt (2 ^ 200 / m') 101 0) (-100 - e' / 2)).1
    finishBound md .rsqrt fmode compat a ok ref

/-- vb.sqrt of a positive finite m·2^e: RoundTo(FP32, RNE, √a) (R168). -/
def sqrtFin (md : Modes) (m : Nat) (e : Int) : Lane × FFlags :=
  let e' := if e % 2 == 0 then e - 100 else e - 101
  let m' := m * 2 ^ (e - e').toNat
  let r := isqrt m' 70 0
  let x := if r * r = m' then roundTo fp32 { md with rnd := .rne } false r (e' / 2)
    else roundTo fp32 { md with rnd := .rne } false (2 * r + 1) (e' / 2 - 1)
  (BitVec.ofNat 32 x.1, x.2)

/-- vb.exp2 of a finite ±m·2^e (R169). -/
def exp2Fin (fmode compat : Word) (md : Modes) (a : Lane) (s : Bool) (m : Nat) (e : Int) : Lane × FFlags :=
  if m = 0 then (oneLane false, 0)
  else if s && !dyLt m e 150 0 then (zeroLane false, flUFNX)
  else if !s && !dyLt m e 128 0 then (infLane false, flOVNX)
  else
    let x := fxOf s m e
    let k := x / 2 ^ 192
    let f := x % 2 ^ 192
    if dyEq (roundInt .rz s m e) 0 m e then finishExact md (pow2Lane false k)
    else
      let y := fxExp2 f
      let tiny := decide (k < -126)
      -- the candidate divided by 2^k against 2^f
      let ok (c : FV) : Bool := match c with
        | .fin false n j =>
          let d := (fxOf false n (j - k) - y).natAbs
          n != 0 && (decide (d ≤ y.natAbs / 2 ^ 22 + 2 ^ 100)
            || (tiny && decide (d ≤ 2 ^ (42 - k).toNat + 2 ^ 100))) && (!tiny || decide (n < 2 ^ 23))
        | _ => false
      let ref := fxRound y k
      if tiny then finishApprox md (chooseApprox .exp2 fmode compat a ok (if isTiny32 ref then ref else 0x007FFFFF))
      else finishBound md .exp2 fmode compat a ok ref

/-- vb.log2 of a positive finite m·2^e (R170). -/
def log2Fin (fmode compat : Word) (md : Modes) (a : Lane) (m : Nat) (e : Int) : Lane × FFlags :=
  let k := flog2 m e
  if isPow2 m then (BitVec.ofNat 32 (roundTo fp32 plainModes (decide (k < 0)) k.natAbs 0).1, 0)
  else
    let r := k * 2 ^ 192 + fxLog2 ((m : Int) * 2 ^ (192 - m.log2))
    let b : Int := if k = 0 || k = -1 then 2 ^ 170 else (r.natAbs : Int) / 2 ^ 22
    finishBound md .log2 fmode compat a (nearAbs r b) (fxRound r 0)

/-- The fraction of a revolution nearest zero, scaled. -/
def revFrac (s : Bool) (m : Nat) (e : Int) : Int :=
  let t := fxOf s m e % 2 ^ 192
  if t < 2 ^ 191 then t else t - 2 ^ 192

/-- vb.sin (c false) and vb.cos (c true) of a finite ±m·2^e, in revolutions (R171). -/
def sincosFin (fmode compat : Word) (md : Modes) (a : Lane) (c : Bool) (s : Bool) (m : Nat) (e : Int) : Lane × FFlags :=
  if m = 0 then (if c then oneLane false else zeroLane s, 0)
  else if -2 ≤ e || dyEq (roundInt .rz s m (e + 2)) 0 m (e + 2) then
    let q := (if s then -(roundInt .rz s m (e + 2) : Int) else (roundInt .rz s m (e + 2) : Int)) % 4
    let q := if c then (q + 1) % 4 else q
    (if q = 1 then oneLane false else if q = 3 then oneLane true else zeroLane false, 0)
  else if decide ((m : Int) * twoPiFx < 2 ^ (66 - e).toNat) then
    if c then (oneLane false, 0)
    else
      let ok (v : FV) : Bool := match v with
        | .fin _ n _ => n != 0 && decide (n < 2 ^ 23)
        | _ => false
      let r := BitVec.ofNat 32 (roundTo fp32 plainModes s (m * twoPiFx.natAbs) (e - 192)).1
      let ref := if isTiny32 r then r else zeroLane s ||| (if r &&& 0x7FFFFFFF = 0 then 1 else 0x007FFFFF)
      let x := chooseApprox .sin fmode compat a ok ref
      if md.of32 || md.level1 then (zeroLane s, flUFNX) else (x, 0)
  else
    let t := revFrac s m e
    let r := if c then fxCos t else fxSin t
    finishBound md (if c then .cos else .sin) fmode compat a (nearAbs r (2 ^ 170)) (fxRound r 0)

/-- vb.tanh of a finite ±m·2^e (R172). -/
def tanhFin (fmode compat : Word) (md : Modes) (a : Lane) (s : Bool) (m : Nat) (e : Int) : Lane × FFlags :=
  if dyLt m e 1 (-12) then finishExact md a
  else if !dyLt m e 9 0 then (oneLane s, 0)
  else
    let y := fxMul (2 * fxOf false m e) log2eFx
    let z := fxExp2 (y % 2 ^ 192) * 2 ^ (y / 2 ^ 192).toNat
    let r := ((z - 2 ^ 192) * 2 ^ 192) / (z + 2 ^ 192)
    let r := if s then -r else r
    finishBound md .tanh fmode compat a (nearAbs r (2 ^ 170)) (fxRound r 0)

/-- A special function of one lane (R165 to R172); FMODE.RM has no effect. -/
def special32 (fn : SpecFn) (fm compat : Word) (a0 : Lane) : Lane × FFlags :=
  let fmode := fm &&& ~~~3#64
  let md := modesOf fmode compat .fmode
  let a := flushedBits md a0
  match fp32.dec a.toNat with
  | .nan s q p => (BitVec.ofNat 32 (pickNaN fp32 fp32 md [.nan s q p]), snanFlag [.nan s q p])
  | .inf s =>
    match fn with
    | .rcp => (zeroLane s, 0)
    | .rsqrt => if s then (cnanLane, flNV) else (zeroLane false, 0)
    | .sqrt => if s then (cnanLane, flNV) else (infLane false, 0)
    | .exp2 => if s then (zeroLane false, 0) else (infLane false, 0)
    | .log2 => if s then (cnanLane, flNV) else (infLane false, 0)
    | .sin => (cnanLane, flNV)
    | .cos => (cnanLane, flNV)
    | .tanh => (oneLane s, 0)
  | .fin s m e =>
    match fn with
    | .rcp => if m = 0 then (infLane s, flDZ) else rcpFin fmode compat md a s m e
    | .rsqrt =>
      if m = 0 then (infLane s, flDZ) else if s then (cnanLane, flNV) else rsqrtFin fmode compat md a m e
    | .sqrt => if m = 0 then (zeroLane s, 0) else if s then (cnanLane, flNV) else sqrtFin md m e
    | .exp2 => exp2Fin fmode compat md a s m e
    | .log2 =>
      if m = 0 then (infLane true, flDZ) else if s then (cnanLane, flNV) else log2Fin fmode compat md a m e
    | .sin => sincosFin fmode compat md a false s m e
    | .cos => sincosFin fmode compat md a true s m e
    | .tanh => tanhFin fmode compat md a s m e

end Sys2Proof.Machine
end

