-- ==== Sys2Proof/Machine/MatrixUnit.lean ====
section
/-!
DEFINITION. The XU operations (R211 to R228): what a command reads and writes, its acceptance (R212, R216), the arithmetic of
the products (R115 to R118), and each command's effect when the engine runs it.
-/
namespace Sys2Proof.Machine

/-! ## What a command uses (R216) -/

/-- The scratchpad ranges and accumulators a command reads and writes. -/
structure XuUse where
  rd : List (Nat × Nat)
  wr : List (Nat × Nat)
  rdAcc : List Nat
  wrAcc : List Nat
  deriving DecidableEq, Repr, Inhabited

/-- Ranges of the operands of a product. -/
def productSpans (m : MArgs) (trans : Bool) : List (Nat × Nat) × List (Nat × Nat) :=
  match descOf m.fa, descOf m.fb with
  | some da, some db => (operandSpans da m.oa.toNat m.oc.toNat false, operandSpans db m.ob.toNat m.oc.toNat trans)
  | _, _ => ([], [])

/-- Ranges of an accumulator's image. -/
def imageSpans (m : MArgs) : List (Nat × Nat) :=
  match descOf m.fa with
  | some d => accSpans d m.oa.toNat
  | none => []

/-- What a command uses: a destination accumulator counts as written only (log entry 40). -/
def xuUse (i : Instr) (m : MArgs) : XuUse :=
  let prod (acc : BitVec 3) (trans : Bool) : XuUse :=
    let x := productSpans m trans
    ⟨x.1 ++ x.2, [], [], [acc.toNat]⟩
  let two (d a : BitVec 3) : XuUse := ⟨[], [], if a = d then [] else [a.toNat], [d.toNat]⟩
  match i with
  | .xuMma acc _ _ _ _ _ _ => prod acc false
  | .xuMmat acc _ _ _ _ _ _ => prod acc true
  | .xuDist acc _ _ _ _ _ _ => prod acc false
  | .xuTopk _ _ acc _ _ _ => ⟨[], [(m.oa.toNat, 8192)], [acc.toNat], []⟩
  | .xuAccst _ _ acc _ _ _ => ⟨[], imageSpans m, [acc.toNat], []⟩
  | .xuAccld acc _ _ _ => ⟨imageSpans m, [], [], [acc.toNat]⟩
  | .xuAcczr acc _ => ⟨[], [], [], [acc.toNat]⟩
  | .xuAccadd acc acb _ => two acc acb
  | .xuAccscl acc _ _ => ⟨[], [], [], [acc.toNat]⟩
  | .xuAccmv acc acb _ => two acc acb
  | .xuAcctr acc acb _ => two acc acb
  | _ => default

/-- BUSYW of an accumulator. -/
def Block.accW (b : Block) (a : Nat) : Bool := (b.accBusy.get a).getLsbD 0
/-- BUSYR of an accumulator. -/
def Block.accR (b : Block) (a : Nat) : Nat := ((b.accBusy.get a).extractLsb' 1 3).toNat
/-- Sets both. -/
def Block.setAcc (b : Block) (a : Nat) (w : Bool) (r : Nat) : Block :=
  { b with accBusy := b.accBusy.set a (BitVec.ofNat 4 ((if w then 1 else 0) + 2 * (r % 8))) }

/-- The busy tests of R43 for an issuing command, on the state at the start of the clock (R212). -/
def Block.xuReady (b : Block) (u : XuUse) : Bool :=
  let b0 : Block := { b with accBusy := b.accBusy0 }
  ((spanTiles u.rd).all fun i => !tsBusyW (b.tiles0.get i) && b.roomR i)
    && ((spanTiles u.wr).all fun i => !tsBusyW (b.tiles0.get i) && tsBusyR (b.tiles0.get i) == 0)
    && (u.rdAcc.all fun a => !b0.accW a && decide (b0.accR a < 7) && decide (b.accR a < 7))
    && u.wrAcc.all fun a => !b0.accW a && b0.accR a == 0

/-- The state a command sets at its acceptance (R44, R216). -/
def Block.xuStart (b : Block) (u : XuUse) : Block :=
  let b := b.busyR (spanTiles u.rd) true
  let b := u.wr.foldl (fun b x => b.clearChunks x.1 x.2 true) b
  let b := u.rdAcc.foldl (fun b a => b.setAcc a (b.accW a) (b.accR a + 1)) b
  u.wrAcc.foldl (fun b a => b.setAcc a true (b.accR a)) b

/-- What a command gives back at its completion, with the chunks of its footprint set (R216). -/
def Block.xuEnd (b : Block) (u : XuUse) : Block :=
  let b := b.busyR (spanTiles u.rd) false
  let b := u.wr.foldl (fun b x => (tilesOf x.1 x.2).foldl (fun b i => b.setChunks i (chunkMask x.1 x.2 i)) b) b
  let b := b.clearBusyW (spanTiles u.wr)
  let b := u.rdAcc.foldl (fun b a => b.setAcc a (b.accW a) (b.accR a - 1)) b
  u.wrAcc.foldl (fun b a => b.setAcc a false (b.accR a)) b

/-! ## Acceptance (R212) -/

/-- The engine has room and has accepted no other command in this clock, no XU slot of a lower partition issues in it, and the busy
tests pass (R212). -/
def Env.xuFree (e : Env) (i : Instr) : Bool :=
  let first := e.s.turn (turnXu (coreOf e.z))
  match e.s.cores.get? (coreOf e.z) with
  | none => false
  | some c => decide (c.mq.length < 8) && c.xacc != e.s.clock + 1 && (first == 0 || decide (partOf e.z % 4 < first))
      && e.b.xuReady (xuUse i (e.xuArgs i))

/-- A blocked command keeps the values its queue reads have given once their bytes were ready (R213). -/
def State.keepReads (s : State) (x : Slot) (i : Instr) : State :=
  let new := i.valSels.filterMap fun
    | .queue h k =>
      if x.e.c.qv.any fun q => q.sel == Sel.enc (.queue h k) && q.ready then none
      else some (⟨Sel.enc (.queue h k), x.e.entry h k, x.e.queueWord h k, x.e.scalarP (.queue h k), true, []⟩ : QCap)
    | _ => none
  if new.isEmpty then s
  else s.updCtx x.e.z fun c => { c with qv := (c.qv.filter fun q => !new.any fun y => y.sel == q.sel) ++ new }

/-- Accepts a command: the slot commits, its stream advances, and its busy state is set (R212, R216). One that uses
a tile of poisoned state is abandoned (R321). -/
def State.accept (s : State) (x : Slot) (i : Instr) : State :=
  let e := x.e
  let m := e.xuArgs i
  let c : MCmd := ⟨e.opId i, e.t.blk, e.z, i, m, ((e.memOp i).map MemOp.preds).getD [], 0, none, []⟩
  let u := xuUse i m
  let s := s.updTeam e.z fun t => t.orderAfter (e.opId i)
  if (spanTiles (u.rd ++ u.wr)).any fun n => e.b.tileP.get n != 0 then
    (s.updTeam e.z fun t => t.pendCause (.uncorrectable 5)).setSt e.z x.k .done
  else
  let s := s.updBlock e.t.blk fun b => b.xuStart u
  (s.updCore (coreOf e.z) fun k => { k with mq := k.mq ++ [c], xacc := s.clock + 1 }).setSt e.z x.k .done

/-- A command's slot: it is accepted, or blocks until the engine accepts it (R32, R212). -/
def runXu (i : Instr) (s : State) : Host.Outcome State Fault Refusal :=
  runSlot i s fun x =>
    if !x.e.queueReady i then x.e.s.setSt x.e.z x.k .blocked
    else if x.e.xuFree i then x.e.s.accept x i
    else (x.e.s.keepReads x i).setSt x.e.z x.k .blocked

/-- xu.fmt (R220): a slot read of 16 bytes; reserved bits land as 0. -/
def execXuFmt (fa : BitVec 3) (oa : Sel) (st : Strm) (s : State) : Host.Outcome State Fault Refusal :=
  let i := Instr.xuFmt fa oa st
  runScalar i s (fun e =>
    let a := (e.addrVal .f oa).toNat
    e.predsReady i && e.b.readReady a 16 && e.t.locFree (e.opId i) (.spad (e.b.key a)) 16) fun e s =>
    let k := e.b.key (e.addrVal .f oa).toNat
    let v := s.spadLoad e i k 16
    ((v.1.postRows (coreOf e.z) (partOf e.z % 4) (bankRows [k] [])).landScalar e i .xu fa.toNat (v.2.1 &&& descMask)
      v.2.2).slotDone e i

/-- xu.mma (R223). -/
def execXuMma (acc fa fb : BitVec 3) (oa ob oc : Sel) (st : Strm) (s : State) : Host.Outcome State Fault Refusal :=
  runXu (.xuMma acc fa fb oa ob oc st) s

/-- xu.mmat (R223). -/
def execXuMmat (acc fa fb : BitVec 3) (oa ob oc : Sel) (st : Strm) (s : State) : Host.Outcome State Fault Refusal :=
  runXu (.xuMmat acc fa fb oa ob oc st) s

/-- xu.dist (R223). -/
def execXuDist (acc fa fb : BitVec 3) (oa ob oc : Sel) (st : Strm) (s : State) : Host.Outcome State Fault Refusal :=
  runXu (.xuDist acc fa fb oa ob oc st) s

/-- xu.topk (R228). -/
def execXuTopk (largest i32 : Bool) (acc : BitVec 3) (oa ob : Sel) (st : Strm) (s : State) :
    Host.Outcome State Fault Refusal := runXu (.xuTopk largest i32 acc oa ob st) s

/-- xu.accst (R225). -/
def execXuAccst (i32 : Bool) (rm : Rm) (acc fa : BitVec 3) (oa : Sel) (st : Strm) (s : State) :
    Host.Outcome State Fault Refusal := runXu (.xuAccst i32 rm acc fa oa st) s

/-- xu.accld (R226). -/
def execXuAccld (acc fa : BitVec 3) (oa : Sel) (st : Strm) (s : State) : Host.Outcome State Fault Refusal :=
  runXu (.xuAccld acc fa oa st) s

/-- xu.acczr (R227). -/
def execXuAcczr (acc : BitVec 3) (st : Strm) (s : State) : Host.Outcome State Fault Refusal := runXu (.xuAcczr acc st) s

/-- xu.accadd (R227). -/
def execXuAccadd (acc acb : BitVec 3) (st : Strm) (s : State) : Host.Outcome State Fault Refusal :=
  runXu (.xuAccadd acc acb st) s

/-- xu.accscl (R227). -/
def execXuAccscl (acc : BitVec 3) (oc : Sel) (st : Strm) (s : State) : Host.Outcome State Fault Refusal :=
  runXu (.xuAccscl acc oc st) s

/-- xu.accmv (R227). -/
def execXuAccmv (acc acb : BitVec 3) (st : Strm) (s : State) : Host.Outcome State Fault Refusal :=
  runXu (.xuAccmv acc acb st) s

/-- xu.acctr (R227). -/
def execXuAcctr (acc acb : BitVec 3) (st : Strm) (s : State) : Host.Outcome State Fault Refusal :=
  runXu (.xuAcctr acc acb st) s

/-! ## Operand elements (R219, R221) -/

/-- An element read by the engine, with its poison. -/
abbrev MVal := FV × Bool

/-- The plain format of a descriptor's floating-point code. -/
def MFmt.plain : MFmt → Option Fmt
  | .fp32 => some Sys2Proof.Machine.fp32
  | .fp16 => some Sys2Proof.Machine.fp16
  | .bf16 => some Sys2Proof.Machine.bf16
  | .int8 => none
  | .uint8 => none
  | .int32 => none
  | .uint32 => none
  | .int64 => none
  | .ts2 => none
  | .ts4 => none
  | .ts7 => none

/-- A signed integer as a value. -/
def fvInt (v : Int) : FV := .fin (decide (v < 0)) v.natAbs 0

/-- A plain element's value: floating point through FlushIn, an integer by its own signedness (R117, R223). -/
def MFmt.value (f : MFmt) (md : Modes) (bits : Nat) : FV :=
  match f.plain with
  | some p => p.read md bits
  | none =>
    match f with
    | .int8 => fvInt (BitVec.ofNat 8 bits).toInt
    | .int32 => fvInt (BitVec.ofNat 32 bits).toInt
    | _ => .fin false bits 0

/-- An element of a TS block at payload p and scale record c: a NaN block reads as NaN (R103, R104). -/
def State.tsElem (s : State) (md : Modes) (m p c i : Nat) : MVal :=
  let pay := leNat (s.readSpad p (2 * (m + 1))) / 2 ^ ((1 + m) * i) % 2 ^ (1 + m)
  let sc := leNat (s.readSpad c 2)
  let bad := s.spadPoisoned (p + (1 + m) * i / 8) (((1 + m) * i + m) / 8 + 1 - (1 + m) * i / 8) || s.spadPoisoned c 2
  match tsValue m md.ifts (sc % 256) (sc.testBit (8 + i / 2)) (pay.testBit m) (pay % 2 ^ m) with
  | some v => (v, bad)
  | none => (.nan false true 0, bad)

/-- Element (row, k) of an operand whose rows run along K, or (k, row) of a B operand stored by K (trans) (R221). -/
def State.mElem (s : State) (b : Block) (d : Desc) (base : Nat) (md : Modes) (trans : Bool) (row k : Nat) : MVal :=
  match d.fmt.tsM with
  | none =>
    let a := b.key (if trans then base + k * d.rstr + row * d.fmt.bytes else base + row * d.rstr + k * d.fmt.bytes)
    (d.fmt.value md (leNat (s.readSpad a d.fmt.bytes)), s.spadPoisoned a d.fmt.bytes)
  | some m =>
    let g := k / 16
    if trans then s.tsElem md m (b.key (base + g * d.rstr + row * d.fmt.bytes)) (b.key (d.scl + g * d.sstr + 2 * row)) (k % 16)
    else s.tsElem md m (b.key (base + row * d.rstr + g * d.fmt.bytes)) (b.key (d.scl + row * d.sstr + 2 * g)) (k % 16)

/-! ## Sums (R115 to R118) -/

/-- A term: the product, or the squared difference for xu.dist; a NaN or invalid term is none (R118). -/
def term (dist : Bool) (x y : FV) : Option FV :=
  if x.isNan || y.isNan then none
  else if !dist then mulFV x y
  else
    match x, y with
    | .inf s, .inf t => if s == t then none else some (.inf false)
    | .inf _, _ => some (.inf false)
    | _, .inf _ => some (.inf false)
    | .fin s m e, .fin t n k =>
      let lo := min e k
      let v := scaled s m e lo - scaled t n k lo
      some (.fin false (v.natAbs * v.natAbs) (2 * lo))
    | _, _ => none

/-- The exact sum of terms: none when some term is none or infinities differ; an exact zero is −0 only when every term is −0
at COMPAT level 0 (R115). -/
def sumTerms (md : Modes) (l : List (Option FV)) : Option FV :=
  if l.any Option.isNone then none
  else
    let v := l.filterMap id
    let pos := v.any fun x => x.isInf && !x.sign
    let neg := v.any fun x => x.isInf && x.sign
    if pos && neg then none
    else if pos || neg then some (.inf neg)
    else
      let lo := v.foldl (fun a x => match x with
        | .fin _ _ e => min a e
        | _ => a) 0
      let t := v.foldl (fun (a : Int) x => match x with
        | .fin s m e => a + scaled s m e lo
        | _ => a) 0
      if t = 0 then some (.fin (!md.level1 && v.all fun x => x.isZero && x.sign) 0 lo)
      else some (.fin (decide (t < 0)) t.natAbs lo)

/-- RoundTo(FP32, RNE) of a sum, as a value. -/
def roundGroup (md : Modes) (x : FV) : FV :=
  match x with
  | .fin s m e => fp32.dec (roundTo fp32 md s m e).1
  | v => v

/-- acc + x in FP32 with R118: none is the canonical NaN. -/
def accStep (md : Modes) (acc : FV) (x : Option FV) : FV :=
  match x with
  | none => fp32.dec fp32.cnan
  | some v => if acc.isNan || v.isNan then fp32.dec fp32.cnan else fp32.dec (addFV fp32 md acc v).1

/-- The pattern of a value that is exact in FP32. -/
def bitsOf (md : Modes) (x : FV) : Lane :=
  match x with
  | .nan _ _ _ => BitVec.ofNat 32 fp32.cnan
  | .inf s => BitVec.ofNat 32 (fp32.infBits s)
  | .fin s m e => BitVec.ofNat 32 (roundTo fp32 { md with of32 := false } s m e).1

/-- An integer value. -/
def intOf (x : FV) : Int :=
  match x with
  | .fin s m _ => if s then -(m : Int) else m
  | _ => 0

/-! ## Running a product (R217, R223) -/

/-- A command is xu.dist. -/
def isDist : Instr → Bool
  | .xuDist _ _ _ _ _ _ _ => true
  | _ => false

/-- A command's B operand is stored by K. -/
def isTrans : Instr → Bool
  | .xuMmat _ _ _ _ _ _ _ => true
  | _ => false

/-- A product or distance. -/
def isProduct : Instr → Bool
  | .xuMma _ _ _ _ _ _ _ => true
  | .xuMmat _ _ _ _ _ _ _ => true
  | .xuDist _ _ _ _ _ _ _ => true
  | _ => false

/-- Its steps take one k each: FP32 products (R116); else a group of sixteen (R115). -/
def MCmd.fused (c : MCmd) : Bool := !isDist c.ins && ((descOf c.args.fa).map Desc.fmt) == some .fp32

/-- Number of steps of a command. -/
def MCmd.groups (c : MCmd) : Nat :=
  if !isProduct c.ins then 1 else if c.fused then c.args.oc.toNat else c.args.oc.toNat / 16

/-- Modes of a command: RNE with the FMODE and COMPAT sampled at issue (R213). -/
def MCmd.modes (c : MCmd) (rm : Rm) : Modes := modesOf c.args.fm c.args.cm rm

/-- Key of an accumulator element (R21): a is the accumulator's number in the block. -/
def Block.accKey (b : Block) (a i j : Nat) : Nat := 32768 * b.core + 4096 * (b.accs.getD a 0) + 64 * i + j

/-- One output element after steps g0 to g1 − 1. -/
def State.productCell (s : State) (b : Block) (c : MCmd) (da db : Desc) (acc i j g0 g1 : Nat) : Lane × Bool :=
  let md := c.modes .rne
  let a (k : Nat) : MVal := s.mElem b da c.args.oa.toNat md false i k
  let d (k : Nat) : MVal := s.mElem b db c.args.ob.toNat md (isTrans c.ins) j k
  let w := s.acc.get (b.accKey acc i j)
  let wp := s.accP.get (b.accKey acc i j) != 0
  let ks (g : Nat) : List Nat := if c.fused then [g] else (List.range 16).map fun x => 16 * g + x
  let gs := (List.range (g1 - g0)).map fun x => g0 + x
  let bad := wp || c.args.vp || gs.any fun g => (ks g).any fun k => (a k).2 || (d k).2
  let terms (g : Nat) : List (Option FV) := (ks g).map fun k => term (isDist c.ins) (a k).1 (d k).1
  if da.fmt.isInt8 then
    (gs.foldl (fun (w : Lane) g => (terms g).foldl (fun w x => w + BitVec.ofInt 32 (intOf (x.getD (.fin false 0 0)))) w) w, bad)
  else
    let x0 := if g0 = 0 then fp32.read md w.toNat else fp32.dec w.toNat
    let r := gs.foldl (fun (x : FV) g =>
      if c.fused then accStep md x ((terms g).headD none)
      else accStep md x ((sumTerms md (terms g)).map (roundGroup md))) x0
    (if gs.isEmpty then w else bitsOf md r, bad)

/-- Writes an accumulator element. -/
def State.setAccElem (s : State) (k : Nat) (v : Lane) (p : Bool) : State :=
  { s with acc := s.acc.set k v, accP := s.accP.set k (pBit p) }

/-- Writes all elements of an accumulator of a block, each computed from the state before. -/
def State.mapAcc (s : State) (b : Block) (a : Nat) (f : Nat → Nat → Lane × Bool) : State :=
  (List.range 4096).foldl (fun t n =>
    let v := f (n / 64) (n % 64)
    t.setAccElem (b.accKey a (n / 64) (n % 64)) v.1 v.2) s

/-- Steps g0 to g1 − 1 of a product (R217). -/
def State.runProduct (s : State) (b : Block) (c : MCmd) (acc g0 g1 : Nat) : State :=
  match descOf c.args.fa, descOf c.args.fb with
  | some da, some db => s.mapAcc b acc fun i j => s.productCell b c da db acc i j g0 g1
  | _, _ => s

/-! ## Accumulator stores and loads (R224 to R226) -/

/-- An accumulator element converted to a plain format (R225). -/
def accConvert (f : MFmt) (i32 : Bool) (md : Modes) (w : Lane) : Nat :=
  let ofInt (p : Fmt) : Nat := (roundTo p md (decide (w.toInt < 0)) w.toInt.natAbs 0).1
  match f with
  | .fp32 => if i32 then ofInt fp32 else w.toNat
  | .fp16 => if i32 then ofInt fp16 else (cvtFF fp32 fp16 md w.toNat).1
  | .bf16 => if i32 then ofInt bf16 else (cvtFF fp32 bf16 md w.toNat).1
  | .int32 => if i32 then w.toNat else (toInt32 32 true md w).1.toNat
  | .int8 => (if i32 then (satBits 8 true (decide (w.toInt < 0)) w.toInt.natAbs).1 else (toInt32 8 true md w).1).toNat % 256
  | .uint8 => (if i32 then (satBits 8 false (decide (w.toInt < 0)) w.toInt.natAbs).1 else (toInt32 8 false md w).1).toNat % 256
  | _ => 0

/-- Bytes of a number. -/
def natBytes (n v : Nat) : List Byte := (List.range n).map fun i => BitVec.ofNat 8 (v / 256 ^ i)

/-- Writes of a stored accumulator: key, bytes, poison (R224, R225). -/
def State.accImage (s : State) (b : Block) (c : MCmd) (d : Desc) (i32 : Bool) (rm : Rm) (a : Nat) : List (Nat × List Byte × Bool) :=
  let md := c.modes rm
  let t := c.args.oa.toNat
  let w (i j : Nat) : Lane := s.acc.get (b.accKey a i j)
  let p (i j : Nat) : Bool := s.accP.get (b.accKey a i j) != 0
  (List.range 64).flatMap fun i =>
    match d.fmt.tsM with
    | none => (List.range 64).map fun j =>
        (b.key (t + i * d.rstr + d.fmt.bytes * j), natBytes d.fmt.bytes (accConvert d.fmt i32 md (w i j)), p i j)
    | some m => (List.range 4).flatMap fun g =>
        let k := tsEncode m md ((List.range 16).map fun x => fp32.read md (w i (16 * g + x)).toNat)
        let bad := (List.range 16).any fun x => p i (16 * g + x)
        let pay := (List.range 16).foldl (fun v x => v + tsField m k x * 2 ^ ((1 + m) * x)) 0
        [(b.key (t + i * d.rstr + g * d.fmt.bytes), natBytes d.fmt.bytes pay, bad),
          (b.key (d.scl + i * d.sstr + 2 * g), natBytes 2 (tsScale k), bad)]

/-- An element loaded into an accumulator (R226). -/
def State.accLoaded (s : State) (b : Block) (c : MCmd) (d : Desc) (i j : Nat) : Lane × Bool :=
  let md := c.modes .rne
  match d.fmt.tsM with
  | some m =>
    let x := s.tsElem md m (b.key (c.args.oa.toNat + i * d.rstr + j / 16 * d.fmt.bytes))
      (b.key (d.scl + i * d.sstr + 2 * (j / 16))) (j % 16)
    (match x.1 with
      | .nan _ _ _ => BitVec.ofNat 32 fp32.cnan
      | .inf t => BitVec.ofNat 32 (fp32.infBits t)
      | .fin t n e => BitVec.ofNat 32 (roundTo fp32 { md with level1 := false } t n e).1, x.2)
  | none =>
    let a := b.key (c.args.oa.toNat + i * d.rstr + d.fmt.bytes * j)
    let v := leNat (s.readSpad a d.fmt.bytes)
    (BitVec.ofNat 32 (match d.fmt with
      | .fp16 => (cvtFF fp16 fp32 md v).1
      | .bf16 => (cvtFF bf16 fp32 md v).1
      | _ => v), s.spadPoisoned a d.fmt.bytes)

/-! ## Selection (R228) -/

/-- The key of an element: NaNs apart, then a signed order in which −0 is below +0. -/
def topKey (i32 : Bool) (md : Modes) (w : Lane) : Bool × Int :=
  if i32 then (false, w.toInt)
  else
    let x := fp32.read md w.toNat
    if x.isNan then (true, 0)
    else
      let mag : Int := if x.isZero then 0 else (w.toNat % 2 ^ 31 : Nat)
      (false, if x.sign then -mag - 1 else mag)

/-- Element x of a row ranks before element y of a higher column (ties keep column order). -/
def ranksFirst (largest : Bool) (x y : Bool × Int) : Bool :=
  if x.1 != y.1 then y.1 else if x.1 then false else if largest then decide (y.2 < x.2) else decide (x.2 < y.2)

/-- Inserts a column behind those that rank no later. -/
def rankInsert (largest : Bool) (key : Nat → Bool × Int) (j : Nat) : List Nat → List Nat
  | [] => [j]
  | x :: r => if ranksFirst largest (key j) (key x) then j :: x :: r else x :: rankInsert largest key j r

/-- Columns of a row in rank order. -/
def rankRow (largest : Bool) (key : Nat → Bool × Int) : List Nat :=
  (List.range 64).foldl (fun l j => rankInsert largest key j l) []

/-- The record of a row in pieces: key, bytes and poison of its ranked values and columns, and of what fills the other ranks (R218,
R228). -/
def State.topRow (s : State) (b : Block) (c : MCmd) (largest i32 : Bool) (a i : Nat) : List (Nat × List Byte × Bool) :=
  let md := c.modes .rne
  let w (j : Nat) : Lane := s.acc.get (b.accKey a i j)
  let n := min 16 c.args.ob.toNat
  let r := (rankRow largest fun j => topKey i32 md (w j)).take n
  let bad := c.args.vp || (List.range 64).any fun j => s.accP.get (b.accKey a i j) != 0
  let k := b.key (c.args.oa.toNat + 128 * i)
  [(k, r.flatMap fun j => leBytes 4 (w j), bad), (k + 4 * n, List.replicate (64 - 4 * n) 0, c.args.vp),
    (k + 64, r.flatMap fun j => leBytes 4 (BitVec.ofNat 32 j), bad), (k + 64 + 4 * n, List.replicate (64 - 4 * n) 0xFF, c.args.vp)]

/-! ## A command's effect -/

/-- An FP32 operation of accumulators under R118 and R227. -/
def accArith (md : Modes) (mul : Bool) (x y : Lane) : Lane :=
  let u := fp32.read md x.toNat
  let v := fp32.read md y.toNat
  if u.isNan || v.isNan then BitVec.ofNat 32 fp32.cnan
  else if mul then
    match mulFV u v with
    | none => BitVec.ofNat 32 fp32.cnan
    | some (.fin s m e) => BitVec.ofNat 32 (roundTo fp32 md s m e).1
    | some r => BitVec.ofNat 32 (fp32.infBits r.sign)
  else BitVec.ofNat 32 (addFV fp32 md u v).1

/-- Writes the pieces of a command in a scratchpad, seen by the comparators as the A reader's. -/
def State.engineWrites (s : State) (c : MCmd) (asid : BitVec 16) (l : List (Nat × List Byte × Bool)) : State :=
  l.foldl (fun s x =>
    let o := (s.teams.get? c.z).bind fun t => t.ops.find? fun o => o.id == c.id
    (s.writeSpad x.1 x.2.1 x.2.2).watchOp s c.z c.id ⟨coreOf c.z, true, 5, 1, asid, x.1 % 2 ^ 19, x.2.1.length, x.1, some c.z,
      (o.map MemOp.soa).getD 0, (o.map MemOp.tcyc).getD 0, [],
      (l.filter fun y => decide (y.1 < x.1)).map fun y => (y.1 % 2 ^ 19, y.2.1.length)⟩) s

/-- The comparators see a command's reads: A's as requester 5, B's as 6 (R376). -/
def State.engineReads (s : State) (b : Block) (c : MCmd) : State :=
  let o := (s.teams.get? c.z).bind fun t => t.ops.find? fun o => o.id == c.id
  let see (req : Nat) (s : State) (l : List (Nat × Nat)) : State := l.foldl (fun s x =>
    s.watchOp s c.z c.id ⟨coreOf c.z, true, req, 0, b.asid, b.key x.1 % 2 ^ 19, x.2, b.key x.1, some c.z,
      (o.map MemOp.soa).getD 0, (o.map MemOp.tcyc).getD 0, [],
      (l.filter fun y => decide (y.1 < x.1)).map fun y => (b.key y.1 % 2 ^ 19, y.2)⟩) s
  if isProduct c.ins then
    let x := productSpans c.args (isTrans c.ins)
    see 6 (see 5 s x.1) x.2
  else see 5 s (xuUse c.ins c.args).rd

/-- What a command writes in the scratchpad, in pieces (R224, R225, R228). -/
def State.cmdImage (s : State) (b : Block) (c : MCmd) : List (Nat × List Byte × Bool) :=
  match c.ins with
  | .xuTopk largest i32 acc _ _ _ => (List.range 64).flatMap fun i => s.topRow b c largest i32 acc.toNat i
  | .xuAccst i32 rm acc _ _ _ =>
    match descOf c.args.fa with
    | some d => s.accImage b c d i32 rm acc.toNat
    | none => []
  | _ => []

/-- The chunks of the block that a piece touches. -/
def Block.pieceChunks (b : Block) (x : Nat × List Byte × Bool) : List Nat :=
  let a := x.1 - b.key 0
  if x.2.1.isEmpty then [] else (List.range ((a + x.2.1.length - 1) / 512 + 1 - a / 512)).map fun i => a / 512 + i

/-- The pieces that lie in no chunk the command has written. -/
def MCmd.unwritten (c : MCmd) (b : Block) (l : List (Nat × List Byte × Bool)) : List (Nat × List Byte × Bool) :=
  l.filter fun x => !(b.pieceChunks x).any c.wrote.contains

/-- The effect of a command from its step g on (R223 to R228). -/
def State.runCommand (s : State) (b : Block) (c : MCmd) (g1 : Nat) : State :=
  let md := c.modes .rne
  let w (a i j : Nat) : Lane := s.acc.get (b.accKey a i j)
  let p (a i j : Nat) : Bool := s.accP.get (b.accKey a i j) != 0
  match c.ins with
  | .xuMma acc _ _ _ _ _ _ => s.runProduct b c acc.toNat c.g g1
  | .xuMmat acc _ _ _ _ _ _ => s.runProduct b c acc.toNat c.g g1
  | .xuDist acc _ _ _ _ _ _ => s.runProduct b c acc.toNat c.g g1
  | .xuTopk _ _ _ _ _ _ => s.engineWrites c b.asid (c.unwritten b (s.cmdImage b c))
  | .xuAccst _ _ _ _ _ _ => s.engineWrites c b.asid (c.unwritten b (s.cmdImage b c))
  | .xuAccld acc _ _ _ =>
    match descOf c.args.fa with
    | some d => s.mapAcc b acc.toNat fun i j => s.accLoaded b c d i j
    | none => s
  | .xuAcczr acc _ => s.mapAcc b acc.toNat fun _ _ => (0, false)
  | .xuAccadd acc acb _ => s.mapAcc b acc.toNat fun i j =>
      (accArith md false (w acc.toNat i j) (w acb.toNat i j), p acc.toNat i j || p acb.toNat i j)
  | .xuAccscl acc _ _ => s.mapAcc b acc.toNat fun i j =>
      (accArith md true (w acc.toNat i j) (c.args.oc.setWidth 32), p acc.toNat i j || c.args.vp)
  | .xuAccmv acc acb _ => s.mapAcc b acc.toNat fun i j => (w acb.toNat i j, p acb.toNat i j)
  | .xuAcctr acc acb _ => s.mapAcc b acc.toNat fun i j => (w acb.toNat j i, p acb.toNat j i)
  | _ => s

/-! ## Occupancy (R119, R214) -/

/-- The rate of a product, per clock (R119). -/
def rateOf (dist : Bool) (a b : MFmt) : Nat :=
  let r :=
    if a.isInt8 && b.isInt8 then 16384
    else
      match a.tsM, b.tsM with
      | some 2, some 2 => 32768
      | some m, some n => if m = 7 ∨ n = 7 then 8192 else 16384
      | _, _ => if a == .fp32 then 1024 else 4096
  if dist then r / 2 else r

/-- Clocks of a command, with the steps still to do (R214). -/
def MCmd.clocks (c : MCmd) : Nat :=
  let wide : Bool := match descOf c.args.fa with
    | some d => d.fmt == .fp32 || d.fmt == .int32
    | none => false
  match c.ins with
  | .xuTopk _ _ _ _ _ _ => 64
  | .xuAccst _ _ _ _ _ _ => if wide then 32 else 16
  | .xuAccld _ _ _ _ => if wide then 32 else 16
  | _ =>
    if isProduct c.ins then
      match descOf c.args.fa, descOf c.args.fb with
      | some a, some b => 4096 * ((c.groups - c.g) * (if c.fused then 1 else 16)) / rateOf (isDist c.ins) a.fmt b.fmt
      | _, _ => 16
    else 16

end Sys2Proof.Machine
end

