-- ==== Sys2Proof/Machine/ScalarUnit.lean ====
section
/-!
DEFINITION. The SU operations (R123 to R149). Each is one definition over runScalar and runSlot; the effects that wait for the
word (R125) go into the team's Keep record.
-/
namespace Sys2Proof.Machine

/-! ## Shared forms -/

/-- Src of an SU operand (R123). -/
def Env.su (e : Env) (x : Sel) : Word := e.scalar .s x

/-- An SU operation that lands a 64-bit value in s SD (R126). -/
def runSu (i : Instr) (sd : BitVec 6) (s : State) (f : Env → Word) : Host.Outcome State Fault Refusal :=
  runScalar i s (fun _ => true) fun e s => s.landScalar e i .su sd.toNat ((f e).setWidth 128) (e.scalarsP i)

/-- An SU operation with an effect on the team and no register result. -/
def runSuTeam (i : Instr) (s : State) (f : Env → Team → Team) : Host.Outcome State Fault Refusal :=
  runScalar i s (fun _ => true) fun e s => s.updTeam e.z (f e)

/-- Changes what the word carries to its whole commit. -/
def Team.keeping (t : Team) (f : Keep → Keep) : Team := { t with keep := t.keep.map f }

/-- Marks a transfer taken (R125). -/
def Team.take (t : Team) (a : Word) : Team := t.keeping fun k => { k with taken := some (a &&& 0x01FFFFFFFFFFFFFF#64) }

/-- A relative target (R127). -/
def Env.target (e : Env) (sc : Sel) : Word := e.c.pc + 2 * e.su sc

/-- A loop register (R38). -/
def LoopRegs.get (r : LoopRegs) (lv : BitVec 3) (x : LoopReg) : Word :=
  match x with
  | .lc => if lv = 0 then r.lc0 else r.lc1
  | .ls => if lv = 0 then r.ls0 else r.ls1
  | .le => if lv = 0 then r.le0 else r.le1

/-- Writes a loop register: ls and le keep bits 56:1 (R38, R133). -/
def LoopRegs.put (r : LoopRegs) (lv : BitVec 3) (x : LoopReg) (v : Word) : LoopRegs :=
  let a := v &&& 0x01FFFFFFFFFFFFFE#64
  match x with
  | .lc => if lv = 0 then { r with lc0 := v } else { r with lc1 := v }
  | .ls => if lv = 0 then { r with ls0 := a } else { r with ls1 := a }
  | .le => if lv = 0 then { r with le0 := a } else { r with le1 := a }

/-- All three registers of a level (R130). -/
def LoopRegs.setUp (r : LoopRegs) (lv : BitVec 3) (n ls le : Word) : LoopRegs :=
  let a := ls &&& 0x01FFFFFFFFFFFFFE#64
  let b := le &&& 0x01FFFFFFFFFFFFFE#64
  if lv = 0 then { r with lc0 := n, ls0 := a, le0 := b } else { r with lc1 := n, ls1 := a, le1 := b }

/-- An explicit write of lc replaces what a loop end of the word produces (R131). -/
def Team.wroteLc (t : Team) (lv : BitVec 3) : Team :=
  t.keeping fun k => if lv = 0 then { k with lcw0 := true } else { k with lcw1 := true }

/-- The value of a control register as at the word's team-cycle (R46 to R52, R141). -/
def Env.csr (e : Env) (n : Nat) : Word :=
  match n with
  | 0 => e.c.fm
  | 1 => e.c.cm
  | 2 => e.t.domr
  | 3 => e.t.dwin
  | 4 => e.t.dbase
  | 5 => e.t.teamid
  | 6 => e.t.blkid
  | 7 => e.t.blkpos
  | 8 => e.t.trapvec
  | 9 => e.t.ctxptr
  | 10 => e.t.tcyc
  | 11 => (if e.t.tmode then 1 else 0) ||| (if e.t.nest then 2 else 0)
  | _ => 0

/-- A write of a control register under its map (R46 to R52, R142): registers read-only in both modes ignore it. -/
def Team.setCsr (t : Team) (n : Nat) (v : Word) : Team :=
  match n with
  | 0 => { t with fmode := orFlags (v &&& fmodeMask) t.landed }
  | 1 => { t with compat := v &&& 3 }
  | 3 => { t with dwin := v &&& 0x00007FFF007F01F8#64 }
  | 4 => { t with dbase := v &&& dbaseMask }
  | 8 => { t with trapvec := v &&& 0x01FFFFFFFFFFFFFE#64 }
  | 9 => { t with ctxptr := v &&& 0x01FFFFFFFFFFF000#64 }
  | 10 => { t with tcyc := v }
  | _ => t

/-! ## Integer, logic and mask arithmetic (R126) -/

/-- su.bfx: min(n, 64) bits of a from bit p (R126). -/
def bfx (a p n : Word) : Word :=
  if 64 ≤ p.toNat ∨ n = 0 then 0 else BitVec.ofNat 64 (a.toNat / 2 ^ p.toNat % 2 ^ min n.toNat 64)

/-- su.bmsk: min(n, 64) ones from bit p (R126). -/
def bmsk (n p : Word) : Word :=
  if 64 ≤ p.toNat then 0 else BitVec.ofNat 64 ((2 ^ min n.toNat 64 - 1) * 2 ^ p.toNat)

/-- su.add (R126). -/
def execSuAdd (sd : BitVec 6) (sa sb : Sel) (s : State) : Host.Outcome State Fault Refusal :=
  runSu (.suAdd sd sa sb) sd s fun e => (e.su sa) + (e.su sb)

/-- su.sub (R126). -/
def execSuSub (sd : BitVec 6) (sa sb : Sel) (s : State) : Host.Outcome State Fault Refusal :=
  runSu (.suSub sd sa sb) sd s fun e => (e.su sa) - (e.su sb)

/-- su.mul (R126). -/
def execSuMul (sd : BitVec 6) (sa sb : Sel) (s : State) : Host.Outcome State Fault Refusal :=
  runSu (.suMul sd sa sb) sd s fun e => (e.su sa) * (e.su sb)

/-- su.mulh (R126). -/
def execSuMulh (sd : BitVec 6) (sa sb : Sel) (s : State) : Host.Outcome State Fault Refusal :=
  runSu (.suMulh sd sa sb) sd s fun e => mulhS (e.su sa) (e.su sb)

/-- su.mulhu (R126). -/
def execSuMulhu (sd : BitVec 6) (sa sb : Sel) (s : State) : Host.Outcome State Fault Refusal :=
  runSu (.suMulhu sd sa sb) sd s fun e => mulhU (e.su sa) (e.su sb)

/-- su.and (R126). -/
def execSuAnd (sd : BitVec 6) (sa sb : Sel) (s : State) : Host.Outcome State Fault Refusal :=
  runSu (.suAnd sd sa sb) sd s fun e => (e.su sa) &&& (e.su sb)

/-- su.or (R126). -/
def execSuOr (sd : BitVec 6) (sa sb : Sel) (s : State) : Host.Outcome State Fault Refusal :=
  runSu (.suOr sd sa sb) sd s fun e => (e.su sa) ||| (e.su sb)

/-- su.xor (R126). -/
def execSuXor (sd : BitVec 6) (sa sb : Sel) (s : State) : Host.Outcome State Fault Refusal :=
  runSu (.suXor sd sa sb) sd s fun e => (e.su sa) ^^^ (e.su sb)

/-- su.andn (R126). -/
def execSuAndn (sd : BitVec 6) (sa sb : Sel) (s : State) : Host.Outcome State Fault Refusal :=
  runSu (.suAndn sd sa sb) sd s fun e => (e.su sa) &&& ~~~(e.su sb)

/-- su.shl (R126). -/
def execSuShl (sd : BitVec 6) (sa sb : Sel) (s : State) : Host.Outcome State Fault Refusal :=
  runSu (.suShl sd sa sb) sd s fun e => shlW (e.su sa) (e.su sb).toNat

/-- su.shr (R126). -/
def execSuShr (sd : BitVec 6) (sa sb : Sel) (s : State) : Host.Outcome State Fault Refusal :=
  runSu (.suShr sd sa sb) sd s fun e => shrW (e.su sa) (e.su sb).toNat

/-- su.sar (R126). -/
def execSuSar (sd : BitVec 6) (sa sb : Sel) (s : State) : Host.Outcome State Fault Refusal :=
  runSu (.suSar sd sa sb) sd s fun e => sarW (e.su sa) (e.su sb).toNat

/-- su.min (R126). -/
def execSuMin (sd : BitVec 6) (sa sb : Sel) (s : State) : Host.Outcome State Fault Refusal :=
  runSu (.suMin sd sa sb) sd s fun e => minS (e.su sa) (e.su sb)

/-- su.max (R126). -/
def execSuMax (sd : BitVec 6) (sa sb : Sel) (s : State) : Host.Outcome State Fault Refusal :=
  runSu (.suMax sd sa sb) sd s fun e => maxS (e.su sa) (e.su sb)

/-- su.minu (R126). -/
def execSuMinu (sd : BitVec 6) (sa sb : Sel) (s : State) : Host.Outcome State Fault Refusal :=
  runSu (.suMinu sd sa sb) sd s fun e => minU (e.su sa) (e.su sb)

/-- su.maxu (R126). -/
def execSuMaxu (sd : BitVec 6) (sa sb : Sel) (s : State) : Host.Outcome State Fault Refusal :=
  runSu (.suMaxu sd sa sb) sd s fun e => maxU (e.su sa) (e.su sb)

/-- su.popc (R126). -/
def execSuPopc (sd : BitVec 6) (sa : Sel) (s : State) : Host.Outcome State Fault Refusal :=
  runSu (.suPopc sd sa) sd s fun e => BitVec.ofNat 64 (popc (e.su sa))

/-- su.clz (R126). -/
def execSuClz (sd : BitVec 6) (sa : Sel) (s : State) : Host.Outcome State Fault Refusal :=
  runSu (.suClz sd sa) sd s fun e => BitVec.ofNat 64 (clz (e.su sa))

/-- su.ctz (R126). -/
def execSuCtz (sd : BitVec 6) (sa : Sel) (s : State) : Host.Outcome State Fault Refusal :=
  runSu (.suCtz sd sa) sd s fun e => BitVec.ofNat 64 (ctz (e.su sa))

/-- su.cmp (R65, R126). -/
def execSuCmp (cc : Cond) (sd : BitVec 6) (sa sb : Sel) (s : State) : Host.Outcome State Fault Refusal :=
  runSu (.suCmp cc sd sa sb) sd s fun e => boolBits (cc.holds (e.su sa) (e.su sb))

/-- su.sel (R126). -/
def execSuSel (sd : BitVec 6) (sa sb sc : Sel) (s : State) : Host.Outcome State Fault Refusal :=
  runSu (.suSel sd sa sb sc) sd s fun e => if e.su sc ≠ 0 then e.su sa else e.su sb

/-- su.mov (R126). -/
def execSuMov (sd : BitVec 6) (sa : Sel) (s : State) : Host.Outcome State Fault Refusal :=
  runSu (.suMov sd sa) sd s fun e => e.su sa

/-- su.bfx (R126). -/
def execSuBfx (sd : BitVec 6) (sa sb sc : Sel) (s : State) : Host.Outcome State Fault Refusal :=
  runSu (.suBfx sd sa sb sc) sd s fun e => bfx (e.su sa) (e.su sb) (e.su sc)

/-- su.bmsk (R126). -/
def execSuBmsk (sd : BitVec 6) (sa sb : Sel) (s : State) : Host.Outcome State Fault Refusal :=
  runSu (.suBmsk sd sa sb) sd s fun e => bmsk (e.su sa) (e.su sb)

/-! ## Transfers and loops (R127 to R133) -/

/-- su.br (R127): the unconditional form reads no operand but the offset. -/
def execSuBr (occ : Option Cond) (sa sb sc : Sel) (s : State) : Host.Outcome State Fault Refusal :=
  runSuTeam (.suBr occ sa sb sc) s fun e t =>
    match occ with
    | none => t.take (e.target sc)
    | some c => if c.holds (e.su sa) (e.su sb) then t.take (e.target sc) else t

/-- su.call (R128): the link is the parcel address after the word. -/
def execSuCall (sd : BitVec 6) (sc : Sel) (s : State) : Host.Outcome State Fault Refusal :=
  let i := Instr.suCall sd sc
  runScalar i s (fun _ => true) fun e s =>
    (s.landScalar e i .su sd.toNat (e.c.npc.setWidth 128) false).updTeam e.z fun t => t.take (e.target sc)

/-- su.calli (R129): LAZY_BIND for a value with bit 0 set is an issue check. -/
def execSuCalli (sd : BitVec 6) (sa : Sel) (s : State) : Host.Outcome State Fault Refusal :=
  let i := Instr.suCalli sd sa
  runScalar i s (fun _ => true) fun e s =>
    (s.landScalar e i .su sd.toNat (e.c.npc.setWidth 128) false).updTeam e.z fun t => t.take (e.su sa)

/-- su.jmpi (R129). -/
def execSuJmpi (sa : Sel) (s : State) : Host.Outcome State Fault Refusal :=
  runSuTeam (.suJmpi sa) s fun e t => t.take (e.su sa)

/-- su.loop (R130): with a count of 0 the next word is that of the exit lookup, made before the word issued. -/
def execSuLoop (lv : BitVec 3) (sa sc : Sel) (s : State) : Host.Outcome State Fault Refusal :=
  runSuTeam (.suLoop lv sa sc) s fun e t =>
    let t := { t with loop := t.loop.setUp lv (e.su sa) e.c.npc (e.target sc) }.wroteLc lv
    if e.su sa = 0 then
      match t.zeroTrip with
      | some (_, a) => t.take a
      | none => t
    else t

/-- su.lbrk (R132). -/
def execSuLbrk (lv : BitVec 3) (s : State) : Host.Outcome State Fault Refusal :=
  runSuTeam (.suLbrk lv) s fun _ t => { t with loop := t.loop.put lv .lc 0 }.wroteLc lv

/-- su.lrd (R133). -/
def execSuLrd (sd : BitVec 6) (lv : BitVec 3) (lr : LoopReg) (s : State) : Host.Outcome State Fault Refusal :=
  runSu (.suLrd sd lv lr) sd s fun e => e.t.loop.get lv lr

/-- su.lwr (R133). -/
def execSuLwr (lv : BitVec 3) (lr : LoopReg) (sa : Sel) (s : State) : Host.Outcome State Fault Refusal :=
  runSuTeam (.suLwr lv lr sa) s fun e t =>
    let t := { t with loop := t.loop.put lv lr (e.su sa) }
    match lr with
    | .lc => t.wroteLc lv
    | .ls => t
    | .le => t

/-! ## Streams, barriers and switch points (R134 to R138) -/

/-- su.srd (R134): the counter at the start of the team-cycle. -/
def execSuSrd (sd : BitVec 6) (str : BitVec 3) (ctr : Counter) (s : State) : Host.Outcome State Fault Refusal :=
  runSu (.suSrd sd str ctr) sd s fun e =>
    match ctr with
    | .issued => (e.c.i0.get str.toNat).setWidth 64
    | .completed => (e.c.d0.get str.toNat).setWidth 64

/-- su.swait (R135): blocks until the completions of the stream reach the count. -/
def execSuSwait (str : BitVec 3) (sb : Sel) (s : State) : Host.Outcome State Fault Refusal :=
  runScalar (.suSwait str sb) s (fun e => waitDone (e.t.dc.get str.toNat) ((e.su sb).setWidth 16)) fun _ s => s

/-- su.bar (R136, R137). -/
def execSuBar (lv : BitVec 3) (s : State) : Host.Outcome State Fault Refusal :=
  runSlot (.suBar lv) s fun x =>
    let r := x.e.s.barStep x.e.z lv.toNat
    r.1.setSt x.e.z x.k (if r.2 then .done else .blocked)

/-- su.swpt (R138). -/
def execSuSwpt (sa : Sel) (s : State) : Host.Outcome State Fault Refusal :=
  let i := Instr.suSwpt sa
  runSlot i s fun x =>
    if x.e.queueReady i then
      let r := x.e.s.swptStep x.e.z (x.e.su sa)
      r.1.setSt x.e.z x.k (if r.2 then .done else .blocked)
    else x.e.s.setSt x.e.z x.k .blocked

/-! ## Moves into other files (R139, R140) -/

/-- su.bcast (R139): every lane, whatever the mask. -/
def execSuBcast (df : RFile) (sd : BitVec 6) (sa : Sel) (s : State) : Host.Outcome State Fault Refusal :=
  let i := Instr.suBcast df sd sa
  runScalar i s (fun _ => true) fun e s =>
    let v := ((e.su sa).setWidth 32).setWidth 128
    s.landLanes e i .su sd.toNat ((List.range e.t.width).map fun l => ⟨l, v, e.scalarsP i⟩) 0

/-- su.xfer (R140). -/
def execSuXfer (sd : BitVec 6) (sa : Sel) (s : State) : Host.Outcome State Fault Refusal :=
  runSu (.suXfer sd sa) sd s fun e => e.su sa

/-! ## Control registers (R141, R142) -/

/-- su.csrr (R141). -/
def execSuCsrr (sd : BitVec 6) (csr : BitVec 12) (s : State) : Host.Outcome State Fault Refusal :=
  runSu (.suCsrr sd csr) sd s fun e => e.csr csr.toNat

/-- su.csrw (R142): PRIVILEGE and REG_RANGE are issue checks. -/
def execSuCsrw (csr : BitVec 12) (sa : Sel) (s : State) : Host.Outcome State Fault Refusal :=
  runSuTeam (.suCsrw csr sa) s fun e t => t.setCsr csr.toNat (e.su sa)

/-! ## Traps, dictionary and held records, no operation and end (R143 to R149) -/

/-- su.trap (R143): the trap is taken after the word commits. -/
def execSuTrap (sa : Sel) (s : State) : Host.Outcome State Fault Refusal :=
  runSuTeam (.suTrap sa) s fun e t => t.keeping fun k => { k with trap := some (e.slot, e.su sa) }

/-- su.eret (R144): the return begins once the word's other positions have committed. -/
def execSuEret (s : State) : Host.Outcome State Fault Refusal :=
  runSuTeam .suEret s fun _ t => t.keeping fun k => { k with eret := true }

/-- The indices a su.dpf names that are not resident (R145). -/
def Team.dpfList (t : Team) (p : Part) (x c : Nat) : List Nat :=
  let w := if t.tmode then p.sysWin else userWin t.dwin t.dbase
  ((List.range (min c (if t.tmode then 32 else 8 * dwinSize t.dwin))).map fun i => x + i).filter fun n =>
    decide (n < w.len) && (p.find w t.asid n).isNone

/-- su.dpf (R145): the prefetch list is replaced. -/
def execSuDpf (sa sb : Sel) (s : State) : Host.Outcome State Fault Refusal :=
  runSuTeam (.suDpf sa sb) s fun e t =>
    match e.s.parts.get? (partOf e.z) with
    | none => t
    | some p => { t with prefetch := t.dpfList p (e.su sa).toNat (e.su sb).toNat, prefSys := t.tmode }

/-- su.dinv (R146): the window is invalidated when the word commits. -/
def execSuDinv (s : State) : Host.Outcome State Fault Refusal :=
  runSuTeam .suDinv s fun _ t => t.keeping fun k => { k with dinv := true }

/-- su.hclr (R147): the named held records become invalid after the word. -/
def execSuHclr (sa : Sel) (s : State) : Host.Outcome State Fault Refusal :=
  runSuTeam (.suHclr sa) s fun e t => t.keeping fun k => { k with hclr := (e.su sa).setWidth 5 }

/-- su.nop (R148). -/
def execSuNop (s : State) : Host.Outcome State Fault Refusal := runScalar .suNop s (fun _ => true) fun _ s => s

/-- su.end (R149): the team ends when its word has wholly committed. -/
def execSuEnd (s : State) : Host.Outcome State Fault Refusal :=
  runSuTeam .suEnd s fun _ t => t.keeping fun k => { k with fin := true }

end Sys2Proof.Machine
end

