-- ==== Sys2Proof/Machine/VectorA.lean ====
section
/-!
DEFINITION. The VA operations (R150 to R164, R176) and what VB shares with them: signed saturation, TS blocks and the
transfers between files.
-/
namespace Sys2Proof.Machine

/-- SatS(32, v) (R121, R156). -/
def satS32 (v : Int) : Lane := BitVec.ofInt 32 (max (-2147483648) (min 2147483647 v))

/-- Src(sel, ℓ) of a VA operand. -/
def Env.va (e : Env) (x : Sel) (l : Nat) : Lane := e.lane .va x l

/-! ## Transfers between files (R176) -/

/-- The mask words of a ballot: bit ℓ mod 64 of word ⌊ℓ/64⌋. -/
def ballotWords (t : Team) (lanes : List Nat) (f : Nat → Lane) : List Word :=
  (List.range ((t.passes + 1) / 2)).map fun i =>
    (lanes.filter fun l => l / 64 == i && f l != 0).foldl (fun (m : Word) l => m ||| (1#64 <<< (l % 64))) 0

/-- A transfer to S, formed over the lanes of every pass at the word's commit: the lowest enabled lane's value, or the mask
words of a ballot. -/
def Env.toS (e : Env) (i : Instr) (k : Kind) (xf : XferForm) (vd : BitVec 6) (oa : Sel) (s : State) : State :=
  let ls := lanesAll e.t i.maskOf
  match xf with
  | .copy => s
  | .first =>
    let v := ((ls.head?).map fun l => (e.lane i.ownFile oa l).setWidth 128).getD 0
    s.landScalar e i k vd.toNat v (ls.take 1 |>.any fun l => e.laneP oa l)
  | .first64 =>
    let v := ((ls.head?).map fun l => (e.pair oa l).setWidth 128).getD 0
    s.landScalar e i k vd.toNat v false
  | .ballot =>
    let p := ls.any fun l => e.laneP oa l
    let ws := ballotWords e.t ls (e.lane i.ownFile oa)
    s.landLanes e i k vd.toNat ((List.range ws.length).map fun j => ⟨j, (ws.getD j 0).setWidth 128, p⟩) 0

/-- va.xfer and vb.xfer: a copy is an ordinary vector operation; the other forms have no partial result. -/
def runXfer (i : Instr) (k : Kind) (xf : XferForm) (vd : BitVec 6) (oa : Sel) (s : State) :
    Host.Outcome State Fault Refusal :=
  match xf with
  | .copy => runInt i k vd s fun e l => e.lane i.ownFile oa l
  | .first => runLanes i s (fun _ => true) (fun _ _ s => s) fun e s => e.toS i k xf vd oa s
  | .first64 => runLanes i s (fun _ => true) (fun _ _ s => s) fun e s => e.toS i k xf vd oa s
  | .ballot => runLanes i s (fun _ => true) (fun _ _ s => s) fun e s => e.toS i k xf vd oa s

/-- va.add (R156). -/
def execVaAdd (mk : Mask) (vd : BitVec 6) (oa : Sel) (ob : Sel) (s : State) : Host.Outcome State Fault Refusal :=
  runInt (.vaAdd mk vd oa ob) .va vd s fun e l => (e.va oa l) + (e.va ob l)

/-- va.sub (R156). -/
def execVaSub (mk : Mask) (vd : BitVec 6) (oa : Sel) (ob : Sel) (s : State) : Host.Outcome State Fault Refusal :=
  runInt (.vaSub mk vd oa ob) .va vd s fun e l => (e.va oa l) - (e.va ob l)

/-- va.mul (R156). -/
def execVaMul (mk : Mask) (vd : BitVec 6) (oa : Sel) (ob : Sel) (s : State) : Host.Outcome State Fault Refusal :=
  runInt (.vaMul mk vd oa ob) .va vd s fun e l => (e.va oa l) * (e.va ob l)

/-- va.mulh (R156). -/
def execVaMulh (mk : Mask) (vd : BitVec 6) (oa : Sel) (ob : Sel) (s : State) : Host.Outcome State Fault Refusal :=
  runInt (.vaMulh mk vd oa ob) .va vd s fun e l => mulhS (e.va oa l) (e.va ob l)

/-- va.mulhu (R156). -/
def execVaMulhu (mk : Mask) (vd : BitVec 6) (oa : Sel) (ob : Sel) (s : State) : Host.Outcome State Fault Refusal :=
  runInt (.vaMulhu mk vd oa ob) .va vd s fun e l => mulhU (e.va oa l) (e.va ob l)

/-- va.and (R156). -/
def execVaAnd (mk : Mask) (vd : BitVec 6) (oa : Sel) (ob : Sel) (s : State) : Host.Outcome State Fault Refusal :=
  runInt (.vaAnd mk vd oa ob) .va vd s fun e l => (e.va oa l) &&& (e.va ob l)

/-- va.or (R156). -/
def execVaOr (mk : Mask) (vd : BitVec 6) (oa : Sel) (ob : Sel) (s : State) : Host.Outcome State Fault Refusal :=
  runInt (.vaOr mk vd oa ob) .va vd s fun e l => (e.va oa l) ||| (e.va ob l)

/-- va.xor (R156). -/
def execVaXor (mk : Mask) (vd : BitVec 6) (oa : Sel) (ob : Sel) (s : State) : Host.Outcome State Fault Refusal :=
  runInt (.vaXor mk vd oa ob) .va vd s fun e l => (e.va oa l) ^^^ (e.va ob l)

/-- va.andn (R156). -/
def execVaAndn (mk : Mask) (vd : BitVec 6) (oa : Sel) (ob : Sel) (s : State) : Host.Outcome State Fault Refusal :=
  runInt (.vaAndn mk vd oa ob) .va vd s fun e l => (e.va oa l) &&& ~~~(e.va ob l)

/-- va.shl (R156). -/
def execVaShl (mk : Mask) (vd : BitVec 6) (oa : Sel) (ob : Sel) (s : State) : Host.Outcome State Fault Refusal :=
  runInt (.vaShl mk vd oa ob) .va vd s fun e l => shlW (e.va oa l) (e.va ob l).toNat

/-- va.shr (R156). -/
def execVaShr (mk : Mask) (vd : BitVec 6) (oa : Sel) (ob : Sel) (s : State) : Host.Outcome State Fault Refusal :=
  runInt (.vaShr mk vd oa ob) .va vd s fun e l => shrW (e.va oa l) (e.va ob l).toNat

/-- va.sar (R156). -/
def execVaSar (mk : Mask) (vd : BitVec 6) (oa : Sel) (ob : Sel) (s : State) : Host.Outcome State Fault Refusal :=
  runInt (.vaSar mk vd oa ob) .va vd s fun e l => sarW (e.va oa l) (e.va ob l).toNat

/-- va.min (R156). -/
def execVaMin (mk : Mask) (vd : BitVec 6) (oa : Sel) (ob : Sel) (s : State) : Host.Outcome State Fault Refusal :=
  runInt (.vaMin mk vd oa ob) .va vd s fun e l => minS (e.va oa l) (e.va ob l)

/-- va.max (R156). -/
def execVaMax (mk : Mask) (vd : BitVec 6) (oa : Sel) (ob : Sel) (s : State) : Host.Outcome State Fault Refusal :=
  runInt (.vaMax mk vd oa ob) .va vd s fun e l => maxS (e.va oa l) (e.va ob l)

/-- va.minu (R156). -/
def execVaMinu (mk : Mask) (vd : BitVec 6) (oa : Sel) (ob : Sel) (s : State) : Host.Outcome State Fault Refusal :=
  runInt (.vaMinu mk vd oa ob) .va vd s fun e l => minU (e.va oa l) (e.va ob l)

/-- va.maxu (R156). -/
def execVaMaxu (mk : Mask) (vd : BitVec 6) (oa : Sel) (ob : Sel) (s : State) : Host.Outcome State Fault Refusal :=
  runInt (.vaMaxu mk vd oa ob) .va vd s fun e l => maxU (e.va oa l) (e.va ob l)

/-- va.cmp (R156). -/
def execVaCmp (mk : Mask) (cc : Cond) (vd : BitVec 6) (oa : Sel) (ob : Sel) (s : State) : Host.Outcome State Fault Refusal :=
  runInt (.vaCmp mk cc vd oa ob) .va vd s fun e l => boolBits (cc.holds (e.va oa l) (e.va ob l))

/-- va.sel (R156). -/
def execVaSel (mk : Mask) (vd : BitVec 6) (oa : Sel) (ob : Sel) (oc : Sel) (s : State) : Host.Outcome State Fault Refusal :=
  runInt (.vaSel mk vd oa ob oc) .va vd s fun e l => if (e.va oc l) ≠ 0 then (e.va oa l) else (e.va ob l)

/-- va.mov (R156). -/
def execVaMov (mk : Mask) (vd : BitVec 6) (oa : Sel) (s : State) : Host.Outcome State Fault Refusal :=
  runInt (.vaMov mk vd oa) .va vd s fun e l => e.va oa l

/-- va.fadd (R158). -/
def execVaFadd (mk : Mask) (rm : Rm) (vd : BitVec 6) (oa : Sel) (ob : Sel) (s : State) : Host.Outcome State Fault Refusal :=
  runFp (.vaFadd mk rm vd oa ob) .va vd s fun e l => fadd32 (e.modes rm) false (e.va oa l) (e.va ob l)

/-- va.fmul (R158). -/
def execVaFmul (mk : Mask) (rm : Rm) (vd : BitVec 6) (oa : Sel) (ob : Sel) (s : State) : Host.Outcome State Fault Refusal :=
  runFp (.vaFmul mk rm vd oa ob) .va vd s fun e l => fmul32 (e.modes rm) (e.va oa l) (e.va ob l)

/-- va.fma (R158). -/
def execVaFma (mk : Mask) (rm : Rm) (vd : BitVec 6) (oa : Sel) (ob : Sel) (oc : Sel) (s : State) : Host.Outcome State Fault Refusal :=
  runFp (.vaFma mk rm vd oa ob oc) .va vd s fun e l => fma32 (e.modes rm) false (e.va oa l) (e.va ob l) (e.va oc l)

/-- va.fsub (R158). -/
def execVaFsub (mk : Mask) (rm : Rm) (vd : BitVec 6) (oa : Sel) (ob : Sel) (s : State) : Host.Outcome State Fault Refusal :=
  runFp (.vaFsub mk rm vd oa ob) .va vd s fun e l => fadd32 (e.modes rm) true (e.va oa l) (e.va ob l)

/-- va.fnma (R158). -/
def execVaFnma (mk : Mask) (rm : Rm) (vd : BitVec 6) (oa : Sel) (ob : Sel) (oc : Sel) (s : State) : Host.Outcome State Fault Refusal :=
  runFp (.vaFnma mk rm vd oa ob oc) .va vd s fun e l => fma32 (e.modes rm) true (e.va oa l) (e.va ob l) (e.va oc l)

/-- va.adds (R156). -/
def execVaAdds (mk : Mask) (vd : BitVec 6) (oa : Sel) (ob : Sel) (s : State) : Host.Outcome State Fault Refusal :=
  runInt (.vaAdds mk vd oa ob) .va vd s fun e l => satS32 ((e.va oa l).toInt + (e.va ob l).toInt)

/-- va.subs (R156). -/
def execVaSubs (mk : Mask) (vd : BitVec 6) (oa : Sel) (ob : Sel) (s : State) : Host.Outcome State Fault Refusal :=
  runInt (.vaSubs mk vd oa ob) .va vd s fun e l => satS32 ((e.va oa l).toInt - (e.va ob l).toInt)

/-- va.add64 (R157). -/
def execVaAdd64 (mk : Mask) (vd : BitVec 6) (oa : Sel) (ob : Sel) (s : State) : Host.Outcome State Fault Refusal :=
  runVec (.vaAdd64 mk vd oa ob) .va vd s fun e l => (((e.pair oa l) + (e.pair ob l)).setWidth 128, 0)

/-- va.sub64 (R157). -/
def execVaSub64 (mk : Mask) (vd : BitVec 6) (oa : Sel) (ob : Sel) (s : State) : Host.Outcome State Fault Refusal :=
  runVec (.vaSub64 mk vd oa ob) .va vd s fun e l => (((e.pair oa l) - (e.pair ob l)).setWidth 128, 0)

/-- va.shl64 (R157). -/
def execVaShl64 (mk : Mask) (vd : BitVec 6) (oa : Sel) (ob : Sel) (s : State) : Host.Outcome State Fault Refusal :=
  runVec (.vaShl64 mk vd oa ob) .va vd s fun e l => ((shlW (e.pair oa l) (e.va ob l).toNat).setWidth 128, 0)

/-- va.shr64 (R157). -/
def execVaShr64 (mk : Mask) (vd : BitVec 6) (oa : Sel) (ob : Sel) (s : State) : Host.Outcome State Fault Refusal :=
  runVec (.vaShr64 mk vd oa ob) .va vd s fun e l => ((shrW (e.pair oa l) (e.va ob l).toNat).setWidth 128, 0)

/-- va.sar64 (R157). -/
def execVaSar64 (mk : Mask) (vd : BitVec 6) (oa : Sel) (ob : Sel) (s : State) : Host.Outcome State Fault Refusal :=
  runVec (.vaSar64 mk vd oa ob) .va vd s fun e l => ((sarW (e.pair oa l) (e.va ob l).toNat).setWidth 128, 0)

/-- va.cmp64 (R157). -/
def execVaCmp64 (mk : Mask) (cc : Cond) (vd : BitVec 6) (oa : Sel) (ob : Sel) (s : State) : Host.Outcome State Fault Refusal :=
  runInt (.vaCmp64 mk cc vd oa ob) .va vd s fun e l => boolBits (cc.holds (e.pair oa l) (e.pair ob l))

/-- va.fmin (R160). -/
def execVaFmin (mk : Mask) (vd : BitVec 6) (oa : Sel) (ob : Sel) (s : State) : Host.Outcome State Fault Refusal :=
  runFp (.vaFmin mk vd oa ob) .va vd s fun e l => fminmax32 (e.modes .fmode) false (e.va oa l) (e.va ob l)

/-- va.fmax (R160). -/
def execVaFmax (mk : Mask) (vd : BitVec 6) (oa : Sel) (ob : Sel) (s : State) : Host.Outcome State Fault Refusal :=
  runFp (.vaFmax mk vd oa ob) .va vd s fun e l => fminmax32 (e.modes .fmode) true (e.va oa l) (e.va ob l)

/-- va.fabs (R161). -/
def execVaFabs (mk : Mask) (vd : BitVec 6) (oa : Sel) (s : State) : Host.Outcome State Fault Refusal :=
  runInt (.vaFabs mk vd oa) .va vd s fun e l => (e.va oa l) &&& 0x7FFFFFFF

/-- va.fneg (R161). -/
def execVaFneg (mk : Mask) (vd : BitVec 6) (oa : Sel) (s : State) : Host.Outcome State Fault Refusal :=
  runInt (.vaFneg mk vd oa) .va vd s fun e l => (e.va oa l) ^^^ 0x80000000

/-- va.fcmp (R161). -/
def execVaFcmp (mk : Mask) (fc : FCond) (vd : BitVec 6) (oa : Sel) (ob : Sel) (s : State) : Host.Outcome State Fault Refusal :=
  runFp (.vaFcmp mk fc vd oa ob) .va vd s fun e l => fcmp32 (e.modes .fmode) fc (e.va oa l) (e.va ob l)

/-- va.fcls (R161). -/
def execVaFcls (mk : Mask) (vd : BitVec 6) (oa : Sel) (s : State) : Host.Outcome State Fault Refusal :=
  runInt (.vaFcls mk vd oa) .va vd s fun e l => fcls32 (e.va oa l)

/-- va.cvt (R162). -/
def execVaCvt (mk : Mask) (cv : Cvt) (rm : Rm) (vd : BitVec 6) (oa : Sel) (s : State) : Host.Outcome State Fault Refusal :=
  runFp (.vaCvt mk cv rm vd oa) .va vd s fun e l => cvt32 cv (e.modes rm) (e.va oa l)

/-- The enabled lanes of a block of sixteen. -/
def blockLanes (t : Team) (m : Mask) (b : Nat) : List Nat := ((List.range 16).map fun j => 16 * b + j).filter (enabled t m)

/-- The TS block of sixteen lanes; a disabled lane joins it as +0.0 (R163). -/
def Env.tsqBlock (e : Env) (ts : TsFmt) (rm : Rm) (m : Mask) (oa : Sel) (b : Nat) : TsBlock :=
  let md := e.modes rm
  tsEncode (TsFmt.m ts) md ((List.range 16).map fun j =>
    if enabled e.t m (16 * b + j) then fp32.read md (e.va oa (16 * b + j)).toNat else .fin false 0 0)

/-- va.tsq (R163). -/
def execVaTsq (mk : Mask) (ts : TsFmt) (rm : Rm) (vd : BitVec 6) (oa : Sel) (s : State) : Host.Outcome State Fault Refusal :=
  let i := Instr.vaTsq mk ts rm vd oa
  runLanes i s (fun _ => true)
    (fun e p s =>
      let bs := ([2 * p, 2 * p + 1].filter fun b => !(blockLanes e.t mk b).isEmpty).map fun b => (b, e.tsqBlock ts rm mk oa b)
      let vals := bs.flatMap fun x => (blockLanes e.t mk x.1).map fun l =>
        (⟨l, BitVec.ofNat 128 (tsScale x.2 * 2 ^ 16 + tsField (TsFmt.m ts) x.2 (l % 16)), e.lanesP i l⟩ : LaneVal)
      s.landLanes e i .va vd.toNat vals (bs.foldl (fun m x => m ||| x.2.fl) 0))
    (fun e s => if (e.runPasses i).isEmpty then s.landLanes e i .va vd.toNat [] 0 else s)

/-- va.tsdq (R164). -/
def execVaTsdq (mk : Mask) (ts : TsFmt) (vd : BitVec 6) (oa : Sel) (ob : Sel) (s : State) : Host.Outcome State Fault Refusal :=
  runFp (.vaTsdq mk ts vd oa ob) .va vd s fun e l => tsdq32 (TsFmt.m ts) (e.modes .fmode) l (e.va oa l) (e.va ob l)

/-- va.xfer (R176). -/
def execVaXfer (mk : Mask) (xf : XferForm) (df : RFile) (vd : BitVec 6) (oa : Sel) (s : State) : Host.Outcome State Fault Refusal :=
  runXfer (.vaXfer mk xf df vd oa) .va xf vd oa s

end Sys2Proof.Machine
end

