-- ==== Sys2Proof/Machine/VectorB.lean ====
section
/-!
DEFINITION. The VB operations (R150 to R161, R165 to R176).
-/
namespace Sys2Proof.Machine

/-- Src(sel, ℓ) of a VB operand. -/
def Env.vb (e : Env) (x : Sel) (l : Nat) : Lane := e.lane .vb x l

/-- A special function of each enabled lane (R165). -/
def runSpecial (i : Instr) (vd : BitVec 6) (oa : Sel) (fn : SpecFn) (s : State) : Host.Outcome State Fault Refusal :=
  runFp i .vb vd s fun e l => special32 fn e.c.fm e.c.cm (e.vb oa l)

/-- A lane value with the poison of the lanes it was formed from. -/
def runGather (i : Instr) (vd : BitVec 6) (s : State) (f : Env → Nat → Lane) (pois : Env → Nat → Bool) :
    Host.Outcome State Fault Refusal :=
  runLanes i s (fun _ => true)
    (fun e p s => s.landLanes e i .vb vd.toNat
      ((lanesIn e.t i.maskOf p).map fun l => ⟨l, (f e l).setWidth 128, pois e l⟩) 0)
    (fun e s => if (e.runPasses i).isEmpty then s.landLanes e i .vb vd.toNat [] 0 else s)

/-- An in-pass permute: A of the lane that permLane names (R173). -/
def runPerm (i : Instr) (vd : BitVec 6) (oa ob : Sel) (s : State) : Host.Outcome State Fault Refusal :=
  runGather i vd s (fun e l => e.vb oa (permLane i l (e.vb ob l)))
    fun e l => e.laneP ob l || e.laneP oa (permLane i l (e.vb ob l))

/-- A function of R174. -/
def redApply (f : RedFn) (a b : Lane) : Lane :=
  match f with
  | .add => a + b
  | .min => minS a b
  | .max => maxS a b
  | .minu => minU a b
  | .maxu => maxU a b
  | .and => a &&& b
  | .or => a ||| b
  | .xor => a ^^^ b

/-- A function over a list of lanes that is not empty. -/
def redOver (f : RedFn) (l : List Lane) : Lane :=
  match l with
  | [] => 0
  | a :: r => r.foldl (redApply f) a

/-- vb.add (R156). -/
def execVbAdd (mk : Mask) (vd : BitVec 6) (oa : Sel) (ob : Sel) (s : State) : Host.Outcome State Fault Refusal :=
  runInt (.vbAdd mk vd oa ob) .vb vd s fun e l => (e.vb oa l) + (e.vb ob l)

/-- vb.sub (R156). -/
def execVbSub (mk : Mask) (vd : BitVec 6) (oa : Sel) (ob : Sel) (s : State) : Host.Outcome State Fault Refusal :=
  runInt (.vbSub mk vd oa ob) .vb vd s fun e l => (e.vb oa l) - (e.vb ob l)

/-- vb.and (R156). -/
def execVbAnd (mk : Mask) (vd : BitVec 6) (oa : Sel) (ob : Sel) (s : State) : Host.Outcome State Fault Refusal :=
  runInt (.vbAnd mk vd oa ob) .vb vd s fun e l => (e.vb oa l) &&& (e.vb ob l)

/-- vb.or (R156). -/
def execVbOr (mk : Mask) (vd : BitVec 6) (oa : Sel) (ob : Sel) (s : State) : Host.Outcome State Fault Refusal :=
  runInt (.vbOr mk vd oa ob) .vb vd s fun e l => (e.vb oa l) ||| (e.vb ob l)

/-- vb.xor (R156). -/
def execVbXor (mk : Mask) (vd : BitVec 6) (oa : Sel) (ob : Sel) (s : State) : Host.Outcome State Fault Refusal :=
  runInt (.vbXor mk vd oa ob) .vb vd s fun e l => (e.vb oa l) ^^^ (e.vb ob l)

/-- vb.shl (R156). -/
def execVbShl (mk : Mask) (vd : BitVec 6) (oa : Sel) (ob : Sel) (s : State) : Host.Outcome State Fault Refusal :=
  runInt (.vbShl mk vd oa ob) .vb vd s fun e l => shlW (e.vb oa l) (e.vb ob l).toNat

/-- vb.shr (R156). -/
def execVbShr (mk : Mask) (vd : BitVec 6) (oa : Sel) (ob : Sel) (s : State) : Host.Outcome State Fault Refusal :=
  runInt (.vbShr mk vd oa ob) .vb vd s fun e l => shrW (e.vb oa l) (e.vb ob l).toNat

/-- vb.min (R156). -/
def execVbMin (mk : Mask) (vd : BitVec 6) (oa : Sel) (ob : Sel) (s : State) : Host.Outcome State Fault Refusal :=
  runInt (.vbMin mk vd oa ob) .vb vd s fun e l => minS (e.vb oa l) (e.vb ob l)

/-- vb.max (R156). -/
def execVbMax (mk : Mask) (vd : BitVec 6) (oa : Sel) (ob : Sel) (s : State) : Host.Outcome State Fault Refusal :=
  runInt (.vbMax mk vd oa ob) .vb vd s fun e l => maxS (e.vb oa l) (e.vb ob l)

/-- vb.cmp (R156). -/
def execVbCmp (mk : Mask) (cc : Cond) (vd : BitVec 6) (oa : Sel) (ob : Sel) (s : State) : Host.Outcome State Fault Refusal :=
  runInt (.vbCmp mk cc vd oa ob) .vb vd s fun e l => boolBits (cc.holds (e.vb oa l) (e.vb ob l))

/-- vb.sel (R156). -/
def execVbSel (mk : Mask) (vd : BitVec 6) (oa : Sel) (ob : Sel) (oc : Sel) (s : State) : Host.Outcome State Fault Refusal :=
  runInt (.vbSel mk vd oa ob oc) .vb vd s fun e l => if (e.vb oc l) ≠ 0 then (e.vb oa l) else (e.vb ob l)

/-- vb.mov (R156). -/
def execVbMov (mk : Mask) (vd : BitVec 6) (oa : Sel) (s : State) : Host.Outcome State Fault Refusal :=
  runInt (.vbMov mk vd oa) .vb vd s fun e l => e.vb oa l

/-- vb.fadd (R158). -/
def execVbFadd (mk : Mask) (rm : Rm) (vd : BitVec 6) (oa : Sel) (ob : Sel) (s : State) : Host.Outcome State Fault Refusal :=
  runFp (.vbFadd mk rm vd oa ob) .vb vd s fun e l => fadd32 (e.modes rm) false (e.vb oa l) (e.vb ob l)

/-- vb.fmul (R158). -/
def execVbFmul (mk : Mask) (rm : Rm) (vd : BitVec 6) (oa : Sel) (ob : Sel) (s : State) : Host.Outcome State Fault Refusal :=
  runFp (.vbFmul mk rm vd oa ob) .vb vd s fun e l => fmul32 (e.modes rm) (e.vb oa l) (e.vb ob l)

/-- vb.fma (R158). -/
def execVbFma (mk : Mask) (rm : Rm) (vd : BitVec 6) (oa : Sel) (ob : Sel) (oc : Sel) (s : State) : Host.Outcome State Fault Refusal :=
  runFp (.vbFma mk rm vd oa ob oc) .vb vd s fun e l => fma32 (e.modes rm) false (e.vb oa l) (e.vb ob l) (e.vb oc l)

/-- vb.xfer (R176). -/
def execVbXfer (mk : Mask) (xf : XferForm) (df : RFile) (vd : BitVec 6) (oa : Sel) (s : State) : Host.Outcome State Fault Refusal :=
  runXfer (.vbXfer mk xf df vd oa) .vb xf vd oa s

/-- vb.popc (R156). -/
def execVbPopc (mk : Mask) (vd : BitVec 6) (oa : Sel) (s : State) : Host.Outcome State Fault Refusal :=
  runInt (.vbPopc mk vd oa) .vb vd s fun e l => BitVec.ofNat 32 (popc (e.vb oa l))

/-- vb.clz (R156). -/
def execVbClz (mk : Mask) (vd : BitVec 6) (oa : Sel) (s : State) : Host.Outcome State Fault Refusal :=
  runInt (.vbClz mk vd oa) .vb vd s fun e l => BitVec.ofNat 32 (clz (e.vb oa l))

/-- vb.rcp (R166). -/
def execVbRcp (mk : Mask) (vd : BitVec 6) (oa : Sel) (s : State) : Host.Outcome State Fault Refusal :=
  runSpecial (.vbRcp mk vd oa) vd oa .rcp s

/-- vb.rsqrt (R167). -/
def execVbRsqrt (mk : Mask) (vd : BitVec 6) (oa : Sel) (s : State) : Host.Outcome State Fault Refusal :=
  runSpecial (.vbRsqrt mk vd oa) vd oa .rsqrt s

/-- vb.sqrt (R168). -/
def execVbSqrt (mk : Mask) (vd : BitVec 6) (oa : Sel) (s : State) : Host.Outcome State Fault Refusal :=
  runSpecial (.vbSqrt mk vd oa) vd oa .sqrt s

/-- vb.exp2 (R169). -/
def execVbExp2 (mk : Mask) (vd : BitVec 6) (oa : Sel) (s : State) : Host.Outcome State Fault Refusal :=
  runSpecial (.vbExp2 mk vd oa) vd oa .exp2 s

/-- vb.log2 (R170). -/
def execVbLog2 (mk : Mask) (vd : BitVec 6) (oa : Sel) (s : State) : Host.Outcome State Fault Refusal :=
  runSpecial (.vbLog2 mk vd oa) vd oa .log2 s

/-- vb.sin (R171). -/
def execVbSin (mk : Mask) (vd : BitVec 6) (oa : Sel) (s : State) : Host.Outcome State Fault Refusal :=
  runSpecial (.vbSin mk vd oa) vd oa .sin s

/-- vb.cos (R171). -/
def execVbCos (mk : Mask) (vd : BitVec 6) (oa : Sel) (s : State) : Host.Outcome State Fault Refusal :=
  runSpecial (.vbCos mk vd oa) vd oa .cos s

/-- vb.tanh (R172). -/
def execVbTanh (mk : Mask) (vd : BitVec 6) (oa : Sel) (s : State) : Host.Outcome State Fault Refusal :=
  runSpecial (.vbTanh mk vd oa) vd oa .tanh s

/-- vb.perm (R173). -/
def execVbPerm (mk : Mask) (vd : BitVec 6) (oa : Sel) (ob : Sel) (s : State) : Host.Outcome State Fault Refusal :=
  runPerm (.vbPerm mk vd oa ob) vd oa ob s

/-- vb.shfl (R173). -/
def execVbShfl (mk : Mask) (vd : BitVec 6) (oa : Sel) (ob : Sel) (s : State) : Host.Outcome State Fault Refusal :=
  runPerm (.vbShfl mk vd oa ob) vd oa ob s

/-- vb.rot (R173). -/
def execVbRot (mk : Mask) (vd : BitVec 6) (oa : Sel) (ob : Sel) (s : State) : Host.Outcome State Fault Refusal :=
  runPerm (.vbRot mk vd oa ob) vd oa ob s

/-- vb.bcl (R173). -/
def execVbBcl (mk : Mask) (vd : BitVec 6) (oa : Sel) (ob : Sel) (s : State) : Host.Outcome State Fault Refusal :=
  runPerm (.vbBcl mk vd oa ob) vd oa ob s

/-- vb.red (R174). -/
def execVbRed (mk : Mask) (rf : RedFn) (vd : BitVec 6) (oa : Sel) (s : State) : Host.Outcome State Fault Refusal :=
  let i := Instr.vbRed mk rf vd oa
  runGather i vd s (fun e l => redOver rf ((lanesIn e.t mk (l / 32)).map fun j => e.vb oa j))
    fun e l => (lanesIn e.t mk (l / 32)).any fun j => e.laneP oa j

/-- vb.scan (R174). -/
def execVbScan (mk : Mask) (rf : RedFn) (vd : BitVec 6) (oa : Sel) (s : State) : Host.Outcome State Fault Refusal :=
  let i := Instr.vbScan mk rf vd oa
  runGather i vd s (fun e l => redOver rf (((lanesIn e.t mk (l / 32)).filter fun j => decide (j ≤ l)).map fun j => e.vb oa j))
    fun e l => ((lanesIn e.t mk (l / 32)).filter fun j => decide (j ≤ l)).any fun j => e.laneP oa j

/-- vb.match (R175). -/
def execVbMatch (mk : Mask) (vd : BitVec 6) (oa : Sel) (s : State) : Host.Outcome State Fault Refusal :=
  let i := Instr.vbMatch mk vd oa
  runGather i vd s
    (fun e l => ((lanesIn e.t mk (l / 32)).filter fun j => e.vb oa j == e.vb oa l).foldl
      (fun (m : Lane) j => m ||| (1#32 <<< (j % 32))) 0)
    fun e l => (lanesIn e.t mk (l / 32)).any fun j => e.laneP oa j

end Sys2Proof.Machine
end

