-- ==== Sys2Proof/Machine/Issue.lean ====
section
/-!
DEFINITION. Issuing words (R66, R67, R83, R84, R125, R131, R313, R329): the word in progress, its checks, its passes and its commit,
and the device steps WORD_FETCH, DICT_REFILL, TEAM_SELECTION, LANDING, BLOCKED_SLOT_COMMIT, QUEUE_HANDLE_UPDATE and
XU_ACCEPTANCE.
-/
namespace Sys2Proof.Machine

/-! ## Slot operations -/

/-- The meaning of a slot operation, for the words that issue it; a step of the device is none. -/
def slotExec (i : Instr) (s : State) : Host.Outcome State Fault Refusal :=
  match i with
  | .suNop => execSuNop s
  | .suEnd => execSuEnd s
  | .suAdd sd sa sb => execSuAdd sd sa sb s
  | .suSub sd sa sb => execSuSub sd sa sb s
  | .suMul sd sa sb => execSuMul sd sa sb s
  | .suMulh sd sa sb => execSuMulh sd sa sb s
  | .suMulhu sd sa sb => execSuMulhu sd sa sb s
  | .suAnd sd sa sb => execSuAnd sd sa sb s
  | .suOr sd sa sb => execSuOr sd sa sb s
  | .suXor sd sa sb => execSuXor sd sa sb s
  | .suAndn sd sa sb => execSuAndn sd sa sb s
  | .suShl sd sa sb => execSuShl sd sa sb s
  | .suShr sd sa sb => execSuShr sd sa sb s
  | .suSar sd sa sb => execSuSar sd sa sb s
  | .suMin sd sa sb => execSuMin sd sa sb s
  | .suMax sd sa sb => execSuMax sd sa sb s
  | .suMinu sd sa sb => execSuMinu sd sa sb s
  | .suMaxu sd sa sb => execSuMaxu sd sa sb s
  | .suPopc sd sa => execSuPopc sd sa s
  | .suClz sd sa => execSuClz sd sa s
  | .suCtz sd sa => execSuCtz sd sa s
  | .suCmp cc sd sa sb => execSuCmp cc sd sa sb s
  | .suSel sd sa sb sc => execSuSel sd sa sb sc s
  | .suMov sd sa => execSuMov sd sa s
  | .suBfx sd sa sb sc => execSuBfx sd sa sb sc s
  | .suBmsk sd sa sb => execSuBmsk sd sa sb s
  | .suBr occ sa sb sc => execSuBr occ sa sb sc s
  | .suCall sd sc => execSuCall sd sc s
  | .suCalli sd sa => execSuCalli sd sa s
  | .suJmpi sa => execSuJmpi sa s
  | .suLoop lv sa sc => execSuLoop lv sa sc s
  | .suLbrk lv => execSuLbrk lv s
  | .suLrd sd lv lr => execSuLrd sd lv lr s
  | .suLwr lv lr sa => execSuLwr lv lr sa s
  | .suSwait str sb => execSuSwait str sb s
  | .suSrd sd str ctr => execSuSrd sd str ctr s
  | .suBar lv => execSuBar lv s
  | .suSwpt sa => execSuSwpt sa s
  | .suBcast df sd sa => execSuBcast df sd sa s
  | .suXfer sd sa => execSuXfer sd sa s
  | .suCsrr sd csr => execSuCsrr sd csr s
  | .suCsrw csr sa => execSuCsrw csr sa s
  | .suTrap sa => execSuTrap sa s
  | .suEret => execSuEret s
  | .suDpf sa sb => execSuDpf sa sb s
  | .suDinv => execSuDinv s
  | .suHclr sa => execSuHclr sa s
  | .vaAdd mk vd oa ob => execVaAdd mk vd oa ob s
  | .vaSub mk vd oa ob => execVaSub mk vd oa ob s
  | .vaMul mk vd oa ob => execVaMul mk vd oa ob s
  | .vaMulh mk vd oa ob => execVaMulh mk vd oa ob s
  | .vaMulhu mk vd oa ob => execVaMulhu mk vd oa ob s
  | .vaAnd mk vd oa ob => execVaAnd mk vd oa ob s
  | .vaOr mk vd oa ob => execVaOr mk vd oa ob s
  | .vaXor mk vd oa ob => execVaXor mk vd oa ob s
  | .vaAndn mk vd oa ob => execVaAndn mk vd oa ob s
  | .vaShl mk vd oa ob => execVaShl mk vd oa ob s
  | .vaShr mk vd oa ob => execVaShr mk vd oa ob s
  | .vaSar mk vd oa ob => execVaSar mk vd oa ob s
  | .vaMin mk vd oa ob => execVaMin mk vd oa ob s
  | .vaMax mk vd oa ob => execVaMax mk vd oa ob s
  | .vaMinu mk vd oa ob => execVaMinu mk vd oa ob s
  | .vaMaxu mk vd oa ob => execVaMaxu mk vd oa ob s
  | .vaCmp mk cc vd oa ob => execVaCmp mk cc vd oa ob s
  | .vaSel mk vd oa ob oc => execVaSel mk vd oa ob oc s
  | .vaMov mk vd oa => execVaMov mk vd oa s
  | .vaAdds mk vd oa ob => execVaAdds mk vd oa ob s
  | .vaSubs mk vd oa ob => execVaSubs mk vd oa ob s
  | .vaAdd64 mk vd oa ob => execVaAdd64 mk vd oa ob s
  | .vaSub64 mk vd oa ob => execVaSub64 mk vd oa ob s
  | .vaShl64 mk vd oa ob => execVaShl64 mk vd oa ob s
  | .vaShr64 mk vd oa ob => execVaShr64 mk vd oa ob s
  | .vaSar64 mk vd oa ob => execVaSar64 mk vd oa ob s
  | .vaCmp64 mk cc vd oa ob => execVaCmp64 mk cc vd oa ob s
  | .vaFadd mk rm vd oa ob => execVaFadd mk rm vd oa ob s
  | .vaFsub mk rm vd oa ob => execVaFsub mk rm vd oa ob s
  | .vaFmul mk rm vd oa ob => execVaFmul mk rm vd oa ob s
  | .vaFma mk rm vd oa ob oc => execVaFma mk rm vd oa ob oc s
  | .vaFnma mk rm vd oa ob oc => execVaFnma mk rm vd oa ob oc s
  | .vaFmin mk vd oa ob => execVaFmin mk vd oa ob s
  | .vaFmax mk vd oa ob => execVaFmax mk vd oa ob s
  | .vaFabs mk vd oa => execVaFabs mk vd oa s
  | .vaFneg mk vd oa => execVaFneg mk vd oa s
  | .vaFcmp mk fc vd oa ob => execVaFcmp mk fc vd oa ob s
  | .vaFcls mk vd oa => execVaFcls mk vd oa s
  | .vaCvt mk cv rm vd oa => execVaCvt mk cv rm vd oa s
  | .vaTsq mk ts rm vd oa => execVaTsq mk ts rm vd oa s
  | .vaTsdq mk ts vd oa ob => execVaTsdq mk ts vd oa ob s
  | .vaXfer mk xf df vd oa => execVaXfer mk xf df vd oa s
  | .vbAdd mk vd oa ob => execVbAdd mk vd oa ob s
  | .vbSub mk vd oa ob => execVbSub mk vd oa ob s
  | .vbAnd mk vd oa ob => execVbAnd mk vd oa ob s
  | .vbOr mk vd oa ob => execVbOr mk vd oa ob s
  | .vbXor mk vd oa ob => execVbXor mk vd oa ob s
  | .vbShl mk vd oa ob => execVbShl mk vd oa ob s
  | .vbShr mk vd oa ob => execVbShr mk vd oa ob s
  | .vbMin mk vd oa ob => execVbMin mk vd oa ob s
  | .vbMax mk vd oa ob => execVbMax mk vd oa ob s
  | .vbCmp mk cc vd oa ob => execVbCmp mk cc vd oa ob s
  | .vbSel mk vd oa ob oc => execVbSel mk vd oa ob oc s
  | .vbMov mk vd oa => execVbMov mk vd oa s
  | .vbPopc mk vd oa => execVbPopc mk vd oa s
  | .vbClz mk vd oa => execVbClz mk vd oa s
  | .vbFadd mk rm vd oa ob => execVbFadd mk rm vd oa ob s
  | .vbFmul mk rm vd oa ob => execVbFmul mk rm vd oa ob s
  | .vbFma mk rm vd oa ob oc => execVbFma mk rm vd oa ob oc s
  | .vbRcp mk vd oa => execVbRcp mk vd oa s
  | .vbRsqrt mk vd oa => execVbRsqrt mk vd oa s
  | .vbSqrt mk vd oa => execVbSqrt mk vd oa s
  | .vbExp2 mk vd oa => execVbExp2 mk vd oa s
  | .vbLog2 mk vd oa => execVbLog2 mk vd oa s
  | .vbSin mk vd oa => execVbSin mk vd oa s
  | .vbCos mk vd oa => execVbCos mk vd oa s
  | .vbTanh mk vd oa => execVbTanh mk vd oa s
  | .vbPerm mk vd oa ob => execVbPerm mk vd oa ob s
  | .vbShfl mk vd oa ob => execVbShfl mk vd oa ob s
  | .vbRot mk vd oa ob => execVbRot mk vd oa ob s
  | .vbBcl mk vd oa ob => execVbBcl mk vd oa ob s
  | .vbRed mk rf vd oa => execVbRed mk rf vd oa s
  | .vbScan mk rf vd oa => execVbScan mk rf vd oa s
  | .vbMatch mk vd oa => execVbMatch mk vd oa s
  | .vbXfer mk xf df vd oa => execVbXfer mk xf df vd oa s
  | .muLds mk df md ab oa st => execMuLds mk df md ab oa st s
  | .muSts mk ab oa ob st => execMuSts mk ab oa ob st s
  | .muGths mk df md ab ob st => execMuGths mk df md ab ob st s
  | .muScts mk ab oa ob st => execMuScts mk ab oa ob st s
  | .muLdsa md ab oa st => execMuLdsa md ab oa st s
  | .muStsa md ab oa st => execMuStsa md ab oa st s
  | .muLdr mk df md ab oa ob st => execMuLdr mk df md ab oa ob st s
  | .muStr mk ab oa ob st => execMuStr mk ab oa ob st s
  | .muAtmr mk af md ab oa ob st => execMuAtmr mk af md ab oa ob st s
  | .muLdg mk df md ab oa st => execMuLdg mk df md ab oa st s
  | .muStg mk ab oa ob st => execMuStg mk ab oa ob st s
  | .muGthg mk df md ab ob st => execMuGthg mk df md ab ob st s
  | .muSctg mk ab oa ob st => execMuSctg mk ab oa ob st s
  | .muLdga md ab oa st => execMuLdga md ab oa st s
  | .muStga md ab oa st => execMuStga md ab oa st s
  | .muPfg ab oa st => execMuPfg ab oa st s
  | .muAtms mk af md ab oa ob st => execMuAtms mk af md ab oa ob st s
  | .muAtmg mk af md ab oa ob st => execMuAtmg mk af md ab oa ob st s
  | .muQbind qh md => execMuQbind qh md s
  | .muQwait qs qh oa => execMuQwait qs qh oa s
  | .muQadv qs qh oa => execMuQadv qs qh oa s
  | .muTfull oa => execMuTfull oa s
  | .muTgate gate oa => execMuTgate gate oa s
  | .muTclr oa => execMuTclr oa s
  | .muCwait oa ob => execMuCwait oa ob s
  | .muTstat md oa => execMuTstat md oa s
  | .muCprog cp ab oa st => execMuCprog cp ab oa st s
  | .muCopy cp oa ob st => execMuCopy cp oa ob st s
  | .muMsend ab oa ob st => execMuMsend ab oa ob st s
  | .muMpost ab oa ob st => execMuMpost ab oa ob st s
  | .muMprobe md oa => execMuMprobe md oa s
  | .muCpost ab oa st => execMuCpost ab oa st s
  | .muTget md ab oa st => execMuTget md ab oa st s
  | .muAdda md ab oa => execMuAdda md ab oa s
  | .muMova md oa => execMuMova md oa s
  | .muXfer md oa => execMuXfer md oa s
  | .muXferPerLane mk df md oa => execMuXferPerLane mk df md oa s
  | .xuFmt fa oa st => execXuFmt fa oa st s
  | .xuMma acc fa fb oa ob oc st => execXuMma acc fa fb oa ob oc st s
  | .xuMmat acc fa fb oa ob oc st => execXuMmat acc fa fb oa ob oc st s
  | .xuDist acc fa fb oa ob oc st => execXuDist acc fa fb oa ob oc st s
  | .xuTopk largest i32 acc oa ob st => execXuTopk largest i32 acc oa ob st s
  | .xuAccst i32 rm acc fa oa st => execXuAccst i32 rm acc fa oa st s
  | .xuAccld acc fa oa st => execXuAccld acc fa oa st s
  | .xuAcczr acc st => execXuAcczr acc st s
  | .xuAccadd acc acb st => execXuAccadd acc acb st s
  | .xuAccscl acc oc st => execXuAccscl acc oc st s
  | .xuAccmv acc acb st => execXuAccmv acc acb st s
  | .xuAcctr acc acb st => execXuAcctr acc acb st s
  | _ => .fault .noWordIssuing

/-! ## Building the word in progress (R66, R67, R83, R329) -/

/-- The held repeats of a word: for each kind it lacks, the valid record of that kind (R66). -/
def Team.repeats (t : Team) (w : Word3) : List OpSt :=
  [Kind.su, .va, .vb, .mu, .xu].filterMap fun k =>
    if w.ops.any fun x => x.2.kind == k then none
    else
      match t.held.get? k.enc.toNat with
      | none => none
      | some bits =>
        match decodeSlot k true bits with
        | .ok i => some ⟨none, ⟨k, true, bits, i⟩, .pending, none, []⟩
        | .error _ => none

/-- One vector instance serves both kinds of a word's needs: the word splits (R83). -/
def State.splits (s : State) (z : Nat) (t : Team) (w : Word3) : Bool :=
  let kinds := ((t.repeats w).map fun o => o.op.kind) ++ w.ops.map fun x => x.2.kind
  ((s.parts.get? (partOf z)).map Part.oneVec).getD false && kinds.contains .va && kinds.contains .vb

/-- The operations a word issues, in program order: not those committed before, only the second part's after a stop between
parts, and the first part's held repeats only when no position had committed (R329). -/
def Team.wordOps (t : Team) (w : Word3) (split : Bool) : List OpSt :=
  let rep := t.repeats w
  let pos := (w.ops.filter fun x => !t.done.getLsbD x.1).map fun x => (⟨some x.1, x.2, .pending, none, []⟩ : OpSt)
  if t.part2 then (rep ++ pos).filter fun o => o.op.kind == .vb
  else if t.done = 0 then rep ++ pos
  else (rep.filter fun o => split && o.op.kind == .vb) ++ pos

/-- The landing of an operation issued at the team's present team-cycle takes the operation's key: the last one of its shape, unless one
has it already. -/
def Team.claim (t : Team) (slot : Nat) (o : SlotOp) : Team :=
  let key := landKey slot o.kind
  match o.ins.lands with
  | none => t
  | some (fl, lat) =>
    let own (l : Landing) : Bool := l.key.isNone && l.file == fl && l.due == t.tc + lat && l.reg == o.ins.fields.d.toNat
    match t.land.reverse.findIdx? own with
    | none => t
    | some k =>
      if t.land.any fun l => l.key == some key then t
      else { t with land := t.land.modify (t.land.length - 1 - k) fun l => { l with key := some key } }

/-- The landings a resumed word made before it was put aside: those of its committed positions keep their place in its order, and those
its operations go on with are the same landings (R30, R329). -/
def Team.rejoin (t : Team) (w : Word3) (ops : List OpSt) : Team :=
  let t := (w.ops.filter fun x => t.done.getLsbD x.1).foldl (fun t x => t.claim x.1 x.2) t
  if t.resumePass = 0 then t
  else (ops.filter fun o => o.op.ins.perLane && !commitsWhole o.op.ins).foldl (fun t o => t.claim (o.pos.getD 3) o.op) t

/-- The word of a fetched team, before its checks. -/
def State.mkCtx (s : State) (z : Nat) (t : Team) (f : Fetched) : Ctx :=
  let split := s.splits z t f.word
  let ops := t.wordOps f.word split
  let both := (ops.any fun o => o.op.kind != .vb) && ops.any fun o => o.op.kind == .vb
  let c : Ctx := ⟨t.tc, f.pc, f.npc, f.imm, f.word, ops, [], t.resumePass, split && both, t.part2, false, t.fmode, t.compat,
    t.ic, t.dc, [], 0, false⟩
  match s.blocks.get? t.blk with
  | none => c
  | some b =>
    let e : Env := ⟨s, z, t, b, c, 3⟩
    let cp := (ops.findSome? fun o => match o.op.ins with
      | .muCopy cp _ _ _ => some cp.toNat
      | _ => none).getD 0
    { c with qv := (ops.flatMap fun o => e.capture o.op.ins).eraseDups, cpv := b.cp.get cp, cpvP := b.cpP.get cp != 0 }

/-- Streams or the miss-status pool do not allow the word yet (R39, R185). -/
def Env.exhausted (e : Env) : Bool :=
  ((List.range 8).any fun n =>
    decide (255 < e.t.outstanding n + (e.c.ops.filter fun o => (o.op.ins.stream.map fun x => x.str.toNat) == some n).length))
  || (let need := (e.c.ops.map fun o => match e.accesses o.op.ins with
        | some x => if x.sp == .block then 0 else e.s.missSectors (coreOf e.z) x.acc (e.accPlaces x).1
        | none => 0).sum
      decide (need ≠ 0) && decide (3072 < e.s.missUsed (coreOf e.z) + need))

/-- Three landings in one file at the next team-cycle, which only replay descriptors can place: the word before it raises
LANDING_OVERFLOW (R56). No slot makes the third, so TF.SLOT is 3 (DESIGN CHOICE, log entry 49). -/
def Env.crowded (e : Env) : Option (Nat × Stop) :=
  let n (fl : RFile) : Nat := e.t.portCount fl (e.c.t + 1)
  ([RFile.s, .a, .va, .vb, .vm, .f].find? fun fl => decide (2 < n fl)).map fun fl =>
    (3, .fault ⟨cLanding, BitVec.ofNat 32 (fileCode fl + 8), 0, 3, 0, 0⟩)

/-- The operations of a word with the landings before them in program order (R31), in the order of R319: held repeats, positions,
the first part of a split word before the second. -/
def Ctx.checkOrder (c : Ctx) : List (OpSt × List (RFile × Nat)) :=
  let l := (List.range c.ops.length).filterMap fun k =>
    (c.ops[k]?).map fun o => (o, (c.ops.take k).filterMap fun x => c.landAt x.op.ins)
  let last (o : OpSt) : Bool := o.pos.isSome && c.second o
  (l.filter fun x => !last x.1) ++ l.filter fun x => last x.1

/-- The first stop among a word's operations (R31, R319), and its slot; then exhaustion. -/
def Env.wordStop (e : Env) : Option (Nat × Stop) :=
  match e.crowded with
  | some x => some x
  | none =>
    match e.c.checkOrder.findSome? fun x => ({ e with slot := x.1.slot }.slotStop x.1 x.2).map fun st => (x.1.slot, st) with
    | some x => some x
    | none => if e.exhausted then some (3, .wait) else none

/-- A stop that only time or another agent can end. -/
def Team.idleStop (t : Team) (x : Stop) : Bool :=
  match x with
  | .fault _ => false
  | .zeroTrip _ => t.waiting
  | .probe l => l.all fun a => t.probes.any fun p => p.va == a.1 && p.acc == a.2
  | .wait => true

/-- A team may be considered for issue: its word is fetched, and nothing holds it (R313). -/
def Team.canIssue (t : Team) : Bool :=
  t.fetched.isSome && ((t.ctx.map fun c => !c.checked).getD true) && !t.ended && !t.halted && !t.stopReq
    && t.eretWait.isNone && !t.landHeld && (t.tmode || t.async.isEmpty)

/-- The word a team would begin, and what stops it. -/
def State.plan (s : State) (z : Nat) : Option (Env × Option (Nat × Stop)) :=
  match s.teams.get? z with
  | none => none
  | some t0 =>
    match t0.fetched with
    | none => none
    | some f =>
      let t := t0.rejoin f.word (t0.wordOps f.word (s.splits z t0 f.word))
      let c := s.mkCtx z t f
      match s.blocks.get? t.blk with
      | none => none
      | some b =>
        let e : Env := ⟨s, z, { t with ctx := some c }, b, c, 3⟩
        some (e, e.wordStop)

/-- A team that waits at su.eret takes an empty trap-mode word while results are to land (R144). -/
def Team.drains (t : Team) : Bool :=
  t.eretWait.isSome && !t.ended && !t.halted && !t.stopReq && !t.landHeld && !t.land.isEmpty

/-- A word of a bench whose fusion is being changed makes a global access: it is held (R263). -/
def Env.fuseHold (e : Env) : Bool :=
  (e.s.fusing.get? (coreOf e.z / 8)).isSome && e.c.ops.any fun o =>
    o.st == .pending && ((e.accesses o.op.ins).map fun x => x.sp == .global).getD false

/-- A team is ready (R313). -/
def State.ready (s : State) (z : Nat) (t : Team) : Bool :=
  decide (t.startAt ≤ s.clock) && (t.drains || (t.canIssue && match s.plan z with
    | none => false
    | some (e, none) => !e.fuseHold
    | some (_, some (_, x)) => !t.idleStop x))

/-- The ready team of a partition whose last issue is oldest, the lowest slot on a tie (R313). -/
def State.select (s : State) (part : Nat) : Option Nat :=
  let l := (List.range 16).filterMap fun j =>
    let z := 16 * part + j
    match s.teams.get? z with
    | none => none
    | some t => if s.ready z t then some (z, t.lastIssue) else none
  (l.foldl (fun (a : Option (Nat × Nat)) x => match a with
    | none => some x
    | some y => if x.2 < y.2 then some x else some y) none).map Prod.fst

/-! ## Beginning a word -/

/-- What an operation of a stream is. -/
def opKindOf (i : Instr) : OpKind :=
  match i with
  | .muLdr _ _ _ _ _ _ _ => .load
  | .muLdg _ _ _ _ _ _ => .load
  | .muGthg _ _ _ _ _ _ => .load
  | .muLdga _ _ _ _ => .load
  | .muStr _ _ _ _ _ => .store
  | .muStg _ _ _ _ _ => .store
  | .muSctg _ _ _ _ _ => .store
  | .muStga _ _ _ _ => .store
  | .muAtmr _ f _ _ _ _ _ => .atomic f
  | .muAtmg _ f _ _ _ _ _ => .atomic f
  | .muPfg _ _ _ => .prefetch
  | .muCopy _ _ _ _ => .copy
  | .muMsend _ _ _ _ => .msend
  | .muMpost _ _ _ _ => .mpost
  | .muCpost _ _ _ => .cpost
  | .muTget _ _ _ _ => .tget
  | _ => if i.kind == some .xu && (match i with
      | .xuFmt _ _ _ => false
      | _ => true) then .matrix else .slotAccess

/-- The operation writes block scratchpad, for mu.qadv.p (R196). -/
def writesSpadOf (i : Instr) (b : Block) : Bool :=
  match i with
  | .muSts _ _ _ _ _ => true
  | .muScts _ _ _ _ _ => true
  | .muStsa _ _ _ _ => true
  | .muAtms _ _ _ _ _ _ _ => true
  | .muStr _ _ _ _ _ => true
  | .muAtmr _ _ _ _ _ _ _ => true
  | .muTget _ _ _ _ => true
  | .muCopy cp _ _ _ => cpBits (b.cp.get cp.toNat) (0x80 + 2) 2 == 0
  | .xuAccst _ _ _ _ _ _ => true
  | .xuTopk _ _ _ _ _ _ => true
  | _ => false

/-- The operation is an engine's that reads block scratchpad, for mu.qadv.c (R196). -/
def readsSpadOf (i : Instr) (b : Block) : Bool :=
  match i with
  | .muCopy cp _ _ _ => cpBits (b.cp.get cp.toNat) 0x80 2 == 0
  | .xuMma _ _ _ _ _ _ _ => true
  | .xuMmat _ _ _ _ _ _ _ => true
  | .xuDist _ _ _ _ _ _ _ => true
  | .xuAccld _ _ _ _ => true
  | _ => false

/-- Gives each stream operation of the word its place in the team's list, with its edges (R230, R234). -/
def State.enroll (s : State) (z : Nat) : State :=
  match s.envOf z 3 with
  | none => s
  | some e =>
    (List.range e.c.ops.length).foldl (fun s k =>
      match e.c.ops[k]? with
      | none => s
      | some o =>
        match o.op.ins.stream with
        | none => s
        | some st =>
          let id := s.nextId
          let e' := { e with slot := o.slot }
          let acc := (e.accesses o.op.ins).bind fun x => if x.sp == .block then none else some x.acc
          let mse := match acc with
            | some a => s.missSectors (coreOf z) a o.places
            | none => 0
          let s := match acc with
            | some .read => s.countL1 (coreOf z) o.places
            | _ => s
          let s := s.updTeam z fun t =>
            let x : MemOp := {
              id := id, kind := opKindOf o.op.ins, str := st.str.toNat, preds := t.predsOf st.pm, scp := st.scp, accs := [], got := [], perf := 0, mse := mse, issued := false,
              arrived := false, done := false, counted := false, writesSpad := writesSpadOf o.op.ins e.b,
              readsSpad := readsSpadOf o.op.ins e.b, data := [], dataP := false, soa := e'.soa o.op.ins, tcyc := t.tcyc, hits := [],
              sentAt := 0, readyAt := 0 }
            { t with ops := t.ops ++ [x] }
          { s.updOpSt z k (fun o => { o with id := some id }) with nextId := id + 1 }) s

/-- The operations of the part in progress (R83). -/
def Ctx.inPart (c : Ctx) (o : OpSt) : Bool := !c.split || (o.op.kind == .vb) == c.part2

/-- The passes of the part in progress: those some operation of it executes. -/
def Env.partPasses (e : Env) : List Nat :=
  (List.range e.t.passes).filter fun p => e.c.ops.any fun o =>
    e.c.inPart o && o.st == .pending && o.op.ins.perLane && (e.runPasses o.op.ins).contains p

/-- Tiles of the block whose scratchpad an operation of the word reads or writes for its slot: of its places, its queue reads, and the
records and buffers it names. -/
def Env.slotTiles (e : Env) (o : OpSt) : List Nat :=
  let own := o.places.filterMap fun x => match x.2 with
    | .spad k => if decide (e.b.key 0 ≤ k) && decide (k < e.b.key 0 + e.b.bytes) then some ((k - e.b.key 0) / 8192) else none
    | .mem _ _ _ => none
    | .remote _ _ => none
  let reads := o.op.ins.sels.flatMap fun
    | .queue h k => tilesOf (e.entry h k) 8
    | _ => []
  own ++ reads ++ match o.op.ins with
    | .muCprog _ ab oa _ => tilesOf (e.scalarAddr ab oa).toNat 128
    | .muCpost ab oa _ => tilesOf (e.scalarAddr ab oa).toNat 64
    | .muTget _ ab oa _ => tilesOf (e.scalarAddr ab oa).toNat 64
    | .muMsend ab _ _ _ => tilesOf (e.base ab).toNat 1
    | .muMpost ab _ _ _ => tilesOf (e.base ab).toNat 1
    | .xuFmt _ oa _ => tilesOf (e.addrVal .f oa).toNat 16
    | _ => []

/-- An operation of the word uses a queue handle or a tile whose state is poisoned (R321). -/
def Env.poisonedUse (e : Env) (o : OpSt) : Bool :=
  let i := o.op.ins
  let tile (oa : Sel) : Bool := e.b.tileP.get (e.scalar .a oa).toNat != 0
  (e.slotTiles o).any (fun n => e.b.tileP.get n != 0) ||
  (i.sels.any fun
    | .queue h _ => e.b.qP.get h.toNat != 0
    | _ => false) || match i with
    | .muQwait _ qh _ => e.b.qP.get qh.toNat != 0
    | .muQadv _ qh _ => e.b.qP.get qh.toNat != 0
    | .muTfull oa => tile oa
    | .muTgate _ oa => tile oa
    | .muTclr oa => tile oa
    | .muCwait oa _ => tile oa
    | .muTstat _ oa => tile oa
    | _ => false

/-- A word begins (R313): places fixed, stream operations enrolled, its clocks taken. -/
def State.beginWord (s : State) (z : Nat) (e : Env) : State :=
  let s := s.updTeam z fun _ => { e.t with
    ctx := some { e.c with
      checked := true },
    fetched := none, waiting := false, lastIssue := s.clock, nobp := false,
    skid := e.t.skid.map fun x => if x.1 < s.clock then (x.1, x.2 + 1) else x,
    keep := some (e.t.keep.getD ⟨none, e.t.loop, e.c.pc, e.c.npc, false, false, none, false, false, 0, false⟩) }
  let s := (List.range e.c.ops.length).foldl (fun s k =>
    match e.c.ops[k]? with
    | none => s
    | some o => s.fixPlaces ⟨{ e with slot := o.slot }, k, o⟩) s
  let s := if (e.c.ops.any fun o => o.op.kind == .xu) && s.turn (turnXu (coreOf z)) == 0 then
      s.takeTurn (turnXu (coreOf z)) (partOf z % 4 + 1) else s
  let s := s.enroll z
  match s.envOf z 3 with
  | none => s
  | some e =>
    let ps := e.partPasses
    let lanes := e.c.ops.any fun o => o.op.ins.perLane
    let s := (s.updCtx z fun c => { c with passes := ps }).updPart (partOf z) fun p => { p with busy := some z }
    let s := s.countTeam z 0x02 1
    let s := if lanes then s.countTeam z 0x05 (e.t.passes - ps.length) else s
    let s := if e.c.ops.any fun o => o.st == .pending && { e with slot := o.slot }.poisonedUse o then
        s.updTeam z fun t => t.pendCause (.uncorrectable 5) else s
    if e.c.split then s.countTeam z 0x06 1 else s

/-! ## Commit of a word (R66, R125, R131) -/

/-- The held records after a word (R66), then those su.hclr names (R147). -/
def heldAfter (held : AL SlotBits) (w : Word3) (clear : BitVec 5) : AL SlotBits :=
  let h := w.ops.foldl (fun (h : AL SlotBits) x =>
    let k := x.2.kind.enc.toNat
    if x.2.hold then h.put k x.2.bits else h.del k) held
  h.filter fun x => !clear.getLsbD (x.1 - 1)

/-- A lost-time snapshot, of the counts at the start of the clock (R387, R388). As the core tracks no consumption, none is dropped but
where the ring has no records (log entry 26). -/
def State.snapshot (s : State) (z level : Nat) (t : Team) (pc : Word) : State :=
  let b := coreDbg (coreOf z)
  let n := s.regBits (b + 0x4C0) 0 12
  if n = 0 then s.satReg (b + 0x4C8) 16 16 1
  else
    let seq := s.regBits (b + 0x4C8) 32 32
    let pa := s.regBits (b + 0x4C0) 12 40 * 4096 + 1088 * (seq % n)
    let soa := soaOf pc 3 0 t.tmode
    let w (v : Nat) : List Byte := leBytes 8 (BitVec.ofNat 64 v)
    let lt0 := ((s.cores.get? (coreOf z)).map CoreSt.lt0).getD []
    let counts := (List.range 256).flatMap fun i => leBytes 4 (BitVec.ofNat 32 (lt0.getD i (s.lostAt (coreOf z) i)))
    let s := s.writeMem pa (w s.ns ++ leBytes 8 soa ++ w (partOf z % 4 + 4 * (z % 16) + 256 * level) ++ leBytes 8 t.tcyc
      ++ w seq ++ leBytes 0x18 (0#8) ++ counts) false
    let s := (s.putReg (b + 0x4C8) 32 32 (seq + 1)).trace (coreOf z) 6 (partOf z % 4) (z % 16) seq soa
    if (s.reg (b + 0x4C8)).getLsbD 0 then s.updCore (coreOf z) fun c => { c with ltZero := true } else s

/-- The position of su.eret in a word. -/
def eretSlot (c : Ctx) : Nat := ((c.ops.find? fun o => o.op.ins == .suEret).map OpSt.slot).getD 3

/-- The positions of a su.eret word that have committed while the return waits: all but su.eret (R144, R328). -/
def eretDone (c : Ctx) : BitVec 3 := occupiedMask c.word &&& ~~~(1#3 <<< eretSlot c)

/-- Commits a word whose operations have all committed. A su.eret word stays the team's word until the return is made, and its loop
end waits for that (R131, R144). -/
def State.commitWord (s : State) (z : Nat) : State :=
  match s.teams.get? z with
  | none => s
  | some t =>
    match t.ctx, t.keep with
    | some c, some k =>
      let le := loopEnd k.snap c.pc c.npc
      let loop := if k.taken.isSome || k.eret then t.loop else t.loopAfter k c.pc c.npc
      let next := k.taken.getD le.1
      let user := !t.tmode
      let chose := user && (k.taken.isSome || next != c.npc)
      let t1 : Team := { t with
        ctx := none, keep := if k.eret then some { k with eret := false } else none,
        done := if k.eret then eretDone c else 0, occ := if k.eret then occupiedMask c.word else 0, part2 := false, resumePass := 0, zeroTrip := none,
        pc := if k.eret then c.pc else next,
        probes := [], landed := 0,
        loop := loop, held := heldAfter t.held c.word k.hclr, tc := t.tc + 1,
        land := t.land.map (fun l => { l with key := none }),
        tcyc := if user then t.tcyc + 1 else t.tcyc,
        crc := if chose then crc32 t.crc (leBytes 8 next) else t.crc,
        eretWait := if k.eret then some (eretSlot c, c.npc, c.imm) else t.eretWait }
      let s := s.updTeam z fun _ => t1.landDue
      let s := if k.dinv then s.updPart (partOf z) fun p => p.invalidate (dwinBase t.dwin) (8 * dwinSize t.dwin) else s
      let dbg := s.reg (tdbgOff z)
      let s := match le.2.2.2 with
        | some lv => if k.taken.isNone && !k.eret && dbg.getLsbD 1 then s.snapshot z lv t c.pc else s
        | none => s
      if k.fin then s.endTeam z
      else
        let s := if user && dbg.getLsbD 0 then s.updTeam z fun t => t.pendCause .singleStep else s
        match k.trap with
        | some (slot, v) => s.takeTrap z ⟨0x12, v.setWidth 32, c.pc, slot, 0, 0⟩
        | none =>
          if t.stepping.isSome then
            (s.putReg (tdbgOff z) 2 6 1).updTeam z fun t => { t with stepping := none, halted := true }
          else s
    | _, _ => s

/-! ## Passes (R84) -/

/-- Executes one operation of the word in progress of a team. -/
def State.execOp (s : State) (z k : Nat) : State :=
  let op := ((s.teams.get? z).bind Team.ctx).bind fun c => c.ops[k]?
  match op with
  | none => s
  | some o =>
    match slotExec o.op.ins { s with cur := some z } with
    | .next s' =>
      let now := (((s'.teams.get? z).bind Team.ctx).bind fun c => c.ops[k]?).map OpSt.st
      let s' := { s' with cur := none }
      if now == some .done && o.st != .done then s'.countTeam z 0x03 1 else s'
    | .fault _ => s
    | .refused _ => s

/-- Posts the bank rows of the queue reads of the word's first clock or pass (R36, R258). -/
def State.queueRows (s : State) (z : Nat) (p : Option Nat) : State :=
  match s.envOf z 3 with
  | none => s
  | some e =>
    let bytes := e.c.ops.flatMap fun o =>
      if o.st == .done || o.st == .blocked || (o.st == .pending && !e.c.inPart o) then []
      else o.op.ins.valSels.flatMap fun
        | .queue h k =>
          if o.op.ins.perLane then
            match p with
            | some p => if (e.runPasses o.op.ins).contains p then
                (List.range 8).map fun j => e.b.key (e.entry h k + 128 * p + 16 * j) else []
            | none => []
          else [e.b.key (e.entry h k)]
        | _ => []
    if bytes.isEmpty then s else s.postRows (coreOf z) (partOf z % 4) (bankRows bytes [])

/-- The comparators see the queue reads of the operations that begin with a pass: a scalar one's 8 bytes, and a per-lane one's entry, each
once for its operation (R36, R377). -/
def State.queueWatch (s : State) (z : Nat) (p : Option Nat) : State :=
  match s.envOf z 3 with
  | none => s
  | some e =>
    if !s.watching (coreOf z) then s
    else
      e.c.ops.foldl (fun s o =>
        let i := o.op.ins
        let e := { e with slot := o.slot }
        let begins := o.st == .pending && e.c.inPart o && (!i.perLane || p.any fun p => (e.runPasses i).contains p)
        if !begins then s
        else
          i.valSels.foldl (fun s x => match x with
            | .queue h k => s.watchOp s z (o.id.getD 0) (e.spadWatch i 0 (e.b.key (e.entry h k)) (if i.perLane then 4 * e.t.width else 8))
            | _ => s) s) s

/-- The whole word has committed. -/
def Ctx.allDone (c : Ctx) : Bool := c.ops.all fun o => o.st == .done

/-- A word's clocks are used up: the second part of a split word begins once the first has committed (R83; log entry 47), a word that
has wholly committed does so, and another leaves the partition free. -/
def State.wordOver (s : State) (z : Nat) : State :=
  match s.envOf z 3 with
  | none => s
  | some e =>
    let busy := (s.parts.get? (partOf z)).bind Part.busy
    if e.c.split && !e.c.part2 && e.c.ops.all fun o => e.c.second o || o.st == .done then
      let c := { e.c with part2 := true, pass0 := 0, passes := [] }
      let s := s.updTeam z fun t => { t with part2 := true, resumePass := 0 }
      if busy.all fun y => y == z then
        (s.updCtx z fun _ => { c with passes := { e with c := c }.partPasses }).updPart (partOf z) fun p => { p with busy := some z }
      else s.updCtx z fun _ => { c with ops := c.ops.map fun o => if c.second o then { o with st := .blocked } else o }
    else
      let s := if busy == some z then s.updPart (partOf z) fun p => { p with busy := none } else s
      if e.c.allDone then s.commitWord z else s

/-- After a clock of a word: the next pass, or what follows its last. -/
def State.afterClock (s : State) (z : Nat) : State :=
  match (s.teams.get? z).bind Team.ctx with
  | none => s
  | some c =>
    let s := s.updCtx z fun c => { c with passes := c.passes.tail }
    if c.passes.tail.isEmpty then s.wordOver z else s

/-- A queue-handle advance. -/
def isAdvance : Instr → Bool
  | .muQadv _ _ _ => true
  | _ => false

/-- The operations of a word in the order of a clock: held repeats before positions (R67), and the advance of a position last, since
the queue-handle unit applies it once the other slots have committed (R37, R196; log entry 47). -/
def Ctx.clockOrder (c : Ctx) : List Nat :=
  let l := List.range c.ops.length
  let late (k : Nat) : Bool := (c.ops[k]?.map fun o => o.pos.isSome && isAdvance o.op.ins).getD false
  (l.filter fun k => !late k) ++ l.filter late

/-- One clock of the word that occupies a partition: every operation of the part in progress that has not blocked executes
its pass. -/
def State.wordClock (s : State) (z : Nat) : State :=
  match s.envOf z 3 with
  | none => s.updPart (partOf z) fun p => { p with busy := none }
  | some e =>
    let s := (s.queueRows z e.c.passes.head?).queueWatch z e.c.passes.head?
    let s := if e.c.passes.isEmpty then s else s.countTeam z 0x04 1
    let s := e.c.clockOrder.foldl (fun s k =>
      match ((s.teams.get? z).bind Team.ctx).bind fun c => c.ops[k]? with
      | some o => if o.st == .running || (o.st == .pending && e.c.inPart o) then s.execOp z k else s
      | none => s) s
    match (s.teams.get? z).bind Team.ctx with
    | none => s
    | some _ => s.afterClock z

/-- A partition's requester still waits for bank rows of its last pass (R84, R257). -/
def State.rowsDue (s : State) (part : Nat) : Bool :=
  match s.cores.get? (part / 4) with
  | none => false
  | some c => c.breq.any fun x => x.2.1 == part % 4

/-- A selected team begins its word, traps or asks for what its word needs; a team at su.eret takes an empty word. -/
def State.issue (s : State) (z : Nat) : State :=
  match s.teams.get? z with
  | none => s
  | some t =>
    if t.drains then
      s.updTeam z fun t => ({ t with tc := t.tc + 1, landed := 0, lastIssue := s.clock } : Team).landDue
    else
      match s.plan z with
      | none => s
      | some (e, none) => (s.beginWord z e).wordClock z
      | some (e, some (slot, x)) => (s.updTeam z fun _ => e.t).stopWord z slot x

/-- What a partition does in a clock, if anything: the next clock of the word in progress, or a new word. -/
def State.partClock (s : State) (part : Nat) : Option State :=
  if s.rowsDue part then none
  else
    match s.parts.get? part with
    | none => none
    | some p =>
      match p.busy with
      | some z => some (s.wordClock z)
      | none => (s.select part).map s.issue

/-- TEAM_SELECTION (R84, R313): a partition's clock, once in each clock of the core and in ascending order of partition (R37, R198,
R212). -/
def execTeamSelection (part : Nat) (s : State) : Host.Outcome State Fault Refusal :=
  .next (if s.turn (turnSel part) != 0 || !s.mayAct (turnCore (part / 4)) (part % 4) then s
    else
      match s.partClock part with
      | none => s
      | some s' => (s'.takeTurn (turnSel part) 1).takeTurn (turnCore (part / 4)) (part % 4))

/-! ## Debug halts (R368, R370) and breakpoints (R374, R375) -/

/-- The frame a stop writes into an image (R327, R328). -/
def Team.stopFrame (t : Team) (detail : BitVec 32) : FrameHead :=
  let pass := match t.ctx with
    | some c => c.passes.headD 0
    | none => t.resumePass
  t.frameHead ⟨0x17, detail, 0, 3, pass, 0⟩

/-- Halts a team where it stands, keeping what its word has committed (R327, R329). -/
def State.stopTeam (s : State) (z : Nat) (detail : BitVec 32) : State :=
  (s.updTeam z fun t =>
    let h := t.stopFrame detail
    let running := (t.ctx.map fun c => c.checked).getD false
    { t.landStop.putAside h (some (if running then h.flt.pass else t.resumePass)) with
        halted := true, haltFrame := some h, skid := none,
        keep := t.keep }).abandonRefill z

/-- A debug halt with its skid record (R370). -/
def State.debugHalt (s : State) (z words clocks : Nat) : State :=
  let soa := ((s.teams.get? z).map fun t => soaOf t.pc 3 0 t.tmode).getD 0
  let s := s.stopTeam z 0
  let s := s.setReg (tdbgOff z) (BitVec.ofNat 64 ((s.reg (tdbgOff z)).toNat % 4 + 4 + 2 ^ 7 + 2 ^ 8 * min words 255
    + 2 ^ 16 * min clocks 65535))
  s.trace (coreOf z) 7 (partOf z % 4) (z % 16) (min words 255 + 2 ^ 8 * min clocks 65535) soa

/-- The lowest breakpoint of the core that matches a fetched word, with its action and matched positions. -/
def State.breakAt (s : State) (z : Nat) (t : Team) (f : Fetched) : Option (Nat × Nat × Nat) :=
  let pos := (occupiedMask f.word).toNat + (if (t.repeats f.word).isEmpty then 0 else 8)
  (List.range 8).findSome? fun i =>
    let off := coreDbg (coreOf z) + 0x40 + 16 * i
    let w := s.reg off
    let bpos := s.regBits off 57 4
    if w.getLsbD 63 && decide (s.regBits off 1 56 = f.pc.toNat % 2 ^ 57 / 2) && s.regBits (off + 8) 0 16 == t.asid.toNat
        && s.regBits (off + 8) 16 1 == (if t.tmode then 1 else 0) && (bpos == 0 || (bpos &&& pos) != 0)
    then some (i, s.regBits off 61 2, bpos &&& pos) else none

/-- The lowest position of a mask of matched positions, or 3. -/
def lowPos (m : Nat) : Nat := ((List.range 3).find? fun i => m.testBit i).getD 3

/-- Checks the breakpoints of a word just fetched (R375). -/
def State.checkBreak (s : State) (z : Nat) : State :=
  match s.teams.get? z with
  | none => s
  | some t =>
    match t.fetched with
    | none => s
    | some f =>
      if t.nobp then s
      else
        match s.breakAt z t f with
        | none => s
        | some (i, act, m) =>
          let s := s.trace (coreOf z) 8 (partOf z % 4) (z % 16) i (soaOf f.pc (lowPos m) 0 t.tmode)
          let c := s.mkCtx z t f
          if act = 0 then
            (s.updTeam z fun t => { t with ctx := some c }).takeTrap z
              ⟨0x15, BitVec.ofNat 32 (i + 8 * m), 0, lowPos m, 0, 0⟩
          else if act = 1 then s.debugHalt z 0 0
          else if act = 2 then (s.triggerBench (benchOf (coreOf z)) 2).debugHalt z 0 0
          else s

/-! ## Fetching (R71, R74) -/

/-- A team wants its next word fetched. -/
def Team.wantsFetch (t : Team) : Bool :=
  t.fetched.isNone && t.ctx.isNone && !t.ended && !t.halted && !t.stopReq && !t.waiting && t.eretWait.isNone
    && (t.tmode || t.async.isEmpty)

/-- The immediates of a found word, then its breakpoints: the team holds the word (R71 step 5). A fault of step 5 finds the word looked
up, so TF.NPC is its own (R53). -/
def State.gotWord (s : State) (z : Nat) (t : Team) (idx : Nat) (w : Word3) : State :=
  let pc := t.pc
  match s.immParcels z t idx w.nimm (parcelAdd pc 1).toNat with
  | .error f =>
    let c := s.mkCtx z t ⟨pc, parcelAdd pc (1 + w.nimm), 0, idx, w⟩
    (s.updTeam z fun t => { t with ctx := some c }).takeTrap z f
  | .ok (s, l) =>
    (s.updTeam z fun t => { t with
      fetched := some ⟨pc, parcelAdd pc (1 + w.nimm), wordImm l, idx, w⟩, waiting := false }).checkBreak z

/-- The saved window list of a restored team is still being refilled (R78). -/
def State.refilling (s : State) (z : Nat) : Bool :=
  ((s.parts.get? (partOf z)).map fun p => p.refills.any fun r => r.pre == some z).getD false

/-- WORD_FETCH (R71). -/
def execWordFetch (z : Nat) (s : State) : Host.Outcome State Fault Refusal :=
  .next (match s.teams.get? z with
    | none => s
    | some t =>
      if !t.wantsFetch || s.refilling z || s.fetchHeld (coreOf z) t.tmode t.asid t.root t.pc.toNat then s
      else
        match s.lookParcel z t t.pc.toNat with
        | (s, .fault f) => s.takeTrap z f
        | (s, .word idx w) => s.gotWord z t idx w
        | (s, .miss idx) =>
          ((s.requestRefill z t idx).updTeam z fun t => { t with waiting := true }).countTeam z 0x07 1)

/-- A waiting team receives its entry, or the fault of its refill (R74). -/
def State.refilled (s : State) (z : Nat) (idx : Nat) (r : Except Flt Word3) : State :=
  match s.teams.get? z with
  | none => s
  | some t =>
    if !t.waiting || t.ended || t.halted then s
    else
      match t.ctx, s.plan z with
      | some _, some (_, some (slot, .zeroTrip le)) =>
        (match r with
          | .error f => s.takeTrap z { f with slot := slot }
          | .ok w => s.updTeam z fun t => { t with zeroTrip := some (le, parcelAdd le (1 + w.nimm)), waiting := false })
      | _, _ =>
        (match r with
          | .error f => (s.updTeam z fun t => { t with waiting := false }).takeTrap z f
          | .ok w => s.gotWord z { t with waiting := false } idx w)

/-- Starts the refills that have an engine: demand misses first, then prefetches (R74, R77). -/
def startRefills (p : Part) : Part :=
  let free := 4 - (p.refills.filter Refill.started).length
  let pick := ((p.refills.filter fun r => !r.started).take free).map fun r => (r.token, r.base, r.asid, r.sys)
  { p with refills := p.refills.map fun r =>
      if !r.started && pick.contains (r.token, r.base, r.asid, r.sys) then { r with started := true } else r }

/-- The next prefetch of a partition's teams, when no demand miss waits and an engine is free (R77, R145). -/
def State.nextPrefetch (s : State) (part : Nat) : Option (Nat × Nat) :=
  match s.parts.get? part with
  | none => none
  | some p =>
    if 4 ≤ p.refills.length then none
    else (List.range 16).findSome? fun j =>
      match s.teams.get? (16 * part + j) with
      | none => none
      | some t => (t.prefetch.head?).map fun n => (16 * part + j, n)

/-- Begins the next prefetch: a refill with no waiting team. -/
def State.beginPrefetch (s : State) (part : Nat) : State :=
  match s.nextPrefetch part with
  | none => s
  | some (z, n) =>
    match s.teams.get? z with
    | none => s
    | some t =>
      let s := s.updTeam z fun t => { t with prefetch := t.prefetch.drop 1 }
      s.updPart part fun p =>
        let w := if t.prefSys then p.sysWin else userWin t.dwin t.dbase
        { p with refills := p.refills ++ [⟨n, w.dict, t.asid, w.sys, t.root, w.base, w.sets, true, [], none⟩] }

/-- DICT_REFILL (R74 to R76): the k-th refill of a partition returns; with none, a prefetch begins. DESIGN CHOICE: TF.ADDR of
DICT_REFUSED is the entry's address (log entry 57). -/
def execDictRefill (part k : Nat) (s : State) : Host.Outcome State Fault Refusal :=
  .next (match s.parts.get? part with
    | none => s
    | some p =>
      match p.refills[k]? with
      | none => s.beginPrefetch part
      | some r =>
        if !r.started || (r.pre.isSome && (p.refills.take k).any fun x => x.pre == r.pre) then s
        else
          let va := (r.base + BitVec.ofNat 64 (32 * r.token)) &&& 0x01FFFFFFFFFFFFFF#64
          let w : Win := ⟨r.winBase, r.winSets, r.base, 0, r.sys⟩
          if s.fetchHeld (part / 4) r.sys r.asid r.root va.toNat then s
          else
          let s := s.updPart part fun p => startRefills { p with refills := p.refills.eraseIdx k }
          let give (s : State) (x : Except Flt Word3) : State := r.teams.foldl (fun s z => s.refilled z r.token x) s
          match s.fetchBytes (part / 4) r.sys r.asid r.root va.toNat 32 with
          | .error e => give s (.error (fetchFlt 0x03 (fetchDetail 4 r.token 0 0 e.sub r.sys) va.toNat))
          | .ok (s, l) =>
            match decodeEntry l with
            | .error f =>
              let s := s.count (part / 4) 0x08 part false 1
              give s (.error (fetchFlt 0x02 (fetchDetail 4 r.token f.check f.pos.toNat f.sub r.sys) va.toNat))
            | .ok x =>
              give (s.updPart part fun p => p.install w ⟨r.token, r.base, r.asid, r.sys, leWord 256 l, false⟩) (.ok x))

/-! ## Landings and blocked slots -/

/-- LANDING (R29, R30): what is due at the team's present team-cycle lands. -/
def execLanding (z : Nat) (s : State) : Host.Outcome State Fault Refusal := .next (s.updTeam z Team.landDue)

/-- Evaluates a blocked slot again, and goes on with the word when it has committed. -/
def State.retrySlot (s : State) (z k : Nat) : State :=
  let s := s.execOp z k
  match (s.teams.get? z).bind Team.ctx with
  | none => s
  | some c => if c.passes.isEmpty && (c.ops[k]?).any fun o => o.st == .done then s.wordOver z else s

/-- The operation is still blocked. -/
def State.stillBlocked (s : State) (z k : Nat) : Bool :=
  (((s.teams.get? z).bind Team.ctx).bind fun c => c.ops[k]?).any fun o => o.st == .blocked

/-- A blocked slot that may be tried in this clock: no per-lane slot while a word takes the partition's clocks (R32). -/
def State.mayRetry (s : State) (z k : Nat) : Bool :=
  match (s.teams.get? z).bind Team.ctx with
  | none => false
  | some c =>
    match c.ops[k]? with
    | none => false
    | some o => o.st == .blocked && (!o.op.ins.perLane || ((s.parts.get? (partOf z)).map fun p => p.busy.isNone).getD false)

/-- Tests a blocked slot again in its partition's turn (R37, R198, R212). -/
def State.retryInTurn (s : State) (z k : Nat) : State :=
  if s.mayRetry z k && s.mayAct (turnCore (coreOf z)) (partOf z % 4) then
    let s' := s.retrySlot z k
    if s'.stillBlocked z k then s' else s'.takeTurn (turnCore (coreOf z)) (partOf z % 4)
  else s

/-- BLOCKED_SLOT_COMMIT (R32): operation k of the team's word is tested again. -/
def execBlockedSlotCommit (z k : Nat) (s : State) : Host.Outcome State Fault Refusal := .next (s.retryInTurn z k)

/-- The blocked slots of a core that satisfy q, in ascending partition order (R37, R212). -/
def State.blockedSlots (s : State) (core : Nat) (q : Instr → Bool) : List (Nat × Nat) :=
  (s.teams.filter fun x => coreOf x.1 == core).flatMap fun x =>
    match x.2.ctx with
    | none => []
    | some c => ((List.range c.ops.length).filter fun k => match c.ops[k]? with
        | some o => o.st == .blocked && q o.op.ins
        | none => false).map fun k => (x.1, k)

/-- The first of the blocked slots of a core that satisfy q which its retry lets go, in ascending partition order (R37, R212). -/
def State.firstRetry (s : State) (core : Nat) (q : Instr → Bool) : Option (Nat × Nat) :=
  (s.blockedSlots core q).find? fun x => s.mayRetry x.1 x.2 && s.mayAct (turnCore core) (partOf x.1 % 4)
    && !(s.retrySlot x.1 x.2).stillBlocked x.1 x.2

/-- QUEUE_HANDLE_UPDATE (R37): the advance of a core's lowest partition that may be applied. Each partition acts once those below it
have, so the updates of a clock are applied in ascending partition order, each on the state the one before left. -/
def execQueueHandleUpdate (core : Nat) (s : State) : Host.Outcome State Fault Refusal :=
  .next (match s.firstRetry core isAdvance with
    | none => s
    | some (z, k) => s.retryInTurn z k)

/-- A command of the matrix engine. -/
def isCommand (i : Instr) : Bool := opKindOf i == .matrix

/-- XU_ACCEPTANCE (R212): the lowest partition whose blocked command the engine can accept. -/
def execXuAcceptance (core : Nat) (s : State) : Host.Outcome State Fault Refusal :=
  .next (match s.firstRetry core isCommand with
    | none => s
    | some (z, k) => s.retryInTurn z k)

end Sys2Proof.Machine
end

