-- ==== Sys2Proof/Machine/Engines.lean ====
section
/-!
DEFINITION. The asynchronous engines at work: copies (R200 to R203, R246) and matrix commands (R214 to R217).
-/
namespace Sys2Proof.Machine

/-! ## Copies (R200 to R203) -/

/-- Why a copy's run of elements ends: the last byte of a destination unit was written, a global access met a fault, a remote line is to be
probed (R355), an element is to be asked of another device (R356), or it goes on later. -/
inductive CopyStop where
  | ask (line : Nat) (acc : AccKind)
  | fetch (dev va : Nat)
  | unit (u : Nat)
  | fault (cause : Nat) (detail : BitVec 32) (addr : Word)
  | wait
  deriving DecidableEq, Repr, Inhabited

/-- The program of a copy. -/
def Copy.prog' (c : Copy) : CpProg := cpProg c.bits c.oa c.ob

/-- DETAIL of a copy fault (R320): ASYNC and the program number. -/
def Copy.detail (c : Copy) (acc reason : Nat) : BitVec 32 := BitVec.ofNat 32 (acc + 16 * reason + 256 + 512 * c.prog)

/-- The fault of a failed translation of a copy; a poisoned table entry is UNCORRECTABLE in copy state (R281, R321). -/
def Copy.xstop (c : Copy) (acc va : Nat) (e : XErr) : CopyStop :=
  match e with
  | .notPresent => .fault 0x08 (c.detail acc 0) (BitVec.ofNat 64 va)
  | .protection r => .fault 0x09 (c.detail acc r) (BitVec.ofNat 64 va)
  | .poison => .fault 0x1A 4 (BitVec.ofNat 64 va)

/-- Element e has been written, or lies in a finished unit. -/
def Copy.past (c : Copy) (p : CpProg) (e : Nat) : Bool := c.wrote.contains e || c.finished.contains (p.unit (p.dstOf e))

/-- Where a copy's access of an address goes. -/
def State.copyPlace (s : State) (c : Copy) (t : Team) (b : Block) (glob : Bool) (a : Int) : Option Place :=
  if !glob then some (.spad (b.key a.toNat))
  else
    match s.remoteNode t (gaddr a) with
    | some d => some (.remote d (gaddr a))
    | none =>
      match s.translate (coreOf c.z) t.asid t.root (gaddr a) .read with
      | .ok (_, pa) => some (.mem pa .ap false)
      | .error _ => none

/-- The places an element writes and reads. -/
def State.copyPlaces (s : State) (c : Copy) (t : Team) (b : Block) (p : CpProg) (e : Nat) : List Place :=
  (s.copyPlace c t b p.dstGlobal (p.dstOf e)).toList ++ ((p.srcOf e).bind (s.copyPlace c t b p.srcGlobal)).toList

/-- Two accesses lie in one line, or in scratchpad have a byte in common: what a copy finishes with at once (R246). -/
def Place.near (p q : Place) (n m : Nat) : Bool :=
  match p, q with
  | .mem a _ _, .mem b _ _ => a / 256 == b / 256
  | .remote d a, .remote c b => d == c && a / 256 == b / 256
  | _, _ => p.overlaps q n m

/-- An earlier copy of the team, running, uses the bytes and has not finished with their line (R184, R246; a suspended copy holds nothing:
log entry 59). -/
def State.copyHolds (s : State) (z id : Nat) (t : Team) (q : Place) (n : Nat) : Bool :=
  s.copies.any fun c => c.z == z && decide (c.id < id) && c.st == .running &&
    match s.blocks.get? c.blk with
    | none => false
    | some b =>
      let p := c.prog'
      let els := List.range p.total
      (els.any fun e => decide (c.cursor ≤ e) && !c.past p e && (s.copyPlaces c t b p e).any fun x => x.near q p.esize n)
        && els.any fun e => (s.copyPlaces c t b p e).any fun x => x.overlaps q p.esize n

/-- An earlier matrix command of the team, not complete, reads or writes the bytes (R184). -/
def State.cmdHolds (s : State) (z id : Nat) (q : Place) (n : Nat) : Bool :=
  ((s.cores.get? (coreOf z)).map fun k => k.mq.any fun c => c.z == z && decide (c.id < id) &&
    match s.blocks.get? c.blk with
    | none => false
    | some b =>
      let u := xuUse c.ins c.args
      (u.rd ++ u.wr).any fun x => q.overlaps (.spad (b.key x.1)) n x.2).getD false

/-- Nothing earlier of the team has an access of the bytes still to make: neither an operation, nor a copy, nor a command (R184). -/
def State.placeFree (s : State) (z id : Nat) (t : Team) (q : Place) (n : Nat) : Bool :=
  t.locFree id q n && !s.copyHolds z id t q n && !s.cmdHolds z id q n

/-- The answer to a copy's probe of a remote line: none while it is awaited (R203, R355). -/
def Copy.remoteStop (c : Copy) (acc : AccKind) (code va : Nat) : Option CopyStop :=
  match c.probes.find? fun p => p.va == va / 256 && p.acc == acc with
  | none => some (.ask (va / 256) acc)
  | some p =>
    match p.answer with
    | none => some .wait
    | some none => none
    | some (some 0) => some (c.xstop code va .notPresent)
    | some (some r) => some (c.xstop code va (.protection r))

/-- SOA and TCYC at issue of a team's operation, for watchpoints. -/
def Team.soaOfOp (t : Team) (id : Nat) : Word × Word :=
  ((t.ops.find? fun o => o.id == id).map fun o => (o.soa, o.tcyc)).getD (0, 0)

/-- A copy's access as the comparators see it: of those still to be made, the ones at lower addresses come before it (R377). -/
def State.copyWatched (s : State) (c : Copy) (t : Team) (sp : Bool) (acc addr n place : Nat) : Watched :=
  let x := t.soaOfOp c.id
  let p := c.prog'
  let ahead := if !s.watching (coreOf c.z) then [] else
    ((List.range p.total).filter fun e => decide (c.cursor ≤ e) && !c.past p e).filterMap fun e =>
      (if acc = 0 then p.srcOf e else some (p.dstOf e)).bind fun v =>
        let y := if sp then ((s.blocks.get? c.blk).map fun b => b.key v.toNat).getD 0 % 2 ^ 19 else gaddr v
        if y < addr then some (y, n) else none
  ⟨coreOf c.z, sp, 4, acc, t.asid, addr, n, place, some c.z, x.1, x.2, [], ahead⟩

/-- What an element whose place the copy has overwritten is read as: its present value or one it held before, freely (R200). -/
def State.pickPrior (s : State) (c : Copy) (place : Nat) (l : List Byte) (q : Bool) : State × List Byte × Bool :=
  match (c.prior.filter fun x => x.1 == place).map Prod.snd with
  | [] => (s, l, q)
  | old => ({ s with fresh := s.fresh + 1 }, ((l, q) :: old).getD (Config.freeChoice s.fresh % (old.length + 1)) (l, q))

/-- A copy's access of an element in another device's memory, as a request carries it. -/
def farAccess (d a n : Nat) : Access := ⟨0, a, .remote d a, n, 0, false, 0⟩

/-- A copy asks another device for an element (R354, R356). -/
def State.copyAsk (s : State) (c : Copy) (t : Team) (d a n : Nat) : State :=
  let l := [farAccess d a n]
  s.sendAsk { s.newHead .read (BitVec.ofNat 16 d) (a / 256 * 256) with set := s.setOf t, sectors := sectorMask l } [] (lineHash a) none c.id l

/-- A copy sends an element to another device, whose acknowledgement its completion waits for (R354, R356). -/
def State.copySend (s : State) (c : Copy) (t : Team) (d a : Nat) (l : List Byte) (q : Bool) : State :=
  let n := l.length
  let g := sectorMask [farAccess d a n]
  s.sendAsk { s.newHead .write (BitVec.ofNat 16 d) (a / 256 * 256) with
      set := s.setOf t, sectors := g, bytes := (BitVec.allOnes 256 >>> (256 - n)) <<< (a % 256),
      poison := if q then (BitVec.allOnes 64 >>> (64 - (n + 3) / 4)) <<< (a % 256 / 4) else 0 }
    (List.replicate (a % 64) 0 ++ l ++ List.replicate (64 - a % 64 - n) 0) (lineHash a) none c.id []

/-- Reads an element's source: its bytes and poison, and the scratchpad key read (R200, R354). -/
def State.copyRead (s : State) (c : Copy) (t : Team) (b : Block) (p : CpProg) (e : Nat) :
    Except CopyStop (State × List Byte × Bool × List Nat) :=
  let n := p.esize
  match p.srcOf e with
  | none => .ok (s, List.replicate n 0, false, [])
  | some x =>
    if !p.srcGlobal then
      let k := b.key x.toNat
      if !s.placeFree c.z c.id t (.spad k) n then .error .wait
      else
        let r := s.pickPrior c k (s.readSpad k n) (s.spadPoisoned k n)
        .ok (r.1.watchOp r.1 c.z c.id (s.copyWatched c t true 0 (k % 2 ^ 19) n k), r.2.1, r.2.2, [k])
    else
      let a := gaddr x
      if 2 ^ 57 ≤ a then .error (c.xstop 3 a (.protection 1))
      else
        match s.remoteNode t a with
        | some d =>
          (match c.remoteStop .read 3 a with
            | some x => .error x
            | none =>
              if !s.placeFree c.z c.id t (.remote d a) n then .error .wait
              else
                match c.got.find? fun y => y.1 == a with
                | some y => .ok (s.watchFar c.z c.id (s.copyWatched c t false 0 a n a), y.2.1, y.2.2, [])
                | none => .error (if s.far.asked.any fun r => r.op == c.id && r.accs.contains (farAccess d a n) then .wait else .fetch d a))
        | none =>
          match s.translate (coreOf c.z) t.asid t.root a .read with
          | .error x => .error (c.xstop 3 a x)
          | .ok (w, pa) =>
            if !s.placeFree c.z c.id t (.mem pa .ap false) n || !s.ownSeen t c.id (coreOf c.z) pa n || s.artHolds pa then .error .wait
            else
              let s := (((s.useXlat (coreOf c.z) w).refetch (coreOf c.z) pa n w.e.attr).l2Range (coreOf c.z) pa n w.e.attr false).advanceViews
                (coreOf c.z) pa n
              let r := s.pickPrior c pa (s.readView (coreOf c.z) pa n) (s.memPoisoned pa n)
              .ok (r.1.watchOp r.1 c.z c.id (s.copyWatched c t false 0 a n pa), r.2.1, r.2.2, [])

/-- Writes an element's destination: the state, the scratchpad keys touched, the physical address, and what the element held before if
the source is in the same space (R200, R243, R246, R287). -/
def State.copyWrite (s : State) (c : Copy) (t : Team) (b : Block) (p : CpProg) (e : Nat) (l : List Byte) (q : Bool) :
    Except CopyStop (State × List Nat × Option Nat × List (Nat × List Byte × Bool)) :=
  let n := p.esize
  if !p.dstGlobal then
    let k := b.key (p.dstOf e).toNat
    if !s.placeFree c.z c.id t (.spad k) n then .error .wait
    else
      .ok ((s.writeSpad k l q).watchOp s c.z c.id (s.copyWatched c t true 1 (k % 2 ^ 19) n k), [k], none,
        if p.srcGlobal then [] else [(k, s.readSpad k n, s.spadPoisoned k n)])
  else
    let a := gaddr (p.dstOf e)
    if 2 ^ 57 ≤ a then .error (c.xstop 4 a (.protection 1))
    else
      match s.remoteNode t a with
      | some d =>
        (match c.remoteStop .write 4 a with
          | some x => .error x
          | none =>
            if s.placeFree c.z c.id t (.remote d a) n then
              .ok ((s.copySend c t d a l q).watchFar c.z c.id (s.copyWatched c t false 1 a n a), [], none, [])
            else .error .wait)
      | none =>
        match s.translate (coreOf c.z) t.asid t.root a .write with
        | .error x => .error (c.xstop 4 a x)
        | .ok (w, pa) =>
          if w.e.attr == .repl then .error (c.xstop 4 a (.protection 7))
          else
            let s := s.useXlat (coreOf c.z) w
            let line := pa / 256
            if !s.placeFree c.z c.id t (.mem pa .ap false) n || s.artHolds pa then .error .wait
            else if !c.owned.contains line && !s.lineFree line then .error .wait
            else
              let old := s.readMem pa n
              .ok (((s.writeAs t.asid pa l q).pushView (coreOf c.z) c.id pa w.e.attr old l false).watchOp s c.z c.id
                  (s.copyWatched c t false 1 a n pa), [], some pa,
                if p.srcGlobal then [(pa, old, s.memPoisoned pa n)] else [])

/-- A number below n, freely chosen where there is more than one. -/
def freeBelow (k n : Nat) : Nat := if n ≤ 1 then 0 else Config.freeChoice k % n

/-- Elements from the cursor on that a copy may issue: those up to its 1,024th distinct destination unit from there (R203). -/
def Copy.window (c : Copy) (p : CpProg) : List Nat :=
  let rec go : Nat → Nat → List Nat → List Nat
    | 0, _, _ => []
    | k + 1, e, us =>
      let u := p.unit (p.dstOf e)
      if us.contains u then e :: go k (e + 1) us
      else if us.length < 1024 then e :: go k (e + 1) (u :: us)
      else []
  go (p.total - c.cursor) c.cursor []

/-- A destination unit that an element not yet written lies in, freely chosen in the window, with its elements that are not yet written
there and whether the nest has none further on. -/
def Copy.pickUnit (c : Copy) (p : CpProg) (k : Nat) : Nat × List Nat × Bool :=
  let open_ := (c.window p).filter fun e => !c.past p e
  let us := (open_.map fun e => p.unit (p.dstOf e)).eraseDups
  let u := us.getD (freeBelow k us.length) 0
  let els := open_.filter fun e => p.unit (p.dstOf e) == u
  let n := ((List.range (p.total - c.cursor)).filter fun i => p.unit (p.dstOf (c.cursor + i)) == u && !c.wrote.contains (c.cursor + i)).length
  (u, els, decide (n ≤ els.length))

/-- The elements of a unit that are written next: a free run of them. -/
def pickRun (k : Nat) (l : List Nat) : List Nat :=
  let i := freeBelow k l.length
  (l.drop i).take (1 + freeBelow (k + 1) (l.length - i))

/-- The cursor after elements have been written: the first element that has not been (R203). -/
def Copy.advance (c : Copy) (p : CpProg) : Copy :=
  let n := ((List.range (p.total - c.cursor)).find? fun i => !c.past p (c.cursor + i)).getD (p.total - c.cursor)
  { c with cursor := c.cursor + n, wrote := c.wrote.filter fun e => decide (c.cursor + n ≤ e) }

/-- A unit is finished: the copy no longer owns its line, and need not write it again (R202, R203, R246). -/
def Copy.finish (c : Copy) (u : Nat) (line : Option Nat) : Copy :=
  { c with
    finished := u :: c.finished, owned := c.owned.filter fun x => some x != line, asked := c.asked.filter fun x => some x != line }

/-- The copy after an element has been written; what came of it from another device is used up. -/
def Copy.put (c : Copy) (e : Nat) (line : Option Nat) (was : List (Nat × List Byte × Bool)) : Copy :=
  { c with
    wrote := e :: c.wrote, prior := was ++ c.prior
    got := c.got.filter fun y => some (y.1 : Nat) != (c.prog'.srcOf e).map gaddr
    owned := match line with
      | some x => if c.owned.contains x then c.owned else x :: c.owned
      | none => c.owned }

/-- What a run of elements has used: the scratchpad bytes read and written, and the ranges of memory written with their poison. -/
structure CopyUse where
  rd : List Nat
  wr : List Nat
  mem : List (Nat × Nat × Bool)
  deriving DecidableEq, Repr, Inhabited

/-- Writes elements of a unit until they are done or one must stop; fin says that the unit is finished then. The copy, why it stops,
what was used, and the elements left (R203). -/
def State.copyRun (s : State) (c : Copy) (t : Team) (b : Block) (p : CpProg) (u : Nat) (fin : Bool) :
    List Nat → CopyUse → State × Copy × CopyStop × CopyUse × Nat
  | [], k => (s, c, .wait, k, 0)
  | e :: r, k =>
    match s.copyRead c t b p e with
    | .error x => (s, c, x, k, r.length + 1)
    | .ok (s1, l, q, rd) =>
      match s1.copyWrite c t b p e l q with
      | .error x => (s1, c, x, k, r.length + 1)
      | .ok (s2, wr, pa, was) =>
        let line := pa.map (· / 256)
        let c := c.put e line was
        let k : CopyUse := ⟨k.rd ++ rd, k.wr ++ wr, k.mem ++ pa.toList.map fun a => (a, l.length, q)⟩
        if r.isEmpty && fin then (s2, c.finish u line, .unit u, k, 0)
        else s2.copyRun c t b p u fin r k

/-- Replaces a copy. -/
def State.putCopy (s : State) (c : Copy) : State := { s with copies := s.copies.map fun x => if x.id = c.id then c else x }

/-- Rows of a core that a requester still waits for. -/
def State.rowsOf (s : State) (core req : Nat) : Bool :=
  match s.cores.get? core with
  | none => false
  | some c => c.breq.any fun x => x.2.1 == req

/-- A copy may run: not suspended, its predecessors performed (R235, R246), its rows served, its teams not being stopped. -/
def State.copyReady (s : State) (c : Copy) : Option (Team × Block) :=
  match s.teams.get? c.z, s.blocks.get? c.blk with
  | some t, some b =>
    if c.st == .running && t.predsDone c.preds c.scp && !s.rowsOf (coreOf c.z) 4 then some (t, b) else none
  | _, _ => none

/-- The sectors of memory that elements read and write (R264). -/
def Copy.sectors (p : CpProg) (els : List Nat) : Nat :=
  (els.flatMap fun e => (if p.dstGlobal then [(true, gaddr (p.dstOf e) / 64)] else []) ++
    (if p.srcGlobal then ((p.srcOf e).map fun a => (false, gaddr a / 64)).toList else [])).eraseDups.length

/-- The longest start of a run for whose sectors there are miss-status entries, of the pool and of the 1,024 of the copies (R264). -/
def State.affordRun (s : State) (c : Copy) (p : CpProg) (run : List Nat) : List Nat :=
  let room := min (3072 - s.missUsed (coreOf c.z)) (1024 - s.copyMse (coreOf c.z))
  run.take (((List.range (run.length + 1)).reverse.find? fun k => decide (Copy.sectors p (run.take k) ≤ room)).getD 0)

/-- A copy gives back the entries of what it has read and written so far (R264). -/
def State.giveMse (s : State) (c : Copy) : State :=
  if c.mse = 0 then s
  else State.putCopy (s.updCore (coreOf c.z) fun k => { k with missDue := k.missDue + c.mse }) { c with mse := 0 }

/-- The result of running a copy to its next stop, with its rows posted for the copy sequencer, reads and writes apart (R257, R258). The
unit it writes into, and which of that unit's elements, are free (R200, R203; log entry 10). -/
def State.copyStep (s : State) (c : Copy) (t : Team) (b : Block) : State × Copy × CopyStop :=
  let p := c.prog'
  let s := s.giveMse c
  let c := { c with mse := 0 }
  let x := c.pickUnit p s.fresh
  let run := s.affordRun c p (pickRun (s.fresh + 1) x.2.1)
  if run.isEmpty then (s, c, .wait)
  else
    let r := ({ s with fresh := s.fresh + 3 } : State).copyRun c t b p x.1 (x.2.2 && decide (run.length = x.2.1.length)) run ⟨[], [], []⟩
    let use := r.2.2.2.1
    let made := run.take (run.length - r.2.2.2.2)
    let c' := { r.2.1.advance p with mse := Copy.sectors p made }
    let s' := (r.1.clearCovered use.mem).putCopy c'
    let s' := if use.rd.isEmpty && use.wr.isEmpty then s' else s'.postRows (coreOf c.z) 4 (bankRows use.rd [] ++ bankRows use.wr [])
    (s'.count (coreOf c.z) 0x0E 0 false (made.length * p.esize / 64), c', r.2.2.1)

/-- COPY_CHUNK_COMPLETE (R202): a copy writes on; with the last byte of a scratchpad chunk the chunk's CHUNK bit is set. -/
def execCopyChunkComplete (id : Nat) (s : State) : Host.Outcome State Fault Refusal :=
  .next (match s.copies.find? fun c => c.id == id with
    | none => s
    | some c =>
      match s.copyReady c with
      | none => s
      | some (t, b) =>
        match s.copyStep c t b with
        | (s', c', .unit u) =>
          if c'.prog'.dstGlobal then s' else s'.updBlock c.blk fun b => b.setChunks (u / 16) (1#16 <<< (u % 16))
        | (s', _, .wait) => s'
        | (s', c', .ask line acc) =>
            (s'.putCopy { c' with probes := c'.probes ++ [⟨line, acc, none⟩] }).sendProbe ((s.remoteNode t (256 * line)).getD 0) (s.setOf t) line acc
              none c.id
        | (s', c', .fetch d a) => s'.copyAsk c' t d a c'.prog'.esize
        | (_, _, .fault _ _ _) => s)

/-- What a copy leaves in its block at its end: every footprint chunk set, BUSYW cleared, BUSYR lowered (R202). -/
def Block.copyEnd (b : Block) (p : CpProg) : Block :=
  let b := if p.dstGlobal then b else p.footprint.foldl (fun b u => b.setChunks (u / 16) (1#16 <<< (u % 16))) b
  (b.clearBusyW p.dstTiles).busyR p.srcTiles false

/-- Elements a copy has still to write. -/
def Copy.left (c : Copy) : Bool :=
  let p := c.prog'
  (List.range (p.total - c.cursor)).any fun i => !c.finished.contains (p.unit (p.dstOf (c.cursor + i)))

/-- COPY_COMPLETION (R183, R202): the copy's writes are performed at its scope. -/
def execCopyCompletion (id : Nat) (s : State) : Host.Outcome State Fault Refusal :=
  .next (match s.copies.find? fun c => c.id == id with
    | none => s
    | some c =>
      match s.copyReady c with
      | none => s
      | some _ =>
        if c.left || s.farOfCopy id then s
        else
          let width := s.doneWidth id c.scp
          let s := (s.giveMse c).performViews (coreOf c.z) id width
          ({ s with copies := s.copies.filter fun x => x.id != id }.updBlock c.blk fun b => b.copyEnd c.prog').updTeam c.z
            fun t => t.complete id width)

/-- A copy suspended: it owns no line and asks for none, and writes the elements of unfinished units again (R203, R246). -/
def Copy.suspend (c : Copy) : Copy := { c with st := .suspended, wrote := [], owned := [], asked := [], mse := 0, probes := [], got := [] }

/-- COPY_FAULT_SUSPEND (R203): the copy suspends, and its team's trap is pending; of a team that has ended the fault is event 8
and the copy is abandoned (R149, R325). -/
def execCopyFaultSuspend (id : Nat) (s : State) : Host.Outcome State Fault Refusal :=
  .next (match s.copies.find? fun c => c.id == id with
    | none => s
    | some c =>
      match s.copyReady c with
      | none => s
      | some (t, b) =>
        match s.copyStep c t b with
        | (s', c', .fault cause d a) =>
          if t.ended then
            let w0 := (t.frameHead ⟨cause, d, a, 3, 0, 0⟩).word0
            ({ s' with copies := s'.copies.filter fun x => x.id != id }.postEvent 8 c.z w0).updTeam c.z fun t =>
              { t with ops := t.ops.filter fun o => o.id != id }
          else
            (s'.putCopy c'.suspend).updTeam c.z fun t =>
              t.pendCause (if cause = 0x1A then .uncorrectable d else .copyFault c.id cause d a)
        | (_, _, .unit _) => s
        | (_, _, .ask _ _) => s
        | (_, _, .fetch _ _) => s
        | (_, _, .wait) => s)

/-- The lines of this device in which the remaining nest has a byte to write and which translations name without a fault (R246, R354). -/
def State.remainingLines (s : State) (c : Copy) (t : Team) : List Nat :=
  let p := c.prog'
  if !p.dstGlobal then []
  else
    (((List.range (p.total - c.cursor)).map fun i => p.unit (p.dstOf (c.cursor + i))).eraseDups.filter fun u =>
      !c.finished.contains u && (s.remoteNode t (256 * u)).isNone).filterMap fun u =>
      match s.translate (coreOf c.z) t.asid t.root (256 * u) .write with
      | .ok (w, pa) => if w.e.attr == .repl then none else some (pa / 256)
      | .error _ => none

/-- Suspended copies run again from their cursors and ask for their lines (R203, R246). -/
def State.resumeWhere (s : State) (p : Copy → Bool) : State :=
  { s with copies := s.copies.map fun c =>
      match s.teams.get? c.z with
      | none => c
      | some t =>
        if c.st == .suspended && p c then
          let l := s.remainingLines c t
          { c with st := .running, settled := false, owned := l.filter s.lineFree, asked := l.filter fun x => !s.lineFree x }
        else c }

/-- A team's suspended copies run again (R203). -/
def State.resumeCopies (s : State) (z : Nat) : State := s.resumeWhere fun c => c.z == z

/-! ## Matrix commands (R214 to R217) -/

/-- Scratchpad rows of byte ranges of a block. -/
def Block.rowKeys (b : Block) (l : List (Nat × Nat)) : List Nat :=
  l.flatMap fun x => if x.2 = 0 then [] else
    (List.range ((b.key x.1 + x.2 - 1) / 16 + 1 - b.key x.1 / 16)).map fun i => (b.key x.1 / 16 + i) * 16

/-- The byte ranges readers A and B fetch for a command. -/
def MCmd.readSpans (c : MCmd) : List (Nat × Nat) × List (Nat × Nat) :=
  if isProduct c.ins then productSpans c.args (isTrans c.ins) else ((xuUse c.ins c.args).rd, [])

/-- A command of a core is a product, which a stop may cut (R217). -/
def State.productCmd (s : State) (core id : Nat) : Bool :=
  ((s.cores.get? core).map fun k => k.mq.any fun c => c.id == id && isProduct c.ins).getD false

/-- What must be performed before a team's block is saved (R249): the issued operations but for copies and products, and what they have
edges from. -/
def State.mustEnd (s : State) (z : Nat) : List Nat :=
  match s.teams.get? z with
  | none => []
  | some t => t.ops.foldr (fun o (a : List Nat) =>
      if !o.issued || o.done then a
      else if (o.kind == .copy || s.productCmd (coreOf z) o.id) && !a.contains o.id then a
      else o.id :: o.preds ++ a) []

/-- A product of a block that is being stopped, not yet begun: it stays where it is (R217), unless an operation that must be
performed waits for it (R249). -/
def State.heldBack (s : State) (c : MCmd) : Bool :=
  c.due.isNone && isProduct c.ins && ((s.blocks.get? c.blk).map Block.stop).getD false
    && !(s.mustEnd c.z).contains c.id

/-- The command a core's engine runs, or would take up next, with its team and block. -/
def State.headCmd (s : State) (core : Nat) : Option (MCmd × Team × Block) :=
  match s.cores.get? core with
  | none => none
  | some k =>
    match (k.mq.find? fun c => c.due.isSome).or (k.mq.find? fun c => !s.heldBack c) with
    | none => none
    | some c =>
      match s.teams.get? c.z, s.blocks.get? c.blk with
      | some t, some b => some (c, t, b)
      | _, _ => none

/-- Changes a command of a core's engine. -/
def State.updCmd (s : State) (core id : Nat) (f : MCmd → MCmd) : State :=
  s.updCore core fun k => { k with mq := k.mq.map fun c => if c.id = id then f c else c }

/-- The scope of a team's operation. -/
def Team.scopeOf (t : Team) (id : Nat) : Scope := ((t.ops.find? fun o => o.id == id).map MemOp.scp).getD .core

/-- A command may begin: not in the clock of its acceptance, predecessors performed, no earlier access of its team to its operands
outstanding (R214, R215). -/
def State.cmdReady (s : State) (core : Nat) (c : MCmd) (t : Team) (b : Block) : Bool :=
  c.due.isNone && t.predsDone c.preds (t.scopeOf c.id)
    && !(((s.cores.get? core).map fun k => k.mq.length == 1 && k.xacc == s.clock + 1).getD false)
    && (c.readSpans.1 ++ c.readSpans.2 ++ (xuUse c.ins c.args).wr).all fun x => t.locFree c.id (.spad (b.key x.1)) x.2

/-- MATRIX_COMMAND_BEGIN (R214): the engine takes up its oldest command. -/
def execMatrixCommandBegin (core : Nat) (s : State) : Host.Outcome State Fault Refusal :=
  .next (match s.headCmd core with
    | none => s
    | some (c, t, b) =>
      if !s.cmdReady core c t b then s
      else
        let s := (s.engineReads b c).updCmd core c.id fun c => { c with due := some (s.clock + c.clocks) }
        let x := c.readSpans
        (s.postRows core 5 (bankRows (b.rowKeys x.1) [] ++ bankRows (b.rowKeys (xuUse c.ins c.args).wr) [])).postRows core 6
          (bankRows (b.rowKeys x.2) []))

/-- The head command's occupancy has ended and its readers have their rows (R214, R259). -/
def State.cmdDone (s : State) (core : Nat) (c : MCmd) : Bool :=
  (match c.due with
    | some d => decide (d ≤ s.clock)
    | none => false) && !s.rowsOf core 5 && !s.rowsOf core 6

/-- A running command writes a chunk of its destination, any it has not: its CHUNK bit is set with the last byte (R216). -/
def State.writeChunk (s : State) (core : Nat) (c : MCmd) (b : Block) : State :=
  let l := c.unwritten b (s.cmdImage b c)
  let us := (l.flatMap b.pieceChunks).eraseDups
  if us.isEmpty then s
  else
    let u := us.getD (freeBelow s.fresh us.length) 0
    let s := State.engineWrites { s with fresh := s.fresh + 1 } c b.asid (l.filter fun x => (b.pieceChunks x).contains u)
    (s.updCmd core c.id fun c => { c with wrote := u :: c.wrote }).updBlock c.blk fun b => b.setChunks (u / 16) (1#16 <<< (u % 16))

/-- MATRIX_COMMAND_COMPLETION (R216): until its occupancy ends a command that writes scratchpad may write a chunk; then the rest
of its effect is made and its busy state is given back. -/
def execMatrixCommandCompletion (core : Nat) (s : State) : Host.Outcome State Fault Refusal :=
  .next (match s.headCmd core with
    | none => s
    | some (c, _, b) =>
      if !s.cmdDone core c then (if c.due.isSome then s.writeChunk core c b else s)
      else
        let s := s.runCommand b c c.groups
        ((s.updCore core fun k => { k with mq := k.mq.filter fun x => x.id != c.id }).updBlock c.blk fun b => b.xuEnd (xuUse c.ins c.args)).updTeam c.z
          fun t => t.complete c.id 4)

end Sys2Proof.Machine
end

