-- ==== Sys2Proof/Machine/Traps.lean ====
section
/-!
DEFINITION. Asynchronous traps (R319), the return from trap mode (R56, R144), replies that find their landing in a frame or
in saved state (R33, R185), and the end of a block (R149).
-/
namespace Sys2Proof.Machine

/-! ## Replay descriptors (R55, R56) -/

/-- RD fields of a descriptor. -/
def rdBits (d : BitVec 128) (lo n : Nat) : Nat := (d >>> lo).toNat % 2 ^ n

/-- RD.FILE; codes 6 and 7 are invalid. -/
def rdFile (d : BitVec 128) : Option RFile :=
  match rdBits d 8 3 with
  | 0 => some .s
  | 1 => some .a
  | 2 => some .va
  | 3 => some .vb
  | 4 => some .vm
  | 5 => some .f
  | _ => none

/-- The checks of R56 on one descriptor. R56 lists no check of PAIR outside VA nor of a pair whose odd register is at the budget:
the model accepts both, ignoring the one and writing the odd register of the other (DESIGN CHOICE, log entry 49). -/
def Team.rdOk (t : Team) (d : BitVec 128) : Bool :=
  match rdFile d with
  | none => false
  | some fl =>
    let reg := rdBits d 11 6
    let pair := rdBits d 17 1 == 1
    let bal := rdBits d 24 1 == 1
    decide (rdBits d 0 8 ≤ 27) && decide (reg < t.budget fl) && !(pair && reg % 2 == 1)
      && !(bal && (fl != .s || decide (63 < reg + (t.passes + 1) / 2 - 1)))

/-- Shape of the landing a descriptor describes, with no values, at a distance from a team-cycle. PAIR has no effect outside VA
(DESIGN CHOICE, log entry 49). -/
def rdLanding (d : BitVec 128) (at_ : Nat) : Landing :=
  let fl := (rdFile d).getD .s
  { due := at_ + rdBits d 0 8, file := fl, reg := rdBits d 11 6, pair := fl == .va && rdBits d 17 1 == 1, bal := rdBits d 24 1 == 1,
    vals := [], flags := BitVec.ofNat 5 (rdBits d 19 5), pend := none, lanes := [], key := none }

/-- The values of a landing from its value record; poi says which offsets of the record are poisoned (R55). -/
def Landing.parse (l : Landing) (t : Team) (rec : List Byte) (poi : Nat → Bool) : List LaneVal :=
  let val (off n : Nat) : BitVec 128 := BitVec.ofNat 128 (leNat ((rec.drop off).take n))
  let lanes (k : Nat) : List LaneVal :=
    let base := (t.width + 63) / 64 * 8
    ((List.range t.width).filter fun i => (rec.getD (i / 8) 0).getLsbD (i % 8)).map fun i =>
      ⟨i, val (base + k * i) k, poi (base + k * i)⟩
  if l.bal then (List.range ((t.passes + 1) / 2)).map fun i => ⟨i, val (8 * i) 8, poi (8 * i)⟩
  else
    match l.file with
    | .s => [⟨0, val 0 8, poi 0⟩]
    | .a => [⟨0, val 0 8, poi 0⟩]
    | .f => [⟨0, val 0 16, poi 0⟩]
    | .va => lanes (if l.pair then 8 else 4)
    | .vb => lanes 4
    | .vm => lanes 4

/-- A 128-bit little-endian field of bytes. -/
def field128 (l : List Byte) (off : Nat) : BitVec 128 := BitVec.ofNat 128 (leNat ((l.drop off).take 16))

/-- A 64-bit little-endian field of bytes. -/
def field64 (l : List Byte) (off : Nat) : Word := BitVec.ofNat 64 (leNat ((l.drop off).take 8))

/-- TF.HELD of the first 0x100 bytes of a frame (R53). -/
def frameHeld (l : List Byte) : AL SlotBits :=
  (heldKinds.zip (List.range 5)).foldl (fun (h : AL SlotBits) x =>
    let r := field128 l (0x40 + 16 * x.2)
    if r.getLsbD 80 then h.put x.1 (r.setWidth 80) else h) []

/-! ## The return from trap mode (R56, R144) -/

/-- What a frame's RW fields hold, once read. -/
structure FrameIn where
  head : List Byte
  land : List Landing
  deriving DecidableEq, Repr, Inhabited

/-- Why a frame cannot be used. -/
inductive FrameBad where
  | read (e : XErr)
  | range (n : Nat)
  deriving DecidableEq, Repr, Inhabited

/-- Reads and checks the frame at CTXPTR (R56, R144): the first 256 bytes, the descriptors, then each value record. -/
def State.readFrame (s : State) (z : Nat) (t : Team) : Except FrameBad (State × FrameIn) :=
  let rd (s : State) (off n : Nat) : Except FrameBad (State × List Byte) :=
    match s.readVa (coreOf z) t.asid t.root ((t.ctxptr.toNat + off) % 2 ^ 64) n with
    | .ok x => .ok x
    | .error e => .error (.read e)
  match rd s 0 0x100 with
  | .error e => .error e
  | .ok (s, head) =>
    let n := (field64 head 0x38).toNat % 256
    if 135 < n then .error (.range n)
    else
      match rd s 0x100 (16 * n) with
      | .error e => .error e
      | .ok (s, ds) =>
        let l := (List.range n).map fun i => field128 ds (16 * i)
        match (List.range n).find? fun i => !t.rdOk (l.getD i 0) with
        | some i => .error (.range i)
        | none =>
          let r : Except FrameBad (State × List Landing) := l.foldl (fun r d => match r with
            | .error e => .error e
            | .ok (s, out) =>
              let x := rdLanding d t.tc
              match rd s (rdBits d 32 32) (x.recLen t) with
              | .error e => .error e
              | .ok (s, bytes) => .ok (s, out ++ [{ x with vals := x.parse t bytes fun _ => false }])) (.ok (s, []))
          match r with
          | .error e => .error e
          | .ok (s, land) => .ok (s, ⟨head, land⟩)

/-- Step 1 of R144 is over: every trap-mode result has landed and every replay descriptor has PEND = 0. -/
def Team.eretReady (t : Team) : Bool :=
  t.eretWait.isSome && t.tmode && !t.ended && !t.halted && !t.stopReq && t.land.isEmpty && t.replay.all fun l => l.pend.isNone

/-- The loop registers as su.eret leaves them: the loop end of its own word is evaluated as it commits (R125, R131). -/
def Team.eretLoop (t : Team) : LoopRegs :=
  match t.keep, t.eretWait with
  | some k, some (_, npc, _) => t.loopAfter k t.pc npc
  | _, _ => t.loop

/-- The team after steps 3 to 5 of R144. FMODE's reserved bits read 0 (R13, R47). -/
def Team.leaveTrap (t : Team) (f : FrameIn) : Team :=
  let done : BitVec 3 := BitVec.ofNat 3 (leNat (f.head.take 8) / 2 ^ 10)
  let part2 := (field64 f.head 0).getLsbD 14
  Team.landDue { t with
    tmode := false, eretWait := none, held := frameHeld f.head, fmode := field64 f.head 0x28 &&& fmodeMask,
    tcyc := field64 f.head 0x20, loop := t.eretLoop,
    land := f.land, replay := [], landed := 0, dwinU := t.dwin, dbaseU := t.dbase,
    pc := field64 f.head 8 &&& 0x01FFFFFFFFFFFFFE#64, done := done, part2 := part2, resumePass := t.userPass, userPass := 0,
    occ := t.userOcc, userOcc := 0,
    keep := if done != 0 || part2 || t.userPass != 0 then t.userKeep else none, userKeep := none, ctx := none, fetched := none,
    zeroTrip := none, waiting := false, nobp := true, crc := t.crc }

/-- The trace record of a team that goes on at its present word (R384, type 2). -/
def State.traceResume (s : State) (z : Nat) : State :=
  match s.teams.get? z with
  | none => s
  | some t => s.trace (coreOf z) 2 (partOf z % 4) (z % 16) 0 (soaOf t.pc 3 0 t.tmode)

/-- ERET_RESUME (R144): the frame is read and checked, and the team leaves trap mode; a failure is a fault of the su.eret slot in
trap mode (R322). -/
def execEretResume (z : Nat) (s : State) : Host.Outcome State Fault Refusal :=
  .next (match s.teams.get? z with
    | none => s
    | some t =>
      if !t.eretReady then s
      else
        let slot := (t.eretWait.map Prod.fst).getD 3
        let bad (cause detail : Nat) (addr : Word) : State := s.takeTrap z ⟨cause, BitVec.ofNat 32 detail, addr, slot, 0, 0⟩
        match s.readFrame z t with
        | .ok (s', f) => ((s'.updTeam z fun t => t.leaveTrap f).resumeCopies z).traceResume z
        | .error (.range n) => bad cRegRange (9 + 16 * n) 0
        | .error (.read .notPresent) => bad cNotPresent 0 t.ctxptr
        | .error (.read (.protection r)) => bad cProtection (16 * r) t.ctxptr
        | .error (.read .poison) => bad cUncorrectable 0 t.ctxptr)

/-! ## Asynchronous traps (R319, R380) -/

/-- Where a cause stands in the order of R319. -/
def Async.rank : Async → Nat
  | .uncorrectable _ => 2
  | .copyFault _ _ _ _ => 3
  | .msgOverflow _ _ => 4
  | .watchpoint _ _ => 5
  | .singleStep => 6

/-- The fault of a cause. -/
def Async.flt : Async → Flt
  | .uncorrectable d => ⟨cUncorrectable, d, 0, 3, 0, 0⟩
  | .copyFault _ c d a => ⟨c, d, a, 3, 0, 0⟩
  | .msgOverflow n bad => ⟨0x10, BitVec.ofNat 32 (min n 127 + (if bad then 128 else 0)), 0, 3, 0, 0⟩
  | .watchpoint d a => ⟨0x14, d, a, 3, 0, 0⟩
  | .singleStep => ⟨0x16, 0, 0, 3, 0, 0⟩

/-- Charges a discarded message to a team: one pending cause counts them all (R207, R320). -/
def Team.overflow (t : Team) (bad : Bool) : Team :=
  if t.async.any fun a => a.rank == 4 then
    { t with async := t.async.map fun a => match a with
        | .msgOverflow n b => .msgOverflow (n + 1) (b || bad)
        | _ => a }
  else { t with async := t.async ++ [.msgOverflow 1 bad] }

/-- The place of a cause among those of its kind: the copy of a copy fault, the oldest first (R319). -/
def Async.age : Async → Nat
  | .copyFault id _ _ _ => id
  | _ => 0

/-- A cause is taken before another: by kind, the oldest copy's fault first (R319). -/
def Async.before (a b : Async) : Bool := decide (a.rank < b.rank) || (a.rank == b.rank && decide (a.age < b.age))

/-- The next asynchronous cause, with what stays pending; other causes of one kind are taken in the order in which they came. -/
def nextAsync : List Async → Option (Async × List Async)
  | [] => none
  | a :: l =>
    match nextAsync l with
    | none => some (a, [])
    | some (b, r) => if Async.before b a then some (b, a :: r) else some (a, l)

/-- A team may take an asynchronous trap: in user mode, at a word boundary, with no stop request (R319). -/
def Team.asyncReady (t : Team) : Bool :=
  !t.async.isEmpty && !t.tmode && !t.ended && !t.halted && !t.stopReq && ((t.ctx.map fun c => !c.checked).getD true)

/-- TRAP_ENTRY (R318, R319): the next pending asynchronous cause of a team is taken. -/
def execTrapEntry (z : Nat) (s : State) : Host.Outcome State Fault Refusal :=
  .next (match s.teams.get? z with
    | none => s
    | some t =>
      if !t.asyncReady then s
      else
        match nextAsync t.async with
        | none => s
        | some (a, rest) =>
          (s.updTeam z fun t => { t with async := rest, ctx := none, fetched := none, zeroTrip := none, waiting := false }).takeTrap
            z a.flt)

/-! ## Replies of loads (R33, R185) -/

/-- Writes a late value into a team's frame: the record of replay entry i, then RD.PEND cleared; the write is made at core scope and a
page that refuses it keeps the old bytes (R33). It is written where the record was placed at trap entry: a VOFF the handler has
changed meanwhile does not move it (DESIGN CHOICE, log entry 50). -/
def State.frameReply (s : State) (z i : Nat) (t : Team) (l : Landing) : State :=
  let voff := (valueOffsets t t.replay).getD i 0xA00
  let put (s : State) (off : Nat) (b : List Byte) (p : Bool) : State :=
    match s.writeVa (coreOf z) t.asid t.root ((t.ctxptr.toNat + off) % 2 ^ 64) b p with
    | .ok s => s
    | .error _ => s
  let s := (layPieces voff (l.record t)).foldl (fun s x => put s x.1 x.2.1 x.2.2) s
  match s.readVa (coreOf z) t.asid t.root ((t.ctxptr.toNat + 0x102 + 16 * i) % 2 ^ 64) 1 with
  | .ok (s, b) => put s (0x102 + 16 * i) [b.getD 0 0 &&& 0xFB] false
  | .error _ => s

/-- The reply of a load: its landing in the buffer is fixed, or the replay register and, of a trap, the frame (R33, R185). -/
def State.reply (s : State) (z id : Nat) (vals : List LaneVal) : State :=
  match s.teams.get? z with
  | none => s
  | some t =>
    let fixed := t.replay.map fun l => l.fix id vals
    let s := s.updTeam z fun t => { t with land := t.land.map fun l => l.fix id vals, replay := fixed }
    match t.replay.findIdx? fun l => l.pend == some id with
    | none => s
    | some i => if t.tmode then s.frameReply z i t (fixed.getD i default) else s

/-! ## The end of a block (R149) -/

/-- Every operation of a block's teams has completed. -/
def State.opsDone (s : State) (b : Block) : Bool :=
  b.teams.all fun z => match s.teams.get? z with
    | none => true
    | some t => t.ops.all fun o => o.done && decide (4 ≤ o.perf)

/-- The block may end: every team has ended and every operation has completed; nothing of it is at an engine. -/
def State.blockDone (s : State) (blk : Nat) (b : Block) : Bool :=
  b.teams.all (fun z => ((s.teams.get? z).map Team.ended).getD true) && s.opsDone b
    && !(s.copies.any fun c => c.blk == blk) && !(((s.cores.get? b.core).map fun k => k.mq.any fun m => m.blk == blk).getD false)

/-- Discards the overflow-queue messages of a block's teams. -/
def State.dropQueued (s : State) (b : Block) : State :=
  s.updCore b.core fun c => { c with overflow := c.overflow.filter fun m => !m.toBlock b.launch b.lin }

/-- BLOCK_END (R149): the block leaves the device, and its launch counts it with its teams. -/
def execBlockEnd (blk : Nat) (s : State) : Host.Outcome State Fault Refusal :=
  .next (match s.blocks.get? blk with
    | none => s
    | some b =>
      if b.stop || !s.blockDone blk b then s
      else
        let n := b.teams.length
        { (s.dropQueued b).removeBlock blk with
          launches := s.launches.upd b.launch fun l => { l with ended := l.ended ++ [(b.lin, n)] } })

end Sys2Proof.Machine
end

