-- ==== Sys2Proof/Machine/MemorySystem.lean ====
section
/-!
DEFINITION. The memory system outside the issuing word: device task queues (R209 to R210, R311, R312), global accesses at the
slices (R185, R233 to R247, R261 to R277), scratchpad banks (R256 to R259), replies and completions (R183, R238), and the
changes of the memory configuration (R263, R267 to R270, R284 to R290).
-/
namespace Sys2Proof.Machine

/-! ## Operations by number -/

/-- The team and entry of an operation. -/
def State.findOp (s : State) (id : Nat) : Option (Nat × Team × MemOp) :=
  s.teams.findSome? fun x => (x.2.ops.find? fun o => o.id == id).map fun o => (x.1, x.2, o)

/-- The core number of an agent that is no core: its translations are not cached. -/
def noCore : Nat := 512

/-! ## Device task queues (R311, R312) -/

/-- Sub-queue of a record: six-bit fields of CR.DADDR from bit 16, and the five-bit field from bit 52 (R311). -/
def taskHash (daddr : Nat) : Nat :=
  ((List.range 6).foldl (fun h i => h ^^^ (daddr / 2 ^ (16 + 6 * i) % 64)) 0) ^^^ (daddr / 2 ^ 52 % 32)

/-- Records a sub-queue holds. -/
def Launch.tqCap (l : Launch) : Nat := 2 ^ (l.bits 0x68 0 5 - 6)

/-- Virtual address of a record of a sub-queue. -/
def Launch.tqAt (l : Launch) (sub pos : Nat) : Nat := l.bits 0x60 0 57 + 64 * (sub * l.tqCap + pos % l.tqCap)

/-- Head and tail of a sub-queue. -/
def Launch.tqPos (l : Launch) (sub : Nat) : Nat × Nat := l.tq.getD sub (0, 0)

/-- A sub-queue has a place free. -/
def Launch.tqRoom (l : Launch) (sub : Nat) : Bool := decide ((l.tqPos sub).2 < (l.tqPos sub).1 + l.tqCap)

/-- A record with the reserved bits of CR.DADDR 0 (R209). -/
def cleanRecord (l : List Byte) : List Byte := l.take 7 ++ [l.getD 7 0 &&& 1] ++ l.drop 8

/-- Posts a record to the sub-queue its CR.DADDR hashes to; none while it cannot be taken. -/
def State.taskPost (s : State) (n : Nat) (rec : List Byte) (p : Bool) : Option State :=
  match s.launches.get? n with
  | none => none
  | some l =>
    let rec' := cleanRecord rec
    let sub := taskHash (leNat (rec'.take 8))
    if !l.tqRoom sub then none
    else
      let x := l.tqPos sub
      match s.writeVa noCore l.asid l.root (l.tqAt sub x.2) rec' p with
      | .error _ => none
      | .ok s => some { s with launches := s.launches.put n { l with tq := l.tq.put sub (x.1, x.2 + 1) } }

/-- The sub-queues a core's request tries, in order (R312). -/
def taskOrder (core : Nat) : List Nat :=
  let x := core / 128
  let b := core % 128 / 8
  (List.range 4).flatMap fun i => (List.range 16).map fun j => 16 * ((x + i) % 4) + (b + j) % 16

/-- The queue is closed: empty, with no post outstanding and no task active; a saved block may hold one. -/
def State.taskClosed (s : State) (n : Nat) (l : Launch) : Bool :=
  l.tq.all (fun x => x.2.1 == x.2.2)
    && s.teams.all (fun x => x.2.launch != n || (x.2.activeTasks == 0 && !x.2.ops.any fun o => o.kind == .cpost && !o.done))
    && l.restarts.all (fun r => r.active.all (· == 0))
    && decide (l.placed.length ≤ l.ended.length + l.restarts.length + (s.blocks.filter fun x => x.2.launch == n).length)

/-- Takes a record for a request from a core: the status of R210, and the record with its poison. -/
def State.taskTake (s : State) (n core : Nat) : State × Nat × Option (List Byte × Bool) :=
  match s.launches.get? n with
  | none => (s, 2, none)
  | some l =>
    match (taskOrder core).find? fun sub => (l.tqPos sub).1 != (l.tqPos sub).2 with
    | none => (s, if s.taskClosed n l then 2 else 0, none)
    | some sub =>
      let x := l.tqPos sub
      match s.translate noCore l.asid l.root (l.tqAt sub x.1) .read with
      | .error _ => (s, 0, none)
      | .ok (w, pa) =>
        let s := s.useXlat noCore w
        ({ s with launches := s.launches.put n { l with tq := l.tq.put sub (x.1 + 1, x.2) } }, 1,
          some (s.readMem pa 64, s.memPoisoned pa 64))

/-- TASK_POST_ACCEPT (R209, R311). -/
def execTaskPostAccept (id : Nat) (s : State) : Host.Outcome State Fault Refusal :=
  .next (match s.findOp id with
    | none => s
    | some (z, t, o) =>
      if o.kind != .cpost || o.done || !o.issued || !t.predsDone o.preds o.scp then s
      else
        match s.taskPost t.launch o.data o.dataP with
        | none => s
        | some s => s.updTeam z fun t => t.complete id 4)

/-! ## Home slices, banks and holds (R265 to R273, R277) -/

/-- Device bank number of a line at a slice. -/
def bankAt (slice line : Nat) : Nat := 128 * (slice / 32) + 4 * (slice % 32) + l2Set line % 4

/-- The port's slot comes in this clock (R272). -/
def State.slotNow (s : State) (core bank : Nat) : Bool := s.clock % 32 == (core % 128 + bank % 128) % 32

/-- Physical address and attributes of a memory access. -/
def Access.mem (a : Access) : Option (Nat × PageAttr × Bool) :=
  match a.place with
  | .mem pa attr nc => some (pa, attr, nc)
  | _ => none

/-- The accesses of an operation in a line. -/
def MemOp.inLine (o : MemOp) (line : Nat) : List Access :=
  o.accs.filter fun a => (a.mem.map fun x => x.1 / 256 == line).getD false

/-- The lines of an operation's accesses, in order of lane. -/
def MemOp.lines (o : MemOp) : List Nat := (o.accs.filterMap fun a => a.mem.map fun x => x.1 / 256).eraseDups

/-- A read access. -/
def OpKind.reads : OpKind → Bool
  | .load => true
  | _ => false

/-- An operation's line may be performed: it has issued, its predecessors are performed, every earlier access of its team to the
same bytes has been made, and nothing holds the line's addresses (R184, R235, R246, R268). -/
def State.lineReady (s : State) (z : Nat) (t : Team) (o : MemOp) (line : Nat) : Bool :=
  o.issued && t.predsDone o.preds o.scp && (o.inLine line).all fun a =>
    match a.mem with
    | none => true
    | some (pa, _, _) =>
      s.placeFree z o.id t a.place a.size && !s.artHolds pa && (o.kind != .load || s.ownSeen t o.id (coreOf z) pa a.size)

/-! ## Performing accesses (R190, R192, R232, R242 to R247, R261) -/

/-- An access of a team's global operation as the comparators of its core see it. -/
def watchedMem (z : Nat) (t : Team) (o : MemOp) (acc : Nat) (a : Access) (pa : Nat) : Watched :=
  ⟨coreOf z, false, partOf z % 4, acc, t.asid, a.va, a.size, pa, some z, o.soa, o.tcyc, [],
    (o.accs.filter fun x => decide (x.lane < a.lane)).map fun x => (x.va, x.size)⟩

/-- Performs one access of an operation at its line's coherence point, or a load's in the L1 where it hits. -/
def State.performAccess (s : State) (z : Nat) (t : Team) (o : MemOp) (hit : Bool) (a : Access) : State :=
  match a.mem with
  | none => s
  | some (pa, attr, _) =>
    let core := coreOf z
    let got (s : State) (v : BitVec 128) (p : Bool) : State :=
      s.updTeam z fun t => t.updOp o.id fun o => { o with got := o.got ++ [⟨a.lane, v, p⟩] }
    match o.kind with
    | .atomic f =>
      let s0 := s.seeAll core pa 4
      let old := s0.readMem pa 4
      let w : Lane := leWord 32 old
      let wp := s0.memPoisoned pa 4
      let new := leBytes 4 (AtomFn.apply f w (a.v.setWidth 32) a.c)
      let s1 := ((s0.writeAs t.asid pa new (AtomFn.poison f wp a.p)).pushView core o.id pa attr old new true).watchOp s0 z o.id
        (watchedMem z t o 2 a pa)
      got (((s1.signAtomic t.asid a.va w).countTeam z 0x12 1)) (w.setWidth 128) wp
    | .store =>
      let new := leBytes a.size a.v
      let old := s.readMem pa a.size
      let keep := ((s.cores.get? (s.l1Core core (pa / 256))).map CoreSt.l1).getD []
      let s1 := (s.writeAs t.asid pa new a.p).updCore (s.l1Core core (pa / 256)) fun c => { c with l1 := keep }
      (s1.pushView core o.id pa attr old new false).watchOp s z o.id (watchedMem z t o 1 a pa)
    | _ =>
      let s1 := (if hit then s else s.refetch core pa a.size attr).advanceViews core pa a.size
      got (s1.watchOp s z o.id (watchedMem z t o 0 a pa)) (leWord 128 (s1.readView core pa a.size)) (s1.memPoisoned pa a.size)

/-- The caches after a line's accesses: each sector at its slice, but for one served from L1, and in the core's L1 for a load that may be
held there (R261, R265). -/
def State.cacheLine (s : State) (core : Nat) (o : MemOp) (hit : Bool) (l : List Access) : State :=
  let secs := (l.filterMap fun a => a.mem.map fun x => (x.1 / 64, x.2)).eraseDups
  secs.foldl (fun s x =>
    let pa := 64 * x.1
    let s := if isHbm pa && !hit then s.l2Touch (s.sliceOf core pa x.2.1 (o.kind != .load)) pa (o.kind != .load) else s
    if o.kind == .load && isHbm pa && !x.2.2 then s.l1Fill core pa else s) s

/-- Clocks from a sector's slot to the core that asked for it, and back: the bundle of a core to a bank, with the bridges between their
leaves (R273, R275). -/
def State.wire (s : State) (core bank : Nat) : Nat :=
  s.latency (bank / 128) (core % 128) (bank % 128) + if core / 128 = bank / 128 then 0 else 20

/-- Slots that a line of an operation takes: one for each of its sectors (R273). -/
def MemOp.slots (o : MemOp) (line : Nat) : Nat :=
  max 1 ((o.inLine line).filterMap fun a => a.mem.map fun x => x.1 / 64).eraseDups.length

/-- The slice and bank a line of an operation is served at. -/
def State.bankOfLine (s : State) (core : Nat) (o : MemOp) (line : Nat) : Nat :=
  match (o.inLine line).findSome? fun a => a.mem with
  | none => 0
  | some (pa, attr, _) => bankAt (s.sliceOf core pa attr (o.kind != .load)) line

/-- The clock at which the core has the data of a line served now, or its acknowledgement: 6 clocks after its last slot over the bundle; of
an L1 hit 12 clocks after the request, 20 in another position's L1 (R261, R263, R273). -/
def State.lineAt (s : State) (core : Nat) (o : MemOp) (line : Nat) (hit : Bool) : Nat :=
  if hit then o.sentAt + (if s.l1Core core line = core then 12 else 20)
  else s.clock + 32 * (o.slots line - 1) + 6 + s.wire core (s.bankOfLine core o line)

/-- Performs every access of an operation in a line at one point (R247): the lanes in ascending order (R187, R192). -/
def State.serveLine (s : State) (z : Nat) (t : Team) (o : MemOp) (line : Nat) (hit : Bool) : State :=
  let l := o.inLine line
  let at_ := s.lineAt (coreOf z) o line hit
  let s := l.foldl (fun s a => s.performAccess z t o hit a) s
  let s := if o.kind == .store then s.clearCovered (l.filterMap fun a => a.mem.map fun x => (x.1, a.size, a.p)) else s
  (s.cacheLine (coreOf z) o hit l).updTeam z fun t => t.updOp o.id fun o => { o with
    accs := o.accs.filter (fun a => (a.mem.map fun x => x.1 / 256 != line).getD true), readyAt := max o.readyAt at_ }

/-- The copies that an access of a team to a line waits for (R246): every owner, but not a later copy of its own team, which itself
waits for the access (R184). DEDUCED, log entry 14. -/
def State.ownersFor (s : State) (z id line : Nat) : List Nat :=
  (s.copies.filter fun c => c.owned.contains line && !(c.z == z && decide (id < c.id))).map Copy.id

/-- An access reaches its line's coherence point: it is served, or it waits behind a recall (R246). -/
def State.reachLine (s : State) (z : Nat) (t : Team) (o : MemOp) (line : Nat) : State :=
  let own := s.ownersFor z o.id line
  if own.isEmpty then s.serveLine z t o line false
  else { s with recalls := s.recalls ++ [⟨line, z, o.id, own⟩] }

/-- A line's request already waits behind a recall. -/
def State.recalled (s : State) (id line : Nat) : Bool := s.recalls.any fun r => r.op == id && r.line == line

/-- The clock at which a line's request reaches its bank (R273, R275). -/
def State.arrivesAt (s : State) (core : Nat) (o : MemOp) (line : Nat) : Nat := o.sentAt + s.wire core (s.bankOfLine core o line)

/-- The oldest request a port can serve, of the core of each leaf that has this number: the team, the operation and the line (R273,
R275). -/
def State.portNext (s : State) (core bank : Nat) : Option (Nat × Team × MemOp × Nat) :=
  let l := (s.teams.filter fun x => coreOf x.1 % 128 == core % 128).flatMap fun x => x.2.ops.flatMap fun o =>
    (o.lines.filter fun line => s.bankOfLine (coreOf x.1) o line == bank && decide (s.arrivesAt (coreOf x.1) o line ≤ s.clock)
      && !s.recalled o.id line && s.lineReady x.1 x.2 o line).map fun line => (x.1, x.2, o, line)
  let age (x : Nat × Team × MemOp × Nat) : Nat × Nat := (s.arrivesAt (coreOf x.1) x.2.2.1 x.2.2.2, x.2.2.1.id)
  l.foldl (fun (b : Option (Nat × Team × MemOp × Nat)) x => match b with
    | none => some x
    | some y => if decide ((age x).1 < (age y).1) || ((age x).1 == (age y).1 && decide ((age x).2 < (age y).2)) then some x else b) none

/-- Number of a port: of a bank, for the cores of a number. -/
def portNo (core bank : Nat) : Nat := 128 * bank + core % 128

/-- PORT_SLOT_SERVICE (R273): in its slot the port of a core at a bank serves its oldest request that is ready; each further sector of
the line takes the next slot of the port. -/
def execPortSlotService (core bank : Nat) (s : State) : Host.Outcome State Fault Refusal :=
  .next (if !s.slotNow core bank || decide (s.clock < (s.portAt.get (portNo core bank)).toNat) then s
    else
      match s.portNext core bank with
      | none => s
      | some (z, t, o, line) =>
        let next := s.clock + 32 * (o.slots line - 1) + 1
        State.reachLine { s with portAt := s.portAt.set (portNo core bank) (BitVec.ofNat 64 next) } z t o line)

/-- Marks the recall of an access from outside the device, which no team makes (R246). -/
def hostZ : Nat := 2 ^ 20

/-- Once no recall waits on a line, the running copies that asked for it after the last gain it. -/
def State.lineTurn (s : State) (line : Nat) : State :=
  if !s.lineFree line then s
  else
    { s with copies := s.copies.map fun c =>
        if c.st == .running && c.asked.contains line then
          { c with owned := line :: c.owned, asked := c.asked.filter fun x => x != line }
        else c }

/-- OWNERSHIP_RECALL (R246): the oldest access waiting on a line that every copy has finished with is served; the copies that asked
after the last recall gain the line. An access from outside is served as its packet is applied. -/
def execOwnershipRecall (line : Nat) (s : State) : Host.Outcome State Fault Refusal :=
  .next (match s.recalls.findIdx? fun r => r.line == line && decide (r.z < hostZ) && r.copies.all fun c => !(s.ownedLine line).contains c with
    | none => s
    | some i =>
      match s.recalls[i]? with
      | none => s
      | some r =>
        let s := { s with recalls := s.recalls.eraseIdx i }
        let s := match s.findOp r.op with
          | none => s
          | some (z, t, o) => s.serveLine z t o line false
        s.lineTurn line)

/-! ## Bench-remote accesses and banks (R45, R188, R256 to R259) -/

/-- The scratchpad key of a bench-remote access. -/
def Access.key (a : Access) : Option Nat :=
  match a.place with
  | .spad k => some k
  | _ => none

/-- The block that holds a scratchpad byte, with its tile. -/
def State.ownerOf (s : State) (k : Nat) : Option (Nat × Block × Nat) :=
  let core := k / 2 ^ 19
  let tile := k % 2 ^ 19 / 8192
  (s.blocks.find? fun x => x.2.core == core && decide (x.2.tile0 ≤ tile) && decide (tile < x.2.tile0 + x.2.nt)).map fun x =>
    (x.1, x.2, tile - x.2.tile0)

/-- A bench-remote access may be served: its predecessors, its team's earlier accesses of the bytes with those of its copies and commands,
and the tile's BUSYW (R45, R184, R248). -/
def State.remoteReady (s : State) (z : Nat) (t : Team) (o : MemOp) (a : Access) : Bool :=
  match a.key with
  | none => false
  | some k =>
    o.issued && o.kind != .tget && t.predsDone o.preds o.scp && s.placeFree z o.id t a.place a.size
      && !((s.envOf z 3).any fun e => (e.c.ops.any fun x => x.id == some o.id) && e.readBefore o.id a.place a.size)
      && ((s.ownerOf k).map fun x => !tsBusyW (x.2.1.tiles.get x.2.2)).getD true

/-- The requester that carries a team's bench-remote accesses to a core: its partition's MU to its own core, else the bench remote port
(R258). -/
def carrier (z core : Nat) : Nat := if coreOf z = core then partOf z % 4 else 7

/-- What a requester carries to a core next: the accesses of one pass of its oldest operation that is ready. The remote port serves one
access at a time, after the rows it still owes (R258). -/
def State.carried (s : State) (core r : Nat) : Option (Nat × Team × MemOp × List Access) :=
  if r == 7 && s.rowsOf core 7 then none
  else
    let l := (s.teams.filter fun x => carrier x.1 core == r).flatMap fun x => x.2.ops.filterMap fun o =>
      let here := o.accs.filter fun a => (a.key.map fun k => k / 2 ^ 19 == core).getD false && s.remoteReady x.1 x.2 o a
      match here with
      | [] => none
      | a :: _ => some (x.1, x.2, o, here.filter fun y => y.lane / 32 == a.lane / 32)
    l.foldl (fun (b : Option (Nat × Team × MemOp × List Access)) x => match b with
      | none => some x
      | some y => if x.2.2.1.id < y.2.2.1.id then some x else b) none

/-- The bank of a bench-remote access. -/
def Access.bank (a : Access) : Nat := bankOf (a.key.getD 0)

/-- What a bank serves of it in one clock: the accesses of one row, or one lane of an atomic (R257). -/
def State.remoteNext (s : State) (core bank r : Nat) : Option (Nat × Team × MemOp × List Access) :=
  match s.carried core r with
  | none => none
  | some (z, t, o, l) =>
    match l.filter fun a => a.bank == bank with
    | [] => none
    | a :: rest => some (z, t, o, match o.kind with
      | .atomic _ => [a]
      | _ => (a :: rest).filter fun y => (y.key.getD 0) / 16 == (a.key.getD 0) / 16)

/-- Performs one bench-remote access at its bank. -/
def State.performRemote (s : State) (z : Nat) (t : Team) (o : MemOp) (a : Access) : State :=
  match a.key with
  | none => s
  | some k =>
    let seen (acc : Nat) : Watched := ⟨k / 2 ^ 19, true, 7, acc, t.asid, k % 2 ^ 19, a.size, k, some z, o.soa, o.tcyc, [],
      o.accs.filterMap fun x => match x.key with
        | some j => if decide (x.lane < a.lane) && j / 2 ^ 19 == k / 2 ^ 19 then some (j % 2 ^ 19, x.size) else none
        | none => none⟩
    let got (s : State) (v : BitVec 128) (p : Bool) : State :=
      s.updTeam z fun t => t.updOp o.id fun o => { o with got := o.got ++ [⟨a.lane, v, p⟩] }
    match o.kind with
    | .atomic f =>
      let w : Lane := leWord 32 (s.readSpad k 4)
      let wp := s.spadPoisoned k 4
      let s1 := (s.writeSpad k (leBytes 4 (AtomFn.apply f w (a.v.setWidth 32) a.c)) (AtomFn.poison f wp a.p)).watchOp s z o.id
        (seen 2)
      got ((s1.signAtomic t.asid a.va w).countTeam z 0x12 1) (w.setWidth 128) wp
    | .store => (s.writeSpad k (leBytes a.size a.v) a.p).watchOp s z o.id (seen 1)
    | _ => got (s.watchOp s z o.id (seen 0)) (leWord 128 (s.readSpad k a.size)) (s.spadPoisoned k a.size)

/-- Performs remote accesses and forgets them as outstanding. -/
def State.serveRemote (s : State) (z : Nat) (t : Team) (o : MemOp) (l : List Access) : State :=
  let s := l.foldl (fun s a => s.performRemote z t o a) s
  s.updTeam z fun t => t.updOp o.id fun o => { o with accs := o.accs.filter fun a => !l.contains a }

/-- Requesters with a request pending at a bank. -/
def State.pendingAt (s : State) (core bank : Nat) (c : CoreSt) : List Nat :=
  let l := ((c.breq.filter fun x => x.1 == bank).map fun x => x.2.1).eraseDups
  l ++ [0, 1, 2, 3, 7].filter fun r => !l.contains r && (s.remoteNext core bank r).isSome

/-- A team of a core is to stop: its partitions' slot accesses go first (R327). -/
def State.stopPending (s : State) (core req : Nat) : Bool :=
  decide (req < 4) && s.teams.any fun x => partOf x.1 == 4 * core + req && x.2.stopReq && !x.2.halted

/-- The requester a bank chooses of those pending (R258, R327). -/
def State.bankChoice (s : State) (core bank : Nat) (c : CoreSt) (l : List Nat) : Option Nat :=
  let low (p : Nat → Bool) : Option Nat := (l.filter p).foldl (fun (a : Option Nat) x => some ((a.map (min x)).getD x)) none
  let order := c.bank.getD bank []
  match low (s.stopPending core) with
  | some r => some r
  | none =>
    match low fun r => decide (4 ≤ (c.deny.get (8 * bank + r)).toNat) with
    | some r => some r
    | none =>
      if l.contains 5 then some 5
      else if l.contains 6 then some 6
      else
        match low fun r => !order.contains r with
        | some r => some r
        | none => order.reverse.find? fun r => l.contains r

/-- A slot access is served in all its banks of a clock, or in none (R258): the banks it still waits for choose it too. -/
def State.wholeAt (s : State) (core bank : Nat) (c : CoreSt) (r : Nat) : Bool :=
  let mine := (c.breq.filter fun x => x.2.1 == r).map fun x => x.1
  let banks := if mine.isEmpty then ((s.carried core r).map fun x => x.2.2.2.map Access.bank).getD [] else mine
  !decide (r < 4) || (banks.filter fun x => x != bank).all fun x =>
    if c.bankAt.get x == BitVec.ofNat 64 (s.clock + 1) then (c.bank.getD x []).head? == some r
    else s.bankChoice core x c (s.pendingAt core x c) == some r

/-- One clock's service of a requester's rows at a bank: a matrix reader takes two rows (R257). -/
def takeRows (l : List (Nat × Nat × Nat)) (bank r : Nat) : List (Nat × Nat × Nat) :=
  match l with
  | [] => []
  | x :: rest =>
    if x.1 == bank && x.2.1 == r then
      let k := if r == 5 || r == 6 then 2 else 1
      if x.2.2 ≤ k then rest else (x.1, x.2.1, x.2.2 - k) :: rest
    else x :: takeRows rest bank r

/-- BANK_ARBITRATION (R258, R259): one clock of a bank. The chosen requester is served; each other pending one loses a clock there, and
a clock in which a reader is denied lengthens the running command by one. -/
def execBankArbitration (core bank : Nat) (s : State) : Host.Outcome State Fault Refusal :=
  .next (match s.cores.get? core with
    | none => s
    | some c =>
      let l := s.pendingAt core bank c
      if l.isEmpty || c.bankAt.get bank == BitVec.ofNat 64 (s.clock + 1) then s
      else
        let won := (s.bankChoice core bank c l).filter fun r => s.wholeAt core bank c r
        let lost := l.filter fun r => some r != won
        let deny := lost.foldl (fun (m : SMap 8) r => m.set (8 * bank + r) (BitVec.ofNat 8 (min ((m.get (8 * bank + r)).toNat + 1) 100))) c.deny
        let remote := c.breq.all fun x => !(x.1 == bank && some x.2.1 == won)
        let work := won.bind fun r => s.remoteNext core bank r
        let s := s.updCore core fun c => { c with
          bankAt := c.bankAt.set bank (BitVec.ofNat 64 (s.clock + 1)),
          deny := (won.map fun r => deny.set (8 * bank + r) 0).getD deny,
          bank := (won.map fun r => c.bank.put bank (r :: (c.bank.getD bank []).filter fun x => x != r)).getD
            c.bank,
          breq := (won.map fun r => takeRows c.breq bank r).getD c.breq }
        let s := lost.foldl (fun s r => s.loseTime core r bank 1) s
        let s := if lost.any (fun r => r == 5 || r == 6) && s.turn (turnDeny core) == 0 then
            (s.updCore core fun c => { c with mq := c.mq.map fun m => { m with due := m.due.map (· + 1) } }).takeTurn (turnDeny core) 1
          else s
        match if remote then work else none with
        | none => s
        | some (z, t, o, l) => s.serveRemote z t o l)

/-! ## Replies and completions (R183, R185, R238, R264) -/

/-- Releases miss-status entries an operation holds: they are free from the next clock (R264). -/
def State.releaseMse (s : State) (z id : Nat) : State :=
  match (s.teams.get? z).bind fun t => t.ops.find? fun o => o.id == id with
  | none => s
  | some o =>
    (s.updTeam z fun t => t.updOp id fun o => { o with mse := 0 }).updCore (coreOf z) fun c => { c with missDue := c.missDue + o.mse }

/-- MISS_STATUS_RELEASE (R264): released entries become free. -/
def execMissStatusRelease (core n : Nat) (s : State) : Host.Outcome State Fault Refusal :=
  .next (s.updCore core fun c => { c with missDue := c.missDue - n })

/-- The data of a write's packet: the sectors its accesses touch, with the bytes they write. -/
def farImage (l : List Access) : List Byte :=
  let m := sectorMask l
  ((List.range 256).filter fun i => m.getLsbD (i / 64)).map fun i =>
    match l.reverse.find? fun a => decide (a.va % 256 ≤ i) && decide (i < a.va % 256 + a.size) with
    | some a => (a.v >>> (8 * (i - a.va % 256))).setWidth 8
    | none => 0

/-- The bits of a line's bytes, or 4-byte words, that accesses cover. -/
def coverMask (w unit : Nat) (l : List Access) : BitVec w :=
  l.foldl (fun m a => m ||| ((BitVec.allOnes w >>> (w - (a.size + unit - 1) / unit)) <<< (a.va % 256 / unit))) 0

/-- One request to another device: the accesses of an operation in a line of it (R350, R354). -/
def State.farRequest (s : State) (z : Nat) (t : Team) (o : MemOp) (d line : Nat) (l : List Access) : State :=
  let acc := match o.kind with
    | .store => 1
    | .atomic _ => 2
    | _ => 0
  let s := l.foldl (fun s a => s.watchFar z o.id (watchedMem z t o acc a a.va)) s
  let bad := l.filter Access.p
  let head (k : FabKind) : FabHead := { s.newHead k (BitVec.ofNat 16 d) (256 * line) with set := s.setOf t }
  match o.kind with
  | .store =>
    s.sendAsk { head .write with sectors := sectorMask l, bytes := coverMask 256 1 l, poison := coverMask 64 4 bad } (farImage l)
      (lineHash (256 * line)) (some z) o.id l
  | .atomic f =>
    s.sendAsk { head (.atomic f) with
        lanes := l.map fun a => a.va % 256 / 4,
        poison := BitVec.ofNat 64 (((List.range l.length).zip l).foldl (fun n y => if y.2.p then n + 2 ^ y.1 else n) 0) }
      (l.flatMap fun a => leBytes 4 a.v ++ leBytes 4 a.c) (lineHash (256 * line)) (some z) o.id l
  | _ => s.sendAsk { head .read with sectors := sectorMask l } [] (lineHash (256 * line)) (some z) o.id l

/-- Accesses to another device's memory that are ready are asked for, a line at a time; the answers end them (R354, R356). -/
def State.performFar (s : State) (z id : Nat) : State :=
  match s.findOp id with
  | none => s
  | some (_, t, o) =>
    let far := o.accs.filterMap fun a => match a.place with
      | .remote d va =>
        if o.issued && t.predsDone o.preds o.scp && s.placeFree z o.id t a.place a.size
            && !(s.far.asked.any fun r => r.op == id && r.accs.contains a) then some (d, va / 256, a) else none
      | _ => none
    (far.map fun x => (x.1, x.2.1)).eraseDups.foldl (fun s k =>
      s.farRequest z t o k.1 k.2 ((far.filter fun x => x.1 == k.1 && x.2.1 == k.2).map fun x => x.2.2)) s

/-- Lines of a load whose sectors are all valid in L1 are served from it (R261). -/
def State.performHits (s : State) (z id : Nat) : State :=
  match s.findOp id with
  | none => s
  | some (_, _, o0) =>
    if o0.kind != .load then s
    else
      o0.lines.foldl (fun s line =>
        match s.findOp id with
        | none => s
        | some (_, t, o) =>
          let hit := (o.inLine line).all fun a => match a.mem with
            | some (pa, _, nc) => !nc && isHbm pa && s.l1Hit (coreOf z) pa
            | none => true
          if hit && s.lineReady z t o line && !s.recalled id line && (s.ownersFor z id line).isEmpty then s.serveLine z t o line true else s)
        s

/-- mu.tget's request is served, those of a clock in ascending order (R210, R312): the record goes to the block through the remote port, the status lands. -/
def State.performTget (s : State) (z : Nat) (t : Team) (o : MemOp) : State :=
  match o.accs with
  | [] => s
  | a :: _ =>
    if !(o.issued && t.predsDone o.preds o.scp && s.placeFree z o.id t a.place a.size && s.mayAct turnTask (partOf z)) then s
    else
      let x := (s.takeTurn turnTask (partOf z)).taskTake t.launch (coreOf z)
      let k := a.key.getD 0
      let s := match x.2.2 with
        | none => x.1
        | some (rec, p) =>
          ((x.1.writeSpad k rec p).watchOp x.1 z o.id ⟨k / 2 ^ 19, true, 7, 1, t.asid, k % 2 ^ 19, 64, k, some z, o.soa, o.tcyc, [], []⟩).postRows
            (coreOf z) 7 (bankRows ((List.range 4).map fun j => k + 16 * j) [])
      s.updTeam z fun t => { t.updOp o.id fun o => { o with accs := [], got := [⟨0, BitVec.ofNat 128 x.2.1, false⟩] } with
        activeTasks := if x.2.1 = 1 then 1 else 0 }

/-- LOAD_REPLY (R185, R273): what needs no port is performed, and when the operation's last value is fixed and has reached the core its
landing gets its data. -/
def execLoadReply (id : Nat) (s : State) : Host.Outcome State Fault Refusal :=
  .next (match s.findOp id with
    | none => s
    | some (z, t, o) =>
      if o.arrived || o.done then s
      else
        let s := if o.kind == .tget then s.performTget z t o else (s.performFar z id).performHits z id
        match s.findOp id with
        | none => s
        | some (_, _, o) =>
          if o.issued && o.accs.isEmpty && !o.got.isEmpty && decide (o.readyAt ≤ s.clock) then
            let s := s.reply z id o.got
            let s := if o.kind == .load then s.releaseMse z id else s
            s.updTeam z fun t => t.updOp id fun o => { o with arrived := true }
          else s)

/-- Some message of an operation is still on its way or parked, or its fate on another device is not known (R340). -/
def State.messageOut (s : State) (z id : Nat) : Bool :=
  let hit (m : Msg) : Bool := m.op == some (z, id)
  s.msgs.any hit || s.parks.any (fun x => hit x.2) || (s.forks.any fun f => hit f.msg) || s.far.asked.any fun r => r.op == id && r.z == some z

/-- An operation of a team may complete at its scope (R183). -/
def State.mayComplete (s : State) (z : Nat) (t : Team) (o : MemOp) : Bool :=
  o.issued && !o.done && match o.kind with
    | .load => o.arrived
    | .store => o.accs.isEmpty && decide (o.readyAt ≤ s.clock)
    | .atomic _ => o.arrived
    | .prefetch => t.predsDone o.preds o.scp
    | .msend => t.predsDone o.preds o.scp && !s.messageOut z o.id
    | .mpost => t.predsDone o.preds o.scp
    | .tget => o.arrived
    | .slotAccess => false
    | .copy => false
    | .matrix => false
    | .cpost => false

/-- OPERATION_COMPLETION (R183, R238): an operation completes at its scope, and D counts it in issue order; a completed one whose
writes some agents do not read yet is performed device-wide. -/
def execOperationCompletion (id : Nat) (s : State) : Host.Outcome State Fault Refusal :=
  .next (match s.findOp id with
    | none => s
    | some (z, t, o) =>
      if o.done then
        if decide (4 ≤ o.perf) then s
        else (s.performViews (coreOf z) id 4).updTeam z fun t => t.complete id 4
      else
        let s := if o.kind == .store && o.issued then s.performFar z id else s
        match s.findOp id with
        | none => s
        | some (_, _, o) =>
          if !s.mayComplete z t o then s
          else
            let s := if o.kind == .mpost then s.enterReceive z id else s
            let width := s.doneWidth id o.scp
            ((s.performViews (coreOf z) id width).releaseMse z id).updTeam z fun t => t.complete id width)

/-- TRANSLATION_WALK (R283, R284): a walk for a team's address space completes. Its faults are taken where the access issues. -/
def execTranslationWalk (core : Nat) (asid : BitVec 16) (va : BitVec 64) (acc : AccKind) (s : State) :
    Host.Outcome State Fault Refusal :=
  .next (match s.teams.find? fun x => coreOf x.1 == core && x.2.asid == asid with
    | none => s
    | some (_, t) =>
      if 2 ^ 57 ≤ va.toNat then s
      else
        match s.walk (core / 128) asid va.toNat 4 t.root with
        | .error _ => s
        | .ok w => if (w.e.allow acc).isNone then s.useXlat core w else s)

/-! ## Fusion (R263) -/

/-- A load of a core of the bench holds miss-status entries. -/
def State.benchLoads (s : State) (bench : Nat) : Bool :=
  s.teams.any fun x => coreOf x.1 / 8 == bench && x.2.ops.any fun o => o.kind == .load && decide (0 < o.mse)

/-- FUSION_CHANGE (R263): once the bench's loads hold no entry, its eight L1s are invalidated and the new state takes effect. -/
def execFusionChange (bench : Nat) (s : State) : Host.Outcome State Fault Refusal :=
  .next (match s.fusing.get? bench with
    | none => s
    | some on =>
      if s.benchLoads bench then s
      else
        { s with
          fusing := s.fusing.del bench,
          fused := if on then bench :: s.fused.filter fun b => b != bench else s.fused.filter fun b => b != bench,
          cores := s.cores.map fun x => if x.1 / 8 = bench then (x.1, { x.2 with l1 := [] }) else x })

/-! ## The address-range table (R267, R268) -/

/-- Offset of ARTCTL; bits 37:32 of its stored word hold the entry a running commit installs. -/
def artctlOff : Nat := memBase + 0x20400

/-- A staged entry may be committed (R268). -/
def artValid (lo hi : Word) : Bool :=
  let h := hi.toNat
  lo &&& 0xFFF00000001FFFFE#64 == 0 && h / 2 ^ 28 == 0 && (!lo.getLsbD 0
    || (decide (21 ≤ h % 64) && decide (h % 64 ≤ 40) && h / 2 ^ 16 % 128 != 0 && decide (8 ≤ h / 2 ^ 23 % 32)
        && decide (h / 2 ^ 23 % 32 ≤ 21)))

/-- A write of ARTCTL. -/
def State.artctlWrite (s : State) (v : Word) : State :=
  let s := s.putReg artctlOff 0 6 v.toNat
  let s := if v.getLsbD 10 then s.putReg artctlOff 10 1 0 else s
  if !v.getLsbD 8 then s
  else
    let i := v.toNat % 64
    if (s.reg artctlOff).getLsbD 9 || !artValid (s.reg (memBase + 0x20000 + 16 * i)) (s.reg (memBase + 0x20008 + 16 * i)) then
      s.putReg artctlOff 10 1 1
    else ((s.putReg artctlOff 9 1 1).putReg artctlOff 10 1 0).putReg artctlOff 32 6 i

/-- ARTCTL_GO (R268). -/
def execArtctlGo (value : Word) (s : State) : Host.Outcome State Fault Refusal := .next (s.artctlWrite value)

/-- ART_COMMIT_COMPLETE (R268): the copies of lines of both ranges are invalidated and the entry is installed. -/
def execArtCommitComplete (s : State) : Host.Outcome State Fault Refusal :=
  .next (if !(s.reg artctlOff).getLsbD 9 then s
    else
      let i := s.regBits artctlOff 32 6
      let lo := s.reg (memBase + 0x20000 + 16 * i)
      let hi := s.reg (memBase + 0x20008 + 16 * i)
      let hit (line : Nat) : Bool :=
        artCovers (s.artNow.get (16 * i)) (s.artNow.get (16 * i + 8)) (256 * line) || artCovers lo hi (256 * line)
      { s.putReg artctlOff 9 1 0 with
        artNow := (s.artNow.set (16 * i) lo).set (16 * i + 8) hi,
        cores := s.cores.map fun x => (x.1, { x.2 with l1 := x.2.l1.filter fun y => !hit y.1 }),
        l2 := s.l2.map fun x => (x.1, x.2.filter fun y => !hit y.line) })

/-! ## Way-masks (R269, R270) -/

/-- Offset of a slice's WMASK. -/
def wmaskOff (slice : Nat) : Nat := memBase + 0x10000 + 8 * slice

/-- Bits set in a mask. -/
def bitList (n m : Nat) : List Nat := (List.range n).filter fun i => m.testBit i

/-- A write of WMASK. -/
def State.wmaskWrite (s : State) (slice : Nat) (v : Word) : State :=
  let off := wmaskOff slice
  let old := s.reg off
  let s := if v.getLsbD 33 then s.putReg off 33 1 0 else s
  if old.getLsbD 32 || decide ((bitList 16 (v.toNat % 2 ^ 16)).length < 2) then s.putReg off 33 1 1
  else
    let x := (old.toNat % 2 ^ 16) ^^^ (v.toNat % 2 ^ 16)
    let s := (((s.putReg off 0 16 v.toNat).putReg off 16 16 x).putReg off 32 1 (if x = 0 then 0 else 1)).putReg off 33 1 0
    { s with wayNow := s.wayNow.set slice (s.wayNow.get slice &&& ~~~(BitVec.ofNat 16 x)),
             holds := s.holds ++ (bitList 16 x).map fun w => 16 * slice + w }

/-- WMASK_WRITE (R269, R270). -/
def execWmaskWrite (slice : Nat) (value : Word) (s : State) : Host.Outcome State Fault Refusal := .next (s.wmaskWrite slice value)

/-- An access to a slice-scratch way has not been made yet. -/
def State.wayInUse (s : State) (slice way : Nat) : Bool :=
  let base := 2 ^ 51 + 2 ^ 21 * slice + 2 ^ 17 * way
  s.teams.any fun x => x.2.ops.any fun o => o.accs.any fun a =>
    (a.mem.map fun m => decide (base ≤ m.1) && decide (m.1 < base + 2 ^ 17)).getD false

/-- Takes the L1 copies of lines away. -/
def State.dropLines (s : State) (lines : List Nat) : State :=
  { s with cores := s.cores.map fun x : Nat × CoreSt => (x.1, { x.2 with l1 := x.2.l1.filter fun y => !lines.contains y.1 }) }

/-- Zeroes the bytes of a way and their poison, from its slice-scratch address. -/
def State.zeroWay (s : State) (base : Nat) : State :=
  let out (k g : Nat) : Bool := !(decide (base / g ≤ k) && decide (k < (base + 2 ^ 17) / g))
  { s with mem := s.mem.keep fun k => out k 1, memP := s.memP.keep fun k => out k 8 }

/-- WAY_CONVERSION_COMPLETE (R270). -/
def execWayConversionComplete (slice way : Nat) (s : State) : Host.Outcome State Fault Refusal :=
  .next (let off := wmaskOff slice
    if !(s.reg off).getLsbD (16 + way) || decide (16 ≤ way) || s.wayInUse slice way then s
    else
      let scratch := !(s.reg off).getLsbD way
      let lines := ((s.l2.getD slice []).filter fun x => x.way == way).map L2Line.line
      let s := s.zeroWay (2 ^ 51 + 2 ^ 21 * slice + 2 ^ 17 * way)
      let s := if scratch then s.dropLines lines else s
      let s := { s with
        holds := s.holds.filter fun h => h != 16 * slice + way,
        wayNow := if scratch then s.wayNow.set slice (s.wayNow.get slice ||| (1#16 <<< way)) else s.wayNow,
        l2 := s.l2.upd slice fun l => l.filter fun x => x.way != way }
      let s3 : State := s.putReg off (16 + way) 1 0
      if s3.regBits off 16 16 = 0 then s3.putReg off 32 1 0 else s3)

/-! ## Invalidating translations (R285, R355) -/

/-- Offset of INVCTL; INVVA is 8 below it. Bits 63:32 of its stored word hold the ASID, NLOG, ALLVA and ALLAS of the running
invalidation, and the 8 bytes after it the page. -/
def invctlOff : Nat := memBase + 0x30008

/-- Where the running invalidation's first page is kept (not a register of R406). -/
def invRunOff : Nat := 0x8000000

/-- A write of INVCTL (R285): ERR stays as it was under a GO that is accepted (R12). -/
def State.invctlWrite (s : State) (v : Word) : State :=
  let s := s.putReg invctlOff 0 24 v.toNat
  let s := if v.getLsbD 26 then s.putReg invctlOff 26 1 0 else s
  if !v.getLsbD 24 then s
  else if (s.reg invctlOff).getLsbD 25 || decide (45 < v.toNat / 2 ^ 16 % 64) then s.putReg invctlOff 26 1 1
  else
    ((s.putReg invctlOff 25 1 1).putReg invctlOff 32 24 v.toNat).setReg invRunOff
      (BitVec.ofNat 64 (s.regBits (memBase + 0x30000) 12 45))

/-- INVCTL_GO (R285). -/
def execInvctlGo (value : Word) (s : State) : Host.Outcome State Fault Refusal := .next (s.invctlWrite value)

/-- The running invalidation names an address space. -/
def State.invAsid (s : State) (asid : BitVec 16) : Bool :=
  (s.reg invctlOff).getLsbD 55 || s.regBits invctlOff 32 16 == asid.toNat

/-- The running invalidation names one of n pages of an address space it names. -/
def State.invPages (s : State) (vpn n : Nat) : Bool :=
  let w := s.reg invctlOff
  let p := (s.reg invRunOff).toNat
  w.getLsbD 54 || w.getLsbD 55 || (decide (vpn < p + 2 ^ s.regBits invctlOff 48 6) && decide (p < vpn + n))

/-- The address space of a fabric set's entry. -/
def State.setAsid (s : State) (set : BitVec 16) : Option (BitVec 16) :=
  (((List.range 64).map fun i => fabBase + 0x2000 + 32 * i).find? fun off =>
    (s.reg off).getLsbD 0 && s.regBits off 16 16 == set.toNat).map fun off => BitVec.ofNat 16 (s.regBits off 32 16)

/-- An access of the word in progress has been checked through a translation and is not handed over yet. -/
def Ctx.heldXlat (c : Ctx) : Bool := c.checked && c.ops.any fun o => o.st != .done && o.places.any fun x => match x.2 with
  | .mem _ _ _ => true
  | .spad _ => false
  | .remote _ _ => false

/-- Something that may have used a named entry is still under way: an access checked or issued and not performed at dev scope, a running
copy or command, a pinned translation. -/
def State.invBusy (s : State) : Bool :=
  let far (o : MemOp) : Bool := match o.kind with
    | .load => true
    | .store => true
    | .atomic _ => true
    | _ => false
  s.teams.any (fun x => s.invAsid x.2.asid && ((x.2.ctx.map Ctx.heldXlat).getD false
      || x.2.ops.any fun o => (o.issued || !o.accs.isEmpty) && far o && decide (o.perf < 3)))
    || s.copies.any (fun c => c.st == .running && ((s.teams.get? c.z).map fun t => s.invAsid t.asid).getD false &&
      (let p := c.prog'
       let hit (x : Int × Int) : Bool := s.invPages (gaddr x.1 / 4096) (gaddr (x.2 - x.1) / 4096 + 2)
       (p.dstGlobal && hit p.dstSpan) || (p.srcGlobal && match p.srcSpan with
         | some x => hit x
         | none => false)))
    || s.pins.any fun x => ((s.setAsid x.set).map s.invAsid).getD false && s.invPages (x.line / 16) 1

/-- INVALIDATION_COMPLETE (R285): no TLB holds an entry for a named page, and no walker one for a table on a path to it. -/
def execInvalidationComplete (s : State) : Host.Outcome State Fault Refusal :=
  .next (if !(s.reg invctlOff).getLsbD 25 || s.invBusy then s
    else
      { s.putReg invctlOff 25 1 0 with
        cores := s.cores.map fun x => (x.1, { x.2 with tlb := x.2.tlb.filter fun e =>
          !(s.invAsid e.asid && s.invPages e.vpn e.pages) }),
        walkers := s.walkers.map fun x => (x.1, x.2.filter fun e =>
          !(s.invAsid e.asid && s.invPages (e.va * 2 ^ (9 * e.k)) (2 ^ (9 * e.k)))) })

/-! ## Dirty-page filters (R287) -/

/-- Offset of DTCTL. -/
def dtctlOff : Nat := memBase + 0x40400

/-- DTCTL_GO (R287). -/
def execDtctlGo (s : State) : Host.Outcome State Fault Refusal := .next (s.putReg dtctlOff 1 1 1)

/-- FILTER_EMPTIED (R287). -/
def execFilterEmptied (s : State) : Host.Outcome State Fault Refusal :=
  .next (if !(s.reg dtctlOff).getLsbD 1 then s else { s.putReg dtctlOff 1 1 0 with dfilter := [] })

/-! ## Scrub reads (R288 to R290, R325, R419) -/

/-- Leaf and SERR structure of a granule (R419). -/
def State.scrubWhere (s : State) (store : Store) (addr : Nat) : Nat × Nat :=
  match store with
  | .mem =>
    let slice := s.homeSlice addr
    if isScratch addr || (s.l2.getD slice []).any fun x => x.line == addr / 256 && x.valid.testBit (addr / 64 % 4) then (slice / 32, 4)
    else (addr / 2 ^ 38 % 4, 5)
  | .spad => (addr / 2 ^ 26 % 4, 1)
  | .acc => (addr / 2 ^ 22 % 4, 2)
  | .reg z _ => (leafOf z % 4, 0)
  | .l1 core => (core / 128 % 4, 3)
  | .table part => (part / 512 % 4, 6)
  | .tlb core => (core / 128 % 4, 7)

/-- A granule of a core that no resident block holds (R321). -/
def State.unowned (s : State) (store : Store) (addr : Nat) : Bool :=
  match store with
  | .mem => false
  | .spad => (s.ownerOf addr).isNone
  | .acc => !s.blocks.any fun x => x.2.core == addr / 32768 && x.2.accs.contains (addr / 4096 % 8)
  | .reg z _ => (s.teams.get? z).isNone
  | .l1 _ => false
  | .table _ => false
  | .tlb _ => false

/-- A register element poisoned: its value stands (R288). -/
def Team.poisonElem (t : Team) (file : RFile) (n : Nat) : Team :=
  match file with
  | .s => { t with sP := t.sP.set n 1 }
  | .a => { t with aP := t.aP.set n 1 }
  | .f => { t with fP := t.fP.set n 1 }
  | .va => { t with vaP := t.vaP.set n 1 }
  | .vb => { t with vbP := t.vbP.set n 1 }
  | .vm => { t with vmP := t.vmP.set n 1 }

/-- What an uncorrectable error does to its granule (R288): it is poisoned; a sector of the L1 is dropped, to be filled again. -/
def State.spoil (s : State) (store : Store) (addr : Nat) : State :=
  match store with
  | .mem => { s with memP := s.memP.set (addr / 8) 1 }
  | .spad => { s with spadP := s.spadP.set (addr / 4) 1 }
  | .acc => { s with accP := s.accP.set addr 1 }
  | .reg z file => s.updTeam z fun t => t.poisonElem file addr
  | .l1 core => s.updCore core fun c => { c with l1 := dropSectors c.l1 (addr / 64 * 64) 64 }
  | .table _ => s
  | .tlb _ => s

/-- An entry whose parity fails (R75, R288): a decode-table entry is found out at its next lookup, a translation is dropped. -/
def State.parityError (s : State) (store : Store) (addr : Nat) : Option State :=
  match store with
  | .table part => some (s.updPart part fun p => { p with table := p.table.upd addr fun e => { e with bad := true } })
  | .tlb core => some ((s.updCore core fun c => { c with tlb := c.tlb.filter fun e => !(decide (e.vpn ≤ addr) && decide (addr < e.vpn + e.pages)) }).countSoft
      (s.scrubWhere store addr).1 7 true)
  | _ => none

/-- SCRUB_READ (R290): a correctable error is corrected and counted, an uncorrectable one spoils its granule and is counted; poison
that no team can consume is context event 9. Errors that strike stored data between two reads stand in this step too (R288). -/
def execScrubRead (store : Store) (addr : Nat) (err : SoftErr) (s : State) : Host.Outcome State Fault Refusal :=
  .next (let x := s.scrubWhere store addr
    match err with
    | .none => s
    | .corrected => (s.parityError store addr).getD (s.countSoft x.1 x.2 true)
    | .uncorrectable =>
      (s.parityError store addr).getD
        (let s2 := (s.spoil store addr).countSoft x.1 x.2 false
         if s.unowned store addr then { s2 with cxq := s2.cxq ++ [⟨9, 0, 0, 0, 0, 0⟩] } else s2))

end Sys2Proof.Machine
end

