-- ==== Sys2Proof/Machine/Messages.lean ====
section
/-!
DEFINITION. Messages on their way to a block (R205 to R207, R339 to R347).
-/
namespace Sys2Proof.Machine

/-! ## Arrival at a core (R207) -/

/-- The block a message names (MW.BLK). -/
def Msg.lin (m : Msg) : Nat := (m.dest.extractLsb' 16 32).toNat

/-- A message reaches a resident block's message unit (R207): the oldest receive it matches takes it, else the overflow queue, else it
is discarded and charged. -/
def State.arrive (s : State) (b : Block) (m : Msg) : State :=
  let charge (s : State) (z : Nat) (bad : Bool) : State :=
    s.updTeam z fun t => if t.ended then t else t.overflow bad
  match b.teams[(m.dest.extractLsb' 12 4).toNat]? with
  | none => match b.teams with
    | [] => s
    | z :: _ => charge s z true
  | some z =>
    match s.teams.get? z with
    | none => s
    | some t =>
      match t.recv.find? fun r => r.takes m with
      | some r => (s.updTeam z fun t => { t with recv := t.recv.filter fun x => x.op != r.op }).writeReceive z r m
      | none =>
        let full := ((s.cores.get? b.core).map fun c => decide (64 ≤ c.overflow.length)).getD true
        if full then charge s z false
        else (s.updCore b.core fun c => { c with overflow := c.overflow ++ [m] }).count b.core 0x11 0 false 1

/-! ## Fates (R340, R341, R344) -/

/-- Counts a discarded message in a field of MSGDROP. -/
def State.msgDrop (s : State) (field : Nat) : State := s.satReg fabBase (16 * field) 16 1

/-- Where a block of a launch is resident and still accepts messages. -/
def State.resident (s : State) (n lin : Nat) : Option (Nat × Block) :=
  s.blocks.find? fun x => x.2.launch == n && x.2.lin == lin && !x.2.settled

/-- Parks a message at its leaf, or discards it (R341). -/
def State.park (s : State) (m : Msg) : State :=
  let leaf := m.lin % 4
  if 1024 ≤ (s.parks.filter fun x => x.1 == leaf).length then s.msgDrop 2
  else { s with parks := s.parks ++ [(leaf, { m with op := none, far := none })] }

/-- The fate of a message at this device (R340). -/
def State.fate (s : State) (m : Msg) : State :=
  match s.launches.get? m.launch with
  | none => s.msgDrop 1
  | some l =>
    match s.resident m.launch m.lin with
    | some (_, b) => s.arrive b m
    | none => if l.ended.any fun x => x.1 == m.lin then s.msgDrop 0 else s.park m

/-- Delivers the parked messages of a block that has become resident, in arrival order (R341). -/
def State.deliverParked (s : State) (n lin : Nat) : State :=
  let mine := s.parks.filter fun x => x.2.launch == n && x.2.lin == lin
  let s := { s with parks := s.parks.filter fun x => !(x.2.launch == n && x.2.lin == lin) }
  mine.foldl (fun s x => s.fate x.2) s

/-! ## Multicast (R345 to R347) -/

/-- The members of a group that a launch has, for a sender's address space; none when the group does not serve it. -/
def State.members (s : State) (m : Msg) : Option (List Nat) :=
  match s.launches.get? m.launch with
  | none => none
  | some l =>
    let g := m.lin
    let off := fabBase + 0x1000 + 16 * g
    if 256 ≤ g || !(s.reg off).getLsbD 0 || s.regBits off 16 16 != l.asid.toNat then none
    else
      let blk0 := s.regBits off 32 32
      let str := s.regBits (off + 8) 32 32
      some (((List.range (s.regBits (off + 8) 0 16 + 1)).map fun i => (blk0 + i * str) % 2 ^ 32).filter fun b => decide (b < l.blocks))

/-- The output of a router toward a member: 68 + core, another router, or a leaf router itself for its park entries. -/
def State.outputTo (s : State) (router n lin : Nat) : Nat :=
  match s.resident n lin with
  | some (_, b) =>
    if router < 64 then (if b.core / 8 = router then 68 + b.core else 64 + router / 16)
    else if b.core / 128 = router - 64 then b.core / 8 else 64 + b.core / 128
  | none => if router < 64 then 64 + router / 16 else 64 + lin % 4

/-- Branches of a router for members: each output with the members behind it. -/
def State.branches (s : State) (router : Nat) (m : Msg) (mem : List Nat) : List (Nat × List Nat) :=
  ((mem.map fun x => s.outputTo router m.launch x).eraseDups).map fun o =>
    (o, mem.filter fun x => s.outputTo router m.launch x == o)

/-- A copy of a multicast message for a member. -/
def Msg.copyFor (m : Msg) (lin : Nat) : Msg :=
  { m with mcast := false, op := none, far := none, dest := (m.dest &&& 0xFFFF00000000FFFF#64) ||| (BitVec.ofNat 64 lin <<< 16) }

/-- Gives each member behind a last output its copy. -/
def State.copies_ (s : State) (m : Msg) (mem : List Nat) : State := mem.foldl (fun s x => s.fate (m.copyFor x)) s

/-- A multicast packet reaches a router (R347): with one branch it goes on, with several it takes one of the router's 16 fork
entries; none when there is no free entry on its way. -/
def State.enterRouter (s : State) (m : Msg) : Nat → Nat → List Nat → Option State
  | 0, _, _ => none
  | k + 1, router, mem =>
    match s.branches router m mem with
    | [] => some s
    | [(o, l)] => if 68 ≤ o || o == router then some (s.copies_ m l) else s.enterRouter m k o l
    | l =>
      if 16 ≤ (s.forks.filter fun f => f.router == router).length then none
      else some { s with forks := s.forks ++ [⟨router, m, l⟩] }

/-- MULTICAST_FORK (R347): every branch with room takes the packet of entry k of a router; the entry is freed with its last. -/
def execMulticastFork (router k room : Nat) (s : State) : Host.Outcome State Fault Refusal :=
  .next (
    let mine := (List.range s.forks.length).filter fun i => ((s.forks[i]?).map fun f => f.router == router).getD false
    match mine[k]? with
    | none => s
    | some i =>
      match s.forks[i]? with
      | none => s
      | some f =>
        let r := ((List.range f.left.length).zip f.left).foldl (fun (a : State × List (Nat × List Nat)) x =>
          let (o, mem) := x.2
          if !room.testBit x.1 then (a.1, a.2 ++ [x.2])
          else if 68 ≤ o || o == router then (a.1.copies_ f.msg mem, a.2)
          else
            match a.1.enterRouter f.msg 5 o mem with
            | some s => (s, a.2)
            | none => (a.1, a.2 ++ [x.2])) (s, [])
        { r.1 with forks := ((List.range r.1.forks.length).zip r.1.forks).filterMap fun x =>
            if x.1 = i then (if r.2.isEmpty then none else some { f with left := r.2 }) else some x.2 })

/-! ## MESSAGE_DELIVERY (R340, R342) -/

/-- Two messages come from one team. -/
def Msg.sameSender (a b : Msg) : Bool :=
  a.launch == b.launch && a.srcDev == b.srcDev && a.srcBlk == b.srcBlk && a.srcTidx == b.srcTidx

/-- The members a multicast message has still to reach, and those an entry holds, are disjoint unless it names another device or team. -/
def State.apart (s : State) (m x : Msg) (mem : List Nat) : Bool :=
  !x.mcast || !x.sameSender m || x.dest.extractLsb' 48 16 != m.dest.extractLsb' 48 16 || x.dest.extractLsb' 12 4 != m.dest.extractLsb' 12 4
    || ((s.members m).getD []).all fun b => !mem.contains b

/-- A message may be delivered: its predecessors are performed (R240), and no earlier one of its sender is still on its way to the same
team: a unicast one for a unicast one (R342), a multicast one with a common member for a multicast one (R346). -/
def State.mayDeliver (s : State) (k : Nat) (m : Msg) : Bool :=
  (match m.op with
    | none => true
    | some (z, id) => match (s.teams.get? z).bind fun t => (t.ops.find? fun o => o.id == id).map fun o => (t, o) with
      | none => true
      | some (t, o) => t.predsDone o.preds o.scp)
    && if m.mcast then
        ((s.msgs.take k).all fun x => s.apart m x ((s.members x).getD [])) && s.forks.all fun f => s.apart m f.msg (f.left.flatMap Prod.snd)
      else !(s.msgs.take k).any fun x => !x.mcast && x.sameSender m && x.dest.extractLsb' 12 52 == m.dest.extractLsb' 12 52

/-- The node of another device a message of this one goes to. -/
def State.messageNode (s : State) (m : Msg) : Option Nat :=
  match s.launches.get? m.launch with
  | none => none
  | some l =>
    match s.launchFab l with
    | none => none
    | some off =>
      let d := (m.dest.extractLsb' 48 16).toNat
      if m.far.isSome || d = s.regBits (off + 8) 0 16 then none else some ((s.regBits (off + 8) 16 16 + d) % 2 ^ 16)

/-- The router a message starts at: its sender's bench, or leaf 0's for one from a link. -/
def Msg.source (m : Msg) : Nat :=
  match m.op with
  | some (z, _) => coreOf z / 8
  | none => 64

/-- Bits of a list, the first lowest. -/
def flagBits (w : Nat) (l : List Bool) : BitVec w := BitVec.ofNat w (l.foldr (fun b n => b.toNat + 2 * n) 0)

/-- A message leaves for another device as a packet of VC 2 (R350); its operation completes when its fate there is known (R340). -/
def State.sendMessage (s : State) (node : Nat) (m : Msg) : State :=
  let mh : MsgHead := ⟨m.dest, m.mcast, m.srcDev, m.srcBlk, m.srcTidx⟩
  let set := BitVec.ofNat 16 (((s.launches.get? m.launch).map fun l => l.bits 0x28 0 16).getD 0)
  let h : FabHead := { s.newHead .message (BitVec.ofNat 16 node) 0 with set := set, len := m.payload.length, poison := flagBits 64 m.poison }
  State.sendAsk { s with out := s.out ++ [.message node m] } h (leBytes 16 (Config.msgBits mh) ++ m.payload) (MsgHead.hash mh)
    (m.op.map Prod.fst) ((m.op.map Prod.snd).getD 0) []

/-- MESSAGE_DELIVERY (R340, R346): a message on its way reaches the device it names, and its fate is decided; a multicast one enters
the routers. -/
def execMessageDelivery (k : Nat) (s : State) : Host.Outcome State Fault Refusal :=
  .next (match s.msgs[k]? with
    | none => s
    | some m =>
      if !s.mayDeliver k m then s
      else
        let gone := { s with msgs := s.msgs.eraseIdx k }
        match s.messageNode m with
        | some node => gone.sendMessage node m
        | none =>
          if !m.mcast then gone.fate m
          else
            match s.members m with
            | none => gone.msgDrop 1
            | some mem => (gone.enterRouter m 5 m.source mem).getD s)

/-! ## What is owed to other devices (R340, R356) -/

/-- The writer of another device's write among the pending writes of NAP and REPL pages. -/
def linkOp (num : Nat) : Nat := 2 ^ 61 + num

/-- A message from another device has still to meet its fate: it, or a branch of it, is on its way. -/
def State.fateDue (s : State) (x : FarOwed) : Bool :=
  s.msgs.any (fun m => m.far == some (x.node, x.num)) || s.forks.any fun f => f.msg.far == some (x.node, x.num)

/-- An acknowledgement that is due goes out: a message's fate is decided, or a write, at a free time, is performed at sys scope. -/
def State.payOwed (s : State) (x : FarOwed) : State :=
  let s' := { s with fresh := s.fresh + 1 }
  if s.fateDue x || Config.freeChoice s.fresh % 2 = 0 then s'
  else
    let s' := s'.performViews noCore (linkOp x.num) 4
    State.sendNew { s' with far := { s'.far with owed := s'.far.owed.filter fun y => y != x } } { s'.newHead .ack x.node x.va with tag := x.num } []
      (lineHash x.va)

/-- A line that another device may hold has been written: its copy is invalidated over VC 3 (R356). -/
def State.invalidateFar (s : State) (x : DirEntry) : State :=
  if s.readMem (256 * x.line) 256 == x.data then s
  else
    State.sendNew { s with far := { s.far with dir := s.far.dir.filter fun y => y != x } } (s.newHead .invalidate x.node x.va) [] (lineHash x.va)

/-- The links' part of a clock: requests that no route serves end, then acknowledgements, invalidations, and the flits that go out. -/
def State.linkTick (s : State) : State :=
  let s := s.far.asked.foldl State.dropLost s
  let s := s.far.owed.foldl State.payOwed s
  let s := s.far.dir.foldl State.invalidateFar s
  (s.ports.map Prod.fst).foldl State.sendFlits s

end Sys2Proof.Machine
end

