-- ==== Sys2Proof/Machine/Placement.lean ====
section
/-!
DEFINITION. Resources of cores and partitions, fitting a block, and what a placed team and block hold (R20 to R27, R49 to R52, R292,
R304, R305, R308, R310).
-/
namespace Sys2Proof.Machine

/-! ## Free resources (R27, R304, R305) -/

/-- What a partition still has: free team slots, the runs of granules in use by file, its windows, and a drain hold. -/
structure PartRes where
  slots : List Nat
  va : List (Nat × Nat)
  vb : List (Nat × Nat)
  vm : List (Nat × Nat)
  wins : List (BitVec 16 × Word × Nat × Nat)
  hold : Bool
  deriving DecidableEq, Repr, Inhabited

/-- What a core still has: its tiles in use as runs, its free accumulators, its partitions. -/
structure CoreRes where
  tiles : List (Nat × Nat)
  accs : List Nat
  parts : List PartRes
  deriving DecidableEq, Repr, Inhabited

/-- Where a team goes: partition, slot, first granules by file, window base. -/
structure TeamFit where
  p : Nat
  slot : Nat
  ga : Nat
  gb : Nat
  gm : Nat
  wb : Nat
  deriving DecidableEq, Repr, Inhabited

/-- Where a block goes on a core. -/
structure CoreFit where
  tile0 : Nat
  accs : List Nat
  teams : List TeamFit
  deriving DecidableEq, Repr, Inhabited

/-- Granules of a file with a budget (R27). -/
def granules (w n : Nat) : Nat := (4 * w * n + 2047) / 2048

/-- A team still holds its per-lane registers: it has not ended, or its landing buffer has not drained (R149). -/
def Team.holdsRegs (t : Team) : Bool := !t.ended || t.land.any fun l => l.pend.isSome

/-- Resources of a partition. -/
def State.partRes (s : State) (part : Nat) : PartRes :=
  let ts := s.teams.filter fun x => partOf x.1 == part
  let run (g : Team → Nat) (n : Team → Nat) : List (Nat × Nat) :=
    (ts.filter fun x => x.2.holdsRegs).map fun x => (g x.2, granules x.2.width (n x.2))
  { slots := (List.range 16).filter fun j => !ts.any fun x => x.1 % 16 == j
    va := run (fun t => t.gran.1) Team.nva
    vb := run (fun t => t.gran.2.1) Team.nvb
    vm := run (fun t => t.gran.2.2) Team.nvm
    wins := ((s.parts.get? part).map fun p => p.windows.map fun w => (w.asid, w.dict, w.base, w.size)).getD []
    hold := ((s.parts.get? part).map fun p => p.hold.isSome).getD true }

/-- Resources of a core. -/
def State.coreRes (s : State) (core : Nat) : CoreRes :=
  let bs := (s.blocks.filter fun x => x.2.core == core).map Prod.snd
  { tiles := bs.map fun b => (b.tile0, b.nt)
    accs := (List.range 8).filter fun a => !bs.any fun b => b.accs.contains a
    parts := (List.range 4).map fun p => s.partRes (4 * core + p) }

/-- A run of n from start is free of the runs in use. -/
def runFree (used : List (Nat × Nat)) (start n : Nat) : Bool := used.all fun u => decide (u.1 + u.2 ≤ start) || decide (start + n ≤ u.1)

/-- The lowest multiple of align below cap from which n are free. -/
def lowRun (cap align : Nat) (used : List (Nat × Nat)) (n : Nat) : Option Nat :=
  ((List.range (cap / align)).map fun i => i * align).find? fun st => decide (st + n ≤ cap) && runFree used st n

/-- Units not in use. -/
def freeCount (cap : Nat) (used : List (Nat × Nat)) : Nat := cap - (used.map Prod.snd).sum

/-- The power of two a run of g granules is aligned to (R304). -/
def runAlign (g : Nat) : Nat := if g ≤ 1 then 1 else 2 ^ ((g - 1).log2 + 1)

/-- A file's run for a team. -/
def fileRun (cap : Nat) (used : List (Nat × Nat)) (g : Nat) : Option Nat := lowRun cap (runAlign g) used g

/-- The window of a team (R305): a shared one, else the lowest free run. -/
def PartRes.window (r : PartRes) (asid : BitVec 16) (v : Variant) : Option Nat :=
  match r.wins.find? fun w => w.1 == asid && w.2.1 == v.dict && w.2.2.2 == v.win with
  | some w => some w.2.2.1
  | none => lowRun 480 8 (r.wins.map fun w => (w.2.2.1, w.2.2.2)) v.win

/-- Lanes of a variant's teams. -/
def Variant.lanes (v : Variant) : Nat := 32 * 2 ^ v.wlog

/-- A team of a variant on a partition, if it can be given one (R304). -/
def PartRes.fit (r : PartRes) (p : Nat) (asid : BitVec 16) (v : Variant) : Option TeamFit :=
  if r.hold then none
  else
    match r.slots, fileRun 128 r.va (granules v.lanes v.budgets.1), fileRun 64 r.vb (granules v.lanes v.budgets.2.1),
      fileRun 32 r.vm (granules v.lanes v.budgets.2.2), r.window asid v with
    | j :: _, some a, some b, some m, some w => some ⟨p, j, a, b, m, w⟩
    | _, _, _, _, _ => none

/-- A partition after a team is given to it. -/
def PartRes.take (r : PartRes) (f : TeamFit) (asid : BitVec 16) (v : Variant) : PartRes :=
  { r with
    slots := r.slots.filter fun j => j != f.slot,
    va := (f.ga, granules v.lanes v.budgets.1) :: r.va,
    vb := (f.gb, granules v.lanes v.budgets.2.1) :: r.vb,
    vm := (f.gm, granules v.lanes v.budgets.2.2) :: r.vm,
    wins := if r.wins.any fun w => w.2.2.1 == f.wb then r.wins else (asid, v.dict, f.wb, v.win) :: r.wins }

/-- Gives n teams in TIDX order, each to the fitting partition with the most free VA granules, the lowest on a tie (R304). -/
def fitTeams (asid : BitVec 16) (v : Variant) : Nat → List PartRes → Option (List TeamFit)
  | 0, _ => some []
  | n + 1, rs =>
    let c := (List.range rs.length).filterMap fun p => (rs[p]?).bind fun r => (r.fit p asid v).map fun f => (freeCount 128 r.va, f)
    let best := c.foldl (fun (a : Option (Nat × TeamFit)) x => match a with
      | none => some x
      | some y => if y.1 < x.1 then some x else a) none
    match best with
    | none => none
    | some (_, f) =>
      (fitTeams asid v n (rs.zipIdx.map fun x => if x.2 = f.p then x.1.take f asid v else x.1)).map fun l => f :: l

/-- A variant fits on a core (R304). -/
def CoreRes.fit (c : CoreRes) (asid : BitVec 16) (v : Variant) : Option CoreFit :=
  match lowRun 64 1 c.tiles v.nt, decide (v.na ≤ c.accs.length), fitTeams asid v v.nteams c.parts with
  | some t, true, some l => some ⟨t, c.accs.take v.na, l⟩
  | _, _, _ => none

/-! ## A placed team and block (R24, R292, R308, R310) -/

/-- A parameter array into the s registers of a variant (R308, R315). DESIGN CHOICE: of two parameters mapped to one register the
higher-numbered one's value stands, and the map of a parameter the launch does not have is ignored (log entry 56). -/
def Variant.params (v : Variant) (vals : List Word) : SMap 64 :=
  (v.pmap.zip vals).foldl (fun m x => if 128 ≤ x.1 then m.set (x.1 % 64) x.2 else m) []

/-- DOMR of a block of a launch (R49, R308). -/
def Launch.domr (l : Launch) (lin : Nat) : Word :=
  let size := match l.dlevel with
    | 0 => 1
    | 1 => (l.domSpan 1 (l.domOf 1 lin)).2 - (l.domSpan 1 (l.domOf 1 lin)).1
    | 2 => (l.domSpan 2 (l.domOf 2 lin)).2 - (l.domSpan 2 (l.domOf 2 lin)).1
    | 3 => l.share.2 - l.share.1
    | _ => l.blocks
  BitVec.ofNat 64 (l.dlevel + (if l.gang then 8 else 0) + (if l.dlevel = 4 then 2 ^ 16 * l.bits 0x28 0 16 else 0)
    + 2 ^ 32 * (size - 1))

/-- TEAMID (R51). -/
def teamidOf (tidx tcnt wlog z variant dev : Nat) : Word :=
  BitVec.ofNat 64 (tidx + 2 ^ 4 * (tcnt - 1) + 2 ^ 8 * wlog + 2 ^ 12 * (partOf z % 4) + 2 ^ 14 * (coreOf z % 128)
    + 2 ^ 21 * leafOf z + 2 ^ 24 * variant + 2 ^ 32 * dev)

/-- BLKPOS (R51). -/
def Launch.blkpos (l : Launch) (lin : Nat) : Word :=
  let nx := l.bits 0x10 0 21 + 1
  let ny := l.bits 0x10 21 21 + 1
  BitVec.ofNat 64 (lin % nx + 2 ^ 21 * (lin / nx % ny) + 2 ^ 42 * (lin / nx / ny))

/-- CTXPTR of a team slot (R292). -/
def Launch.ctxptr (l : Launch) (z : Nat) : Word :=
  BitVec.ofNat 64 ((l.ctxbase.toNat / 4096 % 2 ^ 45 * 4096 + 2 ^ (12 + l.ctxlog) * z) % 2 ^ 57)

/-- DWIN of a window (R50, R308). -/
def dwinOf (base : Nat) (v : Variant) : Word := BitVec.ofNat 64 (base + 2 ^ 16 * (v.win / 8) + 2 ^ 32 * v.dlen)

/-- A team at its start (R24, R308): issue is possible from the clock startAt (R303). -/
def State.newTeam (s : State) (n : Nat) (l : Launch) (lin vi : Nat) (v : Variant) (blk z tidx : Nat) (f : TeamFit) (startAt : Nat) : Team :=
  { blk := blk, launch := n, asid := l.asid, root := l.root, wlog := v.wlog, nva := v.budgets.1, nvb := v.budgets.2.1,
    nvm := v.budgets.2.2, gran := (f.ga, f.gb, f.gm), s := v.params l.params, a := [], f := [], va := [], vb := [], vm := [],
    sP := [], aP := [], fP := [], vaP := [], vbP := [], vmP := [], loop := ⟨0, 0, 0, 0, 0, 0⟩, ic := [], dc := [],
    fmode := BitVec.ofNat 64 (l.bits 0x18 24 8), landed := 0, compat := BitVec.ofNat 64 (l.bits 0x18 32 2), domr := l.domr lin,
    dwin := dwinOf f.wb v, dbase := v.dict, dwinU := dwinOf f.wb v, dbaseU := v.dict,
    teamid := teamidOf tidx v.nteams v.wlog z vi l.dev, blkid := BitVec.ofNat 64 lin, blkpos := l.blkpos lin,
    trapvec := l.trapvec &&& 0x01FFFFFFFFFFFFFE#64, ctxptr := l.ctxptr z, ctxlog := l.ctxlog, tcyc := 0, tmode := false, nest := false,
    pc := v.entry &&& 0x01FFFFFFFFFFFFFE#64, tc := 0, land := [], replay := [], held := [], keep := none, userKeep := none,
    fetched := none, zeroTrip := none, waiting := false, ctx := none, resumePass := 0, userPass := 0, occ := 0, userOcc := 0, done := 0, part2 := false,
    ended := false, halted := false, haltFrame := none, stopReq := false, eretWait := none, bars := [], async := [], recv := [],
    probes := [], prefetch := [], prefSys := false, ops := [], activeTasks := 0, stepping := none, skid := none, nobp := false, crc := 0,
    lastIssue := s.clock, startAt := startAt }

/-- A restart's changes to a new team: s0 to s15 of old team j mod T, the tasks of the old teams that pass to it, and the resume
address (R310, R312). -/
def Restart.team (r : Restart) (v : Variant) (tidx : Nat) (t : Team) : Team :=
  let old := r.regs.getD (tidx % r.regs.length) []
  let x := old.zipIdx.foldl (fun (m : SMap 64 × SMap 1) y => (m.1.set y.2 y.1.1, m.2.set y.2 (pBit y.1.2))) (t.s, t.sP)
  let pc := ((v.sw.find? fun y => y.1 == r.k).map Prod.snd).getD v.entry
  { t with s := x.1, sP := x.2, pc := pc &&& 0x01FFFFFFFFFFFFFE#64,
           activeTasks := ((r.active.zipIdx.filter fun y => y.2 % v.nteams == tidx).map Prod.fst).sum }

/-- Tile state at the start (R22, R308, R310). -/
def startTiles (v : Variant) (carry : Nat) : SMap 32 :=
  (List.range v.nt).foldl (fun (m : SMap 32) i =>
    let chunks := (List.range 16).foldl (fun (c : BitVec 16) j =>
      if i * 8192 + 512 * (j + 1) ≤ carry then c ||| (1#16 <<< j) else c) 0
    m.set i (tsMake chunks (chunks == 0xFFFF) (v.gate.getLsbD i) false 0)) []

/-- Clears the scratchpad and accumulators a block is given. -/
def State.clearAllot (s : State) (core tile0 nt : Nat) (accs : List Nat) : State :=
  let lo := spadKey core (8192 * tile0)
  let out (k g : Nat) : Bool := !(decide (lo / g ≤ k) && decide (k < (lo + 8192 * nt) / g))
  let keepAcc (k : Nat) : Bool := !(k / 32768 == core && accs.contains (k / 4096 % 8))
  { s with
    spad := s.spad.keep (fun k => out k 1), spadP := s.spadP.keep (fun k => out k 4), acc := s.acc.keep keepAcc, accP := s.accP.keep keepAcc }

/-- Gives a team its window on a partition (R305). -/
def State.useWindow (s : State) (z : Nat) (asid : BitVec 16) (v : Variant) (base : Nat) : State :=
  s.updPart (partOf z) fun p =>
    if p.windows.any fun w => w.base == base then
      { p with windows := p.windows.map fun w => if w.base = base then { w with users := z :: w.users } else w }
    else { p with windows := p.windows ++ [⟨asid, v.dict, base, v.win, [z]⟩] }

/-- The number of a team slot of a core. -/
def TeamFit.z (f : TeamFit) (core : Nat) : Nat := 16 * (4 * core + f.p) + f.slot

/-- Fusion a bench has or is changing to (R263, R304). -/
def State.benchFuse (s : State) (bench : Nat) : Bool := s.fusing.getD bench (s.fused.contains bench)

/-- Sets a bench's fusion as a launch asks (R304). -/
def State.askFuse (s : State) (bench : Nat) (on : Bool) : State :=
  if s.benchFuse bench == on then s else { s with fusing := s.fusing.put bench on }

/-- Places a block of a launch on a core (R304, R308, R310): its state and its teams'. -/
def State.layBlock (s : State) (n lin vi core : Nat) (fit : CoreFit) (restart : Option Restart) : State :=
  match s.launches.get? n with
  | none => s
  | some l =>
    match l.vars[vi]? with
    | none => s
    | some v =>
      let blk := 64 * core + fit.tile0
      let c := (restart.map fun r => r.carry.length).getD 0
      let b : Block := {
        launch := n, lin := lin, variant := vi, asid := l.asid, root := l.root, core := core, tile0 := fit.tile0,
        nt := v.nt, accs := fit.accs, teams := fit.teams.map (fun f => f.z core), switches := [], tiles := startTiles v c, accBusy := [],
        tiles0 := startTiles v c, accBusy0 := [], q0 := [], chunkNow := [], tileP := [], q := [], qP := [], cp := [], cpP := [], barArr := 0, barEnd := 0, barGen := false, flagged := false, shrink := none,
        stop := false, settled := false, carry := v.carry }
      let s := (s.clearAllot core fit.tile0 v.nt fit.accs).askFuse (core / 8) (l.bits 0x18 14 1 == 1)
      let s := match restart with
        | none => s
        | some r =>
          (r.carry.length / 4 |> List.range).foldl (fun s i =>
            s.writeSpad (b.key (4 * i)) ((r.carry.drop (4 * i)).take 4) (r.carryP.getD i false)) s
      let s := fit.teams.zipIdx.foldl (fun s x =>
        let z := x.1.z core
        let t := s.newTeam n l lin vi v blk z x.2 x.1 (s.clock + 32)
        let t := match restart with
          | none => t
          | some r => r.team v x.2 t
        let stopped := (s.reg (bstatOff (core / 8))).getLsbD 0
        ({ s with teams := s.teams.put z { t with halted := stopped } }.useWindow z l.asid v x.1.wb).setReg (tdbgOff z)
          (if stopped then 4 else 0)) s
      { s with
        blocks := s.blocks.put blk b,
        launches := s.launches.upd n fun l => { l with
          placed := if restart.isSome then l.placed else lin :: l.placed,
          restarts := l.restarts.filter fun r => restart.isNone || r.lin != lin } }

/-- A block placed for a restart while its launch is being saved is stopped and saved as well (R326; log entry 54). -/
def State.joinSave (s : State) (n blk : Nat) : State :=
  match s.cx with
  | none => s
  | some c =>
    if !c.launches.contains n then s
    else
      let s := { s with cx := some { c with blocks := c.blocks ++ [blk] } }.updBlock blk fun b => { b with stop := true }
      (((s.blocks.get? blk).map Block.teams).getD []).foldl (fun s z => s.updTeam z fun t => { t with stopReq := true }) s

/-- A placed block, with its parked messages (R341). -/
def State.putBlock (s : State) (n lin vi core : Nat) (fit : CoreFit) (restart : Option Restart) : State :=
  let s := (s.layBlock n lin vi core fit restart).deliverParked n lin
  if restart.isSome then s.joinSave n (64 * core + fit.tile0) else s

end Sys2Proof.Machine
end

