-- ==== Sys2Proof/Machine/Scheduling.lean ====
section
/-!
DEFINITION. User queues, launches and dispatchers (R291 to R310, R315).
-/
namespace Sys2Proof.Machine

/-! ## Queue records (R291, R293) -/

/-- Physical address of a queue's record. -/
def State.qAddr (s : State) (q : Nat) : Nat := s.regBits schedBase 12 40 * 4096 + 128 * q

/-- The sixteen words of a queue record. -/
def State.qRec (s : State) (q : Nat) : List Word := (List.range 16).map fun i => s.mem64 (s.qAddr q + 8 * i)

/-- Bits lo+n−1..lo of word i of a list of words. -/
def wBits (w : List Word) (i lo n : Nat) : Nat := ((w.getD i 0) >>> lo).toNat % 2 ^ n

/-- QR.NLOG. -/
def qrNlog (w : List Word) : Nat := wBits w 1 0 4
/-- QR.PRIO. -/
def qrPrio (w : List Word) : Nat := wBits w 1 4 3

/-- A record that may be mapped: EN = 1, reserved bits 0, CTXLOG at most 4 (R291, R296). -/
def qrUsable (w : List Word) : Bool :=
  wBits w 1 7 1 == 1 && wBits w 0 0 12 == 0 && wBits w 0 57 7 == 0 && wBits w 1 56 8 == 0 && wBits w 2 0 12 == 0 && wBits w 2 52 12 == 0
    && wBits w 3 57 7 == 0 && wBits w 4 4 8 == 0 && wBits w 4 57 7 == 0 && decide (wBits w 4 0 4 ≤ 4) && wBits w 5 42 6 == 0 && wBits w 5 56 8 == 0 && (w.drop 6).all fun x => x == 0

/-- Writes a field of a word of a queue record; the reserved bits of the word that holds the positions are written 0 (R291). -/
def State.qPut (s : State) (q i lo n v : Nat) : State :=
  let a := s.qAddr q + 8 * i
  let w := putBits (s.mem64 a) lo n v
  s.writeMem a (leBytes 8 (if i = 5 then w &&& 0x00FF03FFFFFFFFFF#64 else w)) false

/-- The slot that holds a queue. -/
def State.slotOfQueue (s : State) (q : Nat) : Option (Nat × QSlot) := s.qslots.find? fun x => x.2.queue == q

/-- Positions of a ring of 2^n records count modulo 2^(n+1). -/
def ringMod (w : List Word) : Nat := 2 ^ (qrNlog w + 1)

/-- Unmaps a queue (R297): the live positions go back, and PEND is set when work remains. A notify of the same clock goes with them, and
sets PEND (R294). -/
def State.unmapQueue (s : State) (slot : Nat) (x : QSlot) : State :=
  let pend := x.next.isSome || x.rptr != x.wptr
  let s := (((s.qPut x.queue 5 0 16 (x.next.getD x.wptr)).qPut x.queue 5 16 16 x.rptr).qPut x.queue 5 32 1 (if pend then 1 else 0)).qPut
    x.queue 5 33 1 0
  { s with qslots := s.qslots.del slot,
           pendq := (s.pendq.filter fun q => q != x.queue) ++ (if pend then [x.queue] else []) }

/-- A queue error (R295): the queue is unmapped, ERR is set and EN cleared, and QR.VEC is sent. -/
def State.queueError (s : State) (q code : Nat) : State :=
  let w := s.qRec q
  let s := match s.slotOfQueue q with
    | some (slot, x) => s.unmapQueue slot x
    | none => s
  ((s.qPut q 5 48 8 code).qPut q 1 7 1 0).tenantIrq (wBits w 1 8 16) (wBits w 1 40 16)

/-- A notify (R294): the live WPTR takes the value at the end of the clock, the recorded one at once; past the ring's capacity it is error
0x01. -/
def State.notify (s : State) (q v : Nat) : State :=
  if 4096 ≤ q then s
  else
    match s.slotOfQueue q with
    | some (slot, x) =>
      let m := ringMod x.qr
      let s := { s with qslots := s.qslots.put slot { x with next := some (v % m), active := s.clock } }
      if m / 2 < (v % m + m - x.rptr) % m then s.queueError q 1 else s
    | none =>
      let w := s.qRec q
      let m := ringMod w
      let s := (s.qPut q 5 0 16 (v % m)).qPut q 5 32 1 1
      let s := { s with pendq := if s.pendq.contains q then s.pendq else s.pendq ++ [q] }
      if m / 2 < (v % m + m - wBits w 5 16 16 % m) % m then s.queueError q 1 else s

/-- NOTIFY_WPTR (R294). -/
def execNotifyWptr (q : Nat) (wptr : BitVec 16) (s : State) : Host.Outcome State Fault Refusal := .next (s.notify q wptr.toNat)

/-- Offset of QDIS; bits 43:32 of its stored word hold the queue being disabled. -/
def qdisOff : Nat := schedBase + 0x10

/-- A write of QDIS (R293). -/
def State.qdisWrite (s : State) (v : Word) : State :=
  let s := s.putReg qdisOff 0 12 v.toNat
  if !v.getLsbD 16 || (s.reg qdisOff).getLsbD 17 then s else (s.putReg qdisOff 17 1 1).putReg qdisOff 32 12 v.toNat

/-- QDIS_GO (R293). -/
def execQdisGo (value : Word) (s : State) : Host.Outcome State Fault Refusal := .next (s.qdisWrite value)

/-- QUEUE_DISABLE_COMPLETE (R293): the slot is freed, its positions written back, EN cleared, and BUSY returns to 0. -/
def execQueueDisableComplete (s : State) : Host.Outcome State Fault Refusal :=
  .next (if !(s.reg qdisOff).getLsbD 17 then s
    else
      let q := s.regBits qdisOff 32 12
      let s := match s.slotOfQueue q with
        | some (slot, x) => s.unmapQueue slot x
        | none => s
      (s.qPut q 1 7 1 0).putReg qdisOff 17 1 0)

/-! ## Mapping (R296, R297) -/

/-- Every block of a launch on this device has been placed once. -/
def Launch.allPlaced (l : Launch) : Bool := decide (l.share.2 - l.share.1 ≤ l.placed.length)

/-- A mapped queue is idle (R297). -/
def State.queueIdle (s : State) (x : QSlot) : Bool :=
  x.rptr == x.wptr && s.launches.all fun l => l.2.queue != x.queue || l.2.allPlaced

/-- A mapped queue is stalled (R297). -/
def State.queueStalled (s : State) (x : QSlot) : Bool :=
  x.lr.isSome && x.met.any (fun m => !m) && decide (x.waitAt + 65536 ≤ s.clock)

/-- The candidate to map: the highest priority, PEND longest ago (R296). -/
def State.candidate (s : State) : Option Nat :=
  let l := (s.pendq.filter fun q => wBits (s.qRec q) 5 32 1 == 1).map fun q => (q, qrPrio (s.qRec q))
  (l.foldl (fun (a : Option (Nat × Nat)) x => match a with
    | none => some x
    | some y => if y.2 < x.2 then some x else a) none).map Prod.fst

/-- The best of slots by priority, then by how long they have not been active. -/
def leastActive (l : List (Nat × QSlot)) : Option (Nat × QSlot) :=
  l.foldl (fun (a : Option (Nat × QSlot)) x => match a with
    | none => some x
    | some y => if qrPrio x.2.qr < qrPrio y.2.qr || (qrPrio x.2.qr == qrPrio y.2.qr && decide (x.2.active < y.2.active)) then some x else a) none

/-- The end of a clock for a slot: a notified WPTR is taken, and whether the queue is idle is judged anew (R294, R297). -/
def State.slotTick (s : State) (x : QSlot) : QSlot :=
  let y := { x with wptr := x.next.getD x.wptr, next := none }
  { y with idle0 := s.queueIdle y }

/-- The slot to unmap for a candidate of priority p when all 256 are held: idle as it was at the start of the clock (R297). -/
def State.victim (s : State) (p : Nat) : Option (Nat × QSlot) :=
  if s.qslots.length < 256 then none
  else
    match leastActive (s.qslots.filter fun x => x.2.idle0) with
    | some x => some x
    | none => leastActive (s.qslots.filter fun x => s.queueStalled x.2 && decide (qrPrio x.2.qr ≤ p))

/-- QUEUE_MAPPING (R296, R297): a free slot maps the candidate; with none free, the slot the candidate may take is unmapped. -/
def execQueueMapping (slot : Nat) (s : State) : Host.Outcome State Fault Refusal :=
  .next (match s.candidate with
    | none => s
    | some q =>
      let w := s.qRec q
      match s.qslots.get? slot with
      | some x =>
        (match s.victim (qrPrio w) with
          | some (k, _) => if k = slot then s.unmapQueue slot x else s
          | none => s)
      | none =>
        if 256 ≤ slot then s
        else
          let s := { s.qPut q 5 32 1 0 with pendq := s.pendq.filter fun x => x != q }
          if !qrUsable w then s
          else
            let m := ringMod w
            let x : QSlot := ⟨q, w.take 6, wBits w 5 0 16 % m, wBits w 5 16 16 % m, none, [], s.clock, s.clock, false, s.clock, none, false⟩
            { (s.qPut q 5 33 1 1).qPut q 5 34 8 slot with qslots := s.qslots.put slot x })

/-! ## Launch records (R299 to R301) -/

/-- Words read through a queue's address space. -/
def State.readWords (s : State) (asid : BitVec 16) (root va n : Nat) : Except XErr (State × List Word) :=
  match s.readVa noCore asid root va (8 * n) with
  | .error e => .error e
  | .ok (s, l) => .ok (s, (List.range n).map fun i => BitVec.ofNat 64 (leNat ((l.drop (8 * i)).take 8)))

/-- Address space of a queue's launches. -/
def qrAsid (w : List Word) : BitVec 16 := BitVec.ofNat 16 (wBits w 1 24 16)
/-- Level-1 table of a queue's launches. -/
def qrRoot (w : List Word) : Nat := wBits w 2 12 40 * 4096

/-- Variant numbers of a launch in preference order. -/
def vprefOf (lr : List Word) : List Nat := (List.range (wBits lr 3 8 2 + 1)).map fun i => wBits lr 3 (2 * i) 2

/-- The checks of R300 that need no image. DESIGN CHOICE: R13 has a launch record's reserved bits ignored and R300 has a set one refused with
0x03; R300 is followed (log entry 55). -/
def lrOk (lr : List Word) : Bool :=
  let f := wBits lr
  let n := (f 2 0 21 + 1) * (f 2 21 21 + 1) * (f 2 42 21 + 1)
  let dl := f 3 10 3
  let va (i : Nat) : Bool := f i 57 7 == 0
  let dep (i : Nat) : Bool := f i 57 6 == 0 && (f i 63 1 == 0 || f i 0 3 == 0)
  let task := f 3 17 1 == 1
  va 0 && f 0 0 6 == 0 && va 1 && f 1 0 3 == 0 && f 2 63 1 == 0 && f 3 19 5 == 0 && f 3 34 30 == 0 && f 5 48 16 == 0 && va 6
    && f 6 0 3 == 0 && f 7 16 48 == 0 && dep 8 && dep 10 && va 12 && f 13 5 27 == 0 && va 14 && f 15 0 64 == 0
    && decide (n ≤ 2 ^ 32) && decide (vprefOf lr).Nodup && decide (dl ≤ 4) && (dl == 0 || f 4 0 32 != 0)
    && (decide (dl < 2) || (f 4 32 32 != 0 && f 4 32 32 % f 4 0 32 == 0))
    && (dl != 4 || (f 5 32 16 != 0 && decide (f 5 16 16 < f 5 32 16))) && decide (f 3 32 2 < 2)
    && (!task || (decide (12 ≤ f 13 0 5) && decide (f 13 0 5 ≤ 24) && decide (f 13 32 32 ≤ 2 ^ f 13 0 5) && f 12 0 12 == 0
      && f 14 0 6 == 0))

/-- Reads the dependences of a record that are not met (R301); none when one cannot be read. -/
def State.readDeps (s : State) (w lr : List Word) (met : List Bool) : Option (State × List Bool) :=
  (List.range 2).foldl (fun (a : Option (State × List Bool)) i => a.bind fun (s, l) =>
    if met.getD i false || wBits lr (8 + 2 * i) 63 1 == 0 then some (s, l ++ [true])
    else
      match s.readWords (qrAsid w) (qrRoot w) (wBits lr (8 + 2 * i) 0 57) 1 with
      | .error _ => none
      | .ok (s, v) => some (s, l ++ [decide (lr.getD (9 + 2 * i) 0 ≤ v.getD 0 0)])) (some (s, []))

/-- DEPENDENCE_READ (R301). -/
def execDependenceRead (slot : Nat) (s : State) : Host.Outcome State Fault Refusal :=
  .next (match s.qslots.get? slot with
    | none => s
    | some x =>
      match x.lr with
      | none => s
      | some lr =>
        match s.readDeps x.qr lr x.met with
        | none => s.queueError x.queue 6
        | some (s, met) => { s with qslots := s.qslots.put slot { x with met := met, readAt := s.clock, due := false } })

/-! ## Kernel images (R315) -/

/-- The header's checks; the number of variants. -/
def headerOk (h : List Word) : Bool :=
  let f := wBits h 0
  f 0 32 == 0x31494B45 && f 34 6 == 0 && decide (f 40 8 ≤ 16) && f 57 7 == 0 && (h.drop 1).all (fun x => x == 0)

/-- A descriptor's checks. -/
def variantOk (d : List Word) : Bool :=
  let f := wBits d 0
  let rng (lo n a b : Nat) : Bool := decide (a ≤ f lo n) && decide (f lo n ≤ b)
  let va (i : Nat) : Bool := wBits d i 57 7 == 0
  let pm := (List.range 16).map fun i => wBits d (6 + i / 8) (8 * (i % 8)) 8
  rng 0 3 0 5 && f 3 1 == 0 && rng 8 7 1 64 && f 15 1 == 0 && rng 16 6 1 32 && f 22 2 == 0 && rng 24 5 1 16 && f 29 3 == 0
    && rng 32 7 1 64 && f 39 1 == 0 && rng 40 4 1 8 && f 44 4 == 0 && rng 48 8 1 60 && f 56 8 == 0
    && va 1 && wBits d 1 0 6 == 0 && wBits d 2 15 49 == 0 && va 3 && wBits d 3 0 1 == 0 && wBits d 4 32 32 == 0
    && wBits d 4 0 6 == 0 && decide (wBits d 4 0 32 ≤ 8192 * f 32 7) && va 8 && (d.drop 9).all (fun x => x == 0)
    && pm.all fun x => x == 0 || (decide (128 ≤ x) && decide (x < 192))

/-- A variant from its descriptor and switch table. -/
def mkVariant (d : List Word) (sw : List (Nat × Word)) : Variant :=
  { shape := d.getD 0 0, dict := d.getD 1 0, dlen := wBits d 2 0 15, entry := d.getD 3 0, carry := wBits d 4 0 32, gate := d.getD 5 0,
    pmap := (List.range 16).map fun i => wBits d (6 + i / 8) (8 * (i % 8)) 8, sw := sw }

/-- Reads and checks a kernel image (R315): its parameter count and its variants. The switch table has 256 entries; KH.NSW is not
compared with it (log entry 34). -/
def State.readImage (s : State) (asid : BitVec 16) (root kimg : Nat) : Option (State × Nat × List Variant) :=
  match s.readWords asid root kimg 8 with
  | .error _ => none
  | .ok (s, h) =>
    if !headerOk h then none
    else
      let n := wBits h 0 32 2 + 1
      let any := wBits h 0 56 1 == 1
      let r : Option (State × List Variant) := (List.range n).foldl (fun a v => a.bind fun (s, l) =>
        match s.readWords asid root (kimg + 64 + 128 * v) 16 with
        | .error _ => none
        | .ok (s, d) =>
          if !variantOk d then none
          else if !any then some (s, l ++ [mkVariant d []])
          else
            match s.readWords asid root (wBits d 8 0 57) 256 with
            | .error _ => none
            | .ok (s, t) => some (s, l ++ [mkVariant d ((t.zipIdx.filter fun x => x.1 != 0).map fun x => (x.2, x.1))])) (some (s, []))
      match r with
      | none => none
      | some (s, vs) =>
        let v0 := vs.headD default
        let same := vs.all fun v => v.carry == v0.carry && v.sw.map Prod.fst == v0.sw.map Prod.fst
        if same then some (s, wBits h 0 40 8, vs) else none

/-! ## Choosing where a block goes (R303, R304, R306) -/

/-- Key of a level-1 domain's bench among the claims. -/
def benchKey (dom : Nat) : Nat := 2 ^ 40 + dom

/-- Variant numbers of a launch in preference order. -/
def Launch.vpref (l : Launch) : List Nat := vprefOf l.lr

/-- The unit a block is claimed in (R303): its number, and the blocks of it on this device. -/
def Launch.unitOf (l : Launch) (lin : Nat) : Nat × Nat × Nat :=
  let sh := l.share
  match l.dlevel with
  | 1 => (l.domOf 1 lin, l.domSpan 1 (l.domOf 1 lin))
  | 2 => (l.domOf 2 lin, l.domSpan 2 (l.domOf 2 lin))
  | 3 => (l.domOf 2 lin, l.domSpan 2 (l.domOf 2 lin))
  | _ => (lin, max sh.1 lin, min sh.2 (lin + 1))

/-- The leaf that claimed the unit of a block. -/
def Launch.claimOf (l : Launch) (lin : Nat) : Option Nat := AL.get? l.claims (l.unitOf lin).1

/-- The bench chosen for a block's level-1 domain. -/
def Launch.benchOf (l : Launch) (lin : Nat) : Option Nat := if l.dlevel = 0 then none else AL.get? l.claims (benchKey (l.domOf 1 lin))

/-- The next block of a launch a leaf would place: of a unit it has claimed, else the first of the next unit. -/
def Launch.nextFor (l : Launch) (leaf : Nat) : Option Nat :=
  let mine := (l.claims.filter fun x => x.2 == leaf && decide (x.1 < 2 ^ 40)).flatMap fun x =>
    let sp : Nat × Nat := match l.dlevel with
      | 1 => l.domSpan 1 x.1
      | 2 => l.domSpan 2 x.1
      | 3 => l.domSpan 2 x.1
      | _ => (x.1, x.1 + 1)
    (List.range (sp.2 - sp.1)).map fun i => sp.1 + i
  match (mine.filter fun b => !l.placed.contains b).foldl (fun (a : Option Nat) b => some ((a.map (min b)).getD b)) none with
  | some b => some b
  | none => if l.next < l.share.2 then some l.next else none

/-- The dispatcher of a leaf. -/
def State.dispOf (s : State) (leaf : Nat) : Dispatcher := s.disp.getD leaf ⟨none, none, [], none, [], 0, none, [], none⟩

/-- The cores of a leaf in rotating order after the previous placement's (R304). -/
def State.coreOrder (s : State) (leaf : Nat) : List Nat :=
  let first := match (s.dispOf leaf).last with
    | none => 0
    | some c => c + 1
  (List.range 128).map fun i => 128 * leaf + (first + i) % 128

/-- A bench runs no block. -/
def State.benchEmpty (s : State) (bench : Nat) : Bool := !s.blocks.any fun x => x.2.core / 8 == bench

/-- A core is eligible for a block (R304). -/
def State.eligible (s : State) (l : Launch) (lin core : Nat) : Bool :=
  (match l.benchOf lin with
    | some b => b == core / 8
    | none => true) && (s.benchFuse (core / 8) == (l.bits 0x18 14 1 == 1) || s.benchEmpty (core / 8))

/-- The first variant that fits on a leaf, and where (R304). -/
def State.fitLeaf (s : State) (l : Launch) (leaf lin : Nat) (vs : List Nat) : Option (Nat × Nat × CoreFit) :=
  vs.findSome? fun vi => match l.vars[vi]? with
    | none => none
    | some v => (s.coreOrder leaf).findSome? fun core =>
        if s.eligible l lin core then ((s.coreRes core).fit l.asid v).map fun f => (vi, core, f) else none

/-- Records a placement: the claim of the block's unit and bench, the next unclaimed block, and the dispatcher's rotation. -/
def State.claim (s : State) (n leaf lin core : Nat) : State :=
  { s with
    launches := s.launches.upd n (fun l =>
      let u := l.unitOf lin
      let fresh := (AL.get? l.claims u.1).isNone
      let c := if fresh then AL.put l.claims u.1 leaf else l.claims
      let c := if l.dlevel = 0 || (AL.get? c (benchKey (l.domOf 1 lin))).isSome then c else AL.put c (benchKey (l.domOf 1 lin)) (core / 8)
      { l with claims := if l.dlevel = 0 then l.claims else c, next := if decide (l.next ≤ lin) then u.2.2 else l.next })
    disp := s.disp.put leaf { s.dispOf leaf with last := some (core % 128) } }

/-- Places the blocks of a list in order on scratch resources, each as the first of some variants that fits, on one of the leaves its unit
allows; none when one does not fit (R306). -/
def State.reserveList (s : State) (n : Nat) (leaves vs : List Nat) : List Nat → Option (State × List (Nat × Placing))
  | [] => some (s, [])
  | lin :: r =>
    match s.launches.get? n with
    | none => none
    | some l =>
      let ls := match l.claimOf lin with
        | some x => leaves.filter fun y => y == x
        | none => leaves
      match ls.findSome? fun leaf => (s.fitLeaf l leaf lin vs).map fun x => (leaf, x) with
      | none => none
      | some (leaf, vi, core, f) =>
        match ((s.putBlock n lin vi core f none).claim n leaf lin core).reserveList n leaves vs r with
        | none => none
        | some (s', out) => some (s', (leaf, ⟨n, lin, vi, core⟩) :: out)

/-- A level-1 domain goes to a bench as a whole: the first on which all its blocks fit (R306). -/
def State.reserveBench (s : State) (n : Nat) (leaves vs blocks : List Nat) : Option (State × List (Nat × Placing)) :=
  match s.launches.get? n with
  | none => none
  | some l =>
    let lin := blocks.headD 0
    if l.dlevel = 0 || (l.benchOf lin).isSome then s.reserveList n leaves vs blocks
    else
      let benches := (leaves.flatMap fun y => (s.coreOrder y).map fun c => c / 8).eraseDups
      benches.findSome? fun b =>
        ({ s with launches := s.launches.put n { l with claims := AL.put l.claims (benchKey (l.domOf 1 lin)) b } } : State).reserveList n leaves
          vs blocks

/-- Each group of a list is placed as a whole, in order. -/
def reserveEach (f : State → List Nat → Option (State × List (Nat × Placing))) (s : State) : List (List Nat) →
    Option (State × List (Nat × Placing))
  | [] => some (s, [])
  | g :: r =>
    match f s g with
    | none => none
    | some (s', out) => (reserveEach f s' r).map fun x => (x.1, out ++ x.2)

/-- Blocks by the number of a domain, in ascending order. -/
def groupOf (f : Nat → Nat) (l : List Nat) : List (List Nat) := (l.map f).eraseDups.map fun d => l.filter fun b => f b == d

/-- The blocks of a gang are reserved: each unit on one leaf, each level-1 domain on one bench, as the first of some variants that fits
(R303, R306). -/
def State.reserveAs (s : State) (n : Nat) (l : Launch) (leaves blocks vs : List Nat) : Option (State × List (Nat × Placing)) :=
  reserveEach (fun s u => leaves.findSome? fun y =>
    reserveEach (fun s d => s.reserveBench n [y] vs d) s (groupOf (l.domOf 1) u)) s (groupOf (fun b => (l.unitOf b).1) blocks)

/-- A gang's blocks are reserved in the launch's preference order of variants, or, where they do not all fit so, as one variant alone. -/
def State.reserve (s : State) (n : Nat) (l : Launch) (leaves blocks : List Nat) : Option (State × List (Nat × Placing)) :=
  (l.vpref :: l.vpref.map fun v => [v]).findSome? fun vs => s.reserveAs n l leaves blocks vs

/-- The blocks of a gang domain that hold a block (R306). -/
def Launch.gangBlocks (l : Launch) (lin : Nat) : List Nat :=
  let sp : Nat × Nat := match l.dlevel with
    | 0 => (lin, lin + 1)
    | 1 => l.domSpan 1 (l.domOf 1 lin)
    | 2 => l.domSpan 2 (l.domOf 2 lin)
    | _ => l.share
  (List.range (sp.2 - sp.1)).map fun i => sp.1 + i

/-- The device empty of work. -/
def State.emptied (s : State) : State :=
  { s with blocks := [], teams := [], parts := s.parts.map fun x : Nat × Part => (x.1, { x.2 with windows := [], hold := none }) }

/-- The largest gang domain of a launch fits in its unit when that is empty (R306). -/
def State.gangFits (s : State) (n : Nat) (l : Launch) : Bool :=
  !l.gang || ({ s.emptied with launches := s.launches.put n l }.reserve n l (if l.dlevel ≤ 2 then [0] else [0, 1, 2, 3])
    (l.gangBlocks l.share.1)).isSome

/-! ## Starting a launch (R298, R311) -/

/-- Posts initial records, or none when a sub-queue cannot take one. -/
def State.postTasks (s : State) (n : Nat) (recs : List (List Byte)) : Option State :=
  recs.foldl (fun a r => a.bind fun s => s.taskPost n r false) (some s)

/-- A launch before its start: the record and the queue record's context. -/
def mkLaunch (x : QSlot) (lr : List Word) (vs : List Variant) (params : List Word) : Launch :=
  let l : Launch := {
    queue := x.queue, lr := lr, asid := qrAsid x.qr, root := qrRoot x.qr, trapvec := x.qr.getD 3 0,
    ctxbase := x.qr.getD 4 0, ctxlog := wBits x.qr 4 0 4, prio := qrPrio x.qr, params := params, vars := vs, claims := [], next := 0,
    placed := [], ended := [], saved := [], restarts := [], doms := [], tq := [] }
  { l with next := l.share.1 }

/-- A level-4 launch has the entry of its set, with its own index and number of devices (R354). -/
def State.fabOk (s : State) (l : Launch) : Bool :=
  l.dlevel != 4 || match s.launchFab l with
    | none => false
    | some off => s.regBits off 48 16 == l.ndev && s.regBits (off + 8) 0 16 == l.dev

/-- The four checks before a start, in order: the started launch, or the error they raise. -/
def State.prepare (s : State) (n : Nat) (x : QSlot) (lr : List Word) : Except Nat State :=
  match s.readImage (qrAsid x.qr) (qrRoot x.qr) (wBits lr 0 0 57) with
  | none => .error 4
  | some (s, np, vs) =>
    if (vprefOf lr).any fun v => decide (vs.length ≤ v) then .error 3
    else if !s.fabOk (mkLaunch x lr vs []) then .error 3
    else if !s.gangFits n (mkLaunch x lr vs []) then .error 5
    else
      match s.readWords (qrAsid x.qr) (qrRoot x.qr) (wBits lr 1 0 57) np with
      | .error _ => .error 2
      | .ok (s, ps) =>
        let s := { s with launches := s.launches.put n (mkLaunch x lr vs ps) }
        if wBits lr 3 17 1 = 0 then .ok s
        else
          match s.readVa noCore (qrAsid x.qr) (qrRoot x.qr) (wBits lr 14 0 57) (64 * wBits lr 13 32 32) with
          | .error _ => .error 7
          | .ok (s, bytes) =>
            match s.postTasks n ((List.range (wBits lr 13 32 32)).map fun i => (bytes.drop (64 * i)).take 64) with
            | none => .error 7
            | some s => .ok s

/-- What must hold besides the record and its dependences (R298); a queue that a SAVE unmaps starts nothing (R334). -/
def State.mayStart (s : State) (q : Nat) (lr : List Word) : Bool :=
  decide (s.launches.length < 1024) && !((s.cx.map fun c => c.queues.contains q).getD false) && s.launches.all fun l =>
    l.2.queue != q || (l.2.allPlaced && wBits lr 3 15 1 == 0)

/-- The record at RPTR, read and checked once (R298, R300, R301): the slot with it, or the queue's error. -/
def State.readRecord (s : State) (slot : Nat) (x : QSlot) : Except Nat (State × QSlot) :=
  match x.lr with
  | some _ => .ok (s, x)
  | none =>
    match s.readWords (qrAsid x.qr) (qrRoot x.qr) (wBits x.qr 0 12 45 * 4096 + 128 * (x.rptr % 2 ^ qrNlog x.qr)) 16 with
    | .error _ => .error 2
    | .ok (s, lr) =>
      if !lrOk lr then .error 3
      else
        match s.readDeps x.qr lr [] with
        | none => .error 6
        | some (s, met) =>
          let y := { x with lr := some lr, met := met, waitAt := s.clock, readAt := s.clock, due := false }
          .ok ({ s with qslots := s.qslots.put slot y }, y)

/-- LAUNCH_START (R298): the slot reads and checks the record at RPTR; when everything it waits for holds, it prepares the launch and
starts it. A record that fails does not start (R295). -/
def execLaunchStart (slot : Nat) (s : State) : Host.Outcome State Fault Refusal :=
  .next (match s.qslots.get? slot with
    | none => s
    | some x =>
      if x.rptr == x.wptr then s
      else
        match s.readRecord slot x with
        | .error e => s.queueError x.queue e
        | .ok (s, x) =>
          match x.lr with
          | none => s
          | some lr =>
            if x.met.any (fun m => !m) || !s.mayStart x.queue lr then s
            else
              let n := s.launchNo
              match s.prepare n x lr with
              | .error e => s.queueError x.queue e
              | .ok s' =>
                { s' with
                  launchNo := n + 1,
                  qslots := s'.qslots.put slot { x with rptr := (x.rptr + 1) % ringMod x.qr, lr := none, met := [], active := s.clock } })

/-! ## Completion (R302) -/

/-- A launch has ended every block of its share. -/
def Launch.over (l : Launch) : Bool := decide (l.share.2 - l.share.1 ≤ l.ended.length)

/-- Adds 1 to a completion counter; none when it cannot be written (R302). -/
def State.addCounter (s : State) (l : Launch) (va : Nat) : Option State :=
  match s.translate noCore l.asid l.root va .atomic with
  | .error _ => none
  | .ok (w, pa) => some (((s.useXlat noCore w).dropViews pa 8).writeAs l.asid pa (leBytes 8 (s.mem64 pa + 1)) (s.memPoisoned pa 8))

/-- LAUNCH_COMPLETION (R302): the counter, the interrupt, and the launch is gone; every slot reads its dependences again (R301). -/
def execLaunchCompletion (launch : Nat) (s : State) : Host.Outcome State Fault Refusal :=
  .next (match s.launches.get? launch with
    | none => s
    | some l =>
      if !l.over then s
      else
        let w := s.qRec l.queue
        let cc := l.bits 0x30 0 57
        let s := if cc = 0 then s
          else
            match s.addCounter l cc with
            | none => s.queueError l.queue 6
            | some s => { s with qslots := s.qslots.map fun x : Nat × QSlot => (x.1, { x.2 with due := true }) }
        let s := if l.bits 0x18 16 1 = 1 then s.tenantIrq (wBits w 1 8 16) (l.bits 0x38 0 16) else s
        { s with launches := s.launches.del launch, parks := s.parks.filter fun x => x.2.launch != launch })

/-! ## Dispatchers (R303 to R307) -/

/-- A block that waits at a leaf: launch, priority, block, and the restart it is. -/
structure Waiting where
  launch : Nat
  prio : Nat
  lin : Nat
  restart : Option Restart
  deriving DecidableEq, Repr, Inhabited

/-- A restart may be placed by a leaf: the one its unit was claimed by, if any. -/
def Launch.restartsFor (l : Launch) (leaf : Nat) : List Restart :=
  l.restarts.filter fun r => match l.claimOf r.lin with
    | some x => x == leaf
    | none => true

/-- The launches of a priority in rotation after the last served (R303). -/
def rotated (l : List (Nat × Launch)) (last : Nat) : List (Nat × Launch) :=
  (l.filter fun x => decide (last < x.1)) ++ l.filter fun x => decide (x.1 ≤ last)

/-- A launch that is being saved places nothing more (R334) but for restarts: it is saved once none waits (log entry 54). -/
def State.frozen (s : State) (n : Nat) : Bool :=
  ((s.cx.map fun c => c.launches.contains n).getD false) || s.cxq.any fun e => e.code == 2 && e.num == n

/-- What waits at a leaf, in the order in which its dispatcher considers it: by priority, restarts before other blocks (R310), then
launches in rotation; a block that a shrink flag was raised for, a restart or not, comes before the block that made way for it. -/
def State.waiting (s : State) (leaf : Nat) : List Waiting :=
  let d := s.dispOf leaf
  (List.range 8).reverse.flatMap fun p =>
    let ls := s.launches.filter fun x => x.2.prio == p
    let ord : List Waiting := (rotated (ls.filter fun x => !s.frozen x.1) (d.turn.getD p 0)).filterMap fun x => (x.2.nextFor leaf).map fun b => ⟨x.1, p, b, none⟩
    let res : List Waiting := ls.flatMap fun x => (x.2.restartsFor leaf).map fun r => ⟨x.1, p, r.lin, some r⟩
    let cause (r : Waiting) (o : Waiting) : Bool := ((r.restart.bind fun y => y.shrink).map fun c => c == (o.launch, o.lin)).getD false
    let all := res ++ ord
    let first := all.filter fun o => res.any fun r => cause r o
    first ++ all.filter fun o => !first.contains o

/-- The priority at and below which a hold for starvation lets a leaf place no other block, while the block it is for still waits (R307). -/
def State.starvePrio (s : State) (leaf : Nat) : Option Nat :=
  (s.dispOf leaf).starve.bind fun h => ((s.waiting leaf).find? fun w => w.launch == h.1 && w.lin == h.2).map Waiting.prio

/-- A hold for starvation forbids a block (R307). -/
def State.starved (s : State) (leaf : Nat) (w : Waiting) : Bool :=
  (s.dispOf leaf).starve != some (w.launch, w.lin) && ((s.starvePrio leaf).map fun p => decide (w.prio ≤ p)).getD false

/-- Notes a placement at a dispatcher. -/
def State.dispPlaced (s : State) (leaf : Nat) (w : Waiting) (core : Nat) : State :=
  let d := s.dispOf leaf
  { s with disp := s.disp.put leaf { d with
      last := some (core % 128), lastAt := some s.clock, turn := d.turn.put w.prio w.launch,
      head := if d.head == some (w.launch, w.lin) then none else d.head,
      starve := if d.starve == some (w.launch, w.lin) then none else d.starve } }

/-- Places one waiting block on a leaf if it fits: a gang's domain is reserved as a whole first (R304, R306). -/
def State.tryPlace (s : State) (leaf : Nat) (w : Waiting) : Option State :=
  match s.launches.get? w.launch with
  | none => none
  | some l =>
    if l.gang && decide (0 < l.dlevel) && w.restart.isNone then
      let leaves := if l.dlevel ≤ 2 then [leaf] else [0, 1, 2, 3]
      if leaves.any fun y => !(s.dispOf y).gang.isEmpty then none
      else
        (s.reserve w.launch l leaves (l.gangBlocks w.lin)).map fun r =>
          let held := (r.1.launches.get? w.launch).getD l
          { s with
            launches := s.launches.upd w.launch (fun l => { l with claims := held.claims, next := held.next }),
            disp := leaves.foldl (fun d y =>
              d.put y { s.dispOf y with gang := (r.2.filter fun x => x.1 == y).map Prod.snd }) s.disp }
    else
      (s.fitLeaf l leaf w.lin l.vpref).map fun x =>
        ((s.putBlock w.launch w.lin x.1 x.2.1 x.2.2 w.restart).claim w.launch leaf w.lin x.2.1).dispPlaced leaf w x.2.1

/-- Places the next block of a reserved gang. -/
def State.placeGang (s : State) (leaf : Nat) (p : Placing) (rest : List Placing) : State :=
  match if s.frozen p.launch then none else s.launches.get? p.launch with
  | none => { s with disp := s.disp.put leaf { s.dispOf leaf with gang := [] } }
  | some l =>
    match (l.vars[p.variant]?).bind fun v => (s.coreRes p.core).fit l.asid v with
    | none => s
    | some f =>
      let s := ((s.putBlock p.launch p.lin p.variant p.core f none).claim p.launch leaf p.lin p.core).dispPlaced leaf
        ⟨p.launch, l.prio, p.lin, none⟩ p.core
      { s with disp := s.disp.put leaf { s.dispOf leaf with gang := rest } }

/-- A dispatcher's placement cycle has come: one block at most every 8 cycles (R303). -/
def State.placeCycle (s : State) (leaf : Nat) : Bool :=
  (match (s.dispOf leaf).lastAt with
    | none => true
    | some c => decide (c + 8 ≤ s.clock))
    && (List.range 4).all fun y => decide (y ≤ leaf) || (s.dispOf y).lastAt != some s.clock

/-- The first waiting block of a leaf for which q holds and that can be placed now, with its priority (R303, R304, R306). -/
def State.placeOne (s : State) (leaf : Nat) (q : Waiting → Bool) : Option (Nat × State) :=
  (s.waiting leaf).findSome? fun w => if s.starved leaf w || !q w then none else (s.tryPlace leaf w).map fun s => (w.prio, s)

/-- The leaf's highest-priority waiting block. -/
def State.headOf (s : State) (leaf : Nat) : Option Waiting := (s.waiting leaf).head?

/-- Partition p has enough of everything in total for a team of a variant but lacks an aligned run, a run of window entries, or its
core a run of tiles (R307). -/
def State.fragmented (s : State) (part : Nat) (asid : BitVec 16) (v : Variant) : Bool :=
  let r := s.partRes part
  let c := s.coreRes (part / 4)
  let ga := granules v.lanes v.budgets.1
  let gb := granules v.lanes v.budgets.2.1
  let gm := granules v.lanes v.budgets.2.2
  let wins := r.wins.map fun w => (w.2.2.1, w.2.2.2)
  let lack (cap al : Nat) (used : List (Nat × Nat)) (g : Nat) : Bool := (lowRun cap al used g).isNone
  !r.slots.isEmpty && decide (ga ≤ freeCount 128 r.va) && decide (gb ≤ freeCount 64 r.vb) && decide (gm ≤ freeCount 32 r.vm)
    && (lack 128 (runAlign ga) r.va ga || lack 64 (runAlign gb) r.vb gb || lack 32 (runAlign gm) r.vm gm
      || ((r.window asid v).isNone && decide (v.win ≤ freeCount 480 wins))
      || (lack 64 1 c.tiles v.nt && decide (v.nt ≤ freeCount 64 c.tiles)))

/-- The first variant of the leaf's waiting block that finds a partition fragmented. -/
def State.fragVariant (s : State) (part : Nat) : Option (Nat × Nat) :=
  match s.headOf (part / 512) with
  | none => none
  | some w =>
    match s.launches.get? w.launch with
    | none => none
    | some l => (l.vpref.find? fun vi => ((l.vars[vi]?).map fun v => s.fragmented part l.asid v).getD false).map fun vi => (w.launch, vi)

/-- A partition can take one team of the variant that caused its hold. -/
def State.holdOver (s : State) (part : Nat) (h : Nat × Nat) : Bool :=
  match s.launches.get? h.1 with
  | none => true
  | some l =>
    match l.vars[h.2]? with
    | none => true
    | some v => ({ s.partRes part with hold := false }.fit (part % 4) l.asid v).isSome

/-- DRAIN_HOLD (R307): a partition whose FRAG has reached 50,000 takes no new team until one of the variant that caused it would fit. -/
def execDrainHold (part : Nat) (s : State) : Host.Outcome State Fault Refusal :=
  .next (match s.parts.get? part with
    | none => s
    | some p =>
      match p.hold with
      | some h => if s.holdOver part h then s.updPart part fun p => { p with hold := none, frag := 0 } else s
      | none =>
        if p.frag < 50000 then s
        else
          match s.fragVariant part with
          | none => s
          | some h => s.updPart part fun p => { p with hold := some h })

/-- The clock a block began to wait at a leaf. -/
def Dispatcher.since (d : Dispatcher) (h : Nat × Nat) : Option Nat := (d.waits.find? fun x => x.1 == h.1 && x.2.1 == h.2).map fun x => x.2.2

/-- A block has waited a number of cycles at a leaf. -/
def Dispatcher.waited (d : Dispatcher) (h : Nat × Nat) (n clock : Nat) : Bool := ((d.since h).map fun c => decide (c + n ≤ clock)).getD false

/-- STARVATION_HOLD (R307): the leaf's highest-priority waiting block has waited 1,000,000 cycles. -/
def execStarvationHold (leaf : Nat) (s : State) : Host.Outcome State Fault Refusal :=
  .next (let d := s.dispOf leaf
    match d.head with
    | some h => if d.starve.isNone && d.waited h 1000000 s.clock then { s with disp := s.disp.put leaf { d with starve := some h } } else s
    | none => s)

/-- The waiting counters of a leaf in one cycle: who waits and since when, and FRAG of each of its partitions, which grows only in a cycle in
which the leaf's waiting block was not placed (R307, R309). -/
def State.waitTick (s : State) (leaf : Nat) : State :=
  let d := s.dispOf leaf
  let keys := (s.waiting leaf).map fun w => (w.launch, w.lin)
  let h := keys.head?
  let placed := d.head.isNone && d.lastAt == some s.clock
  let d' := { d with
    head := h, waits := keys.map fun k => (k.1, k.2, (d.since k).getD s.clock), idle := if h.isSome then s.clock + 1 else d.idle,
    starve := d.starve.filter keys.contains }
  let s := if d' = d then s else { s with disp := s.disp.put leaf d' }
  { s with parts := s.parts.map fun x : Nat × Part =>
      if x.1 / 512 = leaf then
        let up := h.isSome && !placed && x.2.hold.isNone && (s.fragVariant x.1).isSome
        (x.1, if x.2.hold.isSome then x.2 else { x.2 with frag := if up then min (x.2.frag + 1) 50000 else 0 })
      else x }

/-! ## Switch flags (R309) -/

/-- A variant needs no more than another of any resource. -/
def Variant.within (v w : Variant) : Bool :=
  let g (x : Variant) (b : Nat) : Nat := x.nteams * granules x.lanes b
  decide (v.nt ≤ w.nt) && decide (v.na ≤ w.na) && decide (v.nteams ≤ w.nteams) && decide (g v v.budgets.1 ≤ g w w.budgets.1)
    && decide (g v v.budgets.2.1 ≤ g w w.budgets.2.1) && decide (g v v.budgets.2.2 ≤ g w w.budgets.2.2) && decide (v.win ≤ w.win)

/-- The states with a block placed as a variant, on each core of its leaf on which it then fits (R304). -/
def State.asVariant (s : State) (k : Nat) (b : Block) (l : Launch) (vi : Nat) (v : Variant) : List State :=
  let s := s.removeBlock k
  ((List.range 128).map fun i => b.core / 128 * 128 + i).filterMap fun core =>
    if s.eligible l b.lin core then ((s.coreRes core).fit b.asid v).map fun f => s.putBlock b.launch b.lin vi core f none else none

/-- Shrink: the block that waits would fit if this one were placed as a variant that needs no more than now. -/
def State.shrinkHolds (s : State) (leaf k : Nat) (b : Block) (l : Launch) : Bool :=
  let d := s.dispOf leaf
  match s.headOf leaf, l.vars[b.variant]? with
  | some w, some now =>
    d.waited (w.launch, w.lin) 4096 s.clock && decide (l.prio ≤ w.prio)
      && l.vpref.any fun vi => ((l.vars[vi]?).map fun v => v.within now &&
        (s.asVariant k b l vi v).any fun s' => (s'.tryPlace leaf w).isSome).getD false
  | _, _ => false

/-- Grow: an earlier variant would fit in what the block holds together with what is free. -/
def State.growHolds (s : State) (leaf k : Nat) (b : Block) (l : Launch) : Bool :=
  (s.headOf leaf).isNone && decide ((s.dispOf leaf).idle + 65536 ≤ s.clock)
    && (l.vpref.takeWhile fun vi => vi != b.variant).any fun vi => ((l.vars[vi]?).map fun v => !(s.asVariant k b l vi v).isEmpty).getD false

/-- The condition under which a block is flagged: none, grow, or shrink for the block that waits. -/
def State.flagCause (s : State) (leaf k : Nat) (b : Block) : Option (Option (Nat × Nat)) :=
  match s.launches.get? b.launch with
  | none => none
  | some l =>
    let declared := ((l.vars[b.variant]?).map fun v => !v.sw.isEmpty).getD false
    if l.gang || !declared || b.stop || b.settled then none
    else if s.shrinkHolds leaf k b l then (s.headOf leaf).map fun w => some (w.launch, w.lin)
    else if s.growHolds leaf k b l then some none else none

/-- SWITCH_FLAG (R309): the dispatcher flags one block of its leaf, or withdraws its flag when the condition has lapsed before a team
stopped. -/
def execSwitchFlag (leaf : Nat) (s : State) : Host.Outcome State Fault Refusal :=
  .next (let d := s.dispOf leaf
    let put (s : State) (f : Option Nat) : State := { s with disp := s.disp.put leaf { s.dispOf leaf with flag := f } }
    match d.flag with
    | some k =>
      (match s.blocks.get? k with
        | none => put s none
        | some b =>
          if !b.flagged then put s none
          else if b.switches.isEmpty && (s.flagCause leaf k b).isNone then put (s.withdrawSwitch k) none else s)
    | none =>
      match s.blocks.findSome? fun x => if x.2.core / 128 = leaf then (s.flagCause leaf x.1 x.2).map fun c => (x.1, c) else none with
      | none => s
      | some (k, c) => put (s.updBlock k fun b => { b with flagged := true, shrink := c }) (some k))

end Sys2Proof.Machine
end

