-- ==== Sys2Proof/Machine/ContextImage.lean ====
section
/-!
DEFINITION. Images of blocks and launches (R331, R334, R423): what a save writes and what a restore reads back. Sub-layouts that the
spec leaves open are the model's own (log entry 30).
-/
namespace Sys2Proof.Machine

/-! ## Pieces of an image -/

/-- A flag as a number. -/
def bit01 (b : Bool) : Nat := if b then 1 else 0

/-- Bytes with their poison. -/
abbrev Piece := List Byte × Bool

/-- n items in order, in one piece unless one of them is poisoned. -/
def pieces (n : Nat) (val : Nat → List Byte) (poi : Nat → Bool) : List Piece :=
  if (List.range n).any poi then (List.range n).map fun i => (val i, poi i) else [((List.range n).flatMap val, false)]

/-- Words in order. -/
def words (l : List Word) : List Piece := [(l.flatMap fun w => leBytes 8 w, false)]

/-- Bytes of pieces. -/
def pieceLen (l : List Piece) : Nat := (l.map fun x => x.1.length).sum

/-- The next multiple of 64. -/
def pad64 (n : Nat) : Nat := (n + 63) / 64 * 64

/-- A poison bit as a Bool. -/
def SMap.bit (m : SMap 1) (k : Nat) : Bool := m.get k != 0

/-! ## Operations in an image -/

/-- Operations of a team in its list before operation id, on its stream and not counted yet. -/
def Team.behind (t : Team) (o : MemOp) : Nat :=
  ((t.ops.takeWhile fun x => x.id != o.id).filter fun x => x.str == o.str && x.issued && !x.counted).length

/-- The streams that an operation still has edges from, as a mask. -/
def Team.edgeMask (t : Team) (o : MemOp) : Nat :=
  (List.range 8).foldl (fun m j => if t.ops.any fun x => o.preds.contains x.id && x.str == j && !x.done then m + 2 ^ j else m) 0

/-- The word that describes an outstanding operation: stream, mask of the streams it has edges from, scope, a field of the
record's own, team index and issue number on the stream. -/
def Team.opWord (t : Team) (o : MemOp) (pm aux : Nat) : Word :=
  BitVec.ofNat 64 (o.str % 8 + 2 ^ 8 * pm + 2 ^ 16 * o.scp.enc.toNat + 2 ^ 20 * (t.teamid.toNat % 16) + 2 ^ 24 * (aux % 16)
    + 2 ^ 32 * (((t.dc.get o.str).toNat + t.behind o) % 2 ^ 16))

/-- An operation's place in its team's list. -/
def Team.orderOf (t : Team) (id : Nat) : Nat := (t.ops.findIdx? fun o => o.id == id).getD 0

/-- The team and operation of an id. -/
def State.opFor (s : State) (z id : Nat) : Option (Team × MemOp) :=
  (s.teams.get? z).bind fun t => (t.ops.find? fun o => o.id == id).map fun o => (t, o)

/-- The distinct destination units of a copy from its cursor on, in nest order. -/
def Copy.unitsLeft (c : Copy) : List Nat :=
  let p := c.prog'
  ((List.range (p.total - c.cursor)).map fun i => p.unit (p.dstOf (c.cursor + i))).eraseDups

/-- A copy record (R331 section 5). -/
def State.copyRecord (s : State) (c : Copy) (p : Bool) : List Piece :=
  match s.opFor c.z c.id with
  | none => []
  | some (t, o) =>
    let ix := c.prog'.index c.cursor
    let u := c.unitsLeft.take 1024
    [(leBytes 128 c.bits, p), (leBytes 8 c.oa ++ leBytes 8 c.ob ++ leBytes 8 (t.opWord o c.pm.toNat c.prog)
      ++ ((List.range 6).flatMap fun k => leBytes 4 (BitVec.ofNat 32 (ix.getD k 0)))
      ++ leBytes 8 (BitVec.ofNat 64 u.length) ++ leBytes 8 (BitVec.ofNat 64 (t.orderOf c.id))
      ++ (List.range 128).map fun i => (List.range 8).foldl (fun (m : Byte) j =>
          match u[8 * i + j]? with
          | some x => if c.finished.contains x then m ||| (1#8 <<< j) else m
          | none => m) 0, false)]

/-- A matrix command record (R331 section 6). -/
def State.cmdRecord (s : State) (c : MCmd) (pos : Nat) : List Piece :=
  match s.opFor c.z c.id with
  | none => []
  | some (t, o) =>
    [(leBytes 16 (((encodeSlot c.ins).getD 0).setWidth 128 : BitVec 128) ++ leBytes 8 c.args.oa ++ leBytes 8 c.args.ob
      ++ leBytes 8 c.args.oc ++ leBytes 8 (BitVec.ofNat 64 (bit01 c.args.vp)) ++ leBytes 16 c.args.fa ++ leBytes 16 c.args.fb ++ leBytes 8 c.args.fm
      ++ leBytes 8 c.args.cm ++ leBytes 8 (BitVec.ofNat 64 c.g) ++ leBytes 8 (BitVec.ofNat 64 pos)
      ++ leBytes 8 (t.opWord o (t.edgeMask o) 0) ++ leBytes 8 (BitVec.ofNat 64 (t.orderOf c.id)), false)]

/-- A posted receive (R331 section 7): its message unit has it, since its operation is performed before the image is written (R249). -/
def Team.recvRecord (t : Team) (r : Receive) : List Piece :=
  words [BitVec.ofNat 64 r.buf, r.mword, r.lword, BitVec.ofNat 64 (2 ^ 20 * (t.teamid.toNat % 16))]

/-- An overflow-queue message (R331 section 8). -/
def Msg.record (m : Msg) : List Piece :=
  let mask := (List.range 64).foldl (fun n i => if m.poison.getD i false then n + 2 ^ i else n) 0
  [(leBytes 8 m.dest ++ leBytes 8 m.matchWord ++ leBytes 8 (BitVec.ofNat 64 m.payload.length) ++ leBytes 8 (BitVec.ofNat 64 mask)
    ++ (List.range 256).map fun i => m.payload.getD i 0, false)]

/-! ## The per-team section (R331, R423) -/

/-- Fields of given widths as one number, the first lowest. -/
def packBits : List (Nat × Nat) → Nat
  | [] => 0
  | (w, v) :: r => v % 2 ^ w + 2 ^ w * packBits r

/-- The fields of such a number. -/
def cutBits (n : Nat) : List Nat → List Nat
  | [] => []
  | w :: r => n % 2 ^ w :: cutBits (n / 2 ^ w) r

/-- The pending asynchronous causes as a word; a pending copy fault is dropped (R330). -/
def asyncWord (l : List Async) : Word :=
  BitVec.ofNat 64 ((l.map fun a => match a with
    | .uncorrectable d => 2 ^ (d.toNat % 8)
    | .copyFault _ _ _ _ => 0
    | .msgOverflow n bad => 2 ^ 8 + 2 ^ 9 * min n 127 + 2 ^ 16 * bit01 bad
    | .singleStep => 2 ^ 17
    | .watchpoint d _ => 2 ^ 18 + 2 ^ 32 * d.toNat).sum)

/-- The address of a pending watchpoint (R380). -/
def watchAddr (l : List Async) : Nat :=
  (l.map fun a => match a with
    | .watchpoint _ a => a.toNat
    | _ => 0).sum

/-- The causes of such a word and address. -/
def asyncList (w : Word) (addr : Nat) : List Async :=
  (((List.range 8).filter fun i => w.getLsbD i).map fun i => .uncorrectable (BitVec.ofNat 32 i))
    ++ (if w.getLsbD 8 then [.msgOverflow (w.toNat / 2 ^ 9 % 128) (w.getLsbD 16)] else [])
    ++ (if w.getLsbD 18 then [.watchpoint (BitVec.ofNat 32 (w.toNat / 2 ^ 32)) (BitVec.ofNat 64 addr)] else [])
    ++ (if w.getLsbD 17 then [.singleStep] else [])

/-- Widths of the fields of an undone word. -/
def keepWidths : List Nat := [1, 1, 57, 1, 1, 1, 1, 1, 1, 1, 2, 32, 1, 1, 1, 5, 64, 64, 57]

/-- What a word in progress has decided so far (R125, R131, R333): whether there is one, the target taken or else the next parcel of its
loop end, which counts that loop end steps and whether they reach 0, which it has written itself, its trap, end, return and clears,
and its counts and address. -/
def keepFields (k : Option Keep) : List Nat :=
  match k with
  | none => keepWidths.map fun _ => 0
  | some k =>
    let le := loopEnd k.snap k.pc k.npc
    [1, bit01 k.taken.isSome, (k.taken.getD le.1).toNat, bit01 (le.2.1 != k.snap.lc0), bit01 (le.2.2.1 != k.snap.lc1),
      bit01 (le.2.1 == 0), bit01 (le.2.2.1 == 0), bit01 k.lcw0, bit01 k.lcw1, bit01 k.trap.isSome, (k.trap.map Prod.fst).getD 0,
      ((k.trap.map Prod.snd).getD 0).toNat, bit01 k.fin, bit01 k.eret, bit01 k.dinv, k.hclr.toNat, k.snap.lc0.toNat, k.snap.lc1.toNat,
      k.pc.toNat]

/-- An undone word from its fields: its loop registers give the loop end that the saved ones gave. -/
def keepOf (l : List Nat) : Option Keep :=
  let g (i : Nat) : Nat := l.getD i 0
  let on (i : Nat) : Bool := g i == 1
  let w (i : Nat) : Word := BitVec.ofNat 64 (g i)
  let pc := w 18
  let off := pc ^^^ 2
  let count (dec gone wrote lc : Nat) : Word := if !on dec then 0 else if on wrote then (if on gone then 1 else 2) else w lc
  let inner := on 4 && !on 6
  if !on 0 then none
  else
    some ⟨if on 1 then some (w 2) else none,
      ⟨count 3 5 7 16, if inner then 0 else w 2, if on 3 then pc else off, count 4 6 8 17, w 2, if on 4 then pc else off⟩,
      pc, if on 1 || inner || (on 3 && !on 5) then off else w 2, on 7, on 8, if on 9 then some (g 10, w 11) else none, on 12, on 13,
      BitVec.ofNat 5 (g 15), on 14⟩

/-- What of a team its image keeps in the bits that the items of R423 leave unused: the undone parts of its present word and, in trap
mode, of the interrupted one, that word's resume pass and occupied positions, its active tasks, the address of a
pending watchpoint, and whether it is stopped at a switch point. Of the present word the counts and the address stand elsewhere in the section. -/
def Team.extra (t : Team) (stopped : Bool) : Nat :=
  packBits ((keepWidths.zip (keepFields t.keep)).take 16 ++ keepWidths.zip (keepFields t.userKeep)
    ++ [(5, t.userPass), (3, t.userOcc.toNat), (3, t.occ.toNat), (14, t.activeTasks), (57, watchAddr t.async), (1, bit01 stopped)])

/-- The fields of that number. -/
def extraFields (n : Nat) : List Nat := cutBits n (keepWidths.take 16 ++ keepWidths ++ [5, 3, 3, 14, 57, 1])

/-- The barrier record of a level, with 62 bits of the team's extra number. -/
def Team.barWord (t : Team) (stopped : Bool) (k : Nat) : Word :=
  let r := t.bars.getD k ⟨false, false⟩
  BitVec.ofNat 64 (bit01 r.arrived + 2 * bit01 r.gen + 4 * (t.extra stopped / 2 ^ (62 * k) % 2 ^ 62))

/-- A held record (R66), with 47 bits of the team's extra number. -/
def Team.heldRecord (t : Team) (stopped : Bool) (k : Nat) : BitVec 128 :=
  (match t.held.get? k with
    | some x => (x.setWidth 128 : BitVec 128) ||| (1#128 <<< 80)
    | none => 0#128) ||| (BitVec.ofNat 128 (t.extra stopped / 2 ^ (310 + 47 * (k - 1)) % 2 ^ 47) <<< 81)

/-- TSTAT (R52). -/
def Team.tstat (t : Team) : Word := (if t.tmode then 1 else 0) ||| (if t.nest then 2 else 0)

/-- The window list of a team (R78): sets in ascending order, each from least to most recent. -/
def State.windowList (s : State) (z : Nat) (t : Team) : List Nat :=
  match s.parts.get? (partOf z) with
  | none => []
  | some p =>
    let w := userWin t.dwinU t.dbaseU
    (List.range w.sets).flatMap fun i => (p.lru.getD (w.base + 4 * i) []).filterMap fun e =>
      (p.table.get? e).bind fun x => if !x.sys && x.base == w.dict && x.asid == t.asid then some x.token else none

/-- The frame a halted team's image holds; a stop names the command it is saved by (R320, R328). -/
def Team.imageFrame (t : Team) (detail : BitVec 32) : FrameHead :=
  let h := t.haltFrame.getD (t.stopFrame detail)
  if h.flt.cause = 0x17 then { h with flt := { h.flt with detail := detail } } else h

/-- Registers of budget size, each as W elements. -/
def Team.laneFile (t : Team) (n : Nat) (m : SMap 32) (p : SMap 1) : List Piece :=
  pieces (n * t.width) (fun i => leBytes 4 (m.get (elemKey (i / t.width) (i % t.width)))) fun i => p.bit (elemKey (i / t.width) (i % t.width))

/-- A per-team section. -/
def State.teamSection (s : State) (win : Bool) (detail : BitVec 32) (z : Nat) : List Piece :=
  match s.teams.get? z with
  | none => []
  | some t =>
    if t.ended then []
    else
      let rep := t.replayList
      let fb := frameBytes t (t.imageFrame detail) t.held rep
      let head := (fb.filter fun x => decide (x.1 < 0x970)).flatMap fun x => x.2.1
      let recs := (fb.filter fun x => decide (0xA00 ≤ x.1)).map Prod.snd
      let l := s.windowList z t
      let stopped := ((s.blocks.get? t.blk).map fun b => b.switches.any fun x => x.1 == z).getD false
      [(head ++ leBytes (0xA00 - head.length) (0#8), false)] ++ recs
        ++ pieces 64 (fun i => leBytes 8 (t.s.get i)) t.sP.bit ++ pieces 32 (fun i => leBytes 8 (t.a.get i)) t.aP.bit
        ++ pieces 8 (fun i => leBytes 16 (t.f.get i)) t.fP.bit
        ++ words [t.loop.lc0, t.loop.ls0, t.loop.le0, t.loop.lc1, t.loop.ls1, t.loop.le1]
        ++ pieces 8 (fun i => leBytes 2 (t.ic.get i)) (fun _ => false) ++ pieces 8 (fun i => leBytes 2 (t.dc.get i)) (fun _ => false)
        ++ words [t.fmode, t.compat, t.dwin, t.dbase, t.trapvec, t.tcyc, t.tstat, BitVec.ofNat 64 t.resumePass]
        ++ words ((List.range 5).map (t.barWord stopped)) ++ words [asyncWord t.async]
        ++ pieces 5 (fun k => leBytes 16 (t.heldRecord stopped (heldKinds.getD k 0))) (fun _ => false)
        ++ t.laneFile t.nva t.va t.vaP ++ t.laneFile t.nvb t.vb t.vbP ++ t.laneFile t.nvm t.vm t.vmP
        ++ (if win then
              [(leBytes 8 (BitVec.ofNat 64 l.length) ++ (l.flatMap fun n => leBytes 2 (BitVec.ofNat 16 n))
                ++ leBytes ((8 - 2 * l.length % 8) % 8) (0#8), false)]
            else [])

/-! ## A block's image (R331, R423) -/

/-- Sections 0 to 8. -/
def State.blockSections (s : State) (b : Block) (blk : Nat) : List (List Piece) :=
  let cs := s.copies.filter fun c => c.blk == blk
  let ms := ((s.cores.get? b.core).map fun k => k.mq.filter fun m => m.blk == blk).getD []
  let ov := ((s.cores.get? b.core).map fun k => k.overflow.filter fun m => m.toBlock b.launch b.lin).getD []
  [ pieces 64 (fun i => leBytes 4 (b.tiles.get i)) b.tileP.bit ++ pieces 8 (fun i => leBytes 2 (b.accBusy.get i)) (fun _ => false),
    pieces (2048 * b.nt) (fun i => s.readSpad (b.key (4 * i)) 4) fun i => s.spadP.bit (b.key (4 * i) / 4),
    b.accs.zipIdx.flatMap fun x => pieces 4096 (fun i => leBytes 4 (s.acc.get (b.accKey x.2 (i / 64) (i % 64))))
      fun i => s.accP.bit (b.accKey x.2 (i / 64) (i % 64)),
    pieces 8 (fun i => leBytes 8 (b.q.get i)) b.qP.bit,
    pieces 16 (fun i => leBytes 128 (b.cp.get i)) b.cpP.bit,
    cs.flatMap fun c => s.copyRecord c false,
    ms.zipIdx.flatMap fun x => s.cmdRecord x.1 x.2,
    b.teams.flatMap fun z => ((s.teams.get? z).map fun t => t.recv.flatMap t.recvRecord).getD [],
    ov.flatMap Msg.record ]

/-- The header (R331). The unused bits of its first word hold the variant and which teams have ended. -/
def State.blockHeader (s : State) (b : Block) (win : Bool) (sect : List (Nat × Nat)) : List Byte :=
  match s.launches.get? b.launch with
  | none => []
  | some l =>
    let ended := b.teams.zipIdx.foldl (fun n x => if ((s.teams.get? x.1).map Team.ended).getD true then n + 2 ^ x.2 else n) 0
    let k := match b.switches with
      | x :: _ => 2 + 4 * (x.2.toNat % 256)
      | [] => 0
    (words [BitVec.ofNat 64 (0x49424358 + 2 ^ 32 + 2 ^ 40 * b.variant + 2 ^ 48 * ended),
      BitVec.ofNat 64 (b.launch % 2 ^ 32 + 2 ^ 32 * l.queue), BitVec.ofNat 64 (l.bits 0 0 57), BitVec.ofNat 64 b.lin, l.blkpos b.lin,
      ((l.vars[b.variant]?).map Variant.shape).getD 0, l.domr b.lin,
      BitVec.ofNat 64 ((if win then 1 else 0) + k + (if b.barGen then 2 ^ 10 else 0) + 2 ^ 11 * (b.barEnd % 32) + 2 ^ 32 * b.barArr)]
      ++ words (sect.map fun x => BitVec.ofNat 64 (x.1 + 2 ^ 32 * x.2)) ++ words (List.replicate 8 0)).flatMap Prod.fst

/-- Lays sections out from an offset, each padded to 64: their offsets and lengths, and where the last one's padding ends. -/
def laySections (off : Nat) (l : List (List Piece)) : List (Nat × List Piece) × Nat :=
  l.foldl (fun (a : List (Nat × List Piece) × Nat) x => (a.1 ++ [(a.2, x)], pad64 (a.2 + pieceLen x))) ([], off)

/-- A block's image: its pieces by offset, and its size. -/
def State.blockImage (s : State) (blk : Nat) (b : Block) (win : Bool) (detail : BitVec 32) : List (Nat × Piece) × Nat :=
  let team (i : Nat) : List Piece := ((b.teams[i]?).map fun z => s.teamSection win detail z).getD []
  let x := laySections 256 (s.blockSections b blk ++ (List.range 7).map team)
  let many := decide (7 < b.teams.length)
  let e := laySections (x.2 + 192) (if many then (List.range 9).map fun i => team (7 + i) else [])
  let table := (e.1.flatMap fun y => leBytes 8 (if y.2.isEmpty then 0#64 else BitVec.ofNat 64 (y.1 + 2 ^ 32 * pieceLen y.2)) ++ leBytes 8 (0#64))
  let last := (e.1.filter fun y => !y.2.isEmpty).foldl (fun n y => max n (y.1 + pieceLen y.2)) (x.2 + 144)
  let sect := x.1.zipIdx.map fun y => (y.1.1, if many && y.2 == 15 then last - y.1.1 else pieceLen y.1.2)
  let all := [(0, ([(s.blockHeader b win sect, false)] : List Piece))] ++ x.1 ++ (if many then [(x.2, [(table, false)])] ++ e.1 else [])
  (all.flatMap fun y => (layPieces y.1 y.2).map fun p => (p.1, p.2.1, p.2.2), if many then pad64 last else x.2)

/-- Writes an image at a physical address, its padding zero. -/
def State.writeImage (s : State) (base size : Nat) (l : List (Nat × Piece)) : State :=
  l.foldl (fun s x => s.writeMem (base + x.1) x.2.1 x.2.2) (s.writeMem base (List.replicate size 0) false)

/-! ## Reading a team back (R333) -/

/-- A word of physical memory at an offset. -/
def State.imgWord (s : State) (base off : Nat) : Word := s.mem64 (base + off)

/-- n items of k bytes from an offset as a store, with their poison. -/
def State.imgMap (s : State) (base off n k w : Nat) (key : Nat → Nat) : SMap w × SMap 1 :=
  (List.range n).foldl (fun (m : SMap w × SMap 1) i =>
    (m.1.set (key i) (BitVec.ofNat w (leNat (s.readMem (base + off + k * i) k))),
      m.2.set (key i) (pBit (s.memPoisoned (base + off + k * i) k)))) ([], [])

/-- A team from its section: the team, its window list, whether its replay descriptors are valid, the section's length, and whether
it was stopped at a switch point. -/
def State.readTeam (s : State) (base off : Nat) (win : Bool) (t : Team) : Team × List Nat × Bool × Nat × Bool :=
  let head := s.readMem (base + off) 0x100
  let n := min (leNat ((head.drop 0x38).take 1)) 135
  let ds := (List.range n).map fun i => field128 (s.readMem (base + off + 0x100 + 16 * i) 16) 0
  let good := ds.all t.rdOk
  let land := ds.map fun d =>
    let x := rdLanding d 0
    let at_ := base + off + rdBits d 32 32
    { x with vals := x.parse t (s.readMem at_ (x.recLen t)) fun o => s.memPoisoned (at_ + o) 1 }
  let o1 := off + 0xA00 + (land.map fun x => x.recLen t).sum
  let w (i : Nat) : Word := s.imgWord base (o1 + 896 + 8 * i)
  let c (i : Nat) : BitVec 16 := BitVec.ofNat 16 (leNat (s.readMem (base + o1 + 944 + 2 * i) 2))
  let m (i : Nat) : Word := s.imgWord base (o1 + 976 + 8 * i)
  let bw (i : Nat) : Word := s.imgWord base (o1 + 1040 + 8 * i)
  let loop : LoopRegs := ⟨w 0, w 1, w 2, w 3, w 4, w 5⟩
  let hr (k : Nat) : BitVec 128 := field128 (s.readMem (base + o1 + 1088 + 16 * k) 16) 0
  let held := (heldKinds.zip (List.range 5)).foldl (fun (h : AL SlotBits) x =>
    if (hr x.2).getLsbD 80 then h.put x.1 ((hr x.2).setWidth 80) else h) []
  let extra := ((List.range 5).map fun k => (bw k).toNat / 4 * 2 ^ (62 * k) + (hr k).toNat / 2 ^ 81 * 2 ^ (310 + 47 * k)).sum
  let x := extraFields extra
  let pc := field64 head 8 &&& 0x01FFFFFFFFFFFFFE#64
  let o2 := o1 + 1168
  let key (i : Nat) : Nat := elemKey (i / t.width) (i % t.width)
  let xs := s.imgMap base o1 64 8 64 id
  let xa := s.imgMap base (o1 + 512) 32 8 64 id
  let xf := s.imgMap base (o1 + 768) 8 16 128 id
  let va := s.imgMap base o2 (t.nva * t.width) 4 32 key
  let vb := s.imgMap base (o2 + 4 * t.nva * t.width) (t.nvb * t.width) 4 32 key
  let vm := s.imgMap base (o2 + 4 * (t.nva + t.nvb) * t.width) (t.nvm * t.width) 4 32 key
  let o3 := o2 + 4 * (t.nva + t.nvb + t.nvm) * t.width
  let k := (s.imgWord base o3).toNat % 2 ^ 16
  let list := if win then (List.range k).map fun i => leNat (s.readMem (base + o3 + 8 + 2 * i) 2) else []
  let h0 := field64 head 0
  let done : BitVec 3 := BitVec.ofNat 3 (h0.toNat / 2 ^ 10)
  let dwin := (t.dwin &&& 0xFFFFFFFF#64) ||| (m 2 &&& 0xFFFFFFFF00000000#64)
  ({ t with
      s := xs.1, sP := xs.2, a := xa.1, aP := xa.2, f := xf.1, fP := xf.2, va := va.1, vaP := va.2, vb := vb.1, vbP := vb.2,
      vm := vm.1, vmP := vm.2, loop := loop, ic := (List.range 8).foldl (fun (x : SMap 16) i => x.set i (c i)) [],
      dc := (List.range 8).foldl (fun (x : SMap 16) i => x.set i (c (8 + i))) [], fmode := m 0 &&& fmodeMask, compat := m 1 &&& 3, dwin := dwin, dwinU := dwin,
      dbase := m 3 &&& dbaseMask, dbaseU := m 3 &&& dbaseMask, trapvec := m 4 &&& 0x01FFFFFFFFFFFFFE#64, tcyc := field64 head 0x20, tmode := (m 6).getLsbD 0, nest := (m 6).getLsbD 1,
      resumePass := (m 7).toNat % 32, userPass := x.getD 35 0, userOcc := BitVec.ofNat 3 (x.getD 36 0),
      occ := BitVec.ofNat 3 (x.getD 37 0),
      bars := (List.range 5).foldl (fun (x : AL BarRec) i =>
        if (bw i).getLsbD 0 then x.put i ⟨true, (bw i).getLsbD 1⟩ else x) [],
      async := asyncList (bw 5) (x.getD 39 0), activeTasks := x.getD 38 0, held := held, pc := pc,
      done := done, part2 := h0.getLsbD 14, land := if good then land else [],
      keep := keepOf (x.take 16 ++ [loop.lc0.toNat, loop.lc1.toNat, pc.toNat]), userKeep := keepOf ((x.drop 16).take 19), nobp := true },
    list, good, o3 + (if win then 8 + (2 * k + 7) / 8 * 8 else 0) - off, x.getD 40 0 == 1)

/-! ## Operations of a restored team -/

/-- An outstanding operation of an image: its order in the team's list, its describing word, its kind and scratchpad use. -/
structure SavedOp where
  order : Nat
  word : Word
  kind : OpKind
  writes : Bool
  reads : Bool
  deriving DecidableEq, Repr, Inhabited

/-- Number of the operation in the restored device: base, team index, order. -/
def savedId (base : Nat) (w : Word) (order : Nat) : Nat := base + 2 ^ 21 * (w.toNat / 2 ^ 20 % 16) + order

/-- A restored operation. -/
def SavedOp.op (x : SavedOp) (base : Nat) (earlier : List SavedOp) : MemOp :=
  { id := savedId base x.word x.order, kind := x.kind, str := x.word.toNat % 8,
    preds := (earlier.filter fun y => x.word.getLsbD (8 + y.word.toNat % 8)).map fun y => savedId base y.word y.order,
    scp := Scope.dec (BitVec.ofNat 2 (x.word.toNat / 2 ^ 16)), accs := [], got := [], perf := 0, mse := 0, issued := true, arrived := false,
    done := false, counted := false, writesSpad := x.writes, readsSpad := x.reads, data := [], dataP := false, soa := 0, tcyc := 0, hits := [],
    sentAt := 0, readyAt := 0 }

/-- A completed operation that an earlier one of its stream keeps from being counted (R238). -/
def doneOp (id str : Nat) : MemOp :=
  { id := id, kind := .prefetch, str := str, preds := [], scp := .core, accs := [], got := [], perf := 4, mse := 0, issued := true,
    arrived := false, done := true, counted := false, writesSpad := false, readsSpad := false, data := [], dataP := false, soa := 0,
    tcyc := 0, hits := [], sentAt := 0, readyAt := 0 }

/-- The operations of a stream numbered from n on, k of them, complete. -/
def doneRun (base str : Nat) (n : BitVec 16) (k : Nat) : List MemOp :=
  (List.range k).map fun i => doneOp (base + 2 ^ 20 + 2 ^ 16 * str + (n.toNat + i) % 2 ^ 16) str

/-- A restored team's list of operations (R39, R238): between D and I of each stream those of the image, the others complete. -/
def Team.restoreOps (t : Team) (base : Nat) (l : List SavedOp) : Team :=
  let tb := base + 2 ^ 21 * (t.teamid.toNat % 16)
  let r := l.foldl (fun (a : SMap 16 × List MemOp × List SavedOp) x =>
    let j := x.word.toNat % 8
    let no : BitVec 16 := BitVec.ofNat 16 (x.word.toNat / 2 ^ 32)
    let at_ := a.1.get j
    (a.1.set j (no + 1), a.2.1 ++ doneRun tb j at_ (no - at_).toNat ++ [x.op base a.2.2], a.2.2 ++ [x])) (t.dc, [], [])
  { t with ops := r.2.1 ++ (List.range 8).flatMap fun j => doneRun tb j (r.1.get j) (t.ic.get j - r.1.get j).toNat }

/-! ## A launch's image (R334) -/

/-- A list of pairs as words, its length first. -/
def encPairs (l : List (Nat × Nat)) : List Word :=
  BitVec.ofNat 64 l.length :: l.flatMap fun x => [BitVec.ofNat 64 x.1, BitVec.ofNat 64 x.2]

/-- A list of numbers as words, its length first. -/
def encNats (l : List Nat) : List Word := BitVec.ofNat 64 l.length :: l.map fun x => BitVec.ofNat 64 x

/-- Reads a list of numbers. -/
def decNats (l : List Word) : List Nat × List Word :=
  let n := (l.headD 0).toNat
  (((l.drop 1).take n).map BitVec.toNat, l.drop (1 + n))

/-- Numbers in pairs. -/
def pairUp : List Nat → List (Nat × Nat)
  | a :: b :: r => (a, b) :: pairUp r
  | _ => []

/-- Reads a list of pairs. -/
def decPairs (l : List Word) : List (Nat × Nat) × List Word :=
  let n := 2 * (l.headD 0).toNat
  (pairUp (((l.drop 1).take n).map BitVec.toNat), l.drop (1 + n))

/-- The runs of consecutive numbers of a list in ascending order: where each begins, and how long it is. -/
def runsOf : List Nat → List (Nat × Nat)
  | [] => []
  | a :: r => match runsOf r with
    | (b, n) :: t => if b = a + 1 then (a, n + 1) :: t else (a, 1) :: (b, n) :: t
    | [] => [(a, 1)]

/-- The numbers of such runs. -/
def runList (l : List (Nat × Nat)) : List Nat := l.flatMap fun x => (List.range x.2).map fun i => x.1 + i

/-- Numbers in ascending order. -/
def ascending (l : List Nat) : List Nat := l.mergeSort fun x y => decide (x ≤ y)

/-- A span of blocks holds one that has not ended. -/
def Launch.openSpan (l : Launch) (sp : Nat × Nat) : Bool :=
  decide ((l.ended.filter fun x => decide (sp.1 ≤ x.1) && decide (x.1 < sp.2)).length < sp.2 - sp.1)

/-- A claim is of a unit, or of a bench for a level-1 domain, that holds a block which has not ended. -/
def Launch.openClaim (l : Launch) (x : Nat × Nat) : Bool :=
  if x.1 < 2 ^ 40 then l.openSpan (if l.dlevel = 1 then l.domSpan 1 x.1 else l.domSpan 2 x.1) else l.openSpan (l.domSpan 1 (x.1 - benchKey 0))

/-- Marks a launch image. -/
def launchMagic : Nat := 0x4C424358

/-- The words of a launch image (R334): number and queue, the launch record, parameters, the next unplaced block, how many have ended, which
have been placed, ended and saved, the claims, sub-queue positions and domain barriers of what has not ended. No restart waits (log entry
54). -/
def Launch.enc (l : Launch) (n : Nat) : List Word :=
  [BitVec.ofNat 64 (launchMagic + 2 ^ 32), BitVec.ofNat 64 (n % 2 ^ 32 + 2 ^ 32 * l.queue)] ++ l.lr ++ encNats (l.params.map BitVec.toNat)
    ++ encNats [l.next, l.ended.length] ++ encPairs (runsOf (ascending l.placed)) ++ encPairs (runsOf (ascending (l.ended.map Prod.fst)))
    ++ encPairs l.saved ++ encPairs (l.claims.filter l.openClaim) ++ encNats (l.tq.flatMap fun x => [x.1, x.2.1, x.2.2])
    ++ encNats ((l.doms.filter fun x => l.openSpan (l.domSpan (x.1 / 2 ^ 33) (x.1 % 2 ^ 33))).flatMap fun x =>
        [x.1, x.2.arr, x.2.fin, bit01 x.2.gen])

/-- Triples in a row as sub-queue positions. -/
def decTq : List Nat → AL (Nat × Nat)
  | a :: b :: c :: r => (a, b, c) :: decTq r
  | _ => []

/-- Quadruples in a row as domain records. -/
def decDoms : List Nat → AL DomRec
  | a :: b :: c :: d :: r => (a, ⟨b, c, d == 1⟩) :: decDoms r
  | _ => []

/-- A launch from its image, on a mapped queue: of a block that has ended the count of its teams is not needed any more. -/
def decLaunch (x : QSlot) (vs : List Variant) (l : List Word) : Launch :=
  let ps := decNats (l.drop 18)
  let nx := decNats ps.2
  let pl := decPairs nx.2
  let en := decPairs pl.2
  let sv := decPairs en.2
  let cl := decPairs sv.2
  let tq := decNats cl.2
  let dm := decNats tq.2
  { mkLaunch x ((l.drop 2).take 16) vs (ps.1.map (BitVec.ofNat 64)) with
    next := nx.1.headD 0, placed := runList pl.1, ended := (runList en.1).map fun b => (b, 0), saved := sv.1, claims := cl.1,
    tq := decTq tq.1, doms := decDoms dm.1 }

end Sys2Proof.Machine
end

