-- ==== Sys2Proof/Machine/ContextEngine.lean ====
section
/-!
DEFINITION. The context engine (R324 to R334): commands, halting and settling, writing images, restoring, and the event ring; and a
dispatcher's placement, which a restore may precede (R333).
-/
namespace Sys2Proof.Machine

/-! ## Commands (R324) -/

/-- Offset of CXCMD. -/
def cxcmdOff : Nat := ctxBase + 0x18

/-- CXIMG's slots: physical address of a slot, size of a slot, number of slots. -/
def State.cxSlot (s : State) (i : Nat) : Nat := s.regBits (ctxBase + 0x10) 22 30 * 2 ^ 22 + 2 ^ (22 + s.regBits (ctxBase + 0x10) 0 2) * i

/-- Bytes of a slot. -/
def State.cxSize (s : State) : Nat := 2 ^ (22 + s.regBits (ctxBase + 0x10) 0 2)

/-- CXIMG.NSLOT. -/
def State.cxSlots (s : State) : Nat := s.regBits (ctxBase + 0x10) 52 12

/-- A block is in the target of a SAVE. -/
def State.inTarget (s : State) (kind target k : Nat) (b : Block) : Bool :=
  match kind with
  | 0 => k == target
  | 1 => b.core == target
  | 2 => ((s.launches.get? b.launch).map fun l => l.queue == target).getD false
  | 3 => b.asid.toNat == target
  | _ => true

/-- A queue of an address space is in the target of a SAVE. -/
def queueTarget (kind target q : Nat) (asid : BitVec 16) : Bool :=
  match kind with
  | 2 => q == target
  | 3 => asid.toNat == target
  | 4 => true
  | _ => false

/-- Starts a SAVE: its blocks are asked to stop (R326). -/
def State.startSave (s : State) (kind target source seq : Nat) (win : Bool) : State :=
  let bs := (s.blocks.filter fun x => s.inTarget kind target x.1 x.2).map Prod.fst
  let ls := (s.launches.filter fun x => queueTarget kind target x.2.queue x.2.asid && !x.2.over).map Prod.fst
  let qs := (s.qslots.filter fun x => queueTarget kind target x.2.queue (qrAsid x.2.qr)).map fun x => x.2.queue
  let s := { s with cx := some { save := true, source := source, seq := seq, win := win, blocks := bs, launches := ls, queues := qs } }
  bs.foldl (fun s k =>
    match s.blocks.get? k with
    | none => s
    | some b => b.teams.foldl (fun s z => s.updTeam z fun t => { t with stopReq := true }) (s.updBlock k fun b => { b with stop := true })) s

/-- A GO that is refused (R324). -/
def State.cxRefused (s : State) : Bool :=
  let r := s.reg cxcmdOff
  let op := r.toNat % 16
  r.getLsbD 9 || !(op == 1 || op == 2) || (op == 1 && decide (4 < r.toNat / 16 % 16)) || s.cxSlots == 0
    || s.cxSlot 0 % s.cxSize != 0 || (op == 2 && decide (s.cxSlots ≤ r.toNat / 2 ^ 32 % 2 ^ 12))

/-- A write of CXCMD (R324). -/
def State.cxcmdWrite (s : State) (master : Master) (v : Word) : State :=
  let r := s.reg cxcmdOff
  let w := (v &&& 0xFFFFFFFF000008FF#64) ||| (r &&& 0x00000000FFFFF600#64)
  let s := s.setReg cxcmdOff (if v.getLsbD 10 then w &&& ~~~0x400#64 else w)
  if !v.getLsbD 8 then s
  else if s.cxRefused then s.putReg cxcmdOff 10 1 1
  else
    let seq := (s.regBits cxcmdOff 12 20 + 1) % 2 ^ 20
    let s := ((s.putReg cxcmdOff 12 20 seq).putReg cxcmdOff 9 1 1).putReg cxcmdOff 10 1 0
    let source := match master with
      | .host => 1
      | .mgmt => 2
    let target := v.toNat / 2 ^ 32
    if v.toNat % 16 = 1 then s.startSave (v.toNat / 16 % 16) target source seq (v.getLsbD 11)
    else
      { s with
        cx := some { save := false, source := source, seq := seq, win := false, blocks := [], launches := [], queues := [] },
        restores := s.restores ++ [⟨target % 2 ^ 12, if target / 2 ^ 14 % 2 = 1 then none else some (target / 2 ^ 12 % 4), seq⟩] }

/-- SAVE (R324, R326). -/
def execSave (master : Master) (value : Word) (s : State) : Host.Outcome State Fault Refusal := .next (s.cxcmdWrite master value)

/-- RESTORE (R324, R333). -/
def execRestore (master : Master) (value : Word) (s : State) : Host.Outcome State Fault Refusal := .next (s.cxcmdWrite master value)

/-! ## Halting (R327, R328) -/

/-- DETAIL of a team stopped by the running command (R320). -/
def State.cxDetail (s : State) : BitVec 32 :=
  match s.cx with
  | none => 0
  | some c => BitVec.ofNat 32 (c.source + 16 * (c.seq % 2 ^ 16))

/-- A stop request has reached a team that still runs, and the pass in progress has its rows. -/
def State.mayHalt (s : State) (z : Nat) (t : Team) : Bool := t.stopReq && !t.halted && !t.ended && !s.rowsDue (partOf z)

/-- TEAM_HALT (R327, R328): the teams of a core that a stop request has reached halt at a clock boundary. -/
def execTeamHalt (core : Nat) (s : State) : Host.Outcome State Fault Refusal :=
  .next (s.teams.foldl (fun s x => if coreOf x.1 = core && s.mayHalt x.1 x.2 then s.stopTeam x.1 s.cxDetail else s) s)

/-! ## Settling (R217, R249, R330) -/

/-- An operation of a block's teams that stays incomplete in the image: a suspended copy, a stopped product. -/
def State.staysOpen (s : State) (b : Block) (o : MemOp) : Bool :=
  (s.copies.any fun c => c.id == o.id && c.st == .suspended)
    || ((s.cores.get? b.core).map fun k => k.mq.any fun c => c.id == o.id && s.heldBack c).getD false

/-- Suspends the block's copies but for one that must be performed; a copy fault not yet reported is dropped (R203, R330). Edges from
copies that were suspended already hold no longer for what must be performed (R249; log entry 25). -/
def State.settleCopies (s : State) (blk : Nat) : State :=
  let mine := s.copies.filter fun c => c.blk == blk
  let gone := (mine.filter fun c => c.st == .suspended).map Copy.id
  let must (z : Nat) : List Nat := s.mustEnd z
  let free (z id : Nat) (l : List Nat) : List Nat := if (must z).contains id then l.filter fun i => !gone.contains i else l
  let zs := ((s.blocks.get? blk).map Block.teams).getD []
  { s with
    teams := s.teams.map fun x : Nat × Team =>
      if zs.contains x.1 then
        (x.1, { x.2 with async := x.2.async.filter (fun a => a.rank != 3),
                         ops := x.2.ops.map fun o => { o with preds := free x.1 o.id o.preds } })
      else x,
    cores := s.cores.map fun x : Nat × CoreSt =>
      (x.1, { x.2 with mq := x.2.mq.map fun c => if c.blk = blk then { c with preds := free c.z c.id c.preds } else c }),
    copies := s.copies.map fun c =>
      if c.blk = blk then
        let c := { c with preds := free c.z c.id c.preds }
        if c.st == .running && !(must c.z).contains c.id then { c.suspend with settled := true } else c
      else c }

/-- Steps of a product done by now: groups in proportion to the clocks of its occupancy (R217). -/
def MCmd.stepsBy (c : MCmd) (clock : Nat) : Nat :=
  match c.due with
  | none => c.g
  | some d => c.g + (c.groups - c.g) * (c.clocks - (d - clock)) / max 1 c.clocks

/-- Stops the block's products at a group boundary, but for one that must be performed (R217, R249). -/
def State.settleCommands (s : State) (b : Block) (blk : Nat) : State :=
  let ms := ((s.cores.get? b.core).map fun k => k.mq.filter fun m =>
    m.blk == blk && m.due.isSome && isProduct m.ins && !(s.mustEnd m.z).contains m.id).getD []
  ms.foldl (fun s m => (s.runCommand b m (m.stepsBy s.clock)).updCmd b.core m.id fun c => { c with g := m.stepsBy s.clock, due := none }) s

/-- Everything else of the block's teams has completed and every pending value has arrived (R33, R249). -/
def State.opsSettled (s : State) (b : Block) : Bool :=
  b.teams.all fun z => match s.teams.get? z with
    | none => true
    | some t => (t.ops.all fun o => (o.done && decide (4 ≤ o.perf)) || s.staysOpen b o) && (t.land ++ t.replay).all fun l => l.pend.isNone

/-- A remote access to the block's tiles is still on its way (R330). -/
def State.remoteOnWay (s : State) (b : Block) : Bool :=
  s.teams.any fun x => !b.teams.contains x.1 && x.2.ops.any fun o => o.accs.any fun a =>
    match a.key with
    | some k => decide (b.key 0 ≤ k) && decide (k < b.key 0 + b.bytes)
    | none => false

/-- A copy of a block waits for another device. -/
def State.copiesAsk (s : State) (blk : Nat) : Bool := s.copies.any fun c => c.blk == blk && s.farOfCopy c.id

/-- The lowest slot not held (R324). -/
def State.freeSlot (s : State) : Option Nat := (List.range s.cxSlots).find? fun i => (s.cxHeld.get? i).isNone

/-- A block goes on after its image was too large: its teams resume as after a stop, but for those that had halted before, and the
copies that the settling suspended (R324, R329). -/
def State.unstop (s : State) (blk : Nat) (b : Block) : State :=
  (b.teams.foldl (fun s z =>
    let held := (s.reg (tdbgOff z)).getLsbD 2
    let stopped := ((s.teams.get? z).bind fun t => t.haltFrame).map fun h => h.flt.cause == 0x17
    let go := stopped == some true && !held
    let s := s.updTeam z fun t =>
      if go then { t with stopReq := false, halted := false, haltFrame := none, nobp := true } else { t with stopReq := false }
    if go then s.resumeCopies z else s) (s.updBlock blk fun b => { b with stop := false, settled := false })).resumeWhere
      fun c => c.blk == blk && c.settled

/-- The next block of the running SAVE is dealt with. -/
def State.nextBlock (s : State) : State := { s with cx := s.cx.map fun c => { c with blocks := c.blocks.drop 1 } }

/-- The context engine reads or writes a block's scratchpad: requester 9 (R376, R377). -/
def State.engineSees (s before : State) (b : Block) (acc : Nat) : State :=
  (s.watch before ⟨b.core, true, 9, acc, b.asid, b.key 0 % 2 ^ 19, b.bytes, b.key 0, none, 0, 0, [], []⟩).1

/-- Writes the image of a settled block, or event 12 (R324, R326 step 4). -/
def State.saveBlock (s : State) (c : CxCmd) (blk : Nat) (b : Block) : State :=
  let img := s.blockImage blk b c.win s.cxDetail
  let q := ((s.launches.get? b.launch).map Launch.queue).getD 0
  if s.cxSize < img.2 then
    { (s.unstop blk b).nextBlock with cxq := s.cxq ++ [⟨12, q, blk, 0, c.seq, BitVec.ofNat 64 img.2⟩] }
  else
    match s.freeSlot with
    | none => s
    | some i =>
      let w0 := ((b.teams.head?).bind fun z => (s.teams.get? z).map fun t => (t.imageFrame s.cxDetail).word0).getD 0
      let s := s.engineSees s b 0
      { (s.writeImage (s.cxSlot i) img.2 img.1).nextBlock with
        cxHeld := s.cxHeld.put i none, cxq := s.cxq ++ [⟨1, q, blk, i, c.seq, w0⟩] }

/-- Ends the running command: event 3, and BUSY returns to 0. -/
def State.cxDone (s : State) (c : CxCmd) : State :=
  { s.putReg cxcmdOff 9 1 0 with cx := none, cxq := s.cxq ++ [⟨3, 0, 0, 0, c.seq, 0⟩] }

/-- A launch as it stands once the images of its resident blocks are written. -/
def State.savedLaunch (s : State) (n : Nat) (l : Launch) : Launch :=
  { l with saved := (s.blocks.filter fun x => x.2.launch == n && x.2.settled).foldl (fun a x => a.put x.2.lin (s.liveTeams x.2)) l.saved }

/-- Saves a launch into the lowest free slot once none of its restarts waits; it leaves the device with its event (R334; log entry
54). -/
def State.saveLaunch (s : State) (c : CxCmd) (n : Nat) (l : Launch) : State :=
  match s.freeSlot with
  | none => s
  | some i =>
    if !l.restarts.isEmpty then s
    else
      let w := (s.savedLaunch n l).enc n
      { s.writeImage (s.cxSlot i) (8 * w.length) [(0, w.flatMap fun x => leBytes 8 x, false)] with
        cxHeld := s.cxHeld.put i none, cxq := s.cxq ++ [⟨2, l.queue, n, i, c.seq, 0⟩],
        cx := some { c with launches := c.launches.drop 1 } }

/-- The rest of a SAVE once its blocks are dealt with: its launches, then its queues are unmapped (R334). -/
def State.saveRest (s : State) (c : CxCmd) : State :=
  match c.launches with
  | n :: _ =>
    match s.launches.get? n with
    | none => { s with cx := some { c with launches := c.launches.drop 1 } }
    | some l => s.saveLaunch c n l
  | [] =>
    (c.queues.foldl (fun s q => match s.slotOfQueue q with
      | some (i, x) => s.unmapQueue i x
      | none => s) s).cxDone c

/-- BLOCK_SETTLE (R326, R330): the first block of the running SAVE, once its teams have halted, settles, and its image is written; after
the last block the SAVE goes on with its launches. -/
def execBlockSettle (blk : Nat) (s : State) : Host.Outcome State Fault Refusal :=
  .next (match s.cx with
    | none => s
    | some c =>
      if !c.save then s
      else
        match c.blocks with
        | [] => s.saveRest c
        | k :: _ =>
          match s.blocks.get? k with
          | none => s.nextBlock
          | some b =>
            if k != blk || b.teams.any (fun z => ((s.teams.get? z).map fun t => !(t.halted || t.ended)).getD false) then s
            else
              let s := (s.settleCopies k).settleCommands b k
              if !s.opsSettled b then s
              else
                let s := s.updBlock k fun b => { b with settled := true }
                if s.remoteOnWay b || s.copiesAsk k then s else s.saveBlock c k b)

/-! ## Restoring (R333, R334) -/

/-- The queue and launch number that the header in a slot names; a header that is not valid names none (R325, R331, R334). -/
def State.cxNamed (s : State) (slot : Nat) : Nat × Nat :=
  let base := s.cxSlot slot
  let w0 := (s.imgWord base 0).toNat
  let w1 := (s.imgWord base 8).toNat
  if s.memPoisoned base 256 || !(w0 == launchMagic + 2 ^ 32 || w0 % 2 ^ 40 == 0x49424358 + 2 ^ 32) then (0, 0)
  else (w1 / 2 ^ 32 % 2 ^ 16, w1 % 2 ^ 32)

/-- What a slot holds for a RESTORE: a launch (number, queue slot, words), a block (launch, block, variant), or nothing usable. -/
inductive CxImage where
  | launch (n : Nat) (q : QSlot) (w : List Word)
  | block (n lin vi : Nat) (l : Launch) (v : Variant)
  | bad
  deriving DecidableEq, Repr, Inhabited

/-- Reads the header of an image and checks whether it may be restored (R333, R334). -/
def State.cxImage (s : State) (slot : Nat) : CxImage :=
  let base := s.cxSlot slot
  let w0 := s.imgWord base 0
  let w1 := s.imgWord base 8
  let n := w1.toNat % 2 ^ 32
  let q := w1.toNat / 2 ^ 32 % 2 ^ 16
  if s.memPoisoned base 256 then .bad
  else
    match s.slotOfQueue q with
    | none => .bad
    | some (_, x) =>
      if w0.toNat = launchMagic + 2 ^ 32 then
        if (s.launches.get? n).isSome then .bad
        else .launch n x ((List.range (2 ^ 19)).map fun i => s.imgWord base (8 * i))
      else if w0.toNat % 2 ^ 40 = 0x49424358 + 2 ^ 32 then
        match s.launches.get? n with
        | none => .bad
        | some l =>
          let vi := w0.toNat / 2 ^ 40 % 4
          let lin := (s.imgWord base 0x18).toNat % 2 ^ 32
          match l.vars[vi]? with
          | none => .bad
          | some v =>
            if l.queue != q || v.shape != s.imgWord base 0x28 || (s.blocks.any fun y => y.2.launch == n && y.2.lin == lin) then .bad
            else .block n lin vi l v
      else .bad

/-- Ends a RESTORE with an event that names its slot. -/
def State.restoreDone (s : State) (r : RestoreReq) (code queue num : Nat) : State :=
  let s := { s with
    restores := s.restores.drop 1, cxHeld := s.cxHeld.put r.slot none,
    cxq := s.cxq ++ [(⟨code, queue, num, r.slot, r.seq, 0⟩ : CxEvent)] }
  match s.cx with
  | some c => s.cxDone c
  | none => s

/-- A RESTORE of a launch image: the launch is current again (R334); its kernel image is read again. -/
def State.restoreLaunch (s : State) (r : RestoreReq) (n : Nat) (x : QSlot) (w : List Word) : State :=
  let lr := (w.drop 2).take 16
  match s.readImage (qrAsid x.qr) (qrRoot x.qr) (wBits lr 0 0 57) with
  | none => s.restoreDone r 10 x.queue n
  | some (s, _, vs) =>
    let s := { s with launches := s.launches.put n (decLaunch x vs w), launchNo := max s.launchNo (n + 1), restores := s.restores.drop 1 }
    match s.cx with
    | some c => s.cxDone c
    | none => s

/-- Offset and length of a section. -/
def State.imgSect (s : State) (base i : Nat) : Nat × Nat :=
  let w := s.imgWord base (0x40 + 8 * i)
  (w.toNat % 2 ^ 32, w.toNat / 2 ^ 32)

/-- The outstanding operations of a team in an image, in order. -/
def State.imgOps (s : State) (base tidx : Nat) : List SavedOp :=
  let at_ (i k : Nat) : List Nat := (List.range ((s.imgSect base i).2 / k)).map fun j => (s.imgSect base i).1 + k * j
  let rd (o : Nat) : BitVec 1024 := BitVec.ofNat 1024 (leNat (s.readMem (base + o) 128))
  let cps := (at_ 5 320).map fun o =>
    SavedOp.mk (s.imgWord base (o + 0xB8)).toNat (s.imgWord base (o + 0x90)) OpKind.copy (cpBits (rd o) (0x80 + 2) 2 == 0)
      (cpBits (rd o) 0x80 2 == 0)
  let cmds := (at_ 6 128).map fun o => SavedOp.mk (s.imgWord base (o + 0x78)).toNat (s.imgWord base (o + 0x70)) OpKind.matrix false true
  ((cps ++ cmds).filter fun x => x.word.toNat / 2 ^ 20 % 16 == tidx).mergeSort fun x y => decide (x.order ≤ y.order)

/-- The block's own state from its image: tiles and accumulator states, scratchpad, accumulators, handles and programs. -/
def State.reloadBlock (s : State) (base blk : Nat) (b : Block) : State :=
  let o (i : Nat) : Nat := (s.imgSect base i).1
  let fl := s.imgWord base 0x38
  let ts := s.imgMap base (o 0) 64 4 32 id
  let bz : SMap 4 := (s.imgMap base (o 0 + 256) 8 2 4 id).1
  let qh := s.imgMap base (o 3) 8 8 64 id
  let cp := s.imgMap base (o 4) 16 128 1024 id
  let src := s
  let s := (List.range (2048 * b.nt)).foldl (fun s i =>
    s.writeSpad (b.key (4 * i)) (src.readMem (base + o 1 + 4 * i) 4) (src.memPoisoned (base + o 1 + 4 * i) 4)) s
  let s := (List.range (4096 * b.accs.length)).foldl (fun s i =>
    s.setAccElem (b.accKey (i / 4096) (i % 4096 / 64) (i % 64)) (BitVec.ofNat 32 (leNat (src.readMem (base + o 2 + 4 * i) 4)))
      (src.memPoisoned (base + o 2 + 4 * i) 4)) s
  s.updBlock blk fun b => { b with
    tiles := ts.1, tileP := ts.2, accBusy := bz, q := qh.1, qP := qh.2, cp := cp.1, cpP := cp.2, barGen := fl.getLsbD 10,
    barEnd := fl.toNat / 2 ^ 11 % 32, barArr := fl.toNat / 2 ^ 32, flagged := fl.getLsbD 1 }

/-- A team with a cause of poisoned engine state pending (R321). -/
def Team.poisoned (t : Team) : Team := t.pendCause (.uncorrectable 4)

/-- Restores a team's copies, commands and receives; an operation of a poisoned record, or on a tile of poisoned
state, is abandoned (R321, R333). -/
def State.reloadEngines (s : State) (base ids blk core : Nat) (teams : List Nat) : State :=
  let at_ (i k : Nat) : List Nat := (List.range ((s.imgSect base i).2 / k)).map fun j => (s.imgSect base i).1 + k * j
  let w (o : Nat) : Word := s.imgWord base o
  let zOf (x : Word) : Nat := teams.getD (x.toNat / 2 ^ 20 % 16) 0
  let preds (z id : Nat) : List Nat := (((s.teams.get? z).bind fun t => t.ops.find? fun o => o.id == id).map MemOp.preds).getD []
  let badTile (l : List Nat) : Bool := ((s.blocks.get? blk).map fun b => l.any fun n => b.tileP.get n != 0).getD false
  let n1024 (o : Nat) : BitVec 1024 := BitVec.ofNat 1024 (leNat (s.readMem (base + o) 128))
  let n128 (o : Nat) : BitVec 128 := BitVec.ofNat 128 (leNat (s.readMem (base + o) 16))
  let src := s
  let s := (at_ 5 320).foldl (fun s o =>
    let x := w (o + 0x90)
    let z := zOf x
    let id := savedId ids x (w (o + 0xB8)).toNat
    let p := cpProg (n1024 o) (w (o + 0x80)) (w (o + 0x88))
    if src.memPoisoned (base + o) 320 then s.updTeam z Team.poisoned
    else if badTile (p.srcTiles ++ p.dstTiles) then s.updTeam z fun t => t.pendCause (.uncorrectable 5)
    else
      let c : Copy := {
        id := id, blk := blk, z := z, prog := x.toNat / 2 ^ 24 % 16, bits := n1024 o, oa := w (o + 0x80), ob := w (o + 0x88),
        scp := Scope.dec (BitVec.ofNat 2 (x.toNat / 2 ^ 16)), pm := x.extractLsb' 8 8, preds := preds z id, cursor := 0, finished := [],
        wrote := [], st := .suspended, owned := [], asked := [], prior := [], settled := true, mse := 0, probes := [], got := [] }
      let c := { c with cursor := c.prog'.ofIndex ((List.range 6).map fun k => leNat (src.readMem (base + o + 0x98 + 4 * k) 4)) }
      let fin := (c.unitsLeft.zipIdx.filter fun u =>
        decide (u.2 < 1024) && ((src.readMem (base + o + 0xC0 + u.2 / 8) 1).headD 0).getLsbD (u.2 % 8)).map Prod.fst
      { s with copies := s.copies ++ [{ c with finished := fin }] }) s
  let s := (at_ 6 128).foldl (fun s o =>
    let x := w (o + 0x70)
    let z := zOf x
    let id := savedId ids x (w (o + 0x78)).toNat
    match src.memPoisoned (base + o) 128, decodeSlot .xu false ((n128 o).setWidth 80) with
    | false, .ok i =>
      let a : MArgs := ⟨w (o + 16), w (o + 24), w (o + 32), n128 (o + 0x30), n128 (o + 0x40), w (o + 0x50), w (o + 0x58),
        (w (o + 40)).getLsbD 0⟩
      let u := xuUse i a
      if badTile (spanTiles (u.rd ++ u.wr)) then s.updTeam z fun t => t.pendCause (.uncorrectable 5)
      else s.updCore core fun k => { k with mq := k.mq ++ [⟨id, blk, z, i, a, preds z id, (w (o + 0x60)).toNat, none, []⟩] }
    | _, _ => s.updTeam z Team.poisoned) s
  (at_ 7 32).zipIdx.foldl (fun s y =>
    let o := y.1
    let x := w (o + 24)
    let id := savedId ids x (2 ^ 19 + y.2)
    s.updTeam (zOf x) fun t => { t with recv := t.recv ++ [⟨(w o).toNat, w (o + 8), w (o + 16), id, true⟩] }) s

/-- Puts the overflow-queue messages of an image back. -/
def State.reloadMessages (s : State) (base core n : Nat) : State :=
  let x := s.imgSect base 8
  let ms := (List.range (x.2 / 288)).map fun i =>
    let o := x.1 + 288 * i
    let mw := s.imgWord base (o + 8)
    let len := (s.imgWord base (o + 16)).toNat % 512
    let mask := s.imgWord base (o + 24)
    ({ dest := s.imgWord base o, mcast := false, launch := n, srcDev := mw.toNat / 2 ^ 48, srcBlk := mw.toNat / 2 ^ 16 % 2 ^ 32,
       srcTidx := mw.toNat / 2 ^ 12 % 16, payload := s.readMem (base + o + 32) len,
       poison := (List.range ((len + 3) / 4)).map fun j => mask.getLsbD j, op := none, order := 0, far := none } : Msg)
  s.updCore core fun c => { c with overflow := c.overflow ++ ms }

/-- Where the section of team i is; of teams 7 to 15 by the extension table, which follows team 6's section. -/
def State.teamAt (s : State) (base i table : Nat) : Nat :=
  if i < 7 then (s.imgSect base (9 + i)).1 else (s.imgWord base (table + 16 * (i - 7))).toNat % 2 ^ 32

/-- Reloads the teams of a restored block in TIDX order: each from its section, stopped at the switch point it was stopped at (R138), or
ended. -/
def State.reloadTeams (s : State) (base ids ended : Nat) (win : Bool) (teams : List Nat) : State :=
  let src := s
  let k := (s.imgWord base 0x38).toNat / 4 % 2 ^ 8
  (teams.zipIdx.foldl (fun (a : State × Nat) x =>
    let (s, table) := a
    let z := x.1
    let six := (s.imgSect base 15).1
    let table := if x.2 = 6 && ended.testBit 6 then six else table
    if ended.testBit x.2 then ((s.updTeam z fun t => { t with ended := true }).freeWindow z, table)
    else
      match s.teams.get? z with
      | none => a
      | some t =>
        let r := src.readTeam base (s.teamAt base x.2 table) win t
        let t' := r.1.restoreOps ids (src.imgOps base x.2)
        let s := s.updTeam z fun _ => t'
        let s := if r.2.2.2.2 then s.updBlock t.blk fun b => { b with switches := b.switches ++ [(z, BitVec.ofNat 64 k)] } else s
        let s := if r.2.2.1 then s else s.haltTeam z 7 true ⟨⟨cRegRange, 9, 0, 3, 0, 0⟩, t'.done, false, t'.part2, t'.pc, 0, t'.tcyc, 0⟩
        let w := userWin t'.dwinU t'.dbaseU
        let s := s.updPart (partOf z) fun p => startRefills { p with
          refills := p.refills ++ r.2.1.map fun n => (⟨n, w.dict, t'.asid, false, t'.root, w.base, w.sets, false, [], some z⟩ : Refill) }
        (s, if x.2 = 6 then pad64 (six + r.2.2.2.1) else table)) (s, 0)).1

/-- Places the block of an image on a core and reloads it (R333). -/
def State.restoreBlock (s : State) (r : RestoreReq) (n lin vi leaf core : Nat) (l : Launch) (f : CoreFit) : State :=
  let base := s.cxSlot r.slot
  let blk := 64 * core + f.tile0
  let ended := (s.imgWord base 0).toNat / 2 ^ 48
  let win := (s.imgWord base 0x38).getLsbD 0
  let ids := s.nextId
  let placed := if l.placed.contains lin then l.placed else lin :: l.placed
  let s := ({ s.layBlock n lin vi core f none with nextId := ids + 2 ^ 25 }.claim n leaf lin core)
  let s := { s with launches := s.launches.upd n fun l => { l with placed := placed, saved := l.saved.del lin } }
  let teams := f.teams.map fun x => x.z core
  match s.blocks.get? blk with
  | none => s
  | some b =>
    let s := (s.reloadBlock base blk b).reloadTeams base ids ended win teams
    let s := ((s.reloadEngines base ids blk core teams).reloadMessages base core n).engineSees s b 1
    let s := (teams.foldl State.resumeCopies s).deliverParked n lin
    s.restoreDone r 4 l.queue blk

/-- Where the oldest RESTORE's block would go on a leaf. -/
def State.restoreFit (s : State) (leaf : Nat) : Option (RestoreReq × Nat × Nat × Nat × Launch × Nat × CoreFit) :=
  match s.restores with
  | [] => none
  | r :: _ =>
    if !((r.leaf.map fun x => x == leaf).getD true) || !(s.dispOf leaf).gang.isEmpty then none
    else
      match s.cxImage r.slot with
      | .block n lin vi l _ => (s.fitLeaf l leaf lin [vi]).map fun x => (r, n, lin, vi, l, x.2.1, x.2.2)
      | .launch _ _ _ => none
      | .bad => none

/-- A hold for starvation lets a leaf restore no block of a launch (R307). -/
def State.restoreStarved (s : State) (leaf : Nat) (l : Launch) : Bool := ((s.starvePrio leaf).map fun p => decide (l.prio ≤ p)).getD false

/-- The block of the oldest RESTORE is placed on a leaf that it allows, ahead of the ordinary blocks of its priority (R333). -/
def State.restoreHere (s : State) (leaf : Nat) : State :=
  if !s.placeCycle leaf then s
  else
    match s.restoreFit leaf with
    | none => s
    | some (r, n, lin, vi, l, core, f) =>
      if s.restoreStarved leaf l || (s.placeOne leaf fun w => decide (l.prio < w.prio)).isSome then s
      else
        let s := s.restoreBlock r n lin vi leaf core l f
        { s with disp := s.disp.put leaf { s.dispOf leaf with lastAt := some s.clock } }

/-- The oldest RESTORE, by what its slot holds. -/
def State.restoreOldest (s : State) (leaf : Nat) (r : RestoreReq) (x : CxImage) : State :=
  match x with
  | .bad => s.restoreDone r 10 (s.cxNamed r.slot).1 (s.cxNamed r.slot).2
  | .launch n x w => s.restoreLaunch r n x w
  | .block _ _ _ _ _ => s.restoreHere leaf

/-- RESTORE_PLACEMENT (R333, R334): the oldest RESTORE is refused, or makes its launch current, or places its block. -/
def execRestorePlacement (leaf : Nat) (s : State) : Host.Outcome State Fault Refusal :=
  .next (match s.restores with
    | [] => s
    | r :: _ => s.restoreOldest leaf r (s.cxImage r.slot))

/-- BLOCK_PLACEMENT (R303, R304, R306, R310, R333): a restore that fits goes before the ordinary blocks of its priority and below. -/
def execBlockPlacement (leaf : Nat) (s : State) : Host.Outcome State Fault Refusal :=
  .next (if !s.placeCycle leaf then s
    else
      match (s.dispOf leaf).gang with
      | p :: rest => s.placeGang leaf p rest
      | [] =>
        let floor := (((s.restoreFit leaf).filter fun x => !s.restoreStarved leaf x.2.2.2.2.1).map fun x => x.2.2.2.2.1.prio + 1).getD 0
        ((s.placeOne leaf fun w => decide (floor ≤ w.prio)).map Prod.snd).getD s)

/-! ## The event ring (R325) -/

/-- Room in the ring: WR − RD is below 2^NLOG; no event waits while no ring is set up, NLOG being below 6 (log entry 36). -/
def State.cxRoom (s : State) : Bool :=
  let n := s.regBits ctxBase 0 4
  decide (n < 6) || decide ((s.regBits (ctxBase + 8) 0 16 + 2 ^ 16 - s.regBits (ctxBase + 8) 16 16) % 2 ^ 16 < 2 ^ n)

/-- The 32 bytes of an event (R325). -/
def CxEvent.record (e : CxEvent) : List Byte :=
  leBytes 8 (BitVec.ofNat 64 (e.code % 2 ^ 8 + 2 ^ 16 * (e.queue % 2 ^ 16) + 2 ^ 32 * (e.num % 2 ^ 32)))
    ++ leBytes 8 (BitVec.ofNat 64 (e.slot % 2 ^ 16 + 2 ^ 32 * (e.seq % 2 ^ 32))) ++ leBytes 8 e.word0 ++ leBytes 8 (0#64)

/-- Writes an event, if there is a ring; what it reports of a saved block or launch is freed, and its slot is held until RD passes it (R324 to R326). -/
def State.postRecord (s : State) (e : CxEvent) : State :=
  let wr := s.regBits (ctxBase + 8) 0 16
  let n := s.regBits ctxBase 0 4
  let s := if n < 6 then s else s.writeMem (s.regBits ctxBase 12 40 * 4096 + 32 * (wr % 2 ^ n)) e.record false
  let s := { s.putReg (ctxBase + 8) 0 16 (wr + 1) with cxq := s.cxq.drop 1 }
  let held := if e.code = 1 || e.code = 2 || e.code = 4 || e.code = 10 then { s with cxHeld := s.cxHeld.put e.slot (some wr) } else s
  if e.code = 1 then
    match held.blocks.get? e.num with
    | some b =>
      let held := { held with launches := held.launches.upd b.launch fun l => { l with saved := l.saved.put b.lin (held.liveTeams b) } }
      (held.dropQueued b).removeBlock e.num
    | none => held
  else if e.code = 2 then { held with launches := held.launches.del e.num }
  else held

/-- CONTEXT_EVENT (R325): the oldest waiting event is written when the ring has room. -/
def execContextEvent (s : State) : Host.Outcome State Fault Refusal :=
  .next (match s.cxq with
    | [] => s
    | e :: _ => if s.cxRoom then s.postRecord e else s)

/-- A write of CXEVP.RD frees the slots whose events it passes (R324). -/
def State.cxevpWrite (s : State) (v : Word) : State :=
  let rd := v.toNat / 2 ^ 16 % 2 ^ 16
  let s := s.putReg (ctxBase + 8) 16 16 rd
  { s with cxHeld := s.cxHeld.filter fun x => match x.2 with
      | none => true
      | some p => decide (2 ^ 15 ≤ (rd + 2 ^ 16 - (p + 1)) % 2 ^ 16) }

end Sys2Proof.Machine
end

