-- ==== Sys2Proof/Machine/Debug.lean ====
section
/-!
DEFINITION. Debug halts, bench stops and stepping (R367 to R373), dumps (R381), trace rings and samples (R383, R389), event counters and
the clock (R382, R390 to R392), and replay measurement (R393 to R396).
-/
namespace Sys2Proof.Machine

/-! ## Halting and resuming one team (R367, R368, R370 to R372) -/

/-- TDBG.HALTED. -/
def State.dbgHalted (s : State) (z : Nat) : Bool := (s.reg (tdbgOff z)).getLsbD 2

/-- Resumes a debug-halted team, which may issue from a clock on (R371). -/
def State.dbgResume (s : State) (z at_ : Nat) : State :=
  if !s.dbgHalted z then s
  else
    ((s.putReg (tdbgOff z) 2 1 0).updTeam z fun t =>
      { t with halted := false, haltFrame := none, nobp := true, startAt := max t.startAt at_, skid := none }).traceResume z

/-- Steps a debug-halted team (R372). -/
def State.dbgStep (s : State) (z : Nat) : State :=
  if !s.dbgHalted z then s
  else
    ((s.putReg (tdbgOff z) 2 2 0).putReg (tdbgOff z) 7 1 0).updTeam z fun t =>
      { t with halted := false, haltFrame := none, nobp := true, startAt := max t.startAt (s.clock + 1), skid := none, stepping := some s.clock }

/-- A write of TDBG (R367). -/
def State.tdbgWrite (s : State) (z : Nat) (v : Word) : State :=
  let s := s.putReg (tdbgOff z) 0 2 (v.toNat % 4)
  let s := if v.getLsbD 7 then s.putReg (tdbgOff z) 7 1 0 else s
  match s.teams.get? z with
  | none => s
  | some t =>
    let s := if v.getLsbD 4 && !t.ended then s.updTeam z fun t => t.haltSoon s.clock else s
    let s := if v.getLsbD 5 then s.dbgResume z (s.clock + 1) else s
    if v.getLsbD 6 then s.dbgStep z else s

/-- TDBG_STOP (R367, R368). -/
def execTdbgStop (z : Nat) (s : State) : Host.Outcome State Fault Refusal :=
  .next (match s.teams.get? z with
    | none => s
    | some t => if t.ended then s else s.updTeam z fun t => t.haltSoon s.clock)

/-- TDBG_RESUME (R371). -/
def execTdbgResume (z : Nat) (s : State) : Host.Outcome State Fault Refusal :=
  .next (match s.teams.get? z with
    | none => s
    | some _ => s.dbgResume z (s.clock + 1))

/-- TDBG_STEPGO (R372). -/
def execTdbgStepgo (z : Nat) (s : State) : Host.Outcome State Fault Refusal :=
  .next (match s.teams.get? z with
    | none => s
    | some _ => s.dbgStep z)

/-- DEBUG_HALT (R368, R370): a halt that was triggered in clock c has reached the core at the end of clock c + 8, and the team halts at
a clock boundary with its skid record. -/
def execDebugHalt (z : Nat) (s : State) : Host.Outcome State Fault Refusal :=
  .next (match s.teams.get? z with
    | none => s
    | some t =>
      match t.skid with
      | none => s
      | some (c, n) =>
        if t.halted || t.ended || s.clock < c + 9 || s.rowsDue (partOf z) then s else s.debugHalt z n (s.clock - (c + 1)))

/-- STEP_TIMEOUT (R372): a step whose word has not committed after 1,024 cycles ends with SBLK = 1. -/
def execStepTimeout (z : Nat) (s : State) : Host.Outcome State Fault Refusal :=
  .next (match s.teams.get? z with
    | none => s
    | some t =>
      match t.stepping with
      | none => s
      | some c =>
        if t.halted || t.ended || s.clock < c + 1024 || s.rowsDue (partOf z) then s
        else ((s.stopTeam z 0).putReg (tdbgOff z) 2 6 3).updTeam z fun t => { t with stepping := none })

/-! ## Bench stops (R369, R371) -/

/-- A write of BENCHCMD (R369, R371). -/
def State.benchcmdWrite (s : State) (bench : Nat) (v : Word) : State :=
  let s := if v.getLsbD 0 then s.triggerBench bench 1 else s
  if v.getLsbD 1 then
    (s.teams.foldl (fun s x => if benchOf (coreOf x.1) = bench then s.dbgResume x.1 (s.clock + 9) else s) s).putReg (bstatOff bench) 0 1 0
  else s

/-- BENCHCMD_STOP (R369). -/
def execBenchcmdStop (bench : Nat) (s : State) : Host.Outcome State Fault Refusal := .next (s.benchcmdWrite bench 1)

/-- BENCHCMD_RESUME (R371). -/
def execBenchcmdResume (bench : Nat) (s : State) : Host.Outcome State Fault Refusal := .next (s.benchcmdWrite bench 2)

/-- BENCH_STOP (R369): a bench stop triggered in clock c has reached the cores: BSTAT bit 0 is set and every resident team halts. -/
def execBenchStop (bench : Nat) (s : State) : Host.Outcome State Fault Refusal :=
  .next (match s.bstop.get? bench with
    | none => s
    | some (c, _) =>
      if s.clock < c + 9 then s
      else
        { s.putReg (bstatOff bench) 0 1 1 with
          bstop := s.bstop.del bench,
          teams := s.teams.map fun x : Nat × Team => if benchOf (coreOf x.1) = bench && !x.2.ended then (x.1, x.2.haltSoon c) else x })

/-! ## Dumps (R381) -/

/-- Bytes of pieces in order. -/
def flatPieces (l : List Piece) : List (Nat × Piece) := (layPieces 0 l).map fun x => (x.1, x.2.1, x.2.2)

/-- Reads a team back from a section (R381): its landings are due from its present team-cycle on. -/
def State.loadTeam (s : State) (base z : Nat) (t : Team) : Option State :=
  let r := s.readTeam base 0 false t
  let n := leNat (s.readMem (base + 0x38) 1)
  if !r.2.2.1 || 135 < n then none
  else some (s.updTeam z fun _ => { r.1 with
    land := r.1.land.map fun l => { l with due := l.due + t.tc }, ctx := none, fetched := none, zeroTrip := none, waiting := false,
    eretWait := none, haltFrame := none })

/-- A DBGCMD with GO (R381), which leaves ERR as it was when it is accepted (R12): DUMP or LOAD of the team in a slot of a core. -/
def State.dbgGo (s : State) (core op slot : Nat) : State :=
  let b := coreDbg core
  let z := 64 * core + slot
  let base := s.regBits (b + 8) 6 46 * 64
  let bad := s.putReg b 12 1 1
  match s.teams.get? z with
  | none => bad
  | some t =>
    if (s.reg b).getLsbD 11 || !s.dbgHalted z || (op != 1 && op != 2) then bad
    else if op = 1 then
      let l := s.teamSection false 0 z
      s.writeImage base (pieceLen l) (flatPieces l)
    else (s.loadTeam base z t).getD bad

/-- A write of DBGCMD. -/
def State.dbgcmdWrite (s : State) (core : Nat) (v : Word) : State :=
  let b := coreDbg core
  let s := s.putReg b 0 10 (v.toNat % 2 ^ 10)
  let s := if v.getLsbD 12 then s.putReg b 12 1 0 else s
  if v.getLsbD 10 then s.dbgGo core (v.toNat % 16) (v.toNat / 16 % 64) else s

/-- DUMP (R381). -/
def execDump (core slot : Nat) (s : State) : Host.Outcome State Fault Refusal :=
  .next (s.dbgcmdWrite core (BitVec.ofNat 64 (1 + 16 * (slot % 64) + 2 ^ 10)))

/-- LOAD (R381). -/
def execLoad (core slot : Nat) (s : State) : Host.Outcome State Fault Refusal :=
  .next (s.dbgcmdWrite core (BitVec.ofNat 64 (2 + 16 * (slot % 64) + 2 ^ 10)))

/-! ## Trace rings and samples (R383, R385, R389) -/

/-- WR returns to RD. -/
def State.ringReset (s : State) (core : Nat) : State :=
  s.putReg (coreDbg core + 0x490) 0 32 (s.regBits (coreDbg core + 0x490) 32 32)

/-- A write of TRBASE. -/
def State.trbaseWrite (s : State) (core : Nat) (v : Word) : State :=
  (s.setReg (coreDbg core + 0x480) (v &&& 0x000FFFFFFFFFF01F#64)).ringReset core

/-- TRBASE_WRITE (R383). -/
def execTrbaseWrite (core : Nat) (value : Word) (s : State) : Host.Outcome State Fault Refusal := .next (s.trbaseWrite core value)

/-- A write of TRCTL (R383): the first record after EN is set has an anchor (R385). -/
def State.trctlWrite (s : State) (core : Nat) (v : Word) : State :=
  let was := (s.reg (coreDbg core + 0x488)).getLsbD 0
  let s := (s.setReg (coreDbg core + 0x488) (v &&& 0x0000FFFFFFFF03FF#64)).ringReset core
  if v.getLsbD 0 && !was then s.updCore core fun c => { c with trGap := c.trGap ||| 16, lastTrace := s.ns } else s

/-- The operation a word charges a clock to: held repeats first, then the lowest position (R389). -/
def Ctx.charged (c : Ctx) (q : OpSt → Bool) : Option OpSt :=
  match c.ops.find? fun o => o.pos.isNone && q o with
  | some o => some o
  | none => (List.range 3).findSome? fun p => c.ops.find? fun o => o.pos == some p && q o

/-- SOA of an operation of a word. -/
def Ctx.soa (c : Ctx) (o : OpSt) (tmode : Bool) : Word :=
  soaOf c.pc (o.pos.getD 3) ((o.op.ins.kind.map fun k => k.enc.toNat).getD 0) tmode

/-- The resident team of a partition whose last issue is oldest, the lowest slot on a tie. -/
def State.oldest (s : State) (part : Nat) : Option (Nat × Team) :=
  (s.teams.filter fun x => partOf x.1 == part && !x.2.ended).foldl (fun (a : Option (Nat × Team)) t => match a with
    | none => some t
    | some u => if t.2.lastIssue < u.2.lastIssue then some t else a) none

/-- The SOA of the operation that holds a fetched word back, if one does (R389 reason 4). -/
def State.heldOp (s : State) (z : Nat) (t : Team) (f : Fetched) : Word :=
  match s.plan z with
  | some (e, some (slot, _)) => soaOf f.pc slot (((e.c.ops.find? fun o => o.slot == slot).bind fun o => o.op.ins.kind.map fun k => k.enc.toNat).getD 0) t.tmode
  | some (_, none) => soaOf f.pc 3 0 t.tmode
  | none => soaOf f.pc 3 0 t.tmode

/-- Why a team does not issue, and what is charged (R389 reasons 1 to 5). -/
def State.heldBy (s : State) (z : Nat) (t : Team) : Nat × Word :=
  let late := (t.land.find? fun l => decide (l.due ≤ t.tc) && l.pend.isSome).bind Landing.pend
  if t.halted || t.stopReq then
    match t.haltFrame with
    | some h => (5, soaOf h.pc h.flt.slot 0 t.tmode)
    | none => (5, soaOf t.pc 3 0 t.tmode)
  else
    match late, t.ctx, t.eretWait with
    | some id, _, _ => (1, (t.soaOfOp id).1)
    | none, some c, _ =>
      (match c.charged fun o => o.st == .blocked with
        | some o => (2, c.soa o t.tmode)
        | none => match c.charged fun _ => true with
          | some o => (4, c.soa o t.tmode)
          | none => (4, soaOf c.pc 3 0 t.tmode))
    | none, none, some w => (2, soaOf t.pc w.1 1 t.tmode)
    | none, none, none =>
      match t.fetched with
      | none => (3, soaOf t.pc 3 0 t.tmode)
      | some f => (4, s.heldOp z t f)

/-- The team slot, reason and SOA of a partition's sample. -/
def State.sampleOf (s : State) (part : Nat) : Nat × Nat × Word :=
  match (s.parts.get? part).bind Part.busy with
  | some z =>
    (match s.teams.get? z with
      | none => (0, 6, 0)
      | some t =>
        (z % 16, 0, match t.ctx with
        | none => soaOf t.pc 3 0 t.tmode
        | some c => match c.charged fun o => c.inPart o && (o.st == .running || o.st == .pending) with
          | some o => c.soa o t.tmode
          | none => soaOf c.pc 3 0 t.tmode))
  | none =>
    match s.oldest part with
    | none => (0, 6, 0)
    | some (z, t) => (z % 16, s.heldBy z t)

/-- TRACE_SAMPLE (R389): the sample record of a partition. -/
def execTraceSample (part : Nat) (s : State) : Host.Outcome State Fault Refusal :=
  .next (let x := s.sampleOf part
    s.trace (part / 4) 3 (part % 4) x.1 x.2.1 x.2.2)

/-! ## Counters and the clock (R382, R390 to R392) -/

/-- Offset of CNTSEL of counter k of a core; CNT is 0x20 above it. -/
def cntOff (core k : Nat) : Nat := coreDbg core + 0x400 + 8 * (k % 4)

/-- Key among a cycle's events that says counter k was written in this cycle. -/
def cntWritten (k : Nat) : Nat := 2 ^ 16 + k % 4

/-- A write of CNTSEL or CNT: it wins over the increment of its cycle (R390, R392). -/
def State.cntWrite (s : State) (core k : Nat) (sel : Bool) (v : Word) : State :=
  let off := cntOff core k
  let ov := if v.getLsbD 48 then 0#64 else s.reg (off + 0x20) &&& 0x1000000000000#64
  (if sel then s.setReg off (v &&& 0xFFFF#64) else s.setReg (off + 0x20) ((v &&& 0xFFFFFFFFFFFF#64) ||| ov)).updCore core
    fun c => { c with events := c.events.set (cntWritten k) 1 }

/-- CNT_WRITE (R390, R392). -/
def execCntWrite (core k : Nat) (sel : Bool) (value : Word) (s : State) : Host.Outcome State Fault Refusal :=
  .next (s.cntWrite core k sel value)

/-- Team events, filtered by partition and mode (R391). -/
def teamEvent (code : Nat) : Bool := (decide (2 ≤ code) && decide (code ≤ 0x0A)) || code == 0x12 || code == 0x13

/-- Events of a cycle that a counter's selection counts (R390, R391). -/
def eventsFor (ev : SMap 64) (sel : Word) : Nat :=
  let code := sel.toNat % 256
  let mask := sel.toNat / 2 ^ 8 % 16
  if !sel.getLsbD 15 then 0
  else
    ((List.range 8).map fun i =>
      let ok := !teamEvent code || ((mask == 0 || mask.testBit (i / 2)) && (if i % 2 = 1 then sel.getLsbD 13 else sel.getLsbD 12))
      if ok then (ev.get (8 * code + i)).toNat else 0).sum

/-- Adds a cycle's events to a counter; a wrap sets OV and may write a type 5 record (R390, R392). -/
def State.addCount (s : State) (core k n : Nat) : State :=
  let off := cntOff core k
  let v := s.regBits (off + 0x20) 0 48 + n
  if n = 0 then s
  else if v < 2 ^ 48 then s.putReg (off + 0x20) 0 48 v
  else
    let s := (s.putReg (off + 0x20) 0 48 (v % 2 ^ 48)).putReg (off + 0x20) 48 1 1
    if (s.reg off).getLsbD 14 then s.trace core 5 0 0 k 0 else s

/-- The events that hold for a whole cycle: the cycle itself, teams that hold or block, a full miss-status pool, a matrix command
running (R391). -/
def State.levelEvents (s : State) (core : Nat) : State :=
  let s := s.count core 1 0 false 1
  let s := s.teams.foldl (fun s x =>
    if coreOf x.1 != core || x.2.ended then s
    else
      let s := if x.2.landHeld then s.countTeam x.1 9 1 else s
      if (x.2.ctx.map fun c => c.ops.any fun o => o.st == .blocked).getD false then s.countTeam x.1 0x0A 1 else s) s
  let s := if 3072 ≤ s.missUsed core then s.count core 0x0D 0 false 1 else s
  if ((s.cores.get? core).map fun c => c.mq.any fun m => m.due.isSome).getD false then s.count core 0x0F 0 false 1 else s

/-- A core's counters at the end of a cycle. -/
def State.countCycle (s : State) (core : Nat) : State :=
  let s := s.levelEvents core
  match s.cores.get? core with
  | none => s
  | some c =>
    let s := (List.range 4).foldl (fun s k =>
      if c.events.get (cntWritten k) != 0 then s else s.addCount core k (eventsFor c.events (s.reg (cntOff core k)))) s
    s.updCore core fun c => { c with events := [] }

/-- A core takes samples in a clock (R389). -/
def State.sampling (s : State) (core : Nat) : Bool :=
  let w := s.reg (coreDbg core + 0x488)
  let n := 64 * (w.toNat / 2 ^ 16 % 2 ^ 16)
  w.getLsbD 0 && w.getLsbD 3 && n != 0 && s.clock % n == 0

/-- PSTAT.CLK of a leaf: its main clock runs at 0.6 + 0.1·CLK GHz (R411, R420). -/
def State.pclk (s : State) (leaf : Nat) : Nat := s.regBits 0 (32 + 4 * leaf) 4

/-- At a frame boundary a leaf's clock step takes effect, and the next trace records say so (R385, R420). -/
def State.clockSteps (s : State) : State :=
  if s.clock % 32 != 0 then s
  else
    let s' := s.plat.clk.foldl (fun s x =>
      if s.pclk x.1 = x.2 then s
      else
        { s.putReg 0 (32 + 4 * x.1) 4 x.2 with
          cores := s.cores.map fun y : Nat × CoreSt => if y.1 / 128 = x.1 then (y.1, { y.2 with trGap := y.2.trGap ||| 2 }) else y }) s
    { s' with plat := { s'.plat with clk := [] } }

/-- Parts of 1/27,720 ns of a clock of leaf 0. -/
def State.tickParts (s : State) : Nat := 277200 / (6 + s.pclk 0)

/-- Requests that wait for their predecessors leave the core no sooner than the next clock (R235, R273). -/
def Team.holdRequests (t : Team) (clock : Nat) : Team :=
  if t.ops.any fun o => o.issued && !o.accs.isEmpty && !t.predsDone o.preds o.scp then
    { t with ops := t.ops.map fun o => if o.issued && !o.accs.isEmpty && !t.predsDone o.preds o.scp then { o with sentAt := clock } else o }
  else t

/-- The end of a clock for a lost-time matrix: a snapshot with ZERO leaves the increments of the clock alone (R388). -/
def State.lostTick (s : State) (core : Nat) : State :=
  match s.cores.get? core with
  | none => s
  | some c =>
    let s := if !c.ltZero then s else
      (List.range 256).foldl (fun s i =>
        s.putReg (coreDbg core + 0x1000 + 8 * (i / 2)) (32 * (i % 2)) 32 (match c.lt0.get? i with
          | some n => s.lostAt core i - n
          | none => 0)) s
    s.updCore core fun c => { c with lt0 := [], ltZero := false }

/-- EVENT_COUNTER_INCREMENT: the end of a clock. Counters take the cycle's events (R391, R392), the dispatchers' waiting counters move (R307,
R309), TIME advances (R382), and the samples of the next clock fall due (R389). -/
def execEventCounterIncrement (s : State) : Host.Outcome State Fault Refusal :=
  .next (
    let s := (s.cores.map Prod.fst).foldl (fun s c => (s.countCycle c).lostTick c) s
    let s := ((List.range 4).foldl State.waitTick s).linkTick
    let s := State.clockSteps { s with
      clock := s.clock + 1, ticked := true, turns := [], tick := s.tick + s.tickParts,
      qslots := s.qslots.map (fun x : Nat × QSlot => (x.1, s.slotTick x.2)),
      blocks := s.blocks.map (fun x : Nat × Block => (x.1, x.2.newClock)),
      teams := s.teams.map fun x : Nat × Team => (x.1, x.2.holdRequests (s.clock + 1)) }
    { s with agenda := s.agenda ++ ((s.cores.filter fun x => s.sampling x.1).flatMap fun x =>
        (List.range 4).map fun p => Instr.traceSample (4 * x.1 + p)) })

/-! ## Replay measurement (R393 to R396) -/

/-- Every agent reads memory as it stands in a page: nothing of an earlier write there is still to be seen. -/
def State.pageSeen (s : State) (pa : Nat) : State := { s with views := s.views.filter fun v => v.addr / 4096 != pa / 4096 }

/-- Copies every captured page back, performed at dev scope (R394). -/
def State.rplRestorePages (s : State) : State :=
  let n := s.regBits (rplBase + 0x18) 0 24
  let cap := s.regBits (rplBase + 0x10) 0 24
  let buf := s.regBits (rplBase + 8) 12 40 * 4096
  ((List.range n).foldl (fun s i =>
    let pa := (s.mem64 (buf + 4096 * cap + 8 * i)).toNat / 4096 * 4096
    (s.writeMem pa (s.readMem (buf + 4096 * i) 4096) false).pageSeen pa) s).putReg
    (rplBase + 0x18) 0 24 0

/-- Writes back and empties every cache, translation and decode table (R395). -/
def State.coldCaches (s : State) : State :=
  { s with
    l2 := [], walkers := [],
    cores := s.cores.map (fun x : Nat × CoreSt => (x.1, { x.2 with l1 := [], tlb := [] })),
    parts := s.parts.map fun x : Nat × Part => (x.1, { x.2 with table := [], lru := [] }) }

/-- Runs OP of the replay registers (R393 to R396); ERR stays as it was when GO is accepted (R12). -/
def State.rplRun (s : State) (op : Nat) : State :=
  let asid := s.regBits rplBase 24 16
  let resident := s.teams.any fun x => x.2.asid.toNat == asid
  if (s.reg rplBase).getLsbD 5 || op = 0 || decide (4 < op) || ((op = 2 || op = 3) && resident) then s.putReg rplBase 6 1 1
  else
    match op with
    | 1 =>
      { (((s.putReg rplBase 7 3 0).putReg (rplBase + 0x18) 0 24 0).setReg (rplBase + 0x20) 0).setReg (rplBase + 0x28) 0 with captured := [] }
    | 2 => s.rplRestorePages
    | 3 => s.coldCaches
    | _ =>
      if s.regBits rplBase 16 8 = 0 then (s.setReg (rplBase + 0x30) (s.reg (rplBase + 0x20))).setReg (rplBase + 0x38) (s.reg (rplBase + 0x28))
      else
        let s := if s.reg (rplBase + 0x20) != s.reg (rplBase + 0x30) then s.putReg rplBase 7 1 1 else s
        if s.reg (rplBase + 0x28) != s.reg (rplBase + 0x38) then s.putReg rplBase 8 1 1 else s

/-- A write of the first replay register (R393). -/
def State.rplWrite (s : State) (v : Word) : State :=
  let s := s.setReg rplBase ((v &&& 0x000000FFFFFF000F#64) ||| (s.reg rplBase &&& 0x3E0#64))
  let s := if v.getLsbD 6 then s.putReg rplBase 6 1 0 else s
  if v.getLsbD 4 then s.rplRun (v.toNat / 2 % 8) else s

/-- RPL_BEGIN (R394, R396). -/
def execRplBegin (s : State) : Host.Outcome State Fault Refusal := .next ((s.putReg rplBase 1 3 1).rplRun 1)

/-- RPL_RESTORE (R394). -/
def execRplRestore (s : State) : Host.Outcome State Fault Refusal := .next ((s.putReg rplBase 1 3 2).rplRun 2)

/-- RPL_RESET (R395). -/
def execRplReset (s : State) : Host.Outcome State Fault Refusal := .next ((s.putReg rplBase 1 3 3).rplRun 3)

/-- RPL_END (R396). -/
def execRplEnd (s : State) : Host.Outcome State Fault Refusal := .next ((s.putReg rplBase 1 3 4).rplRun 4)

end Sys2Proof.Machine
end

