-- ==== Sys2Proof/Machine/Fabric.lean ====
section
/-!
DEFINITION. What arrives over Tchiheuri links: flits and the packets they make (R349 to R352), accesses and messages of other devices
(R229, R340, R356), translation probes (R354, R355), and level-4 barriers (R357). The spec does not give the body of a packet's header flit
(log entry 31).
-/
namespace Sys2Proof.Machine

/-! ## Probes of other devices (R354, R355) -/

/-- The table of an address space: the root of the lowest-numbered enabled queue record of it (R424). -/
def State.rootOf (s : State) (asid : BitVec 16) : Option Nat :=
  ((List.range 4096).find? fun q =>
    let w := s.mem64 (s.qAddr q + 8)
    w.getLsbD 7 && w.extractLsb' 24 16 == asid).map fun q => (s.mem64 (s.qAddr q + 16)).toNat / 4096 % 2 ^ 40 * 4096

/-- The address space of a set on this device. -/
def State.setEntry (s : State) (set : BitVec 16) : Option (BitVec 16) :=
  (((List.range 64).map fun i => fabBase + 0x2000 + 32 * i).find? fun off =>
    (s.reg off).getLsbD 0 && s.regBits off 16 16 == set.toNat).map fun off => BitVec.ofNat 16 (s.regBits off 32 16)

/-- A probe's translation under the set's entry: the page, with where the line lies, or a PROTECTION reason, or 0 for a missing page. -/
def State.probeLook (s : State) (set : BitVec 16) (va : Nat) (acc : AccKind) : Except Nat Pin :=
  match s.setEntry set with
  | none => .error 2
  | some asid =>
    match s.rootOf asid with
    | none => .error 0
    | some root =>
      match s.translate noCore asid root va acc with
      | .ok (w, pa) => .ok ⟨set, va / 256, pa / 256, w.e.attr, w.e.nc⟩
      | .error .notPresent => .error 0
      | .error (.protection n) => .error n
      | .error .poison => .error 0

/-- The answer to a probe: none when it pins the translation, else a PROTECTION reason, or 0 for a missing page. -/
def State.probeAnswer (s : State) (set : BitVec 16) (va : Nat) (acc : AccKind) : Option Nat :=
  match s.probeLook set va acc with
  | .ok _ => none
  | .error n => some n

/-- A probe of another device is answered, and pins the translation when it is allowed (R355). -/
def State.takeProbe (s : State) (set : BitVec 16) (va : Nat) (acc : AccKind) : State :=
  { s with
    out := s.out ++ [.probe set (BitVec.ofNat 64 va) (s.probeAnswer set va acc)],
    pins := match s.probeLook set va acc with
      | .ok p => s.pins ++ [p]
      | .error _ => s.pins }

/-- TRANSLATION_PROBE (R354, R355). -/
def execTranslationProbe (set : BitVec 16) (va : BitVec 64) (acc : AccKind) (s : State) : Host.Outcome State Fault Refusal :=
  .next (s.takeProbe set va.toNat acc)

/-! ## Accesses of other devices (R229, R356) -/

/-- Where an access that another device asks for goes: its pinned translation, else one made now. -/
def State.farPin (s : State) (h : FabHead) (acc : AccKind) : Option Pin :=
  match s.pins.find? fun p => p.set == h.set && p.line == h.va / 256 with
  | some p => some p
  | none => (s.probeLook h.set (h.va / 256 * 256) acc).toOption

/-- The access has arrived: one pin of its line ends (R355). -/
def State.unpin (s : State) (h : FabHead) : State := { s with pins := s.pins.eraseP fun p => p.set == h.set && p.line == h.va / 256 }

/-- Sends an answer to a packet's sender. -/
def State.farReply (s : State) (h : FabHead) (kind : FabKind) (data : List Byte) (q : BitVec 64) (x : Option Nat) : State :=
  s.sendNew { s.newHead kind h.src h.va with
    tag := h.num, sectors := if kind == .readReply then h.sectors else 0, lanes := h.lanes, poison := q, answer := x } data (lineHash h.va)

/-- Poison of a line's 4-byte words, a sector asked for or not. -/
def State.linePoison (s : State) (pa : Nat) : BitVec 64 := flagBits 64 ((List.range 64).map fun i => s.memPoisoned (pa + 4 * i) 4)

/-- A read for another device (R356): its value is fixed here, of a REPL page in the copy of the leaf whose port receives it; a line of
another page without NC is recorded in the directory. A line that no page maps answers with poison. -/
def State.serveRead (s : State) (leaf : Nat) (h : FabHead) : State :=
  match s.farPin h .read with
  | none => s.farReply h .readReply (List.replicate (FabHead.dataLen { h with kind := .readReply }) 0) (BitVec.allOnes 64) none
  | some p =>
    let s := s.unpin h
    let pa := 256 * p.to_
    let l := if p.attr == .repl then s.readView (128 * leaf) pa 256 else s.readMem pa 256
    let part := (((List.range 256).zip l).filter fun x => h.sectors.getLsbD (x.1 / 64)).map Prod.snd
    let s := s.farReply h .readReply part (s.linePoison pa) none
    if p.attr == .repl || p.nc then s
    else { s with far := { s.far with dir := s.far.dir ++ [⟨p.to_, h.src, h.va, s.readMem pa 256⟩] } }

/-- Bytes of an agent outside reach memory at the coherence point: dirty bits are set (R287), and on NAP and REPL pages each agent begins to
read them in its own time (R243, R244). -/
def State.agentPut (s : State) (op pa : Nat) (asid : BitVec 16) (attr : PageAttr) (l : List Byte) (q : Bool) : State :=
  let old := s.readMem pa l.length
  let s := s.writeAs asid pa l q
  if attr == .ap then s else { s with views := s.views ++ [⟨op, attr == .repl, pa, old, l, []⟩] }

/-- A write for another device (R356), word by word; it is acknowledged once it is performed at sys scope. -/
def State.serveWrite (s : State) (h : FabHead) (data : List Byte) : State :=
  match s.farPin h .write, s.setEntry h.set with
  | some p, some asid =>
    let runs := (List.range 64).flatMap fun i =>
      let b := (List.range 4).filter fun j => h.bytes.getLsbD (4 * i + j)
      if b.length = 4 then [(4 * i, 4, i)] else b.map fun j => (4 * i + j, 1, i)
    let s := runs.foldl (fun s r => s.agentPut (linkOp h.num) (256 * p.to_ + r.1) asid p.attr ((data.drop (sectorPos h.sectors r.1)).take r.2.1)
      (h.poison.getLsbD r.2.2)) (s.unpin h)
    { s with far := { s.far with owed := s.far.owed ++ [⟨h.src, h.num, h.va⟩] } }
  | _, _ => s.farReply h .ack [] 0 none

/-- A lane of an atomic for another device: the word it finds, and its poison (R192). -/
def State.serveLane (s : State) (h : FabHead) (f : AtomFn) (p : Pin) (asid : BitVec 16) (i word : Nat) (data : List Byte) : State × List Byte × Bool :=
  let pa := 256 * p.to_ + 4 * (word % 64)
  let s := s.seeAll noCore pa 4
  let old := s.readMem pa 4
  let bad := s.memPoisoned pa 4
  let v : Lane := leWord 32 ((data.drop (8 * i)).take 4)
  let c : Lane := leWord 32 ((data.drop (8 * i + 4)).take 4)
  (s.agentPut (linkOp h.num) pa asid p.attr (leBytes 4 (AtomFn.apply f (leWord 32 old) v c)) (AtomFn.poison f bad (h.poison.getLsbD i)), old, bad)

/-- An atomic for another device is applied at the coherence point, lane by lane, and performed at sys scope with its reply (R192,
R356). -/
def State.serveAtomic (s : State) (h : FabHead) (f : AtomFn) (data : List Byte) : State :=
  match s.farPin h .atomic, s.setEntry h.set with
  | some p, some asid =>
    let r := ((List.range h.lanes.length).zip h.lanes).foldl (fun (a : State × List Byte × List Bool) x =>
      let y := a.1.serveLane h f p asid x.1 x.2 data
      (y.1, a.2.1 ++ y.2.1, a.2.2 ++ [y.2.2])) (s.unpin h, [], [])
    (r.1.performViews noCore (linkOp h.num) 4).farReply h .atomicReply r.2.1 (flagBits 64 r.2.2) none
  | _, _ => s.farReply h .atomicReply (List.replicate (4 * h.lanes.length) 0) (BitVec.allOnes 64) none

/-! ## Messages of other devices (R340) -/

/-- The launch a message of another device is for: of the current ones with the sender's LR.SET and DLEVEL = 4, the one started first. -/
def State.setLaunch (s : State) (set : BitVec 16) : Option Nat :=
  ((s.launches.filter fun x => x.2.dlevel == 4 && x.2.bits 0x28 0 16 == set.toNat).map Prod.fst).min?

/-- A message of another device arrives: it goes on its way to the blocks of its launch, or no launch qualifies. Its acknowledgement is
owed until its fate is decided. -/
def State.takeMessage (s : State) (h : FabHead) (data : List Byte) : State :=
  let m := Config.msgHead (leWord 128 (data.take 16))
  let s : State := { s with far := { s.far with owed := s.far.owed ++ [⟨h.src, h.num, 0⟩] } }
  match s.setLaunch h.set with
  | none => s.msgDrop 1
  | some n =>
    { s with
      msgs := s.msgs ++ [⟨m.dest, m.mcast, n, m.srcDev, m.srcBlk, m.srcTidx, (data.drop 16).take h.len,
        (List.range (h.len / 4)).map fun i => h.poison.getLsbD i, none, s.nextId, some (h.src, h.num)⟩],
      nextId := s.nextId + 1 }

/-! ## FLIT_RECEIVE (R349 to R352) -/

/-- The number of a set's entry. -/
def State.entryOf (s : State) (set : BitVec 16) : Option Nat :=
  (List.range 64).find? fun e => (s.reg (fabBase + 0x2000 + 32 * e)).getLsbD 0 && s.regBits (fabBase + 0x2000 + 32 * e) 16 16 == set.toNat

/-- What a packet for this device does. An invalidation or a recall finds nothing: the model's L1s hold no line of another device
(R356; log entry 31). -/
def State.servePacket (s : State) (port : Nat) (h : FabHead) (data : List Byte) : State :=
  match h.kind with
  | .read => s.serveRead (port / 32) h
  | .write => s.serveWrite h data
  | .atomic f => s.serveAtomic h f data
  | .probe acc => (s.takeProbe h.set h.va acc).farReply h .probeReply [] 0 (s.probeAnswer h.set h.va acc)
  | .readReply => s.farAnswer h.tag none data h.poison
  | .atomicReply => s.farAnswer h.tag none data h.poison
  | .ack => s.farAnswer h.tag none [] 0
  | .probeReply => s.farAnswer h.tag h.answer [] 0
  | .message => s.takeMessage h data
  | .invalidate => s
  | .recall => s
  | .arrival => { s with agenda := s.agenda ++ ((s.entryOf h.set).map Instr.level4Arrival).toList }
  | .release => { s with agenda := s.agenda ++ ((s.entryOf h.set).map Instr.level4Release).toList }

/-- A whole packet: one for another node is forwarded along this device's table, a duplicate is discarded (R351, R352). -/
def State.takePacket (s : State) (port : Nat) (h : FabHead) (data : List Byte) : State :=
  if h.dst != Config.node then
    s.sendFab ⟨h, data, match h.kind with
      | .message => MsgHead.hash (Config.msgHead (leWord 128 (data.take 16)))
      | _ => lineHash h.va⟩ false
  else if s.far.seen.contains (h.src, h.num) then s
  else State.servePacket { s with far := { s.far with seen := s.far.seen ++ [(h.src, h.num)] } } port h data

/-- The bodies of a channel's packet with a flit that comes next: a header flit begins one (R350). -/
def Port.bodies (x : Port) (f : BitVec 512) : List (BitVec 448) :=
  let body : BitVec 448 := f.extractLsb' 64 448
  if flBits f 58 2 == 1 then [body] else x.rx.getD (flBits f 56 2) [] ++ [body]

/-- The packet that bodies make, if the header's data are whole. -/
def wholePacket (l : List (BitVec 448)) : Option (FabHead × List Byte) :=
  match l with
  | [] => none
  | b :: r =>
    let h := Config.fabHead b
    if 56 * r.length < FabHead.dataLen h then none else some (h, (r.flatMap fun x => leBytes 56 x).take (FabHead.dataLen h))

/-- What a numbered flit brings (R350): its packet grows, and acts when it is whole; an idle flit acknowledges. -/
def State.takeFlit (s : State) (p : Nat) (f : BitVec 512) : State :=
  let l := (s.portOf p).bodies f
  let s := (s.updPort p fun x => { x with rxGood := flBits f 32 12, rx := x.rx.put (flBits f 56 2) l }).sendIdle p
  match wholePacket l with
  | none => s
  | some (h, data) => (s.updPort p fun x => { x with rx := x.rx.put (flBits f 56 2) [] }).takePacket p h data

/-- A flit's number is the next one of its port. -/
def State.flitNext (s : State) (port : Nat) (f : BitVec 512) : Bool := flBits f 32 12 == ((s.portOf port).rxGood + 1) % 4096

/-- FLIT_RECEIVE (R349, R351): a corrupt flit or a gap is answered by a NAK, a flit received before is discarded. -/
def execFlitReceive (port : Nat) (flit : BitVec 512) (s : State) : Host.Outcome State Fault Refusal :=
  .next (if !flGood flit then s.sendNak port
    else
      let kind := flBits flit 58 2
      let s := s.updPort port fun x => x.acked (flBits flit 44 12)
      if kind = 0 then s
      else if kind = 3 then s.replayFlits port
      else if s.flitNext port flit then s.takeFlit port flit
      else if ((s.portOf port).rxGood + 4096 - flBits flit 32 12) % 4096 < 2048 then s
      else s.sendNak port)

/-! ## Level-4 barriers (R357) -/

/-- Offset of fabric-set entry e. -/
def fsOff (e : Nat) : Nat := fabBase + 0x2000 + 32 * e

/-- The launches of an entry's set. -/
def State.setLaunches (s : State) (e : Nat) : List (Nat × Launch) :=
  s.launches.filter fun x => x.2.dlevel == 4 && s.launchFab x.2 == some (fsOff e)

/-- Sends a release to every device of a set; the one to itself is due here. -/
def State.sendReleases (s : State) (e : Nat) : State :=
  let off := fsOff e
  let node0 := s.regBits (off + 8) 16 16
  let set := s.regBits off 16 16
  let s := ((List.range (s.regBits off 48 16)).filter fun d => d != 0).foldl (fun s d => s.sendBarrier ((node0 + d) % 2 ^ 16) true set) s
  { s with agenda := s.agenda ++ [.level4Release e] }

/-- LEVEL4_ARRIVAL (R357 step 3): device index 0 counts a device's arrival; the last one releases the set. -/
def execLevel4Arrival (e : Nat) (s : State) : Host.Outcome State Fault Refusal :=
  .next (let off := fsOff e
    if 64 ≤ e || !(s.reg off).getLsbD 0 || s.regBits (off + 8) 0 16 != 0 then s
    else
      let n := s.regBits (off + 24) 33 16 + 1
      let s := s.putReg (off + 24) 33 16 n
      if n = s.regBits off 48 16 then s.sendReleases e else s)

/-- LEVEL4_RELEASE (R357 step 4): the counts return to 0, the generation inverts, and the ended teams of a share of which all have ended
count again on a set of several devices. -/
def execLevel4Release (e : Nat) (s : State) : Host.Outcome State Fault Refusal :=
  .next (let off := fsOff e
    if 64 ≤ e || !(s.reg off).getLsbD 0 then s
    else
      let s := s.putReg (off + 24) 0 32 0
      let s := if s.regBits (off + 8) 0 16 = 0 then s.putReg (off + 24) 33 16 0 else s
      let s := s.putReg (off + 24) 32 1 (1 - s.regBits (off + 24) 32 1)
      (s.setLaunches e).foldl (fun (s : State) (x : Nat × Launch) =>
        let l := { x.2 with doms := x.2.doms.put (domKey 4 0) { x.2.dom 4 0 with gen := false } }
        let s : State := { s with launches := s.launches.put x.1 l }
        if 1 < s.regBits off 48 16 then s.shareDone x.1 l else s) s)

end Sys2Proof.Machine
end

