-- ==== Sys2Proof/Machine/SysRegs.lean ====
section
/-!
DEFINITION. The system registers as a register offset names them (R12, R406, R407): what a read returns, and what a write does.
-/
namespace Sys2Proof.Machine

/-! ## Where a register is (R406) -/

/-- The core, and the offset in its region, of an offset of a debug block. -/
def dbgCoreOf (off : Nat) : Option (Nat × Nat) :=
  if off < 0x1000000 || 0x2000000 ≤ off then none
  else
    let o := (off - 0x1000000) % 0x400000
    if o < 0x200000 then some (128 * ((off - 0x1000000) / 0x400000) + o / 0x4000, o % 0x4000) else none

/-- The bench, and the offset in its region, of an offset of a debug block. -/
def dbgBenchOf (off : Nat) : Option (Nat × Nat) :=
  if off < 0x1000000 || 0x2000000 ≤ off then none
  else
    let o := (off - 0x1000000) % 0x400000
    if 0x200000 ≤ o && o < 0x201000 then some (16 * ((off - 0x1000000) / 0x400000) + (o - 0x200000) / 0x100, o % 0x100) else none

/-- Offset o lies among n records of k bytes from base: the record and the offset in it. -/
def inRecords (base k n o : Nat) : Option (Nat × Nat) :=
  if base ≤ o && o < base + k * n then some ((o - base) / k, (o - base) % k) else none

/-! ## Plain registers -/

/-- What a plain register keeps of a write: the bits that are RW, and those that are W1C. The rest is RO or reserved. -/
structure RegRule where
  rw : Word
  w1c : Word
  deriving DecidableEq, Repr, Inhabited

/-- A register with RW bits only. -/
def rwReg (m : Word) : Option RegRule := some ⟨m, 0⟩

/-- Platform registers (R411, R415, R417, R419, R420). -/
def platRule (o : Nat) : Option RegRule :=
  match o with
  | 0x0000 => rwReg 0
  | 0x0010 => some ⟨0, 0x1F⟩
  | 0x0100 => rwReg 0xFFFFFFFFFFFFFFFF
  | 0x0108 => rwReg 0xFFFF00FFFFFFFFFF
  | 0x0110 => rwReg 0xFFFFFFFFFFFFFFFF
  | 0x0118 => rwReg 0xFFFFFFFFFFFFFFFF
  | 0x0120 => rwReg 0x0000FFFFFFFFFFFF
  | 0x0200 => rwReg 0x1FFF
  | _ => if (inRecords 0x1000 8 32 o).isSome then rwReg 0xFFFFFFFFFFFFFFFF else none

/-- Memory-system registers (R267 to R269, R274, R285 to R287). The staged address-range entries keep reserved bits, which their commit
refuses. -/
def memRule (o : Nat) : Option RegRule :=
  if (inRecords 0x10000 8 128 o).isSome then rwReg 0
  else if (inRecords 0x20000 16 64 o).isSome then rwReg 0xFFFFFFFFFFFFFFFF
  else if o = 0x20400 || o = 0x30008 || o = 0x40400 then rwReg 0
  else if o = 0x30000 then rwReg 0x01FFFFFFFFFFF000
  else if (inRecords 0x80000 8 8192 o).isSome then rwReg 0
  else
    match inRecords 0x40000 32 32 o with
    | some (_, 0) => rwReg 0x000000FFFFFF0001
    | some (_, 8) => rwReg 0x1FFFFFF
    | some (_, 16) => rwReg 0x000FFFFFFFFFFFF8
    | some (_, 24) => rwReg 0xFFFF
    | _ => none

/-- Scheduler registers (R293, R294). -/
def schedRule (o : Nat) : Option RegRule :=
  if o = 0 then rwReg 0x000FFFFFFFFFF000
  else if o = 0x10 || (inRecords 0x10000 8 4096 o).isSome then rwReg 0 else none

/-- Context registers (R324). -/
def ctxRule (o : Nat) : Option RegRule :=
  match o with
  | 0 => rwReg 0x000FFFFFFFFFF00F
  | 8 => rwReg 0
  | 16 => rwReg 0xFFFFFFFFFFC00003
  | 24 => rwReg 0
  | _ => none

/-- Fabric registers (R344, R345, R348, R352, R353, R361). -/
def fabRule (o : Nat) : Option RegRule :=
  if o = 0 || o = 8 then rwReg 0xFFFFFFFFFFFFFFFF
  else if o = 16 then rwReg 0x000FFFFFFFFFF000
  else
    match inRecords 0x1000 16 256 o, inRecords 0x2000 32 64 o, inRecords 0x3000 64 256 o, inRecords 0x8000 8 128 o with
    | some (_, 0), _, _, _ => rwReg 0xFFFFFFFFFFFF0001
    | some (_, _), _, _, _ => rwReg 0xFFFFFFFF0000FFFF
    | none, some (_, 0), _, _ => rwReg 0xFFFFFFFFFFFF0001
    | none, some (_, 8), _, _ => rwReg 0x0000003FFFFFFFFF
    | none, some (_, 16), _, _ => rwReg 0x01FFFFFFFFFFFFFF
    | none, some (_, _), _, _ => rwReg 0x0001FFFFFFFFFFFF
    | none, none, some (_, 0), _ => rwReg 0xFFFFFFFFFFFF0007
    | none, none, some (_, 8), _ => rwReg 0xFFFFFFFFFFFFFFFF
    | none, none, some (_, 16), _ => rwReg 0xFFFFFFFFFFFFFFFF
    | none, none, some (_, 24), _ => rwReg 0xFFFF
    | none, none, some (_, _), _ => rwReg 0
    | none, none, none, some (_, _) => rwReg 0x0000FFFFFFFF0000
    | none, none, none, none => none

/-- Registers of a core's debug region (R366, R367, R374, R376, R379, R381, R383, R386, R390). -/
def coreRule (o : Nat) : Option RegRule :=
  if o = 0 then rwReg 0
  else if o = 8 then rwReg 0x000FFFFFFFFFFFC0
  else if (inRecords 0x180 8 8 o).isSome then some ⟨if o = 0x180 then 0x03FC0000 else 0, if o = 0x180 then 0x20000 else 0⟩
  else if (inRecords 0x200 8 64 o).isSome || (inRecords 0x400 8 8 o).isSome then rwReg 0
  else if o = 0x480 || o = 0x488 then rwReg 0
  else if o = 0x490 then rwReg 0xFFFFFFFF00000000
  else if o = 0x4C0 then rwReg 0x000FFFFFFFFFFFFF
  else if o = 0x4C8 then rwReg 0xFFFF0001
  else if (inRecords 0x1000 8 128 o).isSome then rwReg 0xFFFFFFFFFFFFFFFF
  else
    match inRecords 0x40 16 8 o, inRecords 0x100 32 4 o with
    | some (_, 0), _ => rwReg 0xFFFFFFFFFFFFFFFE
    | some (_, _), _ => rwReg 0x1FFFF
    | none, some (_, 0) => rwReg 0xFFFFFFFFFFFFFFFF
    | none, some (_, 8) => rwReg 0x000003FFFFFF07FF
    | none, some (_, _) => rwReg 0
    | none, none => none

/-- Registers of leaf 0's debug block that are the device's (R382, R393). -/
def devRule (o : Nat) : Option RegRule :=
  match o with
  | 0x300000 => rwReg 0
  | 0x300100 => rwReg 0
  | 0x300108 => rwReg 0x000FFFFFFFFFF000
  | 0x300110 => rwReg 0xFFFFFF
  | 0x300118 => rwReg 0
  | 0x300120 => rwReg 0
  | 0x300128 => rwReg 0
  | 0x300130 => rwReg 0xFFFFFFFFFFFFFFFF
  | 0x300138 => rwReg 0xFFFFFFFFFFFFFFFF
  | _ => none

/-- The rule of a register, none where no register is. -/
def regRule (off : Nat) : Option RegRule :=
  if off % 8 != 0 then none
  else if off < 0x100000 then platRule off
  else if off < 0x200000 then memRule (off - 0x100000)
  else if off < 0x300000 then schedRule (off - 0x200000)
  else if off < 0x400000 then ctxRule (off - 0x300000)
  else if off < 0x500000 then fabRule (off - 0x400000)
  else
    match dbgCoreOf off, dbgBenchOf off with
    | some (_, o), _ => coreRule o
    | none, some (_, o) => if o < 16 then rwReg 0 else none
    | none, none => if 0x1000000 ≤ off then devRule (off - 0x1000000) else none

/-! ## Reads -/

/-- Bits of a stored word that software sees: some registers keep more (R267, R268, R285, R293). -/
def visibleBits (off : Nat) : Word :=
  if off = artctlOff then 0x7FF
  else if off = invctlOff then 0x7FFFFFF
  else if off = qdisOff then 0x3FFFF
  else
    match inRecords (memBase + 0x20000) 16 64 off with
    | some (_, 0) => 0x000FFFFFFFE00001
    | some (_, _) => 0x0FFFFFFF
    | none => 0xFFFFFFFFFFFFFFFF

/-- Eight latencies of a latency ROM (R274): each from 14 to 22. -/
def State.latencyWord (s : State) (o : Nat) : Word :=
  (List.range 8).foldl (fun (w : Word) i =>
    let k := 8 * o + i
    w ||| (BitVec.ofNat 64 (s.latency (k / 16384) (k / 128 % 128) (k % 128)) <<< (8 * i))) 0

/-- The offset names a register that is served: in recovery state, and while the leaves are off, the platform block only (R410, R418). -/
def State.served (s : State) (off : Nat) : Bool :=
  (regRule off).isSome && (decide (off < 0x100000) || (s.reg 0).getLsbD 0)

/-- A read of a system register, if the offset names one (R406). -/
def State.sysRead (s : State) (off : Nat) : Option Word :=
  if !s.served off then none
  else if off = dbgBase 0 + 0x300000 then some (BitVec.ofNat 64 s.ns)
  else
    match inRecords (memBase + 0x80000) 8 8192 off, inRecords (fabBase + 0x8000) 8 128 off with
    | some (o, _), _ => some (s.latencyWord o)
    | none, some (p, _) => some (s.reg off ||| (s.portOf p).lanes.setWidth 64 ||| ((s.portOf p).peer.setWidth 64 <<< 48))
    | none, none => some (s.reg off &&& visibleBits off)

/-! ## Writes -/

/-- A write of a plain register. -/
def State.plainWrite (s : State) (off : Nat) (r : RegRule) (v : Word) : State :=
  s.setReg off (((s.reg off &&& ~~~r.rw) ||| (v &&& r.rw)) &&& ~~~(v &&& r.w1c))

/-- A write of a register of a core's debug region. -/
def State.coreRegWrite (s : State) (core o off : Nat) (r : RegRule) (v : Word) : State :=
  if o = 0 then s.dbgcmdWrite core v
  else if o = 0x480 then s.trbaseWrite core v
  else if o = 0x488 then s.trctlWrite core v
  else
    match inRecords 0x200 8 64 o, inRecords 0x400 8 4 o, inRecords 0x420 8 4 o with
    | some (j, _), _, _ => s.tdbgWrite (64 * core + j) v
    | none, some (k, _), _ => s.cntWrite core k true v
    | none, none, some (k, _) => s.cntWrite core k false v
    | none, none, none => s.plainWrite off r v

/-- A write of a session's first word: setting VALID numbers its packets from 0 (R361, R362). -/
def State.sessWrite (s : State) (n off : Nat) (r : RegRule) (v : Word) : State :=
  let was := s.sessValid n
  let s := s.plainWrite off r v
  if !was && v.getLsbD 0 then { s with sess := s.sess.put n ⟨(s.sessSt n).key, 0, [], (s.sessSt n).late, 0, [], none, []⟩ } else s

/-- A write of a fabric register. -/
def State.fabWrite (s : State) (off : Nat) (r : RegRule) (v : Word) : State :=
  match inRecords (fabBase + 0x3000) 64 256 off with
  | some (n, 0) => s.sessWrite n off r v
  | _ => s.plainWrite off r v

/-- A write of a memory-system register. -/
def State.memRegWrite (s : State) (off : Nat) (r : RegRule) (v : Word) : State :=
  if off = artctlOff then s.artctlWrite v
  else if off = invctlOff then s.invctlWrite v
  else if off = dtctlOff then (if v.getLsbD 0 then s.putReg dtctlOff 1 1 1 else s)
  else
    match inRecords (memBase + 0x10000) 8 128 off with
    | some (k, _) => s.wmaskWrite k v
    | none => s.plainWrite off r v

/-- A write of a scheduler or context register. -/
def State.ctxRegWrite (s : State) (m : Master) (off : Nat) (r : RegRule) (v : Word) : State :=
  if off = qdisOff then s.qdisWrite v
  else if off = cxcmdOff then s.cxcmdWrite m v
  else if off = ctxBase + 8 then s.cxevpWrite v
  else
    match inRecords (schedBase + 0x10000) 8 4096 off with
    | some (q, _) => s.notify q (v.toNat % 2 ^ 16)
    | none => s.plainWrite off r v

/-- A write of a system register by a master, if the offset names one that it may write (R406, R407, R415). -/
def State.sysWrite (s : State) (m : Master) (off : Nat) (v : Word) : Option State :=
  if !s.served off || (m == .host && decide (0x100 ≤ off) && decide (off < 0x128)) then none
  else
    match regRule off with
    | none => none
    | some r =>
      if off < 0x100000 then some (s.plainWrite off r v)
      else if off < 0x200000 then some (s.memRegWrite off r v)
      else if off < 0x400000 then some (s.ctxRegWrite m off r v)
      else if off < 0x500000 then some (s.fabWrite off r v)
      else
        match dbgCoreOf off, dbgBenchOf off with
        | some (core, o), _ => some (s.coreRegWrite core o off r v)
        | none, some (b, o) => some (if o = 0 then s.benchcmdWrite b v else s)
        | none, none => some (if off = rplBase then s.rplWrite v else s.plainWrite off r v)

/-- SYSTEM_REGISTER_WRITE (R12, R406, R407): a write to an offset that names no register changes nothing. -/
def execSystemRegisterWrite (master : Master) (off : Nat) (value : Word) (s : State) : Host.Outcome State Fault Refusal :=
  .next ((s.sysWrite master off value).getD s)

end Sys2Proof.Machine
end

