-- ==== Sys2Proof/Machine/HostPort.lean ====
section
/-!
DEFINITION. Packets from the host (R359 to R363, R424), their acknowledgement and resending, and the Ethernet port (R358, R415).
-/
namespace Sys2Proof.Machine

/-! ## Reception (R359, R361, R362) -/

/-- The Ethernet port receives BHT: the device runs, the link is up, and NET.UDP is not 0 (R410, R411, R415). -/
def State.netUp (s : State) : Bool := (s.reg 0).getLsbD 0 && (s.reg 0).getLsbD 16 && s.regBits 0x108 48 16 != 0

/-- Counts a packet of no valid type. -/
def State.countBad (s : State) : State := s.satReg (fabBase + 8) 0 32 1

/-- Counts a packet that is not of a session's peer. -/
def State.countAuth (s : State) : State := s.satReg (fabBase + 8) 32 32 1

/-- A packet comes from its valid session's peer, and its tag verifies under the session's key (R359, R361). -/
def State.fromPeer (s : State) (p : Packet) : Bool :=
  let n := p.sess.toNat
  decide (n < 256) && s.sessValid n && p.port.toNat == s.regBits (sessOff n) 48 16
    && p.peer == (s.reg (sessOff n + 16)).append (s.reg (sessOff n + 8)) && p.tag == s.tagOf p

/-- The step that applies a numbered packet. -/
def packetStep (p : Packet) : Option Instr :=
  match p.typ.toNat with
  | 1 => some (.write p)
  | 2 => some (.read p)
  | 4 => some (.notify p)
  | 7 => some (.ctrlRead p)
  | 8 => some (.ctrlWrite p)
  | _ => none

/-- Takes an acknowledgement: everything up to it has arrived (R362). -/
def Sess.acked (x : Sess) (ack : Nat) : Sess :=
  { x with unacked := x.unacked.filter fun t => decide (2 ^ 31 ≤ (ack + 2 ^ 32 - t.pkt.seq.toNat) % 2 ^ 32) }

/-- The packet is the next of its session: its number is passed, an ACK is due, and a packet held next after it is due. -/
def State.passNumber (s : State) (p : Packet) : State :=
  let n := p.sess.toNat
  let x := s.sessSt n
  let nx := (x.rxNext + 1) % 2 ^ 32
  let due := match x.ahead.find? fun q => q.seq.toNat == nx with
    | some q => (packetStep q).toList
    | none => []
  { s with
    agenda := due ++ s.agenda,
    sess := s.sess.put n { x with
      rxNext := nx, ahead := x.ahead.filter (fun q => q.seq.toNat != nx), ackDue := some (x.ackDue.getD (s.ns + 2000)) } }

/-- Receives a numbered packet: applies the next one, holds one ahead, acknowledges a duplicate again (R362). -/
def State.receive (s : State) (p : Packet) (f : State → State) : State :=
  if !s.netUp || !s.frameOk p || p.ver != 1 then s
  else if p.typ = 0 || 10 ≤ p.typ.toNat then s.countBad
  else if !s.fromPeer p then s.countAuth
  else
    let n := p.sess.toNat
    let s := { s with sess := s.sess.put n ((s.sessSt n).acked p.ack.toNat) }
    let x := s.sessSt n
    let d := (p.seq.toNat + 2 ^ 32 - x.rxNext) % 2 ^ 32
    if d = 0 then f (s.passNumber p)
    else if d < 2 ^ 31 then
      if 256 ≤ x.ahead.length || x.ahead.any (fun q => q.seq == p.seq) then s
      else { s with sess := s.sess.put n { x with ahead := x.ahead ++ [p] } }
    else s.sendAck n 0

/-- Reports a refused packet (R360). -/
def State.refusePacket (s : State) (p : Packet) (status : Nat) : State :=
  s.sendAck p.sess.toNat (2 ^ 16 * status + p.seq.toNat % 2 ^ 16)

/-! ## WRITE and READ (R360, R424) -/

/-- A range of bytes page by page: address and length. -/
def pagesOf (va n : Nat) : List (Nat × Nat) :=
  ((List.range ((va % 4096 + n + 4095) / 4096)).map fun i =>
    let lo := max va ((va / 4096 + i) * 4096)
    (lo, min (va + n) ((va / 4096 + i + 1) * 4096) - lo)).filter fun x => x.2 != 0

/-- Status of a failed translation (R360). -/
def XErr.status : XErr → Nat
  | .notPresent => 1
  | .protection _ => 2
  | .poison => 3

/-- Translates a session's range page by page: the walks and the physical pieces, or a status. -/
def State.sessPieces (s : State) (n va len : Nat) (acc : AccKind) : Except Nat (List (WalkRes × Nat × Nat)) :=
  let asid : BitVec 16 := BitVec.ofNat 16 (s.regBits (sessOff n) 32 16)
  match s.rootOf asid with
  | none => .error 1
  | some root =>
    (pagesOf va len).foldl (fun r x => match r with
      | .error e => .error e
      | .ok l =>
        match s.translate noCore asid root x.1 acc with
        | .error e => .error e.status
        | .ok (w, pa) => .ok (l ++ [(w, pa, x.2)])) (.ok [])

/-- The writer of a session's WRITEs among the pending writes of NAP and REPL pages. -/
def hostOp (n : Nat) : Nat := 2 ^ 60 + n

/-- A WRITE's bytes reach memory: on NAP and REPL pages each agent begins to read them in its own time (R233, R243, R244). -/
def State.hostPut (s : State) (n pa : Nat) (attr : PageAttr) (l : List Byte) : State :=
  s.agentPut (hostOp n) pa (BitVec.ofNat 16 (s.regBits (sessOff n) 32 16)) attr l false

/-- A session's WRITEs are performed: every agent reads them (R363). -/
def State.hostPerformed (s : State) (n : Nat) : State := s.performViews noCore (hostOp n) 4

/-- Applies a WRITE. -/
def State.applyWrite (s : State) (p : Packet) : State :=
  let n := p.sess.toNat
  let len := p.len.toNat
  if len = 0 || 8192 < len || p.payload.length != len then s.refusePacket p 4
  else
    match s.sessPieces n p.addr.toNat len .write with
    | .error e => s.refusePacket p e
    | .ok l =>
      (l.foldl (fun (a : State × List Byte) x =>
        ((a.1.useXlat noCore x.1).hostPut n x.2.1 x.1.e.attr (a.2.take x.2.2), a.2.drop x.2.2))
        (s, s.crypt p)).1

/-- The lines of memory that a packet's range touches. -/
def State.packetLines (s : State) (p : Packet) (acc : AccKind) : List Nat :=
  match s.sessPieces p.sess.toNat p.addr.toNat p.len.toNat acc with
  | .error _ => []
  | .ok l => (l.flatMap fun x => (List.range ((x.2.1 + x.2.2 - 1) / 256 + 1 - x.2.1 / 256)).map fun k => x.2.1 / 256 + k).eraseDups

/-- No copy owns a line that a WRITE touches, and no commit holds one (R246, R268). -/
def State.linesFree (s : State) (p : Packet) : Bool :=
  (s.packetLines p .write).all fun l => (s.ownedLine l).isEmpty && !s.artHolds (256 * l)

/-- Two WRITEs of a session have a byte in common, or may have (R363). -/
def State.writesMeet (s : State) (p q : Packet) : Bool :=
  match s.sessPieces p.sess.toNat p.addr.toNat p.len.toNat .write, s.sessPieces q.sess.toNat q.addr.toNat q.len.toNat .write with
  | .ok a, .ok b => a.any fun x => b.any fun y => decide (x.2.1 < y.2.1 + y.2.2) && decide (y.2.1 < x.2.1 + x.2.2)
  | .error _, _ => true
  | .ok _, .error _ => true

/-- Takes a WRITE: it is performed at once or later, freely, but never before an earlier one with a byte in common (R363). -/
def State.takeWrite (s : State) (p : Packet) : State :=
  let x := s.sessSt p.sess.toNat
  let s' := { s with fresh := s.fresh + 1 }
  if Config.freeChoice s.fresh % 2 = 0 || x.late.any (fun q => s.writesMeet q p) then
    { s' with sess := s'.sess.put p.sess.toNat { x with late := x.late ++ [p] } }
  else s'.applyWrite p

/-- Performs a late WRITE of a session. -/
def State.performLate (s : State) (n i : Nat) : State :=
  let x := s.sessSt n
  match x.late[i]? with
  | none => s
  | some p => State.applyWrite { s with sess := s.sess.put n { x with late := x.late.eraseIdx i } } p

/-- Performs every late WRITE of a session, in order, before what follows them (R363). -/
def State.flushLate (s : State) (n : Nat) : State :=
  let x := s.sessSt n
  (if x.late.isEmpty then s else x.late.foldl State.applyWrite { s with sess := s.sess.put n { x with late := [] } }).hostPerformed n

/-- The late WRITEs that may be performed before the others: no earlier one has a byte in common, and no copy owns a line. -/
def State.lateReady (s : State) (n : Nat) : List Nat :=
  let l := (s.sessSt n).late
  (List.range l.length).filter fun i => match l[i]? with
    | none => false
    | some p => !((l.take i).any fun q => s.writesMeet q p) && s.linesFree p

/-- Sends a READ's data, 8,192 bytes at most to a packet. -/
def State.sendReplies (s : State) (n seq : Nat) (data : List Byte) : State :=
  (List.range ((data.length + 8191) / 8192)).foldl (fun s i =>
    let l := (data.drop (8192 * i)).take 8192
    s.sendPkt n 3 l.length (BitVec.ofNat 64 (8192 * i)) seq l) s

/-- Applies a READ. -/
def State.applyRead (s : State) (p : Packet) : State :=
  let n := p.sess.toNat
  let len := p.len.toNat
  if len = 0 || 65536 < len then s.refusePacket p 4
  else
    match s.sessPieces n p.addr.toNat len .read with
    | .error e => s.refusePacket p e
    | .ok l =>
      if l.any fun x => s.memPoisoned x.2.1 x.2.2 then s.refusePacket p 3
      else
        let s := l.foldl (fun s x => s.useXlat noCore x.1) s
        s.sendReplies n p.seq.toNat (l.flatMap fun x => s.readMem x.2.1 x.2.2)

/-- WRITE (R360, R363). -/
def execWrite (p : Packet) (s : State) : Host.Outcome State Fault Refusal := .next (s.receive p fun s => s.takeWrite p)

/-- READ (R360, R363). -/
def execRead (p : Packet) (s : State) : Host.Outcome State Fault Refusal := .next (s.receive p fun s => (s.flushLate p.sess.toNat).applyRead p)

/-! ## NOTIFY and CTRL (R360) -/

/-- Applies a NOTIFY. -/
def State.applyNotify (s : State) (p : Packet) : State :=
  let q := p.arg.toNat % 2 ^ 12
  if wBits (s.qRec q) 1 8 16 != s.regBits (sessOff p.sess.toNat) 16 16 then s.refusePacket p 4
  else s.notify q (p.arg.toNat / 2 ^ 16)

/-- NOTIFY (R294, R360). -/
def execNotify (p : Packet) (s : State) : Host.Outcome State Fault Refusal := .next (s.receive p fun s => (s.flushLate p.sess.toNat).applyNotify p)

/-- SESS.SYS. -/
def State.sessSys (s : State) (n : Nat) : Bool := (s.reg (sessOff n)).getLsbD 1

/-- Applies a CTRL_READ. -/
def State.applyCtrlRead (s : State) (p : Packet) : State :=
  let n := p.sess.toNat
  match if s.sessSys n then s.sysRead p.addr.toNat else none with
  | none => s.refusePacket p 4
  | some v => s.sendPkt n 9 8 p.addr p.seq.toNat (leBytes 8 v)

/-- CTRL_READ (R360, R406). -/
def execCtrlRead (p : Packet) (s : State) : Host.Outcome State Fault Refusal := .next (s.receive p fun s => (s.flushLate p.sess.toNat).applyCtrlRead p)

/-- Applies a CTRL_WRITE. -/
def State.applyCtrlWrite (s : State) (p : Packet) : State :=
  match if s.sessSys p.sess.toNat && p.payload.length == 8 then s.sysWrite .host p.addr.toNat (BitVec.ofNat 64 (leNat (s.crypt p))) else none with
  | none => s.refusePacket p 4
  | some s => s

/-- CTRL_WRITE (R360, R406). -/
def execCtrlWrite (p : Packet) (s : State) : Host.Outcome State Fault Refusal := .next (s.receive p fun s => (s.flushLate p.sess.toNat).applyCtrlWrite p)

/-! ## Acknowledgement and resending (R362) -/

/-- ACK (R362): the packets it covers are forgotten; it takes no number itself. -/
def execAck (p : Packet) (s : State) : Host.Outcome State Fault Refusal :=
  .next (if !s.netUp || !s.frameOk p || p.ver != 1 then s
    else if p.typ = 0 || 10 ≤ p.typ.toNat then s.countBad
    else if !s.fromPeer p then s.countAuth
    else { s with sess := s.sess.put p.sess.toNat ((s.sessSt p.sess.toNat).acked p.ack.toNat) })

/-- SESS.RTO in ns. -/
def State.rto (s : State) (n : Nat) : Nat := 1000 * max 1 (s.regBits (sessOff n + 24) 0 16)

/-- RETRANSMISSION_TIMEOUT (R362): what has waited longer than RTO is sent again, in a frame of now (R415); after 64 resends of a packet the session closes. -/
def execRetransmissionTimeout (sess : Nat) (s : State) : Host.Outcome State Fault Refusal :=
  .next (let x := s.sessSt sess
    let old (t : TxPkt) : Bool := decide (t.at_ + s.rto sess ≤ s.ns)
    if !s.sessValid sess || !x.unacked.any old then s
    else if x.unacked.any fun t => old t && decide (64 ≤ t.tries) then
      State.platformEvent { s.putReg (sessOff sess) 0 1 0 with sess := s.sess.put sess { x with unacked := [], ahead := [], ackDue := none } } 1
    else
      { (x.unacked.filter old).foldl (fun (s : State) t => s.emit (.packet (s.framed t.pkt))) s with
        sess := s.sess.put sess { x with unacked := x.unacked.map fun t => if old t then { t with at_ := s.ns, tries := t.tries + 1 } else t } })

/-- A late WRITE is performed, any that may be (R363). -/
def State.anyLate (s : State) (n : Nat) : State :=
  match s.lateReady n with
  | [] => s
  | l => State.performLate { s with fresh := s.fresh + 1 } n (l.getD (freeBelow s.fresh l.length) 0)

/-- ACK_TIMER (R362): an acknowledgement due within 2 µs is sent, the WRITEs it covers performed; before that it may find a late
WRITE performed. -/
def execAckTimer (sess : Nat) (s : State) : Host.Outcome State Fault Refusal :=
  .next (match (s.sessSt sess).ackDue with
    | some d =>
      if d ≤ s.ns then (if (s.sessSt sess).late.all s.linesFree then (s.flushLate sess).sendAck sess 0 else s)
      else s.anyLate sess
    | none => s.anyLate sess)

/-! ## The Ethernet port (R358, R411, R415) -/

/-- PRIORITY_FLOW_CONTROL_FRAME (R358): the priorities that are paused; what waited goes out when its priority is not. -/
def execPriorityFlowControlFrame (paused : BitVec 8) (s : State) : Host.Outcome State Fault Refusal :=
  .next (s.txWait.foldl State.emit { s with paused := paused, txWait := [] })

/-- ETHERNET_LINK_CHANGE (R411). -/
def execEthernetLinkChange (up : Bool) (s : State) : Host.Outcome State Fault Refusal :=
  .next (s.putReg 0 16 1 (if up && (s.reg 0).getLsbD 0 then 1 else 0))

/-- NET.MAC as sent. -/
def State.mac (s : State) : BitVec 48 := BitVec.ofNat 48 (s.regBits 0x100 0 48)

/-- ARP_REQUEST (R415). -/
def execArpRequest (ip : BitVec 32) (s : State) : Host.Outcome State Fault Refusal :=
  .next (if (s.reg 0).getLsbD 16 && ip != 0 && ip.toNat == s.regBits 0x108 0 32 then
      s.emit (.neighbor s.mac (ip.setWidth 128))
    else s)

/-- NEIGHBOR_SOLICITATION (R415). -/
def execNeighborSolicitation (ip6 : BitVec 128) (s : State) : Host.Outcome State Fault Refusal :=
  .next (if (s.reg 0).getLsbD 16 && ip6 != 0 && ip6 == (s.reg 0x110).append (s.reg 0x118) then
      s.emit (.neighbor s.mac ip6)
    else s)

/-- NETCFG_WRITE (R414, R415): the management port only. -/
def execNetcfgWrite (master : Master) (off : Nat) (value : Word) (s : State) : Host.Outcome State Fault Refusal :=
  .next (if decide (0x100 ≤ off) && decide (off < 0x128) then (s.sysWrite master off value).getD s else s)

/-! ## Host accesses to lines a copy owns (R246) -/

/-- The line of memory that a packet of another device touches, if the flit makes one whole (R356). -/
def State.flitLines (s : State) (port : Nat) (f : BitVec 512) : List Nat :=
  if !flGood f || flBits f 58 2 = 0 || flBits f 58 2 = 3 || !s.flitNext port f then []
  else
    match wholePacket ((s.portOf port).bodies f) with
    | none => []
    | some (h, _) =>
      if h.dst != Config.node || s.far.seen.contains (h.src, h.num) then []
      else
        match h.kind with
        | .read => ((s.farPin h .read).map Pin.to_).toList
        | .write => ((s.farPin h .write).map Pin.to_).toList
        | .atomic _ => ((s.farPin h .atomic).map Pin.to_).toList
        | _ => []

/-- The lines that a packet that is the next of its session touches, with those of the late WRITEs it must follow. -/
def State.hostLines (s : State) (i : Instr) : List Nat :=
  let due (p : Packet) : Bool := s.netUp && s.frameOk p && p.ver == 1 && s.fromPeer p && p.seq.toNat == (s.sessSt p.sess.toNat).rxNext
  let go (p : Packet) (l : List Nat) : List Nat := if due p then l else []
  let late (p : Packet) : List Nat := (s.sessSt p.sess.toNat).late.flatMap fun q => s.packetLines q .write
  match i with
  | .write p => go p (s.packetLines p .write)
  | .read p => go p (s.packetLines p .read ++ late p)
  | .notify p => go p (late p)
  | .ctrlRead p => go p (late p)
  | .ctrlWrite p => go p (late p)
  | .flitReceive port f => s.flitLines port f
  | _ => []

/-- The recalls of the packet that is next. -/
def State.hostRecalls (s : State) : List Recall := s.recalls.filter fun r => r.z == hostZ

/-- A packet's access reaches a line that a copy owns: it waits until every copy that held the line then has finished with it. So it
does for a line that a commit holds (R268). -/
def State.hostWaits (s : State) (i : Instr) : Bool :=
  (s.hostLines i).any (fun l => s.artHolds (256 * l)) ||
  if s.hostRecalls.isEmpty then (s.hostLines i).any fun l => !(s.ownedLine l).isEmpty
  else s.hostRecalls.any fun r => r.copies.any fun c => (s.ownedLine r.line).contains c

/-- The packet's access recalls the lines. -/
def State.hostRecall (s : State) (i : Instr) : State :=
  if !s.hostRecalls.isEmpty then s
  else
    { s with
      nextId := s.nextId + 1,
      recalls := s.recalls ++ ((s.hostLines i).eraseDups.filter fun l => !(s.ownedLine l).isEmpty).map fun l =>
        (⟨l, hostZ, s.nextId, s.ownedLine l⟩ : Recall) }

/-- The packet is applied: its recalls end, and the copies that waited behind them gain their lines. -/
def State.hostServed (s : State) : State :=
  let r := s.hostRecalls
  let s := { s with recalls := s.recalls.filter fun r => r.z != hostZ }
  r.foldl (fun s r => s.lineTurn r.line) s

end Sys2Proof.Machine
end

