-- ==== Sys2Proof/Machine/Platform.lean ====
section
/-!
DEFINITION. The management die (R408 to R421): firmware images, boot and recovery, attestation, the management commands, the power cap
and the thermal and coolant limits.
-/
namespace Sys2Proof.Machine

/-! ## Firmware images (R408, R409, R412) -/

/-- A little-endian 32-bit field of an image. -/
def fwWord (l : List Byte) (off : Nat) : Nat := leNat ((l.drop off).take 4)

/-- FW.SVN. -/
def fwSvn (l : List Byte) : Nat := fwWord l 8

/-- The payload of an image. -/
def fwPayload (l : List Byte) : List Byte := (l.drop (0x74 + fwWord l 0x70)).take (fwWord l 12)

/-- An image of a kind is accepted (R409). -/
def Platform.accepts (p : Platform) (kind : Nat) (l : List Byte) : Bool :=
  Config.signaturesVerify l p.revoked && decide (p.svn.getD kind 0 ≤ fwSvn l) && fwWord l 0 == 0x4D463957
    && ((l.drop 4).headD 0).toNat == kind

/-- The image of a kind that a bank boots: its own, or where it holds none the other bank's. -/
def Platform.image (p : Platform) (bank kind : Nat) : List Byte :=
  match p.flash.get? (4 * bank + kind) with
  | some l => l
  | none => p.flash.getD (4 * (1 - bank) + kind) []

/-- The boot step that fails with a bank's images: 1 for management firmware, 4 for the others (R410). -/
def Platform.failed (p : Platform) (bank : Nat) : Option Nat :=
  if !p.accepts 1 (p.image bank 1) then some 1
  else if !p.accepts 2 (p.image bank 2) || !p.accepts 3 (p.image bank 3) then some 4 else none

/-! ## Boot (R6, R72, R82, R410) -/

/-- A device that has just lost its state but for the management die's, for what the model keeps of its own, and for what is due from
outside. -/
def State.powered (s : State) (plat : Platform) : State :=
  { State.reset with plat := { plat with chunk := [], chunkLen := 0, clk := [], cool := false }, agenda := s.agenda, out := s.out, fresh := s.fresh,
                     nextId := s.nextId, launchNo := 1 }

/-- Physical address of the system dictionary: where boot firmware loads the kind 2 image. -/
def systemBase : Nat := Config.systemBase % 2 ^ 23 * 2 ^ 16

/-- A partition after boot. -/
def bootPart (sysLen part : Nat) : Part :=
  { table := [], lru := [], refills := [], windows := [], oneVec := Config.oneVector part, sysBase := BitVec.ofNat 64 systemBase,
    sysLen := sysLen, frag := 0, hold := none, busy := none }

/-- A core after boot. -/
def bootCore : CoreSt :=
  { mq := [], xacc := 0, l1 := [], overflow := [], tlb := [], missDue := 0, breq := [], deny := [], bank := [], bankAt := [], lt0 := [], ltZero := false, events := [],
    lastTrace := 0, trGap := 0 }

/-- The next of a bench's physical cores that boot firmware gives to a logical one, of those left. -/
def pickCore (k : Nat) (left : List Nat) : Nat := left.getD (Config.coreChoice k % left.length) 0

/-- The map of a bench's 8 logical cores onto 8 of its 9 physical ones, by logical core (R6): which, the spec leaves to the boot firmware
(log entry 60). -/
def benchMap (bench : Nat) : List Nat :=
  ((List.range 8).foldl (fun (a : List Nat × List Nat) i =>
    let p := pickCore (8 * bench + i) a.1
    (a.1.erase p, a.2 ++ [p])) (List.range 9, [])).2

/-- The map of every bench. -/
def bootMap : SMap 4 :=
  (List.range 512).foldl (fun m c => m.set c (BitVec.ofNat 4 ((benchMap (c / 8)).getD (c % 8) 0))) []

/-- The Tchiheuri ports are trained (R348, R410): which lanes come up, and which device is at the far end, is the world's. -/
def trainedPorts (k : Nat) : AL Port :=
  (List.range 128).map fun p =>
    (p, ⟨BitVec.ofNat 2 (Config.freeChoice (k + 2 * p)), BitVec.ofNat 16 (Config.freeChoice (k + 2 * p + 1)), 0, 1, [], 0, [], []⟩)

/-- A device that runs: every leaf and stack on, every main clock at 1.1 GHz, READY at step 7; fall says the fallback bank runs. -/
def State.running (s : State) (bank : Nat) (fall : Bool) : State :=
  let img := fwPayload (s.plat.image bank 2)
  let w : Word := BitVec.ofNat 64 (1 + (if fall then 4 else 0) + 16 * 7 + 2 ^ 8 * 0xFF + 2 ^ 32 * 0x5555)
  State.writeMem { s.setReg 0 w with
    plat := { s.plat with bank := bank, boot := bank },
    coreMap := bootMap,
    ports := trainedPorts s.fresh, fresh := s.fresh + 256,
    cores := (List.range 512).map (fun c => (c, bootCore)),
    parts := (List.range 2048).map (fun p => (p, bootPart (min 32768 (img.length / 32)) p)) } systemBase img false

/-- Recovery state after a boot step failed. -/
def State.recovery (s : State) (step : Nat) : State := s.setReg 0 (BitVec.ofNat 64 (2 + 16 * step))

/-- DEVICE_RESET (R410, R412): the bank chosen for this boot, else the other one with PEV.BOOTFB, else recovery state. -/
def execDeviceReset (s : State) : Host.Outcome State Fault Refusal :=
  .next (
    let p := s.plat
    let s := s.powered p
    match p.failed p.boot with
    | none => s.running p.boot false
    | some step =>
      match p.failed (1 - p.boot) with
      | none => (s.running (1 - p.boot) true).platformEvent 4
      | some _ => s.recovery step)

/-! ## Management commands (R414 to R416) -/

/-- PSTAT.RECOV. -/
def State.recovering (s : State) : Bool := (s.reg 0).getLsbD 1

/-- An answer of the management port. -/
def State.mgmtAnswer (s : State) (code : BitVec 8) (data : List Byte) : State := { s with out := s.out ++ [.mgmt code data] }

/-- A command refused in recovery state. -/
def State.unlessRecovery (s : State) (f : State → State) : State := if s.recovering then s.mgmtAnswer 3 [] else f s

/-- An access of the management port outside what recovery state serves. -/
def State.mgmtBarred (s : State) (off : Nat) : Bool := s.recovering && decide (0x100000 ≤ off)

/-- REGISTER_READ (R406, R416). -/
def execRegisterRead (off : Nat) (s : State) : Host.Outcome State Fault Refusal :=
  .next (if s.mgmtBarred off then s.mgmtAnswer 3 []
    else
      match s.sysRead off with
      | some v => s.mgmtAnswer 0 (leBytes 8 v)
      | none => s.mgmtAnswer 2 [])

/-- REGISTER_WRITE (R406, R416). -/
def execRegisterWrite (off : Nat) (value : Word) (s : State) : Host.Outcome State Fault Refusal :=
  .next (if s.mgmtBarred off then s.mgmtAnswer 3 []
    else
      match s.sysWrite .mgmt off value with
      | some s => s.mgmtAnswer 0 []
      | none => s.mgmtAnswer 2 [])

/-- INSTALL_SESSION (R361, R416): the key and the fields of a session. -/
def execInstallSession (sess : Nat) (key : BitVec 256) (words : List Word) (s : State) : Host.Outcome State Fault Refusal :=
  .next (s.unlessRecovery fun s =>
    if 256 ≤ sess || !(s.reg 0).getLsbD 0 then s.mgmtAnswer 2 []
    else
      let s := { s with sess := s.sess.put sess { s.sessSt sess with key := key } }
      ([3, 2, 1, 0].foldl (fun (s : State) i => (s.sysWrite .mgmt (sessOff sess + 8 * i) (words.getD i 0)).getD s) s).mgmtAnswer 0 [])

/-- WRITE_FIRMWARE_IMAGE_CHUNK (R416). -/
def execWriteFirmwareImageChunk (off : Nat) (bytes : List Byte) (s : State) : Host.Outcome State Fault Refusal :=
  .next (State.mgmtAnswer { s with plat := { s.plat with
    chunk := s.plat.chunk.setRange off bytes, chunkLen := max s.plat.chunkLen (off + bytes.length) } } 0 [])

/-- COMMIT_IMAGE (R412): the image written is verified; accepted, it is stored in the bank that does not run, and that bank boots next. -/
def execCommitImage (s : State) : Host.Outcome State Fault Refusal :=
  .next (
    let p := s.plat
    let l := p.chunk.getRange 0 p.chunkLen
    let kind := ((l.drop 4).headD 0).toNat
    let p0 := { p with chunk := [], chunkLen := 0 }
    if decide (1 ≤ kind) && decide (kind ≤ 3) && p.accepts kind l then
      State.mgmtAnswer { s with plat := { p0 with flash := p.flash.put (4 * (1 - p.bank) + kind) l, boot := 1 - p.bank } } 0 []
    else State.mgmtAnswer { s with plat := p0 } 1 [])

/-- RAISE_SVN_MINIMUM (R416): each kind's minimum to the running image's SVN. -/
def execRaiseSvnMinimum (s : State) : Host.Outcome State Fault Refusal :=
  .next (s.unlessRecovery fun s =>
    let p := s.plat
    let svn := [1, 2, 3].foldl (fun (m : AL Nat) k => m.put k (max (m.getD k 0) (fwSvn (p.image p.bank k)))) p.svn
    State.mgmtAnswer { s with plat := { p with svn := svn } } 0 [])

/-- RESET_DEVICE (R416): the device is answered for and boots again. -/
def execResetDevice (s : State) : Host.Outcome State Fault Refusal :=
  .next (let s := s.mgmtAnswer 0 []
    let s := s.powered s.plat
    { s with agenda := .deviceReset :: s.agenda })

/-- READ_PLATFORM_EVENT_LOG (R416): each event's time and bit. -/
def execReadPlatformEventLog (s : State) : Host.Outcome State Fault Refusal :=
  .next (s.mgmtAnswer 0 (s.plat.log.flatMap fun x => leBytes 8 (BitVec.ofNat 64 x.1) ++ leBytes 8 (BitVec.ofNat 64 x.2)))

/-! ## Attestation (R413) -/

/-- A requester is served: the management port always, a session when it is a valid system session. -/
def State.spdmServed (s : State) (via : Via) : Bool :=
  match via with
  | .mgmt => true
  | .session n => decide (n < 256) && s.sessValid n && s.sessSys n && (s.reg 0).getLsbD 0

/-- Sends a response. -/
def State.spdmAnswer (s : State) (via : Via) (data : List Byte) : State :=
  if s.spdmServed via then { s with out := s.out ++ [.spdm via data] } else s

/-- An SPDM ERROR response: InvalidRequest. -/
def spdmError : List Byte := [0x13, 0x7F, 0x01, 0x00]

/-- Bytes of a digest, most significant first. -/
def digestBytes (d : BitVec 384) : List Byte := (leBytes 48 d).reverse

/-- Bytes of a signature (r, s), each 48 bytes big-endian. -/
def signBytes (d : BitVec 768) : List Byte := (leBytes 96 d).reverse

/-- Digest of the certificate chain of slot 0. -/
def certDigest : List Byte := digestBytes (Config.sha384 Config.certificate)

/-- The measurement of an index. -/
def State.measurement (s : State) (i : Nat) : Option (List Byte) :=
  let p := s.plat
  match i with
  | 1 => some (digestBytes (Config.sha384 (p.image p.bank 1)))
  | 2 => some (digestBytes (Config.sha384 (p.image p.bank 2)))
  | 3 => some (digestBytes (Config.sha384 (p.image p.bank 3)))
  | 4 => some (([1, 2, 3].flatMap fun k => leBytes 4 (BitVec.ofNat 32 (p.svn.getD k 0))) ++ leBytes 8 p.revoked)
  | 5 => some [(if s.recovering then 1 else 0) ||| (if (s.reg 0).getLsbD 2 then 2 else 0)]
  | _ => none

/-- GET_DIGESTS. -/
def execGetDigests (via : Via) (s : State) : Host.Outcome State Fault Refusal := .next (s.spdmAnswer via certDigest)

/-- GET_CERTIFICATE: a part of the chain of slot 0. -/
def execGetCertificate (via : Via) (slot off len : Nat) (s : State) : Host.Outcome State Fault Refusal :=
  .next (s.spdmAnswer via (if slot = 0 then (Config.certificate.drop off).take len else spdmError))

/-- CHALLENGE: the digest of slot 0's chain and the requester's nonce, signed with the device key. -/
def execChallenge (via : Via) (slot : Nat) (nonce : BitVec 256) (s : State) : Host.Outcome State Fault Refusal :=
  .next (s.spdmAnswer via (if slot = 0 then
      let m := certDigest ++ leBytes 32 nonce
      m ++ signBytes (Config.deviceSign m)
    else spdmError))

/-- GET_MEASUREMENTS: the number of measurements, all of them, or one; signed when the request has a nonce. -/
def execGetMeasurements (via : Via) (index : Nat) (nonce : Option (BitVec 256)) (s : State) : Host.Outcome State Fault Refusal :=
  .next (
    let m : Option (List Byte) :=
      if index = 0 then some [5]
      else if index = 255 then some ((List.range 5).flatMap fun i => (s.measurement (i + 1)).getD [])
      else s.measurement index
    match m, nonce with
    | none, _ => s.spdmAnswer via spdmError
    | some l, none => s.spdmAnswer via l
    | some l, some n => s.spdmAnswer via (l ++ leBytes 32 n ++ signBytes (Config.deviceSign (l ++ leBytes 32 n))))

/-! ## Power, temperature, cooling (R418, R420, R421) -/

/-- The cap applied, in watts (R420). -/
def capOf (v : Nat) : Nat := if v = 0 then 3600 else if v < 1200 then 1200 else if v ≤ 3600 then v else 3600

/-- PCAP_WRITE (R420). -/
def execPcapWrite (value : Word) (s : State) : Host.Outcome State Fault Refusal := .next (s.putReg 0x200 0 13 (value.toNat % 2 ^ 13))

/-- The step a leaf has, or is about to have. -/
def State.stepOf (s : State) (leaf : Nat) : Nat := s.plat.clk.getD leaf (s.pclk leaf)

/-- A leaf takes a clock step at the next frame boundary; none above 0.6 GHz while the coolant limits it (R420, R421). -/
def State.setStep (s : State) (leaf v : Nat) : State :=
  { s with plat := { s.plat with clk := s.plat.clk.put leaf (if s.plat.cool then 0 else v) } }

/-- POWER_CAP_STEP (R420): the step falls while the estimated power exceeds the cap, and rises toward 1.1 GHz while it does not. -/
def execPowerCapStep (leaf watts : Nat) (s : State) : Host.Outcome State Fault Refusal :=
  .next (if 4 ≤ leaf then s
    else if capOf (s.regBits 0x200 0 13) < watts then s.setStep leaf (s.stepOf leaf - 1)
    else s.setStep leaf (min 5 (s.stepOf leaf + 1)))

/-- THERMAL_THROTTLING (R420): a junction above 105 °C. -/
def execThermalThrottling (leaf : Nat) (s : State) : Host.Outcome State Fault Refusal :=
  .next (if 4 ≤ leaf then s else (s.setStep leaf (s.stepOf leaf - 1)).platformEvent 2)

/-- THERMAL_SHUTDOWN (R418, R420): a junction above 115 °C; only the always-on domain stays on, with the time base and the platform
block. -/
def execThermalShutdown (s : State) : Host.Outcome State Fault Refusal :=
  .next { s.powered s.plat with
    plat := { s.plat with clk := [] },
    regs := (s.regs.filter fun x => decide (0 < x.1) && decide (x.1 < 0x100000)).foldl (fun m x => m.set x.1 x.2)
      ((State.reset.regs.set 0x100 0).set 0 2),
    clock := s.clock, tick := s.tick }

/-- COOLANT_LIMIT (R421): too little flow or too warm an inlet limits every clock to 0.6 GHz. -/
def execCoolantLimit (s : State) : Host.Outcome State Fault Refusal :=
  .next ([0, 1, 2, 3].foldl (fun s x => s.setStep x 0) { s with plat := { s.plat with cool := true } })

/-- COOLANT_RECOVERY (R421): flow and inlet have recovered. -/
def execCoolantRecovery (s : State) : Host.Outcome State Fault Refusal :=
  .next ([0, 1, 2, 3].foldl (fun s x => s.setStep x 5) { s with plat := { s.plat with cool := false } })

end Sys2Proof.Machine
end

