-- ==== Sys2Proof/Machine/Turn.lean ====
section
/-!
DEFINITION. The steps that may come next inside the device: every step that some unit could take, each tried by Step.lean, which takes
one of those that change something (log entry 1). A step whose time has not come has no effect.
-/
namespace Sys2Proof.Machine

/-- The steps of a team and of its word. -/
def Team.steps (z : Nat) (t : Team) : List Instr :=
  [.wordFetch z, .landing z, .eretResume z, .trapEntry z, .debugHalt z, .stepTimeout z] ++
  (match t.ctx with
    | none => []
    | some c => (List.range c.ops.length).map fun k => Instr.blockedSlotCommit z k) ++
  (t.ops.filter fun o => !o.done || decide (o.perf < 4)).flatMap fun o =>
    [Instr.loadReply o.id, .operationCompletion o.id, .taskPostAccept o.id]

/-- The steps of a core with teams. -/
def State.coreSteps (s : State) (core : Nat) : List Instr :=
  [.queueHandleUpdate core, .xuAcceptance core, .teamHalt core] ++
  match s.cores.get? core with
  | none => []
  | some c =>
    (if c.mq.isEmpty then [] else [Instr.matrixCommandBegin core, .matrixCommandCompletion core]) ++
    (if c.missDue = 0 then [] else [Instr.missStatusRelease core 1])

/-- The bank and port services that have a request. -/
def State.bankSteps (s : State) : List Instr :=
  (s.cores.flatMap fun x => (List.range 32).filterMap fun b =>
    if (s.pendingAt x.1 b x.2).isEmpty then none else some (Instr.bankArbitration x.1 b)) ++
  ((s.teams.flatMap fun x => x.2.ops.flatMap fun o => o.lines.map fun l => (coreOf x.1 % 128, s.bankOfLine (coreOf x.1) o l)).eraseDups.map
    fun x => Instr.portSlotService x.1 x.2)

/-- The steps of a partition's refill engine, of its word slot and of its drain hold. -/
def State.partSteps (s : State) : List Instr :=
  ((s.teams.map fun x => partOf x.1).eraseDups.flatMap fun p =>
    [Instr.teamSelection p, .dictRefill p (((s.parts.get? p).map fun x => x.refills.length).getD 0)]) ++
  s.parts.flatMap fun x =>
    ((List.range x.2.refills.length).map fun k => Instr.dictRefill x.1 k) ++
    (if x.2.hold.isSome || decide (50000 ≤ x.2.frag) then [Instr.drainHold x.1] else [])

/-- The steps of the copies and of the lines they own. -/
def State.copySteps (s : State) : List Instr :=
  (s.copies.flatMap fun c => [Instr.copyChunkComplete c.id, .copyCompletion c.id, .copyFaultSuspend c.id]) ++
  (s.recalls.map Recall.line).eraseDups.map fun l => Instr.ownershipRecall l

/-- The hardware slot a queue may be mapped into, or the one to be unmapped for it (R296, R297): any free slot will do. -/
def State.mapSteps (s : State) : List Instr :=
  match s.candidate with
  | none => []
  | some q =>
    match (List.range 256).filter fun k => (s.qslots.get? k).isNone with
    | [] => ((s.victim (qrPrio (s.qRec q))).map fun x => Instr.queueMapping x.1).toList
    | l => l.map Instr.queueMapping

/-- A slot's dependences are read again after a counter's update, and at least every 4,096 cycles (R301). -/
def QSlot.readDue (x : QSlot) (clock : Nat) : Bool :=
  x.lr.isSome && x.met.any (fun m => !m) && (x.due || decide (x.readAt + 4096 ≤ clock))

/-- The steps of the queues, launches and dispatchers. -/
def State.schedSteps (s : State) : List Instr :=
  s.mapSteps ++
  (s.qslots.flatMap fun x => Instr.launchStart x.1 :: (if x.2.readDue s.clock then [Instr.dependenceRead x.1] else [])) ++
  (s.launches.map fun x => Instr.launchCompletion x.1) ++
  (s.blocks.map fun x => Instr.blockEnd x.1) ++
  ((List.range 4).flatMap fun k => [Instr.blockPlacement k, .restorePlacement k, .starvationHold k, .switchFlag k]) ++
  (if (s.reg qdisOff).getLsbD 17 then [Instr.queueDisableComplete] else [])

/-- The steps of the message network (R340 to R347): a branch of a router's entry at a time finds room. -/
def State.msgSteps (s : State) : List Instr :=
  ((List.range s.msgs.length).map fun k => Instr.messageDelivery k) ++
  ((List.range s.forks.length).zip s.forks).flatMap fun x =>
    let k := ((s.forks.take x.1).filter fun f => f.router == x.2.router).length
    (List.range x.2.left.length).map fun i => Instr.multicastFork x.2.router k (2 ^ i)

/-- The steps of the memory system's and the context engine's commands, of the debug unit, of the host port's timers and of boot. -/
def State.unitSteps (s : State) : List Instr :=
  ((s.fusing.map Prod.fst).map fun b => Instr.fusionChange b) ++
  (s.holds.map fun h => Instr.wayConversionComplete (h / 16) (h % 16)) ++
  (if (s.reg artctlOff).getLsbD 9 then [Instr.artCommitComplete] else []) ++
  (if (s.reg invctlOff).getLsbD 25 then [Instr.invalidationComplete] else []) ++
  (if (s.reg dtctlOff).getLsbD 1 then [Instr.filterEmptied] else []) ++
  (match s.cx with
    | none => []
    | some c => [Instr.blockSettle (c.blocks.headD 0)]) ++
  (if s.cxq.isEmpty then [] else [Instr.contextEvent]) ++
  (s.bstop.map fun x => Instr.benchStop x.1) ++
  (s.sess.flatMap fun x => [Instr.retransmissionTimeout x.1, .ackTimer x.1]) ++
  (if s.reg 0 = 0 then [Instr.deviceReset] else [])

/-- Every step that may be due inside the device. -/
def State.candidates (s : State) : List Instr :=
  (s.teams.flatMap fun x => x.2.steps x.1) ++
  ((s.teams.map fun x => coreOf x.1).eraseDups.flatMap s.coreSteps) ++
  s.partSteps ++ s.bankSteps ++ s.copySteps ++ s.schedSteps ++ s.msgSteps ++ s.unitSteps

/-! ## Turns within a clock -/

/-- The turn a step is taken in, and its rank there: partitions of a core in ascending order (R37, R198, R212), dispatchers by leaf (R303),
task requests by leaf, bench, core and partition (R312), and the once-a-clock services of a bank (R258) and of a port (R273). -/
def State.turnOf (s : State) (i : Instr) : Option (Nat × Nat) :=
  match i with
  | .teamSelection p => some (turnCore (p / 4), p % 4)
  | .blockedSlotCommit z _ => some (turnCore (coreOf z), partOf z % 4)
  | .queueHandleUpdate c => (s.firstRetry c isAdvance).map fun x => (turnCore c, partOf x.1 % 4)
  | .xuAcceptance c => (s.firstRetry c isCommand).map fun x => (turnCore c, partOf x.1 % 4)
  | .blockPlacement leaf => some (turnLeaf, leaf)
  | .restorePlacement leaf => some (turnLeaf, leaf)
  | .bankArbitration core bank => some (turnBank core bank, 0)
  | .portSlotService core bank => some (turnPort (portNo core bank), 0)
  | .loadReply id => (s.findOp id).bind fun x => if x.2.2.kind == .tget then some (turnTask, partOf x.1) else none
  | _ => none

/-- A turn that every clock brings: the clock does not end while a step of it is due (R84, R258). -/
def everyClock (key : Nat) : Bool := decide (key < turnTask) || decide (turnLeaf < key)

/-- Of the steps that are due, those that none of a lower rank in the same turn goes before. -/
def State.inOrder (s : State) (l : List Instr) : List Instr :=
  let ts := l.map fun i => (i, s.turnOf i)
  (ts.filter fun x => match x.2 with
    | none => true
    | some (k, r) => ts.all fun y => match y.2 with
      | none => true
      | some (j, q) => j != k || decide (r ≤ q)).map Prod.fst

/-- A step of a turn that every clock brings is due. -/
def State.clockOwes (s : State) (l : List Instr) : Bool := l.any fun i => ((s.turnOf i).map fun x => everyClock x.1).getD false

/-! ## Lines that copies own (R246) -/

/-- The lines that copies own. -/
def State.ownedLines (s : State) : List Nat := (s.copies.flatMap Copy.owned).eraseDups

/-- The state with every byte of some lines turned to its complement. -/
def State.flipLines (s : State) (l : List Nat) : State :=
  { s with mem := l.foldl (fun m x => m.setRange (256 * x) ((m.getRange (256 * x) 256).map fun b => ~~~b)) s.mem }

/-- Steps that meet owned lines in a way of their own: the copies', and those of the accesses that wait behind recalls. -/
def ownWay (i : Instr) : Bool :=
  match i with
  | .copyChunkComplete _ => true
  | .copyCompletion _ => true
  | .copyFaultSuspend _ => true
  | .portSlotService _ _ => true
  | .ownershipRecall _ => true
  | .loadReply _ => true
  | _ => false

/-! ## A word placed from outside (log entry 2) -/

/-- The variant of a lone team: 32 lanes, every register a slot can have, the whole core's tiles and accumulators, 8 sets of window. -/
def loneVariant : Variant :=
  { shape := BitVec.ofNat 64 (2 ^ 8 * 64 + 2 ^ 16 * 32 + 2 ^ 24 * 16 + 2 ^ 32 * 64 + 2 ^ 40 * 8 + 2 ^ 48), dict := 0, dlen := 256, entry := 0,
    carry := 0, gate := 0, pmap := [], sw := [] }

/-- The launch of a lone team: one block of one team. -/
def loneLaunch : Launch :=
  { queue := 0, lr := List.replicate 16 0, asid := 1, root := 0, trapvec := 0, ctxbase := 0, ctxlog := 0, prio := 0, params := [],
    vars := [loneVariant], claims := [(0, 1)], next := 1, placed := [], ended := [], saved := [], restarts := [], doms := [], tq := [] }

/-- A core 0 and a partition 0 if the device has none yet. -/
def State.withCore (s : State) : State :=
  { s with
    cores := if (s.cores.get? 0).isSome then s.cores else s.cores.put 0 bootCore,
    parts := if (s.parts.get? 0).isSome then s.parts else s.parts.put 0 { bootPart 0 0 with oneVec := false } }

/-- A team in slot 0, placed as a dispatcher places it, if there is none. -/
def State.withTeam (s : State) : State :=
  if (s.teams.get? 0).isSome then s
  else ({ s with launches := s.launches.put 0 loneLaunch } : State).layBlock 0 0 0 0 ⟨0, List.range 8, [⟨0, 0, 0, 0, 0, 0⟩]⟩ none

/-- The team in slot 0 holds a fetched word at its pc and may issue it in this clock. -/
def State.giveWord (s : State) (w : Word3) : State :=
  s.updTeam 0 fun t => { t with
    fetched := some ⟨t.pc, parcelAdd t.pc (1 + w.nimm), 0, 0, w⟩, waiting := false, startAt := s.clock }

end Sys2Proof.Machine
end

