-- ==== Sys2Proof/Machine/Dispatch.lean ====
section
/-!
DEFINITION. The dispatch: one direct call of its meaning for every constructor of Instr, in the order of the syntax.
-/
namespace Sys2Proof.Machine

def exec (i : Instr) (s : State) : Host.Outcome State Fault Refusal :=
  match i with
  | .suNop => Sys2Proof.Machine.execSuNop s
  | .suEnd => Sys2Proof.Machine.execSuEnd s
  | .suAdd sd sa sb => Sys2Proof.Machine.execSuAdd sd sa sb s
  | .suSub sd sa sb => Sys2Proof.Machine.execSuSub sd sa sb s
  | .suMul sd sa sb => Sys2Proof.Machine.execSuMul sd sa sb s
  | .suMulh sd sa sb => Sys2Proof.Machine.execSuMulh sd sa sb s
  | .suMulhu sd sa sb => Sys2Proof.Machine.execSuMulhu sd sa sb s
  | .suAnd sd sa sb => Sys2Proof.Machine.execSuAnd sd sa sb s
  | .suOr sd sa sb => Sys2Proof.Machine.execSuOr sd sa sb s
  | .suXor sd sa sb => Sys2Proof.Machine.execSuXor sd sa sb s
  | .suAndn sd sa sb => Sys2Proof.Machine.execSuAndn sd sa sb s
  | .suShl sd sa sb => Sys2Proof.Machine.execSuShl sd sa sb s
  | .suShr sd sa sb => Sys2Proof.Machine.execSuShr sd sa sb s
  | .suSar sd sa sb => Sys2Proof.Machine.execSuSar sd sa sb s
  | .suMin sd sa sb => Sys2Proof.Machine.execSuMin sd sa sb s
  | .suMax sd sa sb => Sys2Proof.Machine.execSuMax sd sa sb s
  | .suMinu sd sa sb => Sys2Proof.Machine.execSuMinu sd sa sb s
  | .suMaxu sd sa sb => Sys2Proof.Machine.execSuMaxu sd sa sb s
  | .suPopc sd sa => Sys2Proof.Machine.execSuPopc sd sa s
  | .suClz sd sa => Sys2Proof.Machine.execSuClz sd sa s
  | .suCtz sd sa => Sys2Proof.Machine.execSuCtz sd sa s
  | .suCmp cc sd sa sb => Sys2Proof.Machine.execSuCmp cc sd sa sb s
  | .suSel sd sa sb sc => Sys2Proof.Machine.execSuSel sd sa sb sc s
  | .suMov sd sa => Sys2Proof.Machine.execSuMov sd sa s
  | .suBfx sd sa sb sc => Sys2Proof.Machine.execSuBfx sd sa sb sc s
  | .suBmsk sd sa sb => Sys2Proof.Machine.execSuBmsk sd sa sb s
  | .suBr occ sa sb sc => Sys2Proof.Machine.execSuBr occ sa sb sc s
  | .suCall sd sc => Sys2Proof.Machine.execSuCall sd sc s
  | .suCalli sd sa => Sys2Proof.Machine.execSuCalli sd sa s
  | .suJmpi sa => Sys2Proof.Machine.execSuJmpi sa s
  | .suLoop lv sa sc => Sys2Proof.Machine.execSuLoop lv sa sc s
  | .suLbrk lv => Sys2Proof.Machine.execSuLbrk lv s
  | .suLrd sd lv lr => Sys2Proof.Machine.execSuLrd sd lv lr s
  | .suLwr lv lr sa => Sys2Proof.Machine.execSuLwr lv lr sa s
  | .suSwait str sb => Sys2Proof.Machine.execSuSwait str sb s
  | .suSrd sd str ctr => Sys2Proof.Machine.execSuSrd sd str ctr s
  | .suBar lv => Sys2Proof.Machine.execSuBar lv s
  | .suSwpt sa => Sys2Proof.Machine.execSuSwpt sa s
  | .suBcast df sd sa => Sys2Proof.Machine.execSuBcast df sd sa s
  | .suXfer sd sa => Sys2Proof.Machine.execSuXfer sd sa s
  | .suCsrr sd csr => Sys2Proof.Machine.execSuCsrr sd csr s
  | .suCsrw csr sa => Sys2Proof.Machine.execSuCsrw csr sa s
  | .suTrap sa => Sys2Proof.Machine.execSuTrap sa s
  | .suEret => Sys2Proof.Machine.execSuEret s
  | .suDpf sa sb => Sys2Proof.Machine.execSuDpf sa sb s
  | .suDinv => Sys2Proof.Machine.execSuDinv s
  | .suHclr sa => Sys2Proof.Machine.execSuHclr sa s
  | .vaAdd mk vd oa ob => Sys2Proof.Machine.execVaAdd mk vd oa ob s
  | .vaSub mk vd oa ob => Sys2Proof.Machine.execVaSub mk vd oa ob s
  | .vaMul mk vd oa ob => Sys2Proof.Machine.execVaMul mk vd oa ob s
  | .vaMulh mk vd oa ob => Sys2Proof.Machine.execVaMulh mk vd oa ob s
  | .vaMulhu mk vd oa ob => Sys2Proof.Machine.execVaMulhu mk vd oa ob s
  | .vaAnd mk vd oa ob => Sys2Proof.Machine.execVaAnd mk vd oa ob s
  | .vaOr mk vd oa ob => Sys2Proof.Machine.execVaOr mk vd oa ob s
  | .vaXor mk vd oa ob => Sys2Proof.Machine.execVaXor mk vd oa ob s
  | .vaAndn mk vd oa ob => Sys2Proof.Machine.execVaAndn mk vd oa ob s
  | .vaShl mk vd oa ob => Sys2Proof.Machine.execVaShl mk vd oa ob s
  | .vaShr mk vd oa ob => Sys2Proof.Machine.execVaShr mk vd oa ob s
  | .vaSar mk vd oa ob => Sys2Proof.Machine.execVaSar mk vd oa ob s
  | .vaMin mk vd oa ob => Sys2Proof.Machine.execVaMin mk vd oa ob s
  | .vaMax mk vd oa ob => Sys2Proof.Machine.execVaMax mk vd oa ob s
  | .vaMinu mk vd oa ob => Sys2Proof.Machine.execVaMinu mk vd oa ob s
  | .vaMaxu mk vd oa ob => Sys2Proof.Machine.execVaMaxu mk vd oa ob s
  | .vaCmp mk cc vd oa ob => Sys2Proof.Machine.execVaCmp mk cc vd oa ob s
  | .vaSel mk vd oa ob oc => Sys2Proof.Machine.execVaSel mk vd oa ob oc s
  | .vaMov mk vd oa => Sys2Proof.Machine.execVaMov mk vd oa s
  | .vaAdds mk vd oa ob => Sys2Proof.Machine.execVaAdds mk vd oa ob s
  | .vaSubs mk vd oa ob => Sys2Proof.Machine.execVaSubs mk vd oa ob s
  | .vaAdd64 mk vd oa ob => Sys2Proof.Machine.execVaAdd64 mk vd oa ob s
  | .vaSub64 mk vd oa ob => Sys2Proof.Machine.execVaSub64 mk vd oa ob s
  | .vaShl64 mk vd oa ob => Sys2Proof.Machine.execVaShl64 mk vd oa ob s
  | .vaShr64 mk vd oa ob => Sys2Proof.Machine.execVaShr64 mk vd oa ob s
  | .vaSar64 mk vd oa ob => Sys2Proof.Machine.execVaSar64 mk vd oa ob s
  | .vaCmp64 mk cc vd oa ob => Sys2Proof.Machine.execVaCmp64 mk cc vd oa ob s
  | .vaFadd mk rm vd oa ob => Sys2Proof.Machine.execVaFadd mk rm vd oa ob s
  | .vaFsub mk rm vd oa ob => Sys2Proof.Machine.execVaFsub mk rm vd oa ob s
  | .vaFmul mk rm vd oa ob => Sys2Proof.Machine.execVaFmul mk rm vd oa ob s
  | .vaFma mk rm vd oa ob oc => Sys2Proof.Machine.execVaFma mk rm vd oa ob oc s
  | .vaFnma mk rm vd oa ob oc => Sys2Proof.Machine.execVaFnma mk rm vd oa ob oc s
  | .vaFmin mk vd oa ob => Sys2Proof.Machine.execVaFmin mk vd oa ob s
  | .vaFmax mk vd oa ob => Sys2Proof.Machine.execVaFmax mk vd oa ob s
  | .vaFabs mk vd oa => Sys2Proof.Machine.execVaFabs mk vd oa s
  | .vaFneg mk vd oa => Sys2Proof.Machine.execVaFneg mk vd oa s
  | .vaFcmp mk fc vd oa ob => Sys2Proof.Machine.execVaFcmp mk fc vd oa ob s
  | .vaFcls mk vd oa => Sys2Proof.Machine.execVaFcls mk vd oa s
  | .vaCvt mk cv rm vd oa => Sys2Proof.Machine.execVaCvt mk cv rm vd oa s
  | .vaTsq mk ts rm vd oa => Sys2Proof.Machine.execVaTsq mk ts rm vd oa s
  | .vaTsdq mk ts vd oa ob => Sys2Proof.Machine.execVaTsdq mk ts vd oa ob s
  | .vaXfer mk xf df vd oa => Sys2Proof.Machine.execVaXfer mk xf df vd oa s
  | .vbAdd mk vd oa ob => Sys2Proof.Machine.execVbAdd mk vd oa ob s
  | .vbSub mk vd oa ob => Sys2Proof.Machine.execVbSub mk vd oa ob s
  | .vbAnd mk vd oa ob => Sys2Proof.Machine.execVbAnd mk vd oa ob s
  | .vbOr mk vd oa ob => Sys2Proof.Machine.execVbOr mk vd oa ob s
  | .vbXor mk vd oa ob => Sys2Proof.Machine.execVbXor mk vd oa ob s
  | .vbShl mk vd oa ob => Sys2Proof.Machine.execVbShl mk vd oa ob s
  | .vbShr mk vd oa ob => Sys2Proof.Machine.execVbShr mk vd oa ob s
  | .vbMin mk vd oa ob => Sys2Proof.Machine.execVbMin mk vd oa ob s
  | .vbMax mk vd oa ob => Sys2Proof.Machine.execVbMax mk vd oa ob s
  | .vbCmp mk cc vd oa ob => Sys2Proof.Machine.execVbCmp mk cc vd oa ob s
  | .vbSel mk vd oa ob oc => Sys2Proof.Machine.execVbSel mk vd oa ob oc s
  | .vbMov mk vd oa => Sys2Proof.Machine.execVbMov mk vd oa s
  | .vbPopc mk vd oa => Sys2Proof.Machine.execVbPopc mk vd oa s
  | .vbClz mk vd oa => Sys2Proof.Machine.execVbClz mk vd oa s
  | .vbFadd mk rm vd oa ob => Sys2Proof.Machine.execVbFadd mk rm vd oa ob s
  | .vbFmul mk rm vd oa ob => Sys2Proof.Machine.execVbFmul mk rm vd oa ob s
  | .vbFma mk rm vd oa ob oc => Sys2Proof.Machine.execVbFma mk rm vd oa ob oc s
  | .vbRcp mk vd oa => Sys2Proof.Machine.execVbRcp mk vd oa s
  | .vbRsqrt mk vd oa => Sys2Proof.Machine.execVbRsqrt mk vd oa s
  | .vbSqrt mk vd oa => Sys2Proof.Machine.execVbSqrt mk vd oa s
  | .vbExp2 mk vd oa => Sys2Proof.Machine.execVbExp2 mk vd oa s
  | .vbLog2 mk vd oa => Sys2Proof.Machine.execVbLog2 mk vd oa s
  | .vbSin mk vd oa => Sys2Proof.Machine.execVbSin mk vd oa s
  | .vbCos mk vd oa => Sys2Proof.Machine.execVbCos mk vd oa s
  | .vbTanh mk vd oa => Sys2Proof.Machine.execVbTanh mk vd oa s
  | .vbPerm mk vd oa ob => Sys2Proof.Machine.execVbPerm mk vd oa ob s
  | .vbShfl mk vd oa ob => Sys2Proof.Machine.execVbShfl mk vd oa ob s
  | .vbRot mk vd oa ob => Sys2Proof.Machine.execVbRot mk vd oa ob s
  | .vbBcl mk vd oa ob => Sys2Proof.Machine.execVbBcl mk vd oa ob s
  | .vbRed mk rf vd oa => Sys2Proof.Machine.execVbRed mk rf vd oa s
  | .vbScan mk rf vd oa => Sys2Proof.Machine.execVbScan mk rf vd oa s
  | .vbMatch mk vd oa => Sys2Proof.Machine.execVbMatch mk vd oa s
  | .vbXfer mk xf df vd oa => Sys2Proof.Machine.execVbXfer mk xf df vd oa s
  | .muLds mk df md ab oa st => Sys2Proof.Machine.execMuLds mk df md ab oa st s
  | .muSts mk ab oa ob st => Sys2Proof.Machine.execMuSts mk ab oa ob st s
  | .muGths mk df md ab ob st => Sys2Proof.Machine.execMuGths mk df md ab ob st s
  | .muScts mk ab oa ob st => Sys2Proof.Machine.execMuScts mk ab oa ob st s
  | .muLdsa md ab oa st => Sys2Proof.Machine.execMuLdsa md ab oa st s
  | .muStsa md ab oa st => Sys2Proof.Machine.execMuStsa md ab oa st s
  | .muLdr mk df md ab oa ob st => Sys2Proof.Machine.execMuLdr mk df md ab oa ob st s
  | .muStr mk ab oa ob st => Sys2Proof.Machine.execMuStr mk ab oa ob st s
  | .muAtmr mk af md ab oa ob st => Sys2Proof.Machine.execMuAtmr mk af md ab oa ob st s
  | .muLdg mk df md ab oa st => Sys2Proof.Machine.execMuLdg mk df md ab oa st s
  | .muStg mk ab oa ob st => Sys2Proof.Machine.execMuStg mk ab oa ob st s
  | .muGthg mk df md ab ob st => Sys2Proof.Machine.execMuGthg mk df md ab ob st s
  | .muSctg mk ab oa ob st => Sys2Proof.Machine.execMuSctg mk ab oa ob st s
  | .muLdga md ab oa st => Sys2Proof.Machine.execMuLdga md ab oa st s
  | .muStga md ab oa st => Sys2Proof.Machine.execMuStga md ab oa st s
  | .muPfg ab oa st => Sys2Proof.Machine.execMuPfg ab oa st s
  | .muAtms mk af md ab oa ob st => Sys2Proof.Machine.execMuAtms mk af md ab oa ob st s
  | .muAtmg mk af md ab oa ob st => Sys2Proof.Machine.execMuAtmg mk af md ab oa ob st s
  | .muQbind qh md => Sys2Proof.Machine.execMuQbind qh md s
  | .muQwait qs qh oa => Sys2Proof.Machine.execMuQwait qs qh oa s
  | .muQadv qs qh oa => Sys2Proof.Machine.execMuQadv qs qh oa s
  | .muTfull oa => Sys2Proof.Machine.execMuTfull oa s
  | .muTgate gate oa => Sys2Proof.Machine.execMuTgate gate oa s
  | .muTclr oa => Sys2Proof.Machine.execMuTclr oa s
  | .muCwait oa ob => Sys2Proof.Machine.execMuCwait oa ob s
  | .muTstat md oa => Sys2Proof.Machine.execMuTstat md oa s
  | .muCprog cp ab oa st => Sys2Proof.Machine.execMuCprog cp ab oa st s
  | .muCopy cp oa ob st => Sys2Proof.Machine.execMuCopy cp oa ob st s
  | .muMsend ab oa ob st => Sys2Proof.Machine.execMuMsend ab oa ob st s
  | .muMpost ab oa ob st => Sys2Proof.Machine.execMuMpost ab oa ob st s
  | .muMprobe md oa => Sys2Proof.Machine.execMuMprobe md oa s
  | .muCpost ab oa st => Sys2Proof.Machine.execMuCpost ab oa st s
  | .muTget md ab oa st => Sys2Proof.Machine.execMuTget md ab oa st s
  | .muAdda md ab oa => Sys2Proof.Machine.execMuAdda md ab oa s
  | .muMova md oa => Sys2Proof.Machine.execMuMova md oa s
  | .muXfer md oa => Sys2Proof.Machine.execMuXfer md oa s
  | .muXferPerLane mk df md oa => Sys2Proof.Machine.execMuXferPerLane mk df md oa s
  | .xuFmt fa oa st => Sys2Proof.Machine.execXuFmt fa oa st s
  | .xuMma acc fa fb oa ob oc st => Sys2Proof.Machine.execXuMma acc fa fb oa ob oc st s
  | .xuMmat acc fa fb oa ob oc st => Sys2Proof.Machine.execXuMmat acc fa fb oa ob oc st s
  | .xuDist acc fa fb oa ob oc st => Sys2Proof.Machine.execXuDist acc fa fb oa ob oc st s
  | .xuTopk largest i32 acc oa ob st => Sys2Proof.Machine.execXuTopk largest i32 acc oa ob st s
  | .xuAccst i32 rm acc fa oa st => Sys2Proof.Machine.execXuAccst i32 rm acc fa oa st s
  | .xuAccld acc fa oa st => Sys2Proof.Machine.execXuAccld acc fa oa st s
  | .xuAcczr acc st => Sys2Proof.Machine.execXuAcczr acc st s
  | .xuAccadd acc acb st => Sys2Proof.Machine.execXuAccadd acc acb st s
  | .xuAccscl acc oc st => Sys2Proof.Machine.execXuAccscl acc oc st s
  | .xuAccmv acc acb st => Sys2Proof.Machine.execXuAccmv acc acb st s
  | .xuAcctr acc acb st => Sys2Proof.Machine.execXuAcctr acc acb st s
  | .wordFetch z => Sys2Proof.Machine.execWordFetch z s
  | .dictRefill part k => Sys2Proof.Machine.execDictRefill part k s
  | .teamSelection part => Sys2Proof.Machine.execTeamSelection part s
  | .landing z => Sys2Proof.Machine.execLanding z s
  | .blockedSlotCommit z k => Sys2Proof.Machine.execBlockedSlotCommit z k s
  | .eretResume z => Sys2Proof.Machine.execEretResume z s
  | .loadReply id => Sys2Proof.Machine.execLoadReply id s
  | .missStatusRelease core n => Sys2Proof.Machine.execMissStatusRelease core n s
  | .translationWalk core asid va acc => Sys2Proof.Machine.execTranslationWalk core asid va acc s
  | .operationCompletion id => Sys2Proof.Machine.execOperationCompletion id s
  | .queueHandleUpdate core => Sys2Proof.Machine.execQueueHandleUpdate core s
  | .copyChunkComplete id => Sys2Proof.Machine.execCopyChunkComplete id s
  | .copyCompletion id => Sys2Proof.Machine.execCopyCompletion id s
  | .copyFaultSuspend id => Sys2Proof.Machine.execCopyFaultSuspend id s
  | .ownershipRecall line => Sys2Proof.Machine.execOwnershipRecall line s
  | .xuAcceptance core => Sys2Proof.Machine.execXuAcceptance core s
  | .matrixCommandBegin core => Sys2Proof.Machine.execMatrixCommandBegin core s
  | .matrixCommandCompletion core => Sys2Proof.Machine.execMatrixCommandCompletion core s
  | .trapEntry z => Sys2Proof.Machine.execTrapEntry z s
  | .blockEnd blk => Sys2Proof.Machine.execBlockEnd blk s
  | .launchCompletion launch => Sys2Proof.Machine.execLaunchCompletion launch s
  | .messageDelivery k => Sys2Proof.Machine.execMessageDelivery k s
  | .multicastFork router k room => Sys2Proof.Machine.execMulticastFork router k room s
  | .taskPostAccept id => Sys2Proof.Machine.execTaskPostAccept id s
  | .notifyWptr q wptr => Sys2Proof.Machine.execNotifyWptr q wptr s
  | .qdisGo value => Sys2Proof.Machine.execQdisGo value s
  | .queueMapping slot => Sys2Proof.Machine.execQueueMapping slot s
  | .launchStart slot => Sys2Proof.Machine.execLaunchStart slot s
  | .dependenceRead slot => Sys2Proof.Machine.execDependenceRead slot s
  | .blockPlacement leaf => Sys2Proof.Machine.execBlockPlacement leaf s
  | .drainHold part => Sys2Proof.Machine.execDrainHold part s
  | .starvationHold leaf => Sys2Proof.Machine.execStarvationHold leaf s
  | .switchFlag leaf => Sys2Proof.Machine.execSwitchFlag leaf s
  | .fusionChange bench => Sys2Proof.Machine.execFusionChange bench s
  | .save master value => Sys2Proof.Machine.execSave master value s
  | .restore master value => Sys2Proof.Machine.execRestore master value s
  | .teamHalt core => Sys2Proof.Machine.execTeamHalt core s
  | .blockSettle blk => Sys2Proof.Machine.execBlockSettle blk s
  | .restorePlacement leaf => Sys2Proof.Machine.execRestorePlacement leaf s
  | .contextEvent => Sys2Proof.Machine.execContextEvent s
  | .debugHalt z => Sys2Proof.Machine.execDebugHalt z s
  | .benchStop bench => Sys2Proof.Machine.execBenchStop bench s
  | .stepTimeout z => Sys2Proof.Machine.execStepTimeout z s
  | .traceSample part => Sys2Proof.Machine.execTraceSample part s
  | .bankArbitration core bank => Sys2Proof.Machine.execBankArbitration core bank s
  | .portSlotService core bank => Sys2Proof.Machine.execPortSlotService core bank s
  | .artctlGo value => Sys2Proof.Machine.execArtctlGo value s
  | .artCommitComplete => Sys2Proof.Machine.execArtCommitComplete s
  | .wmaskWrite slice value => Sys2Proof.Machine.execWmaskWrite slice value s
  | .wayConversionComplete slice way => Sys2Proof.Machine.execWayConversionComplete slice way s
  | .invctlGo value => Sys2Proof.Machine.execInvctlGo value s
  | .invalidationComplete => Sys2Proof.Machine.execInvalidationComplete s
  | .dtctlGo => Sys2Proof.Machine.execDtctlGo s
  | .filterEmptied => Sys2Proof.Machine.execFilterEmptied s
  | .scrubRead store addr err => Sys2Proof.Machine.execScrubRead store addr err s
  | .flitReceive port flit => Sys2Proof.Machine.execFlitReceive port flit s
  | .translationProbe set va acc => Sys2Proof.Machine.execTranslationProbe set va acc s
  | .level4Arrival e => Sys2Proof.Machine.execLevel4Arrival e s
  | .level4Release e => Sys2Proof.Machine.execLevel4Release e s
  | .write p => Sys2Proof.Machine.execWrite p s
  | .read p => Sys2Proof.Machine.execRead p s
  | .notify p => Sys2Proof.Machine.execNotify p s
  | .ack p => Sys2Proof.Machine.execAck p s
  | .ctrlRead p => Sys2Proof.Machine.execCtrlRead p s
  | .ctrlWrite p => Sys2Proof.Machine.execCtrlWrite p s
  | .retransmissionTimeout sess => Sys2Proof.Machine.execRetransmissionTimeout sess s
  | .ackTimer sess => Sys2Proof.Machine.execAckTimer sess s
  | .arpRequest ip => Sys2Proof.Machine.execArpRequest ip s
  | .neighborSolicitation ip6 => Sys2Proof.Machine.execNeighborSolicitation ip6 s
  | .netcfgWrite master off value => Sys2Proof.Machine.execNetcfgWrite master off value s
  | .deviceReset => Sys2Proof.Machine.execDeviceReset s
  | .registerRead off => Sys2Proof.Machine.execRegisterRead off s
  | .registerWrite off value => Sys2Proof.Machine.execRegisterWrite off value s
  | .installSession sess key words => Sys2Proof.Machine.execInstallSession sess key words s
  | .writeFirmwareImageChunk off bytes => Sys2Proof.Machine.execWriteFirmwareImageChunk off bytes s
  | .commitImage => Sys2Proof.Machine.execCommitImage s
  | .raiseSvnMinimum => Sys2Proof.Machine.execRaiseSvnMinimum s
  | .resetDevice => Sys2Proof.Machine.execResetDevice s
  | .readPlatformEventLog => Sys2Proof.Machine.execReadPlatformEventLog s
  | .getDigests via => Sys2Proof.Machine.execGetDigests via s
  | .getCertificate via slot off len => Sys2Proof.Machine.execGetCertificate via slot off len s
  | .challenge via slot nonce => Sys2Proof.Machine.execChallenge via slot nonce s
  | .getMeasurements via index nonce => Sys2Proof.Machine.execGetMeasurements via index nonce s
  | .pcapWrite value => Sys2Proof.Machine.execPcapWrite value s
  | .powerCapStep leaf watts => Sys2Proof.Machine.execPowerCapStep leaf watts s
  | .thermalThrottling leaf => Sys2Proof.Machine.execThermalThrottling leaf s
  | .thermalShutdown => Sys2Proof.Machine.execThermalShutdown s
  | .coolantLimit => Sys2Proof.Machine.execCoolantLimit s
  | .systemRegisterWrite master off value => Sys2Proof.Machine.execSystemRegisterWrite master off value s
  | .queueDisableComplete => Sys2Proof.Machine.execQueueDisableComplete s
  | .ethernetLinkChange up => Sys2Proof.Machine.execEthernetLinkChange up s
  | .coolantRecovery => Sys2Proof.Machine.execCoolantRecovery s
  | .eventCounterIncrement => Sys2Proof.Machine.execEventCounterIncrement s
  | .priorityFlowControlFrame paused => Sys2Proof.Machine.execPriorityFlowControlFrame paused s
  | .tdbgStop z => Sys2Proof.Machine.execTdbgStop z s
  | .tdbgResume z => Sys2Proof.Machine.execTdbgResume z s
  | .tdbgStepgo z => Sys2Proof.Machine.execTdbgStepgo z s
  | .benchcmdStop bench => Sys2Proof.Machine.execBenchcmdStop bench s
  | .benchcmdResume bench => Sys2Proof.Machine.execBenchcmdResume bench s
  | .dump core slot => Sys2Proof.Machine.execDump core slot s
  | .load core slot => Sys2Proof.Machine.execLoad core slot s
  | .trbaseWrite core value => Sys2Proof.Machine.execTrbaseWrite core value s
  | .cntWrite core k sel value => Sys2Proof.Machine.execCntWrite core k sel value s
  | .rplBegin => Sys2Proof.Machine.execRplBegin s
  | .rplRestore => Sys2Proof.Machine.execRplRestore s
  | .rplReset => Sys2Proof.Machine.execRplReset s
  | .rplEnd => Sys2Proof.Machine.execRplEnd s

end Sys2Proof.Machine
end

