-- ==== Sys2Proof/Machine/Step.lean ====
section
/-!
DEFINITION. One step of the device. A step due from outside or fixed by an earlier one goes first, in order; otherwise one of the steps
that some unit can take, or the end of the clock, whichever the free choice names (R4, R313; log entry 1).
-/
namespace Sys2Proof.Machine

/-- A step reads or writes a line that a copy owns, and waits until none does (R246): with other bytes there it would be another step. t is
the state it leads to. -/
def State.meetsOwner (s : State) (i : Instr) (t : State) : Bool :=
  let own := s.ownedLines
  if own.isEmpty || ownWay i then false
  else
    match exec i (s.flipLines own) with
    | .next u => decide (u.flipLines own ≠ t)
    | .fault _ => true
    | .refused _ => true

/-- A step that would change something, and that no copy's line holds up. -/
def State.due (s : State) (i : Instr) : Bool :=
  match exec i s with
  | .next t => decide (t ≠ s) && !s.meetsOwner i t
  | .fault _ => false
  | .refused _ => false

/-- What may come next: the steps that are due, in their turns, and the end of the clock unless the last step was one or the clock still
owes a step; with nothing due, that alone. -/
def State.choices (s : State) : List Instr :=
  let l := s.candidates.filter s.due
  s.inOrder l ++ (if l.isEmpty || (!s.ticked && !s.clockOwes l) then [.eventCounterIncrement] else [])

/-- A step that the device takes of itself. -/
def State.ownStep (s : State) : Host.Outcome State Fault Refusal :=
  let l := s.choices
  exec (l.getD (Config.freeChoice s.fresh % l.length) .eventCounterIncrement) { s with ticked := false, fresh := s.fresh + 1 }

/-- One step. A host access to a line that a copy owns waits its turn (R246). -/
def step (s : State) : Host.Outcome State Fault Refusal :=
  match s.agenda with
  | [] => s.ownStep
  | i :: rest =>
    if s.hostWaits i then (s.hostRecall i).ownStep else exec i { s.hostServed with agenda := rest, ticked := false }

/-- The state with a dictionary entry fetched by the team in slot 0, whose selection is the next step (log entry 2). An entry the
decoder refuses leaves the team without a word. -/
def State.withFetchWord (s : State) (_nbits w : Nat) : State :=
  let s := s.withCore.withTeam
  match decodeEntry (leBytes 32 (BitVec.ofNat 256 w)) with
  | .ok x => { s.giveWord x with agenda := [.teamSelection 0], turns := [] }
  | .error _ => { s with agenda := [.teamSelection 0], turns := [] }

end Sys2Proof.Machine
end

