-- ==== Sys2Proof/Safety.lean ====
section
/-!
DEFINITION. What counts as a safe run, in the terms the statements use: the canonical form of every byte store, when a slot operation
runs, what it may change, and how much of a state two states share.
-/
namespace Sys2Proof

/-! ## Words and their entries -/

/-- A position of a word as it is encoded: kind code, hold bit and slot field; all zero when it is empty (R57 to R59). -/
def posBits (o : Option SlotOp) : BitVec 3 × Bool × SlotBits :=
  match o with
  | none => (0, false, 0)
  | some o => (o.kind.enc, o.hold, o.bits)

/-- The dictionary entry of a word (R57). -/
def Word3.entry (w : Word3) : ControlWord := packWord (BitVec.ofNat 3 w.nimm) (posBits w.p0) (posBits w.p1) (posBits w.p2)

/-- An operation as an encoder forms it: an instruction with its kind and its slot field, held only if it may be (R59, R66, R79). -/
def SlotOp.Encoded (o : SlotOp) : Prop :=
  o.ins.wf = true ∧ o.ins.kind = some o.kind ∧ o.bits = o.ins.fields.pack o.kind ∧ (o.hold = true → o.ins.holdable = true)

/-- A word that passes every check of R79: encoded operations of different kinds, 0 to 4 immediates, every selector's among them, and no
two results in one file at one latency. -/
def Word3.Encoded (w : Word3) : Prop :=
  (∀ x, x ∈ w.ops → x.2.Encoded ∧ x.2.ins.nimm ≤ w.nimm) ∧ w.nimm ≤ 4 ∧
    w.ops.Pairwise (fun x y => x.2.kind ≠ y.2.kind ∧ ∀ r, x.2.ins.lands = some r → y.2.ins.lands ≠ some r)

end Sys2Proof

namespace Sys2Proof.Machine

/-! ## The canonical form -/

/-- Every store of the memory system is in canonical form: HBM and slice scratch with their poison, scratchpads and accumulators with
theirs. -/
def State.Canonical (s : State) : Prop :=
  Memory.wf s.mem = true ∧ s.memP.wf = true ∧ Memory.wf s.spad = true ∧ s.spadP.wf = true ∧ s.acc.wf = true ∧ s.accP.wf = true

/-! ## Slot operations -/

/-- A slot operation of the word in progress that no check stops: its word's checks have passed, or its own do now. None while no team
issues a word that holds it, or while a check stops it. -/
def State.checkedSlot (s : State) (i : Instr) : Option Slot :=
  match s.slotOf i with
  | none => none
  | some x =>
    if x.e.c.checked then some x
    else
      match x.e.slotStop x.o [] with
      | some _ => none
      | none => (s.fixPlaces x).slotOf i

/-- Its turn has come as well (R67): no held repeat before it in its part of the word is still to commit, or, of a per-lane operation, none
has blocked before it begins. -/
def State.runningSlot (s : State) (i : Instr) : Option Slot :=
  (s.checkedSlot i).filter fun x => !x.e.c.heldUp x.o && (i.perLane || x.e.c.free x.o)

/-- What a check stops a slot operation with, if it must still be checked. -/
def State.stoppingSlot (s : State) (i : Instr) : Option (Slot × Stop) :=
  match s.slotOf i with
  | none => none
  | some x => if x.e.c.checked then none else (x.e.slotStop x.o []).map fun st => (x, st)

/-- The operation has committed in a state made from its slot's. -/
def Slot.doneIn (x : Slot) (s : State) : State := s.setSt x.e.z x.k .done

/-- The operation has blocked (R32). -/
def Slot.blocked (x : Slot) : State := x.e.s.setSt x.e.z x.k .blocked

/-- A scalar result: it lands lat team-cycles after the word's, and 3 later when the operation reads a queue entry (R29, R36). -/
def Slot.lands (x : Slot) (i : Instr) (k : Kind) (fl : RFile) (reg lat : Nat) (v : BitVec 128) (p : Bool) : State :=
  x.e.s.updTeam x.e.z fun t => t.addLanding
    { due := x.e.c.t + lat + (if i.readsQueue then 3 else 0), file := fl, reg := reg, pair := false, bal := false,
      vals := [⟨0, v, p⟩], flags := 0, pend := none, lanes := [], key := some (landKey x.e.slot k) }

/-- A pass of a per-lane operation begins: it is the pass of this clock, one of those the operation executes, and the operation has
begun or is ready to (R84). -/
def Slot.inPass (x : Slot) (i : Instr) (p : Nat) : Prop :=
  x.e.c.passes.head? = some p ∧ p ∈ x.e.runPasses i ∧ (x.o.st = .running ∨ (x.o.st = .pending ∧ x.e.queueReady i = true))

/-- Pass p is the one after which the operation may commit: none of its passes is left, no held repeat before it is still to commit
(R67), and one that lands in S is in its part's last clock (R176). -/
def Slot.last (x : Slot) (i : Instr) (p : Nat) : Bool :=
  (x.e.runPasses i).all (fun q => decide (q ≤ p)) && x.e.c.free x.o && (!commitsWhole i || x.e.c.passes.tail.isEmpty)

/-- After a pass the operation goes on, and after the last it has committed. -/
def Slot.afterPass (x : Slot) (i : Instr) (p : Nat) (s : State) : State := s.setSt x.e.z x.k (if x.last i p then .done else .running)

/-- The lanes of one pass land: element f ℓ with poison q ℓ for every lane that is on, and the flags g ℓ raises, lat team-cycles after
the word's, 3 later when the operation reads a queue entry (R29, R36, R152). -/
def Slot.landsPass (x : Slot) (i : Instr) (k : Kind) (fl : RFile) (reg lat : Nat) (pair : Bool) (p : Nat)
    (f : Nat → BitVec 128) (g : Nat → FFlags) (q : Nat → Bool) : State :=
  let ls := lanesIn x.e.t i.maskOf p
  x.e.s.updTeam x.e.z fun t => t.addLanding
    { due := x.e.c.t + lat + (if i.readsQueue then 3 else 0), file := fl, reg := reg, pair := pair, bal := false,
      vals := ls.map fun l => ⟨l, f l, q l⟩, flags := ls.foldl (fun m l => m ||| g l) 0, pend := none,
      lanes := [], key := some (landKey x.e.slot k) }

/-- What the word carries to its whole commit changes (R125). -/
def Slot.keeps (x : Slot) (s : State) (f : Keep → Keep) : State := s.updTeam x.e.z fun t => { t with keep := t.keep.map f }

/-- An operation with no pass to execute: its landing has no lane, and takes its port all the same (R152). -/
def Slot.landsNone (x : Slot) (i : Instr) (k : Kind) (fl : RFile) (reg lat : Nat) (pair : Bool) : State :=
  x.e.s.updTeam x.e.z fun t => t.addLanding
    { due := x.e.c.t + lat + (if i.readsQueue then 3 else 0), file := fl, reg := reg, pair := pair, bal := false, vals := [], flags := 0,
      pend := none, lanes := [], key := some (landKey x.e.slot k) }

/-- An operation that has no pass of its own to execute, with its queue bytes ready: it commits at once, but for one that lands in S, in its
part's last clock (R18, R67, R176). -/
def Slot.noPass (x : Slot) (i : Instr) : Prop :=
  x.o.st = .pending ∧ x.e.queueReady i = true ∧ x.e.runPasses i = [] ∧ x.e.c.free x.o = true ∧
    (commitsWhole i = true → x.e.c.passes.tail = [])

/-- The clock in which a per-lane operation commits: that of its last pass or later, or at once when it executes none (R67, R84, R176). -/
def Slot.lastClock (x : Slot) (i : Instr) : Prop :=
  (x.o.st = .running ∨ (x.o.st = .pending ∧ x.e.queueReady i = true)) ∧ x.e.c.free x.o = true ∧
    (∀ q ∈ x.e.runPasses i, ∃ p, x.e.c.passes.head? = some p ∧ q ≤ p) ∧ (commitsWhole i = true → x.e.c.passes.tail = [])

/-- An operation that may commit in this step: a scalar one whose queue bytes and own condition are ready (R32), or a per-lane one in the
last clock of its passes, ready when it begins (R84). -/
def Slot.mayCommit (x : Slot) (i : Instr) (ready : Bool) : Prop :=
  if i.perLane then x.lastClock i ∧ (x.o.st = .pending → ready = true) else x.e.queueReady i = true ∧ ready = true

/-- An access completes its issue: the step leads to a state in which it has committed and its memory operation has issued (R183). -/
def Slot.Completes (x : Slot) (i : Instr) (s : State) : Prop :=
  ∃ t t', exec i s = .next t ∧ t.teams.get? x.e.z = some t' ∧ (t'.ctx.bind fun c => c.ops[x.k]?).map OpSt.st = some .done ∧
    ∀ o, (t'.ops.find? fun o => o.id == x.e.opId i) = some o → o.issued = true

/-- A taken transfer: its target, modulo 2^57, waits in the word's record for the whole commit (R125). -/
def Slot.takes (x : Slot) (s : State) (target : Nat) : State :=
  x.keeps s fun k => { k with taken := some (BitVec.ofNat 64 (target % 2 ^ 57)) }

/-- Loop registers of a level written (R38), and the word's record of an explicit count (R131). -/
def Slot.loops (x : Slot) (s : State) (lv : BitVec 3) (f : Word × Word × Word → Word × Word × Word) (count : Bool) : State :=
  s.updTeam x.e.z fun t => { t with
    loop := if lv = 0 then
        { t.loop with lc0 := (f (t.loop.lc0, t.loop.ls0, t.loop.le0)).1, ls0 := (f (t.loop.lc0, t.loop.ls0, t.loop.le0)).2.1,
                      le0 := (f (t.loop.lc0, t.loop.ls0, t.loop.le0)).2.2 }
      else
        { t.loop with lc1 := (f (t.loop.lc1, t.loop.ls1, t.loop.le1)).1, ls1 := (f (t.loop.lc1, t.loop.ls1, t.loop.le1)).2.1,
                      le1 := (f (t.loop.lc1, t.loop.ls1, t.loop.le1)).2.2 },
    keep := t.keep.map fun k => if count then (if lv = 0 then { k with lcw0 := true } else { k with lcw1 := true }) else k }

/-- A parcel address as a loop register holds it: bits 56:1 (R38). -/
def loopAddr (v : Nat) : Word := BitVec.ofNat 64 (v / 2 % 2 ^ 56 * 2)

/-! ## The integer rules (R65, R126, R156), over exact integers -/

namespace Rule

/-- (a + b) mod 2^n. -/
def add {n : Nat} (a b : BitVec n) : BitVec n := BitVec.ofNat n (a.toNat + b.toNat)
/-- (a − b) mod 2^n. -/
def sub {n : Nat} (a b : BitVec n) : BitVec n := BitVec.ofInt n ((a.toNat : Int) - b.toNat)
/-- The low half of a·b. -/
def mul {n : Nat} (a b : BitVec n) : BitVec n := BitVec.ofNat n (a.toNat * b.toNat)
/-- The high half of a·b, both read as signed. -/
def mulh {n : Nat} (a b : BitVec n) : BitVec n := BitVec.ofInt n (a.toInt * b.toInt / 2 ^ n)
/-- The high half of a·b, both read as unsigned. -/
def mulhu {n : Nat} (a b : BitVec n) : BitVec n := BitVec.ofNat n (a.toNat * b.toNat / 2 ^ n)
/-- a·2^b when b < n, otherwise 0. -/
def shl {n : Nat} (a : BitVec n) (b : Nat) : BitVec n := if b < n then BitVec.ofNat n (a.toNat * 2 ^ b) else 0
/-- ⌊a / 2^b⌋ with a unsigned when b < n, otherwise 0. -/
def shr {n : Nat} (a : BitVec n) (b : Nat) : BitVec n := if b < n then BitVec.ofNat n (a.toNat / 2 ^ b) else 0
/-- ⌊a / 2^b⌋ with a signed when b < n; otherwise 0 for a ≥ 0 and all ones for a < 0. -/
def sar {n : Nat} (a : BitVec n) (b : Nat) : BitVec n :=
  if b < n then BitVec.ofInt n (a.toInt / 2 ^ b) else if 0 ≤ a.toInt then 0 else BitVec.ofInt n (-1)
/-- Signed minimum. -/
def min {n : Nat} (a b : BitVec n) : BitVec n := if a.toInt ≤ b.toInt then a else b
/-- Signed maximum. -/
def max {n : Nat} (a b : BitVec n) : BitVec n := if a.toInt ≤ b.toInt then b else a
/-- Unsigned minimum. -/
def minu {n : Nat} (a b : BitVec n) : BitVec n := if a.toNat ≤ b.toNat then a else b
/-- Unsigned maximum. -/
def maxu {n : Nat} (a b : BitVec n) : BitVec n := if a.toNat ≤ b.toNat then b else a
/-- The number of 1 bits. -/
def ones {n : Nat} (a : BitVec n) : Nat := (List.range n).countP fun i => a.getLsbD i
/-- k is the number of 0 bits above the highest 1 bit of a, n when a = 0. -/
def Leading {n : Nat} (a : BitVec n) (k : Nat) : Prop :=
  k ≤ n ∧ (∀ i, n - k ≤ i → a.getLsbD i = false) ∧ (k < n → a.getLsbD (n - 1 - k) = true)
/-- k is the number of 0 bits below the lowest 1 bit of a, n when a = 0. -/
def Trailing {n : Nat} (a : BitVec n) (k : Nat) : Prop :=
  k ≤ n ∧ (∀ i, i < k → a.getLsbD i = false) ∧ (k < n → a.getLsbD k = true)
/-- Integer condition CC of a and b (R65). -/
def holds {n : Nat} (c : Cond) (a b : BitVec n) : Prop :=
  match c with
  | .eq => a.toNat = b.toNat
  | .ne => a.toNat ≠ b.toNat
  | .lt => a.toInt < b.toInt
  | .ge => b.toInt ≤ a.toInt
  | .ltu => a.toNat < b.toNat
  | .geu => b.toNat ≤ a.toNat
  | .gt => b.toInt < a.toInt
  | .le => a.toInt ≤ b.toInt
  | .gtu => b.toNat < a.toNat
  | .leu => a.toNat ≤ b.toNat
/-- v is 1 when a condition holds, else 0. -/
def Truth {n : Nat} (p : Prop) (v : BitVec n) : Prop := (p → v = 1) ∧ (¬p → v = 0)
/-- SatS(n, v) (R121). -/
def sat (n : Nat) (v : Int) : BitVec n :=
  if v < -(2 ^ (n - 1)) then BitVec.ofInt n (-(2 ^ (n - 1))) else if 2 ^ (n - 1) ≤ v then BitVec.ofInt n (2 ^ (n - 1) - 1)
  else BitVec.ofInt n v
/-- su.bfx (R126). -/
def bfx (a p n : Word) : Word :=
  if 64 ≤ p.toNat ∨ n.toNat = 0 then 0 else BitVec.ofNat 64 (a.toNat / 2 ^ p.toNat % 2 ^ Nat.min n.toNat 64)
/-- su.bmsk (R126). -/
def bmsk (n p : Word) : Word :=
  if 64 ≤ p.toNat then 0 else BitVec.ofNat 64 ((2 ^ Nat.min n.toNat 64 - 1) * 2 ^ p.toNat)

/-- The little-endian number of n bytes at a (R8). -/
def bytes (f : Nat → Byte) (a n : Nat) : Nat := ((List.range n).map fun i => (f (a + i)).toNat * 2 ^ (8 * i)).sum
/-- A byte memory after n bytes at a are written with a little-endian number (R8). -/
def put (f : Nat → Byte) (a n v : Nat) : Nat → Byte :=
  fun b => if a ≤ b ∧ b < a + n then BitVec.ofNat 8 (v / 2 ^ (8 * (b - a))) else f b
/-- The new value of a word w under an atomic with operand v and compare value c (R191). -/
def atom (f : AtomFn) (w v c : Lane) : Lane :=
  match f with
  | .add => add w v
  | .min => min w v
  | .max => max w v
  | .minu => minu w v
  | .maxu => maxu w v
  | .and => w &&& v
  | .or => w ||| v
  | .xor => w ^^^ v
  | .xchg => v
  | .cas => if w = c then v else w

end Rule

/-- The table of R126: the instruction, its destination and the value it computes from its operands. -/
inductive SuRow (e : Env) : Instr → BitVec 6 → Word → Prop where
  | add (sd : BitVec 6) (sa sb : Sel) : SuRow e (.suAdd sd sa sb) sd (Rule.add (e.su sa) (e.su sb))
  | sub (sd : BitVec 6) (sa sb : Sel) : SuRow e (.suSub sd sa sb) sd (Rule.sub (e.su sa) (e.su sb))
  | mul (sd : BitVec 6) (sa sb : Sel) : SuRow e (.suMul sd sa sb) sd (Rule.mul (e.su sa) (e.su sb))
  | mulh (sd : BitVec 6) (sa sb : Sel) : SuRow e (.suMulh sd sa sb) sd (Rule.mulh (e.su sa) (e.su sb))
  | mulhu (sd : BitVec 6) (sa sb : Sel) : SuRow e (.suMulhu sd sa sb) sd (Rule.mulhu (e.su sa) (e.su sb))
  | and (sd : BitVec 6) (sa sb : Sel) : SuRow e (.suAnd sd sa sb) sd (e.su sa &&& e.su sb)
  | or (sd : BitVec 6) (sa sb : Sel) : SuRow e (.suOr sd sa sb) sd (e.su sa ||| e.su sb)
  | xor (sd : BitVec 6) (sa sb : Sel) : SuRow e (.suXor sd sa sb) sd (e.su sa ^^^ e.su sb)
  | andn (sd : BitVec 6) (sa sb : Sel) : SuRow e (.suAndn sd sa sb) sd (e.su sa &&& ~~~(e.su sb))
  | shl (sd : BitVec 6) (sa sb : Sel) : SuRow e (.suShl sd sa sb) sd (Rule.shl (e.su sa) (e.su sb).toNat)
  | shr (sd : BitVec 6) (sa sb : Sel) : SuRow e (.suShr sd sa sb) sd (Rule.shr (e.su sa) (e.su sb).toNat)
  | sar (sd : BitVec 6) (sa sb : Sel) : SuRow e (.suSar sd sa sb) sd (Rule.sar (e.su sa) (e.su sb).toNat)
  | min (sd : BitVec 6) (sa sb : Sel) : SuRow e (.suMin sd sa sb) sd (Rule.min (e.su sa) (e.su sb))
  | max (sd : BitVec 6) (sa sb : Sel) : SuRow e (.suMax sd sa sb) sd (Rule.max (e.su sa) (e.su sb))
  | minu (sd : BitVec 6) (sa sb : Sel) : SuRow e (.suMinu sd sa sb) sd (Rule.minu (e.su sa) (e.su sb))
  | maxu (sd : BitVec 6) (sa sb : Sel) : SuRow e (.suMaxu sd sa sb) sd (Rule.maxu (e.su sa) (e.su sb))
  | popc (sd : BitVec 6) (sa : Sel) : SuRow e (.suPopc sd sa) sd (BitVec.ofNat 64 (Rule.ones (e.su sa)))
  | clz (sd : BitVec 6) (sa : Sel) (k : Nat) (h : Rule.Leading (e.su sa) k) : SuRow e (.suClz sd sa) sd (BitVec.ofNat 64 k)
  | ctz (sd : BitVec 6) (sa : Sel) (k : Nat) (h : Rule.Trailing (e.su sa) k) : SuRow e (.suCtz sd sa) sd (BitVec.ofNat 64 k)
  | cmp (cc : Cond) (sd : BitVec 6) (sa sb : Sel) (v : Word) (h : Rule.Truth (Rule.holds cc (e.su sa) (e.su sb)) v) :
      SuRow e (.suCmp cc sd sa sb) sd v
  | sel (sd : BitVec 6) (sa sb sc : Sel) : SuRow e (.suSel sd sa sb sc) sd (if e.su sc = 0 then e.su sb else e.su sa)
  | mov (sd : BitVec 6) (sa : Sel) : SuRow e (.suMov sd sa) sd (e.su sa)
  | bfx (sd : BitVec 6) (sa sb sc : Sel) : SuRow e (.suBfx sd sa sb sc) sd (Rule.bfx (e.su sa) (e.su sb) (e.su sc))
  | bmsk (sd : BitVec 6) (sa sb : Sel) : SuRow e (.suBmsk sd sa sb) sd (Rule.bmsk (e.su sa) (e.su sb))

/-- The table of R156: the instruction, its kind, file and destination, and the value of each lane. -/
inductive IntRow (e : Env) : Instr → Kind → RFile → BitVec 6 → (Nat → Lane) → Prop where
  | vaAdd (mk : Mask) (vd : BitVec 6) (oa ob : Sel) :
      IntRow e (.vaAdd mk vd oa ob) .va .va vd fun l => Rule.add (e.lane .va oa l) (e.lane .va ob l)
  | vaSub (mk : Mask) (vd : BitVec 6) (oa ob : Sel) :
      IntRow e (.vaSub mk vd oa ob) .va .va vd fun l => Rule.sub (e.lane .va oa l) (e.lane .va ob l)
  | vaMul (mk : Mask) (vd : BitVec 6) (oa ob : Sel) :
      IntRow e (.vaMul mk vd oa ob) .va .va vd fun l => Rule.mul (e.lane .va oa l) (e.lane .va ob l)
  | vaMulh (mk : Mask) (vd : BitVec 6) (oa ob : Sel) :
      IntRow e (.vaMulh mk vd oa ob) .va .va vd fun l => Rule.mulh (e.lane .va oa l) (e.lane .va ob l)
  | vaMulhu (mk : Mask) (vd : BitVec 6) (oa ob : Sel) :
      IntRow e (.vaMulhu mk vd oa ob) .va .va vd fun l => Rule.mulhu (e.lane .va oa l) (e.lane .va ob l)
  | vaAnd (mk : Mask) (vd : BitVec 6) (oa ob : Sel) :
      IntRow e (.vaAnd mk vd oa ob) .va .va vd fun l => e.lane .va oa l &&& e.lane .va ob l
  | vaOr (mk : Mask) (vd : BitVec 6) (oa ob : Sel) :
      IntRow e (.vaOr mk vd oa ob) .va .va vd fun l => e.lane .va oa l ||| e.lane .va ob l
  | vaXor (mk : Mask) (vd : BitVec 6) (oa ob : Sel) :
      IntRow e (.vaXor mk vd oa ob) .va .va vd fun l => e.lane .va oa l ^^^ e.lane .va ob l
  | vaAndn (mk : Mask) (vd : BitVec 6) (oa ob : Sel) :
      IntRow e (.vaAndn mk vd oa ob) .va .va vd fun l => e.lane .va oa l &&& ~~~(e.lane .va ob l)
  | vaShl (mk : Mask) (vd : BitVec 6) (oa ob : Sel) :
      IntRow e (.vaShl mk vd oa ob) .va .va vd fun l => Rule.shl (e.lane .va oa l) (e.lane .va ob l).toNat
  | vaShr (mk : Mask) (vd : BitVec 6) (oa ob : Sel) :
      IntRow e (.vaShr mk vd oa ob) .va .va vd fun l => Rule.shr (e.lane .va oa l) (e.lane .va ob l).toNat
  | vaSar (mk : Mask) (vd : BitVec 6) (oa ob : Sel) :
      IntRow e (.vaSar mk vd oa ob) .va .va vd fun l => Rule.sar (e.lane .va oa l) (e.lane .va ob l).toNat
  | vaMin (mk : Mask) (vd : BitVec 6) (oa ob : Sel) :
      IntRow e (.vaMin mk vd oa ob) .va .va vd fun l => Rule.min (e.lane .va oa l) (e.lane .va ob l)
  | vaMax (mk : Mask) (vd : BitVec 6) (oa ob : Sel) :
      IntRow e (.vaMax mk vd oa ob) .va .va vd fun l => Rule.max (e.lane .va oa l) (e.lane .va ob l)
  | vaMinu (mk : Mask) (vd : BitVec 6) (oa ob : Sel) :
      IntRow e (.vaMinu mk vd oa ob) .va .va vd fun l => Rule.minu (e.lane .va oa l) (e.lane .va ob l)
  | vaMaxu (mk : Mask) (vd : BitVec 6) (oa ob : Sel) :
      IntRow e (.vaMaxu mk vd oa ob) .va .va vd fun l => Rule.maxu (e.lane .va oa l) (e.lane .va ob l)
  | vaCmp (mk : Mask) (cc : Cond) (vd : BitVec 6) (oa ob : Sel) (f : Nat → Lane)
      (h : ∀ l, Rule.Truth (Rule.holds cc (e.lane .va oa l) (e.lane .va ob l)) (f l)) :
      IntRow e (.vaCmp mk cc vd oa ob) .va .va vd f
  | vaSel (mk : Mask) (vd : BitVec 6) (oa ob oc : Sel) :
      IntRow e (.vaSel mk vd oa ob oc) .va .va vd fun l => if e.lane .va oc l = 0 then e.lane .va ob l else e.lane .va oa l
  | vaMov (mk : Mask) (vd : BitVec 6) (oa : Sel) : IntRow e (.vaMov mk vd oa) .va .va vd fun l => e.lane .va oa l
  | vaAdds (mk : Mask) (vd : BitVec 6) (oa ob : Sel) :
      IntRow e (.vaAdds mk vd oa ob) .va .va vd fun l => Rule.sat 32 ((e.lane .va oa l).toInt + (e.lane .va ob l).toInt)
  | vaSubs (mk : Mask) (vd : BitVec 6) (oa ob : Sel) :
      IntRow e (.vaSubs mk vd oa ob) .va .va vd fun l => Rule.sat 32 ((e.lane .va oa l).toInt - (e.lane .va ob l).toInt)
  | vbAdd (mk : Mask) (vd : BitVec 6) (oa ob : Sel) :
      IntRow e (.vbAdd mk vd oa ob) .vb .vb vd fun l => Rule.add (e.lane .vb oa l) (e.lane .vb ob l)
  | vbSub (mk : Mask) (vd : BitVec 6) (oa ob : Sel) :
      IntRow e (.vbSub mk vd oa ob) .vb .vb vd fun l => Rule.sub (e.lane .vb oa l) (e.lane .vb ob l)
  | vbAnd (mk : Mask) (vd : BitVec 6) (oa ob : Sel) :
      IntRow e (.vbAnd mk vd oa ob) .vb .vb vd fun l => e.lane .vb oa l &&& e.lane .vb ob l
  | vbOr (mk : Mask) (vd : BitVec 6) (oa ob : Sel) :
      IntRow e (.vbOr mk vd oa ob) .vb .vb vd fun l => e.lane .vb oa l ||| e.lane .vb ob l
  | vbXor (mk : Mask) (vd : BitVec 6) (oa ob : Sel) :
      IntRow e (.vbXor mk vd oa ob) .vb .vb vd fun l => e.lane .vb oa l ^^^ e.lane .vb ob l
  | vbShl (mk : Mask) (vd : BitVec 6) (oa ob : Sel) :
      IntRow e (.vbShl mk vd oa ob) .vb .vb vd fun l => Rule.shl (e.lane .vb oa l) (e.lane .vb ob l).toNat
  | vbShr (mk : Mask) (vd : BitVec 6) (oa ob : Sel) :
      IntRow e (.vbShr mk vd oa ob) .vb .vb vd fun l => Rule.shr (e.lane .vb oa l) (e.lane .vb ob l).toNat
  | vbMin (mk : Mask) (vd : BitVec 6) (oa ob : Sel) :
      IntRow e (.vbMin mk vd oa ob) .vb .vb vd fun l => Rule.min (e.lane .vb oa l) (e.lane .vb ob l)
  | vbMax (mk : Mask) (vd : BitVec 6) (oa ob : Sel) :
      IntRow e (.vbMax mk vd oa ob) .vb .vb vd fun l => Rule.max (e.lane .vb oa l) (e.lane .vb ob l)
  | vbCmp (mk : Mask) (cc : Cond) (vd : BitVec 6) (oa ob : Sel) (f : Nat → Lane)
      (h : ∀ l, Rule.Truth (Rule.holds cc (e.lane .vb oa l) (e.lane .vb ob l)) (f l)) :
      IntRow e (.vbCmp mk cc vd oa ob) .vb .vb vd f
  | vbSel (mk : Mask) (vd : BitVec 6) (oa ob oc : Sel) :
      IntRow e (.vbSel mk vd oa ob oc) .vb .vb vd fun l => if e.lane .vb oc l = 0 then e.lane .vb ob l else e.lane .vb oa l
  | vbMov (mk : Mask) (vd : BitVec 6) (oa : Sel) : IntRow e (.vbMov mk vd oa) .vb .vb vd fun l => e.lane .vb oa l
  | vbPopc (mk : Mask) (vd : BitVec 6) (oa : Sel) :
      IntRow e (.vbPopc mk vd oa) .vb .vb vd fun l => BitVec.ofNat 32 (Rule.ones (e.lane .vb oa l))
  | vbClz (mk : Mask) (vd : BitVec 6) (oa : Sel) (k : Nat → Nat) (h : ∀ l, Rule.Leading (e.lane .vb oa l) (k l)) :
      IntRow e (.vbClz mk vd oa) .vb .vb vd fun l => BitVec.ofNat 32 (k l)

/-- The table of R157 for the pair results: A is element ℓ of the even register plus 2^32 times that of the odd one, or a constant
sign-extended to 64 bits. -/
inductive PairRow (e : Env) : Instr → BitVec 6 → (Nat → Word) → Prop where
  | add64 (mk : Mask) (vd : BitVec 6) (oa ob : Sel) :
      PairRow e (.vaAdd64 mk vd oa ob) vd fun l => Rule.add (e.pair oa l) (e.pair ob l)
  | sub64 (mk : Mask) (vd : BitVec 6) (oa ob : Sel) :
      PairRow e (.vaSub64 mk vd oa ob) vd fun l => Rule.sub (e.pair oa l) (e.pair ob l)
  | shl64 (mk : Mask) (vd : BitVec 6) (oa ob : Sel) :
      PairRow e (.vaShl64 mk vd oa ob) vd fun l => Rule.shl (e.pair oa l) (e.lane .va ob l).toNat
  | shr64 (mk : Mask) (vd : BitVec 6) (oa ob : Sel) :
      PairRow e (.vaShr64 mk vd oa ob) vd fun l => Rule.shr (e.pair oa l) (e.lane .va ob l).toNat
  | sar64 (mk : Mask) (vd : BitVec 6) (oa ob : Sel) :
      PairRow e (.vaSar64 mk vd oa ob) vd fun l => Rule.sar (e.pair oa l) (e.lane .va ob l).toNat

/-- The table of R158 to R162 and R164: FP32 operations of one lane, with the flags each raises. -/
inductive FpRow (e : Env) : Instr → Kind → RFile → BitVec 6 → (Nat → Lane × FFlags) → Prop where
  | vaFadd (mk : Mask) (rm : Rm) (vd : BitVec 6) (oa ob : Sel) :
      FpRow e (.vaFadd mk rm vd oa ob) .va .va vd fun l => fadd32 (e.modes rm) false (e.lane .va oa l) (e.lane .va ob l)
  | vaFsub (mk : Mask) (rm : Rm) (vd : BitVec 6) (oa ob : Sel) :
      FpRow e (.vaFsub mk rm vd oa ob) .va .va vd fun l => fadd32 (e.modes rm) true (e.lane .va oa l) (e.lane .va ob l)
  | vaFmul (mk : Mask) (rm : Rm) (vd : BitVec 6) (oa ob : Sel) :
      FpRow e (.vaFmul mk rm vd oa ob) .va .va vd fun l => fmul32 (e.modes rm) (e.lane .va oa l) (e.lane .va ob l)
  | vaFma (mk : Mask) (rm : Rm) (vd : BitVec 6) (oa ob oc : Sel) :
      FpRow e (.vaFma mk rm vd oa ob oc) .va .va vd fun l =>
        fma32 (e.modes rm) false (e.lane .va oa l) (e.lane .va ob l) (e.lane .va oc l)
  | vaFnma (mk : Mask) (rm : Rm) (vd : BitVec 6) (oa ob oc : Sel) :
      FpRow e (.vaFnma mk rm vd oa ob oc) .va .va vd fun l =>
        fma32 (e.modes rm) true (e.lane .va oa l) (e.lane .va ob l) (e.lane .va oc l)
  | vaFmin (mk : Mask) (vd : BitVec 6) (oa ob : Sel) :
      FpRow e (.vaFmin mk vd oa ob) .va .va vd fun l => fminmax32 (e.modes .fmode) false (e.lane .va oa l) (e.lane .va ob l)
  | vaFmax (mk : Mask) (vd : BitVec 6) (oa ob : Sel) :
      FpRow e (.vaFmax mk vd oa ob) .va .va vd fun l => fminmax32 (e.modes .fmode) true (e.lane .va oa l) (e.lane .va ob l)
  | vaFabs (mk : Mask) (vd : BitVec 6) (oa : Sel) :
      FpRow e (.vaFabs mk vd oa) .va .va vd fun l => (BitVec.ofNat 32 ((e.lane .va oa l).toNat % 2 ^ 31), 0)
  | vaFneg (mk : Mask) (vd : BitVec 6) (oa : Sel) :
      FpRow e (.vaFneg mk vd oa) .va .va vd fun l => (BitVec.ofNat 32 ((e.lane .va oa l).toNat + 2 ^ 31), 0)
  | vaFcmp (mk : Mask) (fc : FCond) (vd : BitVec 6) (oa ob : Sel) :
      FpRow e (.vaFcmp mk fc vd oa ob) .va .va vd fun l => fcmp32 (e.modes .fmode) fc (e.lane .va oa l) (e.lane .va ob l)
  | vaFcls (mk : Mask) (vd : BitVec 6) (oa : Sel) :
      FpRow e (.vaFcls mk vd oa) .va .va vd fun l => (fcls32 (e.lane .va oa l), 0)
  | vaCvt (mk : Mask) (cv : Cvt) (rm : Rm) (vd : BitVec 6) (oa : Sel) :
      FpRow e (.vaCvt mk cv rm vd oa) .va .va vd fun l => cvt32 cv (e.modes rm) (e.lane .va oa l)
  | vaTsdq (mk : Mask) (ts : TsFmt) (vd : BitVec 6) (oa ob : Sel) :
      FpRow e (.vaTsdq mk ts vd oa ob) .va .va vd fun l =>
        tsdq32 (TsFmt.m ts) (e.modes .fmode) l (e.lane .va oa l) (e.lane .va ob l)
  | vbFadd (mk : Mask) (rm : Rm) (vd : BitVec 6) (oa ob : Sel) :
      FpRow e (.vbFadd mk rm vd oa ob) .vb .vb vd fun l => fadd32 (e.modes rm) false (e.lane .vb oa l) (e.lane .vb ob l)
  | vbFmul (mk : Mask) (rm : Rm) (vd : BitVec 6) (oa ob : Sel) :
      FpRow e (.vbFmul mk rm vd oa ob) .vb .vb vd fun l => fmul32 (e.modes rm) (e.lane .vb oa l) (e.lane .vb ob l)
  | vbFma (mk : Mask) (rm : Rm) (vd : BitVec 6) (oa ob oc : Sel) :
      FpRow e (.vbFma mk rm vd oa ob oc) .vb .vb vd fun l =>
        fma32 (e.modes rm) false (e.lane .vb oa l) (e.lane .vb ob l) (e.lane .vb oc l)

/-- The special functions of R166 to R172. -/
inductive SpecialRow : Instr → SpecFn → BitVec 6 → Sel → Prop where
  | rcp (mk : Mask) (vd : BitVec 6) (oa : Sel) : SpecialRow (.vbRcp mk vd oa) .rcp vd oa
  | rsqrt (mk : Mask) (vd : BitVec 6) (oa : Sel) : SpecialRow (.vbRsqrt mk vd oa) .rsqrt vd oa
  | sqrt (mk : Mask) (vd : BitVec 6) (oa : Sel) : SpecialRow (.vbSqrt mk vd oa) .sqrt vd oa
  | exp2 (mk : Mask) (vd : BitVec 6) (oa : Sel) : SpecialRow (.vbExp2 mk vd oa) .exp2 vd oa
  | log2 (mk : Mask) (vd : BitVec 6) (oa : Sel) : SpecialRow (.vbLog2 mk vd oa) .log2 vd oa
  | sin (mk : Mask) (vd : BitVec 6) (oa : Sel) : SpecialRow (.vbSin mk vd oa) .sin vd oa
  | cos (mk : Mask) (vd : BitVec 6) (oa : Sel) : SpecialRow (.vbCos mk vd oa) .cos vd oa
  | tanh (mk : Mask) (vd : BitVec 6) (oa : Sel) : SpecialRow (.vbTanh mk vd oa) .tanh vd oa

/-- A function of R174 over a list of lanes, in any order. -/
def Rule.red (f : RedFn) (l : List Lane) : Lane :=
  match f with
  | .add => BitVec.ofNat 32 (l.map BitVec.toNat).sum
  | .min => l.foldl Rule.min (l.headD 0)
  | .max => l.foldl Rule.max (l.headD 0)
  | .minu => l.foldl Rule.minu (l.headD 0)
  | .maxu => l.foldl Rule.maxu (l.headD 0)
  | .and => l.foldl (fun a b => a &&& b) (BitVec.allOnes 32)
  | .or => l.foldl (fun a b => a ||| b) 0
  | .xor => l.foldl (fun a b => a ^^^ b) 0

/-- The table of R173 to R175: the lane operations of VB, with the value of each enabled lane and its poison, that of the lanes it was
formed from. -/
inductive GatherRow (e : Env) : Instr → BitVec 6 → (Nat → Lane) → (Nat → Bool) → Prop where
  | perm (mk : Mask) (vd : BitVec 6) (oa ob : Sel) (src : Nat → Nat) (h : ∀ l, src l = 32 * (l / 32) + (e.lane .vb ob l).toNat % 32) :
      GatherRow e (.vbPerm mk vd oa ob) vd (fun l => e.lane .vb oa (src l)) fun l => e.laneP ob l || e.laneP oa (src l)
  | shfl (mk : Mask) (vd : BitVec 6) (oa ob : Sel) (src : Nat → Nat)
      (h : ∀ l, src l = 32 * (l / 32) + (l % 32 ^^^ (e.lane .vb ob l).toNat % 32)) :
      GatherRow e (.vbShfl mk vd oa ob) vd (fun l => e.lane .vb oa (src l)) fun l => e.laneP ob l || e.laneP oa (src l)
  | rot (mk : Mask) (vd : BitVec 6) (oa ob : Sel) (src : Nat → Nat)
      (h : ∀ l, src l = 32 * (l / 32) + (l % 32 + (e.lane .vb ob l).toNat) % 32) :
      GatherRow e (.vbRot mk vd oa ob) vd (fun l => e.lane .vb oa (src l)) fun l => e.laneP ob l || e.laneP oa (src l)
  | bcl (mk : Mask) (vd : BitVec 6) (oa ob : Sel) (src : Nat → Nat) (h : ∀ l, src l = 32 * (l / 32) + (e.lane .vb ob l).toNat % 32) :
      GatherRow e (.vbBcl mk vd oa ob) vd (fun l => e.lane .vb oa (src l)) fun l => e.laneP ob l || e.laneP oa (src l)
  | red (mk : Mask) (f : RedFn) (vd : BitVec 6) (oa : Sel) :
      GatherRow e (.vbRed mk f vd oa) vd (fun l => Rule.red f ((lanesIn e.t mk (l / 32)).map (e.lane .vb oa)))
        fun l => (lanesIn e.t mk (l / 32)).any (e.laneP oa)
  | scan (mk : Mask) (f : RedFn) (vd : BitVec 6) (oa : Sel) :
      GatherRow e (.vbScan mk f vd oa) vd
        (fun l => Rule.red f (((lanesIn e.t mk (l / 32)).filter fun j => decide (j ≤ l)).map (e.lane .vb oa)))
        fun l => ((lanesIn e.t mk (l / 32)).filter fun j => decide (j ≤ l)).any (e.laneP oa)
  | matchEq (mk : Mask) (vd : BitVec 6) (oa : Sel) (f : Nat → Lane)
      (h : ∀ l j, j < 32 → ((f l).getLsbD j = true ↔
        enabled e.t mk (32 * (l / 32) + j) = true ∧ e.lane .vb oa (32 * (l / 32) + j) = e.lane .vb oa l)) :
      GatherRow e (.vbMatch mk vd oa) vd f fun l => (lanesIn e.t mk (l / 32)).any (e.laneP oa)

/-- v is element ℓ₀ of A, ℓ₀ the lowest-numbered enabled lane over all passes; 0 when no lane is enabled (R176). -/
def Env.FirstLane (e : Env) (mk : Mask) (f : Nat → BitVec 128) (v : BitVec 128) : Prop :=
  (∃ l, l < e.t.width ∧ enabled e.t mk l = true ∧ (∀ j, j < l → enabled e.t mk j = false) ∧ v = f l) ∨
    ((∀ l, l < e.t.width → enabled e.t mk l = false) ∧ v = 0)

/-! ## What an instruction leaves as it was -/

/-- Two states agree on everything but the teams. -/
def State.SameButTeams (s t : State) : Prop := { t with teams := s.teams } = s

/-- Two states agree on every team but one. -/
def State.SameOtherTeams (s t : State) (z : Nat) : Prop := ∀ y, y ≠ z → t.teams.get? y = s.teams.get? y

/-- A packet of a valid type arrives in a frame the port takes, from the peer of its valid session, while the port receives (R358, R359,
R361). -/
def State.FromPeer (s : State) (p : Packet) : Prop :=
  s.netUp = true ∧ s.frameOk p = true ∧ p.ver = 1 ∧ 1 ≤ p.typ.toNat ∧ p.typ.toNat < 10 ∧ s.fromPeer p = true

/-- No watchpoint comparator of a core is armed (R376). -/
def State.Unwatched (s : State) (core : Nat) : Prop := ∀ w, w < 4 → s.regBits (coreDbg core + 0x108 + 32 * w) 10 1 = 0

/-- The frame of a scratchpad access by a slot: besides the team's own record and the scratchpad, only the core's posted bank rows, its
event counts and its lost-time array with its counts at the start of the clock (R259, R386, R388) change, and the registers named. -/
def State.SlotFrame (s u : State) (z : Nat) (offs : List Nat) : Prop :=
  { u with teams := s.teams, cores := s.cores, regs := s.regs, spad := s.spad, spadP := s.spadP } = s ∧ s.SameOtherTeams u z ∧
    (∀ off, (off < coreDbg (coreOf z) + 0x1000 ∨ coreDbg (coreOf z) + 0x1200 ≤ off) → off ∉ offs → u.regs.get off = s.regs.get off) ∧
    (∀ k, (u.cores.get? k).map (fun c => { c with breq := [], events := [], lt0 := [] }) =
      (s.cores.get? k).map fun c => { c with breq := [], events := [], lt0 := [] })

/-- The team's own part of that frame: its landing buffer, its word in progress, its stream operations and their counters. -/
def Team.SlotFrame (t u : Team) : Prop := { u with land := t.land, ctx := t.ctx, ops := t.ops, ic := t.ic, dc := t.dc } = t

/-- Where an operation of the word in progress stands. -/
def Team.stands (t : Team) (k : Nat) (st : OpStatus) : Prop := (t.ctx.bind fun c => c.ops[k]?).map OpSt.st = some st

/-- A team differs in its landing buffer and its word in progress only: no register, flag, control register or counter of it. -/
def Team.SameButLanding (t u : Team) : Prop := { u with land := t.land, ctx := t.ctx } = t

end Sys2Proof.Machine
end

