-- ==== Sys2Proof/Certificates/Slice0/Obligations.lean ====
section
/-!
DEFINITION. The statements for the provers, each a Prop of its own: decoding, the steps of a team's words, the slot operations of the
five kinds, traps, and the steps of the units. Where a statement rests on a choice of the model its docstring names the log entry.
-/
open Sys2Proof Sys2Proof.Machine

/-! ## Steps and words -/

/-- One step: the next pending step of the agenda is the one taken, unless its packet waits for a line that a copy owns (R246, R313); with
nothing pending, the device takes one of the steps that would change something, or ends the clock; which one is free (R4; the order is the
model's, log entry 1). -/
def Obligations.StepOrder : Prop :=
  (∀ (s : State) (i : Instr) (rest : List Instr), s.agenda = i :: rest →
    (s.hostWaits i = false → step s = exec i { s.hostServed with agenda := rest, ticked := false }) ∧
      (s.hostWaits i = true → step s = (s.hostRecall i).ownStep)) ∧
  (∀ s : State, s.agenda = [] →
    ∃ i, step s = exec i { s with ticked := false, fresh := s.fresh + 1 } ∧
      (i = .eventCounterIncrement ∨ (i ∈ s.candidates ∧ ∃ t, exec i s = .next t ∧ t ≠ s)))

/-- When the word in progress of a team holds an operation, running it is exec of the decoded instruction at that state: every slot
operation of the opcode table, with its commit counted (R391). -/
def Obligations.WordRunsDecodedInstruction : Prop :=
  ∀ (s u : State) (z k : Nat) (t : Team) (c : Ctx) (o : OpSt), s.teams.get? z = some t → t.ctx = some c → c.ops[k]? = some o →
    o.op.ins.kind.isSome = true → exec o.op.ins { s with cur := some z } = .next u →
    s.execOp z k =
      (if ((((u.teams.get? z).bind Team.ctx).bind fun c => c.ops[k]?).map OpSt.st == some .done) && o.st != .done then
        ({ u with cur := none } : State).countTeam z 0x03 1 else { u with cur := none })

/-- WORD_FETCH: a team that wants its next word, whose token parcel names an entry of its window installed in the decode table whose
parity holds, gets the word that the entry's bits decode to, with the parcel after the word's immediates (R71 steps 1 to 5, R73), unless a
commit of the address-range table holds the fetch (R268). -/
def Obligations.FetchGivesDecodedWord : Prop :=
  ∀ (s s' u : State) (z e : Nat) (t : Team) (q : Part) (x : DEntry) (p : BitVec 16) (w : Word3) (imms : List (BitVec 15)),
    s.teams.get? z = some t → t.wantsFetch = true → s.refilling z = false →
    s.fetchHeld (coreOf z) t.tmode t.asid t.root t.pc.toNat = false →
    s.parcel z t t.pc.toNat = .ok (s', p) → p.getLsbD 15 = false → s'.parts.get? (partOf z) = some q →
    (p.extractLsb' 0 15).toNat < (t.win q).len → q.find (t.win q) t.asid (p.extractLsb' 0 15).toNat = some e →
    q.table.get? e = some x → x.bad = false → decodeWord x.bits = .ok w →
    ({ s' with parts := s'.parts.put (partOf z) (q.touch ((t.win q).set0 (p.extractLsb' 0 15).toNat) e) } : State).immParcels z t
      (p.extractLsb' 0 15).toNat w.nimm ((t.pc.toNat + 2) % 2 ^ 57) = .ok (u, imms) →
    exec (.wordFetch z) s = .next ((u.updTeam z fun t' => { t' with
      fetched := some ⟨t.pc, BitVec.ofNat 64 ((t.pc.toNat + 2 * (1 + w.nimm)) % 2 ^ 57), wordImm imms, (p.extractLsb' 0 15).toNat, w⟩,
      waiting := false }).checkBreak z)

/-- The word's immediate is Σ pⱼ·2^(15j), sign-extended from bit 15N − 1 to 64 bits, and 0 when N = 0; four parcels give a 60-bit
immediate; and the frame of a trap, at offset 0x90, records the immediate of the trapped word (R53, R70). -/
def Obligations.ImmediateValue : Prop :=
  (wordImm [] = 0 ∧ ∀ (l : List (BitVec 15)) (v : Nat), l ≠ [] → l.length ≤ 4 → v = (l.zipIdx.map fun x => x.1.toNat * 2 ^ (15 * x.2)).sum →
    (wordImm l).toInt = if v < 2 ^ (15 * l.length - 1) then (v : Int) else (v : Int) - 2 ^ (15 * l.length)) ∧
  (∀ (t : Team) (f : Flt) (c : Ctx) (held : AL SlotBits) (rep : List Landing), t.ctx = some c →
    ∃ (b : List Byte) (r : List (Nat × List Byte × Bool)), frameBytes t (t.frameHead f) held rep = (0, b, false) :: r ∧
      leNat ((b.drop 0x90).take 8) = c.imm.toNat)

/-- DICT_REFILL: the k-th refill of a partition, once it is served, reads the 32 bytes at DBASE + 32·token; when they decode, the entry
is installed under the team's tag and the word goes to every waiting team; else each of them faults, with the check, the positions and
the reason of the refusal (R57, R73, R74, R320). -/
def Obligations.RefillDecodesEntry : Prop :=
  ∀ (s s' : State) (part k : Nat) (p : Part) (r : Refill) (l : List Byte),
    s.parts.get? part = some p → p.refills[k]? = some r → r.started = true → r.pre = none → l.length = 32 →
    s.fetchHeld (part / 4) r.sys r.asid r.root ((r.base.toNat + 32 * r.token) % 2 ^ 57) = false →
    (s.updPart part fun p => startRefills { p with refills := p.refills.eraseIdx k }).fetchBytes (part / 4) r.sys r.asid r.root
      ((r.base.toNat + 32 * r.token) % 2 ^ 57) 32 = .ok (s', l) →
    (∀ w, decodeWord (leWord 256 l) = .ok w → exec (.dictRefill part k) s = .next (r.teams.foldl (fun s z => s.refilled z r.token (.ok w))
      (s'.updPart part fun p => p.install ⟨r.winBase, r.winSets, r.base, 0, r.sys⟩ ⟨r.token, r.base, r.asid, r.sys, leWord 256 l, false⟩)))
    ∧ (∀ f, decodeWord (leWord 256 l) = .error f → exec (.dictRefill part k) s = .next (r.teams.foldl (fun s z =>
      s.refilled z r.token (.error ⟨2, BitVec.ofNat 32 (4 + 2 ^ 3 * r.token + 2 ^ 18 * f.check + 2 ^ 21 * f.pos.toNat + 2 ^ 24 * f.sub
        + (if r.sys then 2 ^ 28 else 0)), BitVec.ofNat 64 ((r.base.toNat + 32 * r.token) % 2 ^ 57), 3, 0, 0⟩))
      (s'.count (part / 4) 0x08 part false 1)))

/-- TEAM_SELECTION, once in a clock for each partition and in ascending order of a core's partitions: with no bank row owed, the word that
occupies the partition runs its next clock; else the selected team's word begins and runs its first clock, or what stops the word is done.
The team selected is a ready team of the partition whose last issue is oldest, and the lowest slot among those (R37, R84, R313). -/
def Obligations.SelectionRunsWord : Prop :=
  (∀ (s : State) (part : Nat) (p : Part), s.rowsDue part = false → s.parts.get? part = some p → s.turn (0x1000 + part) = 0 →
    s.turn (part / 4) ≤ part % 4 →
    let had (u : State) : State := (u.takeTurn (0x1000 + part) 1).takeTurn (part / 4) (part % 4)
    (∀ z, p.busy = some z → exec (.teamSelection part) s = .next (had (s.wordClock z))) ∧
    (p.busy = none → ∀ z t e, s.select part = some z → s.teams.get? z = some t → t.drains = false →
      (s.plan z = some (e, none) → exec (.teamSelection part) s = .next (had ((s.beginWord z e).wordClock z))) ∧
      (∀ slot f, s.plan z = some (e, some (slot, .fault f)) →
        exec (.teamSelection part) s = .next (had ((s.updTeam z fun _ => e.t).takeTrap z f))))) ∧
  (∀ (s : State) (part : Nat), (s.turn (0x1000 + part) ≠ 0 ∨ part % 4 < s.turn (part / 4)) → exec (.teamSelection part) s = .next s) ∧
  (∀ (s : State) (part z : Nat), s.select part = some z →
    ∃ t, s.teams.get? z = some t ∧ s.ready z t = true ∧ z / 16 = part ∧
      ∀ y u, y / 16 = part → s.teams.get? y = some u → s.ready y u = true →
        t.lastIssue < u.lastIssue ∨ (t.lastIssue = u.lastIssue ∧ z ≤ y))

/-! ## Encodings -/

/-- The worked encodings of the spec: the word of R97 and its neighbours at their entries, one operation of each engine kind, and the
refused entry of the dictionary program (R61 to R64, R79, R127). -/
def Obligations.WrittenWordsDecode : Prop :=
  decodeTableWord 256 0x20002000040BE8C0000000000000000000000000000000000000000000000000 =
    some (.suBr (some .lt) (.reg 1) (.reg 2) (.const 26)) ∧
  decodeTableWord 256 0x4000231C06440C8A000000000000000000000000000000000000000000000000 =
    some (.vaFma (some 8) .rz 7 (.reg 1) (.queue 2 1) (.reg 3)) ∧
  decodeTableWord 256 0x6000161410000000000000000000000000000000000000000000000000000000 =
    some (.vbPopc none 5 (.reg 4)) ∧
  decodeTableWord 256 0x8002100A13000149058000000000000000000000000000000000000000000000 =
    some (.muLdg (some 20) .vm 2 4 (.imm 0) ⟨1, 5, .dev⟩) ∧
  decodeTableWord 256 0xA0020240F0446030200000000000000000000000000000000000000000000000 =
    some (.xuMma 2 0 1 (.const 0) (.queue 1 0) (.imm 0) ⟨3, 2, .core⟩) ∧
  decodeWord 0x508220100408014800000000010E0B0000010100000002141784000000000000 =
    .ok ⟨1, some ⟨.va, false, 0x20100408014800000000, .vaFadd (some 20) .fmode 4 (.reg 1) (.reg 2)⟩,
      some ⟨.mu, false, 0x010E0B00000101000000, .muLds none .vm 3 2 (.imm 0) ⟨1, 1, .core⟩⟩,
      some ⟨.su, false, 0x02141784000000000000, .suAdd 5 (.reg 5) (.const 1)⟩⟩ ∧
  decodeWord 0x6400161410000000000000002C18000000000006000000000000000000000000 =
    .error ⟨4, 0, 3⟩

/-- Decode and encode agree: every word that passes the checks of R79, of up to three operations with every operand at every value its
encoding admits, is decoded from its dictionary entry, operand for operand; no bit of an encoding is dropped (R57 to R64, R79). -/
def Obligations.DecodeOfEncodedWord : Prop := ∀ w : Word3, w.Encoded → decodeWord w.entry = .ok w

/-- What is decoded is what stands in the entry: an accepted entry is bit for bit the entry of the word it gives, so bit 240 and every
empty position are zero; each operation is the one its slot field holds; kinds differ, no two results land in one file at one latency,
and every selector's immediate is among the word's 0 to 4 (R57 to R59, R79). -/
def Obligations.DecodedWordIsItsEntry : Prop :=
  ∀ (b : ControlWord) (w : Word3), decodeWord b = .ok w →
    w.entry = b ∧ w.nimm ≤ 4 ∧ (∀ x, x ∈ w.ops → decodeSlot x.2.kind x.2.hold x.2.bits = .ok x.2.ins ∧ x.2.ins.nimm ≤ w.nimm) ∧
      w.ops.Pairwise (fun x y => x.2.kind ≠ y.2.kind ∧ ∀ r, x.2.ins.lands = some r → y.2.ins.lands ≠ some r)

/-- Reserved words are refused: an entry with a repeated kind by check 1; one without, that has a reserved kind code, bit 240 set, or a
hold bit or a nonzero field at an empty position, by check 2; and one that asks for more than four immediates by some check (R58, R79,
R80). -/
def Obligations.ReservedWordsRefused : Prop :=
  ∀ b : ControlWord,
    ((∃ i j, i < j ∧ j < 3 ∧ (rawPos b i).1 = (rawPos b j).1 ∧ 1 ≤ (rawPos b i).1.toNat ∧ (rawPos b i).1.toNat ≤ 5) →
      ∃ m, decodeWord b = .error ⟨1, 0, m⟩) ∧
    ((∀ i j, i < j → j < 3 → (rawPos b i).1 = (rawPos b j).1 → (rawPos b i).1 = 0 ∨ 6 ≤ (rawPos b i).1.toNat) →
      (b.getLsbD 240 = true ∨ (∃ i, i < 3 ∧ (6 ≤ (rawPos b i).1.toNat ∨ ((rawPos b i).1 = 0 ∧ ((rawPos b i).2.1 = true ∨ (rawPos b i).2.2 ≠ 0))))) →
      ∃ n m, decodeWord b = .error ⟨2, n, m⟩) ∧
    (5 ≤ (b.extractLsb' 241 3).toNat → ∃ f, decodeWord b = .error f)

/-! ## Operands and rounding -/

/-- Operands: an immediate reference is parcel j's payload, the whole selector the word's immediate, an inline constant its five bits,
each sign-extended; a scalar operation reads 64 bits of it and every lane the low 32; a register is the operation's own file's, of a lane
its element; a queue read of lane ℓ is the little-endian 32-bit word at offset 4ℓ of the entry sampled at issue, in the block's scratchpad.
Without a mask every lane is enabled; with base s m, lane 32p + i is enabled by bit 32(p mod 2) + i of s(m + ⌊p/2⌋); a pass is executed
exactly when its mask word is not zero (R8, R17, R18, R21, R36, R60, R70, R123, R151). -/
def Obligations.OperandsAndMasks : Prop :=
  (∀ (e : Env) (fl : RFile) (j : BitVec 2) (c : BitVec 5) (l : Nat),
    (e.scalar fl (.const c)).toInt = c.toInt ∧ e.scalar fl .whole = e.c.imm ∧
    (e.scalar fl (.imm j)).toInt = (BitVec.ofNat 15 (e.c.imm.toNat / 2 ^ (15 * j.toNat))).toInt ∧
    (e.lane fl (.const c) l).toInt = c.toInt ∧ (e.lane fl .whole l).toNat = e.c.imm.toNat % 2 ^ 32 ∧
    (e.lane fl (.imm j) l).toInt = (BitVec.ofNat 15 (e.c.imm.toNat / 2 ^ (15 * j.toNat))).toInt) ∧
  (∀ (e : Env) (n : BitVec 6) (h k : BitVec 3) (l : Nat) (fl : RFile),
    e.scalar .s (.reg n) = e.t.s.get n.toNat ∧ e.scalar .a (.reg n) = e.t.a.get n.toNat ∧
    e.lane .va (.reg n) l = e.t.va.get (1024 * n.toNat + l) ∧ e.lane .vb (.reg n) l = e.t.vb.get (1024 * n.toNat + l) ∧
    e.lane .vm (.reg n) l = e.t.vm.get (1024 * n.toNat + l) ∧
    (e.lane fl (.queue h k) l).toNat =
      (e.s.spad.get (2 ^ 19 * e.b.core + 8192 * e.b.tile0 + e.entry h k + 4 * l)).toNat
      + 2 ^ 8 * (e.s.spad.get (2 ^ 19 * e.b.core + 8192 * e.b.tile0 + e.entry h k + 4 * l + 1)).toNat
      + 2 ^ 16 * (e.s.spad.get (2 ^ 19 * e.b.core + 8192 * e.b.tile0 + e.entry h k + 4 * l + 2)).toNat
      + 2 ^ 24 * (e.s.spad.get (2 ^ 19 * e.b.core + 8192 * e.b.tile0 + e.entry h k + 4 * l + 3)).toNat) ∧
  (∀ (t : Team) (m : BitVec 6) (p i : Nat), i < 32 →
    enabled t none (32 * p + i) = true ∧
    (enabled t (some m) (32 * p + i) = true ↔ (t.s.get (m.toNat + p / 2)).getLsbD (32 * (p % 2) + i) = true) ∧
    (p ∈ livePasses t (some m) ↔ p < 2 ^ t.wlog ∧ ∃ j, j < 32 ∧ (t.s.get (m.toNat + p / 2)).getLsbD (32 * (p % 2) + j) = true))

/-- Overflow(fmt, mode, sign): the table of R108, as the bit patterns of FP32, FP16 and BF16 (R98). -/
def Obligations.OverflowTable : Prop :=
  (∀ s, overflow fp32 .rne s = (if s then 0xFF800000 else 0x7F800000) ∧ overflow fp32 .rz s = (if s then 0xFF7FFFFF else 0x7F7FFFFF) ∧
    overflow fp32 .ru s = (if s then 0xFF7FFFFF else 0x7F800000) ∧ overflow fp32 .rd s = (if s then 0xFF800000 else 0x7F7FFFFF)) ∧
  (∀ s, overflow fp16 .rne s = (if s then 0xFC00 else 0x7C00) ∧ overflow fp16 .rz s = (if s then 0xFBFF else 0x7BFF) ∧
    overflow fp16 .ru s = (if s then 0xFBFF else 0x7C00) ∧ overflow fp16 .rd s = (if s then 0xFC00 else 0x7BFF)) ∧
  (∀ s, overflow bf16 .rne s = (if s then 0xFF80 else 0x7F80) ∧ overflow bf16 .rz s = (if s then 0xFF7F else 0x7F7F) ∧
    overflow bf16 .ru s = (if s then 0xFF7F else 0x7F80) ∧ overflow bf16 .rd s = (if s then 0xFF80 else 0x7F7F))

/-- RoundInt(v, mode) of v = ±m·2^(−k): RNE the nearest integer, the even one of two at equal distance; RZ the one nearest with
magnitude no greater; RU the least integer ≥ v; RD the greatest ≤ v. The mode is the RM field's, and for RM 000 that of FMODE
as it stood at the word's issue (R65, R106). -/
def Obligations.RoundIntRule : Prop :=
  (∀ (s : Bool) (m k : Nat),
    let v (r : Rnd) : Int := if s then -(roundInt r s m (-(k : Int)) : Int) else (roundInt r s m (-(k : Int)) : Int)
    let x : Int := if s then -(m : Int) else (m : Int)
    let u : Int := 2 ^ k
    (2 * (x - v .rne * u) ≤ u ∧ -u ≤ 2 * (x - v .rne * u) ∧
      ((2 * (x - v .rne * u) = u ∨ 2 * (x - v .rne * u) = -u) → v .rne % 2 = 0)) ∧
    (if s then x ≤ v .rz * u ∧ v .rz * u < x + u ∧ v .rz ≤ 0 else v .rz * u ≤ x ∧ x < v .rz * u + u ∧ 0 ≤ v .rz) ∧
    (x ≤ v .ru * u ∧ v .ru * u < x + u) ∧ (v .rd * u ≤ x ∧ x < v .rd * u + u)) ∧
  (∀ (e : Env) (rm : Rm), e.modes rm = modesOf e.c.fm e.c.cm rm) ∧
  (∀ (fm cm : Word) (b : BitVec 2), fm.toNat % 4 = b.toNat →
    (modesOf fm cm .fmode).rnd = (if b = 0 then .rne else if b = 1 then .rz else if b = 2 then .ru else .rd) ∧
    (modesOf fm cm .rne).rnd = .rne ∧ (modesOf fm cm .rz).rnd = .rz ∧ (modesOf fm cm .ru).rnd = .ru ∧ (modesOf fm cm .rd).rnd = .rd)

/-- The special cases of addition, subtraction and multiplication. A NaN operand supplies the result, the first in the order OA, OB, with
its sign and payload kept and its quiet bit set, NV only for a signalling one; at COMPAT level 1 the result is the canonical NaN. The
infinities, the invalid operations and the signs of zeros are as the rules give them, under every mode (R98, R109, R112, R158, R159). -/
def Obligations.SpecialSumsAndProducts : Prop :=
  (∀ (md : Modes) (sub : Bool) (a b : Lane),
    let nan (x : Lane) : Prop := 2 ^ 31 - 2 ^ 23 < x.toNat % 2 ^ 31
    let sig (x : Lane) : Prop := nan x ∧ x.getLsbD 22 = false
    (nan a ∨ nan b) →
      ((fadd32 md sub a b).1 = (if md.level1 then 0x7FC00000 else (if 2 ^ 31 - 2 ^ 23 < a.toNat % 2 ^ 31 then a else b) ||| 0x00400000)) ∧
      ((fmul32 md a b).1 = (fadd32 md sub a b).1) ∧
      (((fadd32 md sub a b).2 = 1) ↔ (sig a ∨ sig b)) ∧ (((fadd32 md sub a b).2 = 0) ↔ ¬(sig a ∨ sig b)) ∧
      ((fmul32 md a b).2 = (fadd32 md sub a b).2)) ∧
  (∀ (md : Modes) (x : Lane),
    fadd32 md false 0x7F800000 0xFF800000 = (0x7FC00000, 1) ∧ fadd32 md true 0x7F800000 0x7F800000 = (0x7FC00000, 1) ∧
    fadd32 md false 0x7F800000 0x7F800000 = (0x7F800000, 0) ∧ fmul32 md 0x00000000 0xFF800000 = (0x7FC00000, 1) ∧
    fmul32 md 0xFF800000 0xFF800000 = (0x7F800000, 0) ∧ fmul32 md 0x80000000 0x00000000 = (0x80000000, 0) ∧
    fadd32 md false 0x80000000 0x80000000 = (0x80000000, 0) ∧
    fadd32 md false 0x00000000 0x80000000 = (if md.rnd = .rd then 0x80000000 else 0x00000000, 0) ∧
    (x.toNat % 2 ^ 31 < 2 ^ 31 - 2 ^ 23 →
      fadd32 md false 0x7F800000 x = (0x7F800000, 0) ∧ fadd32 md false x 0xFF800000 = (0xFF800000, 0) ∧
      (2 ^ 23 ≤ x.toNat % 2 ^ 31 → fadd32 md true x x = (if md.rnd = .rd then 0x80000000 else 0x00000000, 0) ∧
        fadd32 md false x 0x00000000 = (x, 0) ∧ fmul32 md x 0x3F800000 = (x, 0))))

/-! ## Slot operations: when they act -/

/-- A slot operation executes only in a word of a team, and faults alone, else (R57; what stands outside a word has no operands, log
entry 1); a check that stops it takes the fault it names as a trap of its team (R124, R313); one whose queue bytes are not ready, of a
matrix command neither now nor when it read them, blocks, and nothing of it takes effect (R32, R36, R213); and so does one before which a
held repeat has blocked (R67). -/
def Obligations.SlotOperationStops : Prop :=
  ∀ (s : State) (i : Instr), i.kind.isSome = true →
    (s.slotOf i = none → exec i s = .fault .noWordIssuing) ∧
    (∀ x f, s.stoppingSlot i = some (x, .fault f) → exec i s = .next (s.takeTrap x.e.z f)) ∧
    (∀ x, s.runningSlot i = some x → x.o.st = .pending →
      x.e.queueReady i = false → exec i s = .next x.blocked) ∧
    (∀ x, s.checkedSlot i = some x → x.o.st = .pending → (∃ y ∈ x.e.c.repeatsDue x.o, y.st = .blocked) → exec i s = .next x.blocked)

/-- PRIVILEGE: in user mode su.eret, su.dinv, and su.csrw of COMPAT, DWIN, DBASE, TRAPVEC, CTXPTR and TCYC fault at issue, before any
other check of theirs, with cause 0x19 at their slot; the detail gives the opcode, the kind code of SU and the register; the other SU
operations never do (R124, R142, R144, R146, R320). -/
def Obligations.PrivilegeFaults : Prop :=
  ∀ (e : Env) (o : OpSt) (before : List (RFile × Nat)),
    (e.t.tmode = false →
      (o.op.ins = .suEret → e.slotStop o before = some (.fault ⟨0x19, BitVec.ofNat 32 (0x33 + 2 ^ 8), 0, e.slot, 0, 0⟩)) ∧
      (o.op.ins = .suDinv → e.slotStop o before = some (.fault ⟨0x19, BitVec.ofNat 32 (0x35 + 2 ^ 8), 0, e.slot, 0, 0⟩)) ∧
      (∀ csr sa, o.op.ins = .suCsrw csr sa → csr.toNat ∈ [1, 3, 4, 8, 9, 10] →
        e.slotStop o before = some (.fault ⟨0x19, BitVec.ofNat 32 (0x31 + 2 ^ 8 + 2 ^ 11 * csr.toNat), 0, e.slot, 0, 0⟩))) ∧
    (∀ f, o.op.ins.kind = some .su → e.slotStop o before = some (.fault f) → f.cause = 0x19 →
      e.t.tmode = false ∧ (o.op.ins = .suEret ∨ o.op.ins = .suDinv ∨
        ∃ csr sa, o.op.ins = .suCsrw csr sa ∧ csr.toNat ∈ [1, 3, 4, 8, 9, 10]))

/-! ## Scalar operations -/

/-- Scalar results: each of the 24 integer, logic and mask operations lands F(a, b, c) in s SD at t + 1 + QX and commits, with the poison
of its operands; su.bcast lands the low 32 bits of its operand in every lane, enabled or not, and su.xfer all 64 bits in an a register, at
t + 2 + QX; nothing else changes (R29, R36, R65, R126, R139, R140). -/
def Obligations.SuResults : Prop :=
  (∀ (s : State) (i : Instr) (x : Slot) (sd : BitVec 6) (v : Word), s.runningSlot i = some x → x.e.queueReady i = true →
    SuRow x.e i sd v → exec i s = .next (x.doneIn (x.lands i .su .s sd.toNat 1 (v.setWidth 128) (x.e.scalarsP i)))) ∧
  (∀ (s : State) (i : Instr) (x : Slot), s.runningSlot i = some x → x.e.queueReady i = true →
    (∀ df sd sa, i = .suBcast df sd sa → i.wf = true →
      exec i s = .next (x.doneIn (x.e.s.updTeam x.e.z fun t => t.addLanding
        { due := x.e.c.t + 2 + (if i.readsQueue then 3 else 0), file := df, reg := sd.toNat, pair := false, bal := false,
          vals := (List.range (32 * 2 ^ x.e.t.wlog)).map fun l => ⟨l, BitVec.ofNat 128 ((x.e.su sa).toNat % 2 ^ 32), x.e.scalarsP i⟩,
          flags := 0, pend := none, lanes := [], key := some (landKey x.e.slot .su) }))) ∧
    (∀ sd sa, i = .suXfer sd sa →
      exec i s = .next (x.doneIn (x.lands i .su .a sd.toNat 2 ((x.e.su sa).setWidth 128) (x.e.scalarsP i)))))

/-- Branches, calls and indirect transfers: the target (PC + 2·offset) mod 2^57, or bits 56:0 of the value, is taken; a call lands NPC
in its link at t + 1 + QX; a branch whose condition fails changes nothing (R65, R125, R127, R128, R129). -/
def Obligations.SuTransfers : Prop :=
  ∀ (s : State) (i : Instr) (x : Slot), s.runningSlot i = some x → x.e.queueReady i = true →
    (∀ sa sb sc, i = .suBr none sa sb sc → exec i s = .next (x.doneIn (x.takes x.e.s (x.e.c.pc.toNat + 2 * (x.e.su sc).toNat)))) ∧
    (∀ cc sa sb sc, i = .suBr (some cc) sa sb sc →
      (Rule.holds cc (x.e.su sa) (x.e.su sb) →
        exec i s = .next (x.doneIn (x.takes x.e.s (x.e.c.pc.toNat + 2 * (x.e.su sc).toNat)))) ∧
      (¬Rule.holds cc (x.e.su sa) (x.e.su sb) → exec i s = .next (x.doneIn x.e.s))) ∧
    (∀ sd sc, i = .suCall sd sc →
      exec i s = .next (x.doneIn (x.takes (x.lands i .su .s sd.toNat 1 (x.e.c.npc.setWidth 128) false)
        (x.e.c.pc.toNat + 2 * (x.e.su sc).toNat)))) ∧
    (∀ sd sa, i = .suCalli sd sa →
      exec i s = .next (x.doneIn (x.takes (x.lands i .su .s sd.toNat 1 (x.e.c.npc.setWidth 128) false) (x.e.su sa).toNat))) ∧
    (∀ sa, i = .suJmpi sa → exec i s = .next (x.doneIn (x.takes x.e.s (x.e.su sa).toNat)))

/-- Hardware loops: su.loop writes lc, ls = NPC and le = PC + 2·offset of its level, and with a count of 0 takes the parcel after the
word at le, which its lookup found; su.lbrk zeroes lc; su.lwr stores all of lc, bits 56:1 of ls or le; su.lrd lands the register as of
the word's team-cycle (R38, R130, R132, R133). -/
def Obligations.SuLoops : Prop :=
  ∀ (s : State) (i : Instr) (x : Slot), s.runningSlot i = some x → x.e.queueReady i = true →
    (∀ lv sa sc, i = .suLoop lv sa sc →
      let after := x.loops x.e.s lv (fun _ =>
        (x.e.su sa, loopAddr x.e.c.npc.toNat, loopAddr (x.e.c.pc.toNat + 2 * (x.e.su sc).toNat))) true
      (x.e.su sa ≠ 0 → exec i s = .next (x.doneIn after)) ∧
      (x.e.su sa = 0 → ∀ le a, x.e.t.zeroTrip = some (le, a) → exec i s = .next (x.doneIn (x.takes after a.toNat)))) ∧
    (∀ lv, i = .suLbrk lv → exec i s = .next (x.doneIn (x.loops x.e.s lv (fun r => (0, r.2)) true))) ∧
    (∀ lv sa, i = .suLwr lv .lc sa → exec i s = .next (x.doneIn (x.loops x.e.s lv (fun r => (x.e.su sa, r.2)) true))) ∧
    (∀ lv sa, i = .suLwr lv .ls sa →
      exec i s = .next (x.doneIn (x.loops x.e.s lv (fun r => (r.1, loopAddr (x.e.su sa).toNat, r.2.2)) false))) ∧
    (∀ lv sa, i = .suLwr lv .le sa →
      exec i s = .next (x.doneIn (x.loops x.e.s lv (fun r => (r.1, r.2.1, loopAddr (x.e.su sa).toNat)) false))) ∧
    (∀ sd lv lr, i = .suLrd sd lv lr → ∀ r : Word × Word × Word,
      r = (if lv = 0 then (x.e.t.loop.lc0, x.e.t.loop.ls0, x.e.t.loop.le0) else (x.e.t.loop.lc1, x.e.t.loop.ls1, x.e.t.loop.le1)) →
      exec i s = .next (x.doneIn (x.lands i .su .s sd.toNat 1
        ((match lr with | .lc => r.1 | .ls => r.2.1 | .le => r.2.2).setWidth 128) false)))

/-- Stream counters: su.srd lands I[n] or D[n] as at the start of the team-cycle, zero-extended; su.swait on c commits when
δ = (c − D) mod 2^16 is 0 or above 32,768, and else blocks; at issue, O < δ ≤ 32,768 is STREAM_WAIT_RANGE (R134, R135). -/
def Obligations.SuStreams : Prop :=
  ∀ (s : State) (i : Instr) (x : Slot), s.runningSlot i = some x → x.e.queueReady i = true →
    (∀ sd str, i = .suSrd sd str .issued →
      exec i s = .next (x.doneIn (x.lands i .su .s sd.toNat 1 (BitVec.ofNat 128 (x.e.c.i0.get str.toNat).toNat) false))) ∧
    (∀ sd str, i = .suSrd sd str .completed →
      exec i s = .next (x.doneIn (x.lands i .su .s sd.toNat 1 (BitVec.ofNat 128 (x.e.c.d0.get str.toNat).toNat) false))) ∧
    (∀ str sb (δ : Nat), i = .suSwait str sb →
      δ = ((x.e.su sb).toNat + 2 ^ 16 - (x.e.t.dc.get str.toNat).toNat) % 2 ^ 16 →
      ((δ = 0 ∨ 32769 ≤ δ) → exec i s = .next (x.doneIn x.e.s)) ∧
      (0 < δ → δ ≤ 32768 → exec i s = .next x.blocked) ∧
      (∀ e : Env, e.t = x.e.t → e.c = x.e.c → e.swaitStop str.toNat (BitVec.ofNat 16 (x.e.su sb).toNat) =
        if ((e.iPrime str.toNat).toNat + 2 ^ 16 - (x.e.t.dc.get str.toNat).toNat) % 2 ^ 16 < δ ∧ δ ≤ 32768 then
          some (.fault ⟨0x0E, BitVec.ofNat 32 (str.toNat + 2 ^ 16 * δ), 0, e.slot, 0, 0⟩) else none))

/-- Barriers: a team that arrived waits until the generation differs from the one it recorded, and then forgets its record and goes
on; another waits until all its operations are performed at device scope, system scope for level 4, and arrives: its record is kept,
the level counts it, and it goes on at once if its own arrival released the level. The release rule at level 0: an arrival adds one to the
count, an end to the ended count; when the two reach the block's teams, the arrival count returns to 0, the ended count stays, and the
generation inverts (R23, R136, R137). -/
def Obligations.SuBarrier : Prop :=
  (∀ (s : State) (lv : BitVec 3) (x : Slot) (gen : State → Bool), s.runningSlot (.suBar lv) = some x →
    (∀ u, gen u = ((u.blocks.get? x.e.t.blk).map fun b => u.barGen b lv.toNat).getD false) →
    let forget (u : State) : State := u.updTeam x.e.z fun t => { t with bars := t.bars.del lv.toNat }
    let arrived : State :=
      (x.e.s.updTeam x.e.z fun t => { t with bars := t.bars.put lv.toNat ⟨true, gen x.e.s⟩ }).barCount x.e.t.blk lv.toNat false
    (∀ r, x.e.t.bars.get? lv.toNat = some r → gen x.e.s ≠ r.gen → exec (.suBar lv) s = .next (x.doneIn (forget x.e.s))) ∧
    (∀ r, x.e.t.bars.get? lv.toNat = some r → gen x.e.s = r.gen → exec (.suBar lv) s = .next x.blocked) ∧
    (x.e.t.bars.get? lv.toNat = none → x.e.t.allPerformed (if lv = 4 then .sys else .dev) = false →
      exec (.suBar lv) s = .next x.blocked) ∧
    (x.e.t.bars.get? lv.toNat = none → x.e.t.allPerformed (if lv = 4 then .sys else .dev) = true →
      (gen arrived ≠ gen x.e.s → exec (.suBar lv) s = .next (x.doneIn (forget arrived))) ∧
      (gen arrived = gen x.e.s → exec (.suBar lv) s = .next (arrived.setSt x.e.z x.k .blocked)))) ∧
  (∀ (s : State) (k : Nat) (b : Block) (l : Launch) (fin : Bool), s.blocks.get? k = some b → s.launches.get? b.launch = some l →
    ∀ a e : Nat, a = b.barArr + (if fin then 0 else 1) → e = b.barEnd + (if fin then 1 else 0) →
      (s.barCount k 0 fin).blocks.get? k = some (if l.teamsOf b.variant ≤ a + e then
          { b with barArr := 0, barEnd := e, barGen := !b.barGen } else { b with barArr := a, barEnd := e }) ∧
      (∀ j, j ≠ k → (s.barCount k 0 fin).blocks.get? j = s.blocks.get? j) ∧ { (s.barCount k 0 fin) with blocks := s.blocks } = s)

/-- Switch points: a no-operation for a block not flagged, a k its variant does not declare, and in trap mode; a request is withdrawn
when another team stopped at a different k, and the slot commits; otherwise the team waits until its operations have completed and are
performed at device scope and its landings have their data, drains its landing buffer, and is then marked stopped at k; with every team of
the block stopped there the block ends (R138). -/
def Obligations.SuSwitchPoint : Prop :=
  ∀ (s : State) (sa : Sel) (x : Slot), s.runningSlot (.suSwpt sa) = some x → x.e.queueReady (.suSwpt sa) = true →
    let v := x.e.su sa
    let b := x.e.b
    let ready : Prop := (∀ o ∈ x.e.t.ops, o.done = true ∧ o.performedAt .dev = true) ∧ ∀ l ∈ x.e.t.land, l.pend = none
    let stopped : State := (x.e.s.updTeam x.e.z Team.drained).updBlock x.e.t.blk fun b =>
      { b with switches := (b.switches.filter fun y => y.1 != x.e.z) ++ [(x.e.z, v)] }
    ((b.flagged = false ∨ x.e.t.tmode = true ∨ x.e.s.switchAt b v.toNat = false) → exec (.suSwpt sa) s = .next (x.doneIn x.e.s)) ∧
    (b.flagged = true → x.e.t.tmode = false → x.e.s.switchAt b v.toNat = true →
      ((∃ y ∈ b.switches, y.1 ≠ x.e.z ∧ y.2 ≠ v) →
        exec (.suSwpt sa) s = .next (x.doneIn (x.e.s.updBlock x.e.t.blk fun b => { b with flagged := false, shrink := none, switches := [] }))) ∧
      ((∀ y ∈ b.switches, y.1 ≠ x.e.z → y.2 = v) →
        (¬ready → exec (.suSwpt sa) s = .next x.blocked) ∧
        (ready →
          ((∃ z ∈ b.teams, z ≠ x.e.z ∧ ∀ y ∈ b.switches, y.1 ≠ z) →
            exec (.suSwpt sa) s = .next (stopped.setSt x.e.z x.k .blocked)) ∧
          ((∀ z ∈ b.teams, z = x.e.z ∨ ∃ y ∈ b.switches, y.1 = z) →
            exec (.suSwpt sa) s = .next ((stopped.switchStop x.e.t.blk v.toNat).setSt x.e.z x.k .blocked)))))

/-- Control registers: su.csrr lands the register as at the word's team-cycle; su.csrw stores the bits that the map of the register has,
and a write of a register that is read-only in both modes changes nothing; a number from 0x00C on is REG_RANGE (R46 to R52, R141,
R142). -/
def Obligations.SuControlRegisters : Prop :=
  ∀ (s : State) (i : Instr) (x : Slot), s.runningSlot i = some x → x.e.queueReady i = true →
    (∀ sd csr n v, i = .suCsrr sd csr → csr = BitVec.ofNat 12 n →
      (n, v) ∈ [(0, x.e.c.fm), (1, x.e.c.cm), (2, x.e.t.domr), (3, x.e.t.dwin), (4, x.e.t.dbase), (5, x.e.t.teamid), (6, x.e.t.blkid),
        (7, x.e.t.blkpos), (8, x.e.t.trapvec), (9, x.e.t.ctxptr), (10, x.e.t.tcyc),
        (11, BitVec.ofNat 64 ((if x.e.t.tmode then 1 else 0) + (if x.e.t.nest then 2 else 0)))] →
      exec i s = .next (x.doneIn (x.lands i .su .s sd.toNat 1 (v.setWidth 128) (x.e.scalarsP i)))) ∧
    (∀ csr sa, i = .suCsrw csr sa → ∀ v : Nat, v = (x.e.su sa).toNat →
      let put (f : Team → Team) : Prop := exec i s = .next (x.doneIn (x.e.s.updTeam x.e.z f))
      (csr = 0 → put fun t => { t with fmode := orFlags (BitVec.ofNat 64 v &&& fmodeMask) t.landed }) ∧
      (csr = 1 → put fun t => { t with compat := BitVec.ofNat 64 (v % 4) }) ∧
      (csr = 3 → ∀ n, n = 8 * (v / 2 ^ 3 % 2 ^ 6) + 2 ^ 16 * (v / 2 ^ 16 % 2 ^ 7) + 2 ^ 32 * (v / 2 ^ 32 % 2 ^ 15) →
        put fun t => { t with dwin := BitVec.ofNat 64 n }) ∧
      (csr = 4 → put fun t => { t with dbase := BitVec.ofNat 64 (v / 2 ^ 6 % 2 ^ 51 * 2 ^ 6) }) ∧
      (csr = 8 → put fun t => { t with trapvec := BitVec.ofNat 64 (v / 2 % 2 ^ 56 * 2) }) ∧
      (csr = 9 → put fun t => { t with ctxptr := BitVec.ofNat 64 (v / 2 ^ 12 % 2 ^ 45 * 2 ^ 12) }) ∧
      (csr = 10 → put fun t => { t with tcyc := BitVec.ofNat 64 v }) ∧
      (csr ∈ [2, 5, 6, 7, 11] → exec i s = .next (x.doneIn x.e.s))) ∧
    (∀ e : Env, ∀ csr : BitVec 12, ∀ w, e.csrStop csr w ≠ none → csr.toNat ∈ [1, 3] ∨ 12 ≤ csr.toNat) ∧
    (∀ e : Env, ∀ csr : BitVec 12, ∀ w, 12 ≤ csr.toNat →
      e.csrStop csr w = some (.fault ⟨0x06, BitVec.ofNat 32 (6 + 16 * csr.toNat), 0, e.slot, 0, 0⟩))

/-- Traps, returns, dictionary and held records, no operation and end: what each leaves for its word's whole commit, and the prefetch
list, which su.dpf replaces at once by the indices of its range within the window that are not resident (R143 to R149). -/
def Obligations.SuSystem : Prop :=
  ∀ (s : State) (i : Instr) (x : Slot), s.runningSlot i = some x → x.e.queueReady i = true →
    (∀ sa, i = .suTrap sa → exec i s = .next (x.doneIn (x.keeps x.e.s fun k => { k with trap := some (x.e.slot, x.e.su sa) }))) ∧
    (i = .suEret → exec i s = .next (x.doneIn (x.keeps x.e.s fun k => { k with eret := true }))) ∧
    (i = .suDinv → exec i s = .next (x.doneIn (x.keeps x.e.s fun k => { k with dinv := true }))) ∧
    (∀ sa, i = .suHclr sa →
      exec i s = .next (x.doneIn (x.keeps x.e.s fun k => { k with hclr := BitVec.ofNat 5 (x.e.su sa).toNat }))) ∧
    (i = .suEnd → exec i s = .next (x.doneIn (x.keeps x.e.s fun k => { k with fin := true }))) ∧
    (∀ sa sb p, i = .suDpf sa sb → x.e.s.parts.get? (partOf x.e.z) = some p →
      let w := if x.e.t.tmode then p.sysWin else userWin x.e.t.dwin x.e.t.dbase
      let n := Nat.min (x.e.su sb).toNat (if x.e.t.tmode then 32 else 8 * dwinSize x.e.t.dwin)
      ∃ l : List Nat, exec i s = .next (x.doneIn (x.e.s.updTeam x.e.z fun t => { t with prefetch := l, prefSys := x.e.t.tmode })) ∧ l.Pairwise (· < ·) ∧
        ∀ y, y ∈ l ↔ (x.e.su sa).toNat ≤ y ∧ y < (x.e.su sa).toNat + n ∧ y < w.len ∧ p.find w x.e.t.asid y = none)

/-- su.nop takes no action, has no result and raises no fault: no check stops it, and its word's record of it is all that changes; its
encoding is opcode 0x00 with every other field zero, it may not be held, and the SU held record becomes invalid (R66, R148). -/
def Obligations.SuNop : Prop :=
  (∀ (s : State) (x : Slot), s.runningSlot .suNop = some x → exec .suNop s = .next (x.doneIn x.e.s)) ∧
    (∀ (e : Env) (o : OpSt) (b : List (RFile × Nat)), o.op.ins = .suNop → e.slotStop o b = none) ∧
    Instr.suNop.fields.pack .su = 0 ∧ (∀ b i, decodeSlot .su false b = .ok i → (i = .suNop ↔ b = 0)) ∧
    (∀ held w c k, (k, Kind.su) ∈ w.ops.map (fun x => (x.1, x.2.kind)) → (∀ x ∈ w.ops, x.2.ins = .suNop ∨ x.2.kind ≠ .su) →
      w.Encoded → (heldAfter held w c).get? 1 = none)

/-- The frame of every SU operation but su.bar and su.swpt: no state outside its team changes, and of its team only the landing buffer
(a result lands later), the word in progress and its record, the loop registers for su.loop, su.lbrk and su.lwr, the prefetch list for
su.dpf, and the written control register for su.csrw. So memory, scratchpads, accumulators, every register and flag, every stream
counter and every other team stay as they were (R29, R123 to R149). -/
def Obligations.SuFrame : Prop :=
  ∀ (s u : State) (i : Instr) (x : Slot), i.kind = some .su → (∀ lv, i ≠ .suBar lv) → (∀ sa, i ≠ .suSwpt sa) →
    s.runningSlot i = some x → exec i s = .next u →
    s.SameButTeams u ∧ s.SameOtherTeams u x.e.z ∧
    ∃ t t', s.teams.get? x.e.z = some t ∧ u.teams.get? x.e.z = some t' ∧
      { t' with land := t.land, ctx := t.ctx, keep := t.keep, loop := t.loop, prefetch := t.prefetch, prefSys := t.prefSys, fmode := t.fmode,
                compat := t.compat, dwin := t.dwin, dbase := t.dbase, trapvec := t.trapvec, ctxptr := t.ctxptr, tcyc := t.tcyc } = t ∧
      ((∀ lv sa sc, i ≠ .suLoop lv sa sc) → (∀ lv, i ≠ .suLbrk lv) → (∀ lv lr sa, i ≠ .suLwr lv lr sa) → t'.loop = t.loop) ∧
      ((∀ sa sb, i ≠ .suDpf sa sb) → t'.prefetch = t.prefetch ∧ t'.prefSys = t.prefSys) ∧
      ((∀ csr sa, i ≠ .suCsrw csr sa) → t'.fmode = t.fmode ∧ t'.compat = t.compat ∧ t'.dwin = t.dwin ∧ t'.dbase = t.dbase ∧
        t'.trapvec = t.trapvec ∧ t'.ctxptr = t.ctxptr ∧ t'.tcyc = t.tcyc)

/-- The next word after a word wholly commits: a taken target; else a loop end, level 1 before level 0, evaluated on the loop registers
as they stood at its start; else NPC; and the counts the loop end leaves, which an explicit write of the same level replaces (R125,
R131). -/
def Obligations.NextWord : Prop :=
  ∀ (s : State) (z : Nat) (t : Team) (c : Ctx) (k : Keep), s.teams.get? z = some t → t.ctx = some c → t.keep = some k →
    k.fin = false → k.eret = false → k.trap = none → k.dinv = false → t.stepping = none → t.land = [] → (s.reg (tdbgOff z)).getLsbD 1 = false →
    ∃ t', (s.commitWord z).teams.get? z = some t' ∧ t'.ctx = none ∧ t'.tc = t.tc + 1 ∧
      let r := k.snap
      let in1 : Prop := c.pc = r.le1 ∧ r.lc1 ≠ 0
      let in0 : Prop := c.pc = r.le0 ∧ r.lc0 ≠ 0
      (∀ a, k.taken = some a → t'.pc = a ∧ t'.loop = t.loop) ∧
      (k.taken = none →
        (in1 ∧ r.lc1 ≠ 1 → t'.pc = r.ls1 ∧ (k.lcw1 = false → t'.loop.lc1 = r.lc1 - 1) ∧ t'.loop.lc0 = t.loop.lc0) ∧
        (¬(in1 ∧ r.lc1 ≠ 1) → in0 ∧ r.lc0 ≠ 1 → t'.pc = r.ls0 ∧ (k.lcw0 = false → t'.loop.lc0 = r.lc0 - 1)) ∧
        (¬(in1 ∧ r.lc1 ≠ 1) → in0 ∧ r.lc0 = 1 → t'.pc = c.npc ∧ (k.lcw0 = false → t'.loop.lc0 = 0)) ∧
        (¬(in1 ∧ r.lc1 ≠ 1) → ¬in0 → t'.pc = c.npc ∧ t'.loop.lc0 = t.loop.lc0) ∧
        (in1 ∧ r.lc1 = 1 → k.lcw1 = false → t'.loop.lc1 = 0) ∧ (¬in1 → t'.loop.lc1 = t.loop.lc1) ∧
        (k.lcw1 = true → t'.loop.lc1 = t.loop.lc1) ∧ (k.lcw0 = true → t'.loop.lc0 = t.loop.lc0))

/-! ## Vector operations -/

/-- The 32-bit integer operations of VA and VB, and va.cmp64: in the clock of each pass the result of every enabled lane of it goes to
the landing of t + 2 + QX, lanes not enabled keep their values, and no flag is raised; after the last pass the operation has committed,
and with none it commits with an empty landing (R84, R151, R152, R156, R157). -/
def Obligations.VectorIntegers : Prop :=
  (∀ (s : State) (i : Instr) (x : Slot) (k : Kind) (fl : RFile) (vd : BitVec 6) (f : Nat → Lane) (p : Nat),
    s.runningSlot i = some x → IntRow x.e i k fl vd f →
      (x.inPass i p → exec i s = .next (x.afterPass i p
        (x.landsPass i k fl vd.toNat 2 false p (fun l => (f l).setWidth 128) (fun _ => 0) (x.e.lanesP i)))) ∧
      (x.noPass i → exec i s = .next (x.doneIn (x.landsNone i k fl vd.toNat 2 false)))) ∧
  (∀ (s : State) (mk : Mask) (cc : Cond) (vd : BitVec 6) (oa ob : Sel) (x : Slot) (f : Nat → Lane) (p : Nat) (i : Instr),
    i = .vaCmp64 mk cc vd oa ob → s.runningSlot i = some x → (∀ l, Rule.Truth (Rule.holds cc (x.e.pair oa l) (x.e.pair ob l)) (f l)) →
      (x.inPass i p → exec i s = .next (x.afterPass i p
        (x.landsPass i .va .va vd.toNat 2 false p (fun l => (f l).setWidth 128) (fun _ => 0) (x.e.lanesP i)))) ∧
      (x.noPass i → exec i s = .next (x.doneIn (x.landsNone i .va .va vd.toNat 2 false))))

/-- The pair operations of VA land a 64-bit value per enabled lane in both halves of a pair, in one landing at t + 2 + QX; a pair operand
is element ℓ of the even register plus 2^32 times element ℓ of the odd one, or the constant sign-extended (R86, R157). -/
def Obligations.VectorPairs : Prop :=
  (∀ (s : State) (i : Instr) (x : Slot) (vd : BitVec 6) (f : Nat → Word) (p : Nat), s.runningSlot i = some x → PairRow x.e i vd f →
    (x.inPass i p → exec i s = .next (x.afterPass i p
      (x.landsPass i .va .va vd.toNat 2 true p (fun l => (f l).setWidth 128) (fun _ => 0) (x.e.lanesP i)))) ∧
    (x.noPass i → exec i s = .next (x.doneIn (x.landsNone i .va .va vd.toNat 2 true)))) ∧
  (∀ (e : Env) (n : BitVec 6) (c : BitVec 5) (j : BitVec 2) (l : Nat),
    (e.pair (.reg n) l).toNat = (e.t.va.get (1024 * n.toNat + l)).toNat + 2 ^ 32 * (e.t.va.get (1024 * (n.toNat + 1) + l)).toNat ∧
    (e.pair (.const c) l).toInt = c.toInt ∧ e.pair .whole l = e.c.imm ∧
    (e.pair (.imm j) l).toInt = (BitVec.ofNat 15 (e.c.imm.toNat / 2 ^ (15 * j.toNat))).toInt)

/-- The FP32 operations of VA and VB land each enabled lane's result at t + 4 + QX, the special functions at t + 8 + QX, and the flags
that the enabled lanes raise land with them; va.tsq lands the scale record and the element field of its lane's block of sixteen, a lane
that is not enabled joining it as +0.0 (R113, R158 to R172; a special function's value within its bound is log entry 11). -/
def Obligations.VectorFloats : Prop :=
  (∀ (s : State) (i : Instr) (x : Slot) (k : Kind) (fl : RFile) (vd : BitVec 6) (f : Nat → Lane × FFlags) (p : Nat),
    s.runningSlot i = some x → FpRow x.e i k fl vd f →
      (x.inPass i p → exec i s = .next (x.afterPass i p
        (x.landsPass i k fl vd.toNat 4 false p (fun l => (f l).1.setWidth 128) (fun l => (f l).2) (x.e.lanesP i)))) ∧
      (x.noPass i → exec i s = .next (x.doneIn (x.landsNone i k fl vd.toNat 4 false)))) ∧
  (∀ (s : State) (i : Instr) (x : Slot) (fn : SpecFn) (vd : BitVec 6) (oa : Sel) (p : Nat), s.runningSlot i = some x →
    SpecialRow i fn vd oa →
      (x.inPass i p → exec i s = .next (x.afterPass i p
        (x.landsPass i .vb .vb vd.toNat 8 false p (fun l => (special32 fn x.e.c.fm x.e.c.cm (x.e.lane .vb oa l)).1.setWidth 128)
          (fun l => (special32 fn x.e.c.fm x.e.c.cm (x.e.lane .vb oa l)).2) (x.e.lanesP i)))) ∧
      (x.noPass i → exec i s = .next (x.doneIn (x.landsNone i .vb .vb vd.toNat 8 false)))) ∧
  (∀ (s : State) (mk : Mask) (ts : TsFmt) (rm : Rm) (vd : BitVec 6) (oa : Sel) (x : Slot) (p : Nat) (i : Instr) (blk : Nat → TsBlock),
    i = .vaTsq mk ts rm vd oa → s.runningSlot i = some x →
    (∀ b, blk b = tsEncode (TsFmt.m ts) (x.e.modes rm) ((List.range 16).map fun j =>
      if enabled x.e.t mk (16 * b + j) then fp32.read (x.e.modes rm) (x.e.lane .va oa (16 * b + j)).toNat else .fin false 0 0)) →
    (x.inPass i p → exec i s = .next (x.afterPass i p (x.landsPass i .va .va vd.toNat 4 false p
      (fun l => BitVec.ofNat 128 (tsScale (blk (l / 16)) * 2 ^ 16 + tsField (TsFmt.m ts) (blk (l / 16)) (l % 16)))
      (fun l => (blk (l / 16)).fl) (x.e.lanesP i)))) ∧
    (x.noPass i → exec i s = .next (x.doneIn (x.landsNone i .va .va vd.toNat 4 false))))

/-- The in-pass permutes, the reductions, the scans and the equal-value masks land at t + 3 + QX: each enabled lane's value is formed of
lanes of its own pass, the source lanes of a permute whether or not they are enabled (R173, R174, R175). -/
def Obligations.VectorGathers : Prop :=
  ∀ (s : State) (i : Instr) (x : Slot) (vd : BitVec 6) (f : Nat → Lane) (q : Nat → Bool) (p : Nat),
    s.runningSlot i = some x → GatherRow x.e i vd f q →
      (x.inPass i p → exec i s = .next (x.afterPass i p
        (x.landsPass i .vb .vb vd.toNat 3 false p (fun l => (f l).setWidth 128) (fun _ => 0) q))) ∧
      (x.noPass i → exec i s = .next (x.doneIn (x.landsNone i .vb .vb vd.toNat 3 false)))

/-- The transfers between files: a copy lands each enabled lane in the other file; a transfer to S takes the clocks of its passes, and in
its last one lands, at t + 2 + QX, the value of the lowest enabled lane over all passes, 0 with none, or the mask words of a ballot, bit
ℓ mod 64 of word ⌊ℓ/64⌋ being 1 for an enabled lane whose value is not 0 (R176). -/
def Obligations.VectorTransfers : Prop :=
  ∀ (s : State) (i : Instr) (x : Slot) (k : Kind) (own : RFile) (mk : Mask) (xf : XferForm) (df : RFile) (vd : BitVec 6) (oa : Sel) (p : Nat),
    ((i = .vaXfer mk xf df vd oa ∧ k = .va ∧ own = .va) ∨ (i = .vbXfer mk xf df vd oa ∧ k = .vb ∧ own = .vb)) → i.wf = true →
    s.runningSlot i = some x →
      (xf = .copy →
        (x.inPass i p → exec i s = .next (x.afterPass i p
          (x.landsPass i k df vd.toNat 2 false p (fun l => (x.e.lane own oa l).setWidth 128) (fun _ => 0) (x.e.lanesP i)))) ∧
        (x.noPass i → exec i s = .next (x.doneIn (x.landsNone i k df vd.toNat 2 false)))) ∧
      (xf ≠ .copy → x.inPass i p → x.last i p = false → exec i s = .next (x.e.s.setSt x.e.z x.k .running)) ∧
      (xf = .first → x.lastClock i → ∃ v q, x.e.FirstLane mk (fun l => (x.e.lane own oa l).setWidth 128) v ∧
        exec i s = .next (x.doneIn (x.lands i k .s vd.toNat 2 v q))) ∧
      (xf = .first64 → x.lastClock i → ∃ v, x.e.FirstLane mk (fun l => (x.e.pair oa l).setWidth 128) v ∧
        exec i s = .next (x.doneIn (x.lands i k .s vd.toNat 2 v false))) ∧
      (xf = .ballot → x.lastClock i → ∃ (w : Nat → Word) (q : Bool),
        (∀ n j, j < 64 → ((w n).getLsbD j = true ↔
          64 * n + j < 32 * 2 ^ x.e.t.wlog ∧ enabled x.e.t mk (64 * n + j) = true ∧ x.e.lane own oa (64 * n + j) ≠ 0)) ∧
        exec i s = .next (x.doneIn (x.e.s.updTeam x.e.z fun t => t.addLanding
          { due := x.e.c.t + 2 + (if i.readsQueue then 3 else 0), file := .s, reg := vd.toNat, pair := false, bal := true,
            vals := (List.range ((2 ^ x.e.t.wlog + 1) / 2)).map fun n => ⟨n, (w n).setWidth 128, q⟩, flags := 0, pend := none,
            lanes := [], key := some (landKey x.e.slot k) })))

/-- The frame of every VA and VB operation: no state outside its team changes, but for the occupied partition when a blocked operation takes
up its clocks anew, and of its team only the landing buffer and the word in progress; so until its result lands no register, mask, flag, counter or byte of memory has changed (R29, R152, R153). -/
def Obligations.VectorFrame : Prop :=
  ∀ (s u : State) (i : Instr) (x : Slot), (i.kind = some .va ∨ i.kind = some .vb) → s.runningSlot i = some x → exec i s = .next u →
    (x.o.st ≠ .blocked → s.SameButTeams u) ∧ ({ u with teams := s.teams, parts := s.parts } = s) ∧ s.SameOtherTeams u x.e.z ∧
    ∃ t t', s.teams.get? x.e.z = some t ∧ u.teams.get? x.e.z = some t' ∧ { t' with land := t.land, ctx := t.ctx } = t

/-- LANDING: a result that is due and has its data is written: an element for each lane it holds, bits 31:0 and 63:32 in the two halves of
a pair, one s register for each word of a ballot, all of a scalar register; its flags are ORed into FMODE bits 20:16; every other register
and element keeps its value, and the buffer is empty of it (R29, R30, R47, R157, R176). -/
def Obligations.LandingWrites : Prop :=
  ∀ (s : State) (z : Nat) (t : Team) (l : Landing), s.teams.get? z = some t → t.land = [l] → l.due ≤ t.tc → l.pend = none →
    SMap.wf t.s = true → SMap.wf t.a = true → SMap.wf t.va = true → SMap.wf t.vb = true → SMap.wf t.vm = true →
    (l.vals.map LaneVal.lane).Nodup → (∀ x ∈ l.vals, x.lane < 1024) →
    ∃ t' : Team, exec (.landing z) s = .next (s.updTeam z fun _ => t') ∧ t'.land = [] ∧
      (∀ j, t'.fmode.getLsbD j = (t.fmode.getLsbD j || (decide (16 ≤ j) && l.flags.getLsbD (j - 16)))) ∧
      { t' with land := t.land, fmode := t.fmode, landed := t.landed, s := t.s, a := t.a, f := t.f, va := t.va, vb := t.vb, vm := t.vm,
                sP := t.sP, aP := t.aP, fP := t.fP, vaP := t.vaP, vbP := t.vbP, vmP := t.vmP } = t ∧
      (∀ n m, m < 1024 → l.bal = false → l.pair = false →
        (∀ fl, t'.elem fl n m = match l.vals.find? fun x => x.lane == m with
          | some x => if fl.perLane = true ∧ fl = l.file ∧ n = l.reg then BitVec.ofNat 32 x.v.toNat else t.elem fl n m
          | none => t.elem fl n m) ∧
        (∀ x, l.vals = [x] → t'.s.get n = (if l.file = .s ∧ n = l.reg then BitVec.ofNat 64 x.v.toNat else t.s.get n) ∧
          t'.a.get n = (if l.file = .a ∧ n = l.reg then BitVec.ofNat 64 x.v.toNat else t.a.get n))) ∧
      (∀ n m, m < 1024 → l.bal = false → l.pair = true →
        t'.elem .vb n m = t.elem .vb n m ∧ t'.elem .vm n m = t.elem .vm n m ∧ t'.s = t.s ∧ t'.a = t.a ∧
        t'.elem .va n m = match l.vals.find? fun x => x.lane == m with
          | some x => if n = l.reg then BitVec.ofNat 32 x.v.toNat
              else if n = l.reg + 1 then BitVec.ofNat 32 (x.v.toNat / 2 ^ 32) else t.elem .va n m
          | none => t.elem .va n m) ∧
      (l.bal = true → t'.va = t.va ∧ t'.vb = t.vb ∧ t'.vm = t.vm ∧ t'.a = t.a ∧
        ∀ n, t'.s.get n = match l.vals.find? fun x => l.reg + x.lane == n with
          | some x => BitVec.ofNat 64 x.v.toNat
          | none => t.s.get n)

/-! ## Floating point -/

/-- RoundTo(fmt, mode, x) of a nonzero x = ±m·2^e: with q = max(⌊log2|x|⌋, emin) − p + 1, a tiny x under output flush is a zero of its
sign with UF and NX; a y = RoundInt(x / 2^q)·2^q above MaxFin gives Overflow with OV and NX; else the result decodes to y, with NX, and
UF when x is tiny, only if y ≠ x; tininess is seen before rounding at COMPAT level 0 and after it at level 1 (R107, R108, R120). -/
def Obligations.RoundToRule : Prop :=
  ∀ (f : Fmt) (md : Modes) (s : Bool) (m : Nat) (e : Int), f ∈ [fp32, fp16, bf16] → m ≠ 0 →
    let lg : Int := (m.log2 : Int) + e
    let emin : Int := 1 - (f.bias : Int)
    let q : Int := max lg emin - (f.p : Int) + 1
    let n := roundInt md.rnd s m (e - q)
    let q1 : Int := lg - (f.p : Int) + 1
    let tiny : Bool := if md.level1 then dyLt (roundInt md.rnd s m (e - q1)) q1 1 emin else decide (lg < emin)
    let big : Bool := dyLt (2 ^ f.p - 1) ((f.bias : Int) - (f.p : Int) + 1) n q
    (tiny = true → f.flushOut md = true → roundTo f md s m e = (if s then 2 ^ (f.p - 1 + f.eb) else 0, 24)) ∧
    ((tiny = false ∨ f.flushOut md = false) →
      (big = true → roundTo f md s m e = (overflow f md.rnd s, 20)) ∧
      (big = false → ∃ m' e', f.dec (roundTo f md s m e).1 = .fin s m' e' ∧ dyEq m' e' n q = true ∧
        (roundTo f md s m e).2 = if dyEq n q m e then 0 else if tiny then 24 else 16))

/-- Comparisons, classes and selections, by the order of the values after input flush: va.fcmp is the condition's truth value, with NV
for a signalling NaN, and for any NaN under lt, le, gt and ge; va.fmin and va.fmax give the smaller and the larger, −0 below +0 at COMPAT
level 0 and a at level 1, and the number of a number and a NaN; va.fcls sets exactly the bit of the pattern's class (R160, R161). -/
def Obligations.FloatComparisons : Prop :=
  ∀ (md : Modes) (a b : Lane),
    let read (x : Lane) : Lane := if md.if32 = true ∧ x.toNat % 2 ^ 31 < 2 ^ 23 then x &&& 0x80000000#32 else x
    let nan (x : Lane) : Prop := 2 ^ 31 - 2 ^ 23 < x.toNat % 2 ^ 31
    let sig (x : Lane) : Prop := nan x ∧ x.getLsbD 22 = false
    let key (x : Lane) : Int := if x.getLsbD 31 then -(((read x).toNat % 2 ^ 31 : Nat) : Int) else (((read x).toNat % 2 ^ 31 : Nat) : Int)
    let num : Prop := ¬nan a ∧ ¬nan b
    let is (c : FCond) (p : Prop) : Prop := Rule.Truth p (fcmp32 md c a b).1
    (is .eq (num ∧ key a = key b) ∧ is .ne (¬(num ∧ key a = key b)) ∧ is .lt (num ∧ key a < key b) ∧ is .le (num ∧ key a ≤ key b) ∧
      is .gt (num ∧ key b < key a) ∧ is .ge (num ∧ key b ≤ key a) ∧ is .un (¬num) ∧ is .ord num) ∧
    (∀ c, (((sig a ∨ sig b) ∨ (c ∈ [FCond.lt, .le, .gt, .ge] ∧ ¬num)) → (fcmp32 md c a b).2 = 1) ∧
      (¬((sig a ∨ sig b) ∨ (c ∈ [FCond.lt, .le, .gt, .ge] ∧ ¬num)) → (fcmp32 md c a b).2 = 0)) ∧
    (∀ mx, ((sig a ∨ sig b) → (fminmax32 md mx a b).2 = 1) ∧ (¬(sig a ∨ sig b) → (fminmax32 md mx a b).2 = 0) ∧
      (num → key a < key b → (fminmax32 md mx a b).1 = read (if mx then b else a)) ∧
      (num → key b < key a → (fminmax32 md mx a b).1 = read (if mx then a else b)) ∧
      (num → key a = key b → (a.getLsbD 31 = b.getLsbD 31 ∨ md.level1 = true) → (fminmax32 md mx a b).1 = read a) ∧
      (num → key a = key b → a.getLsbD 31 ≠ b.getLsbD 31 → md.level1 = false →
        (fminmax32 md mx a b).1 = if mx then 0 else 0x80000000) ∧
      (nan a → ¬nan b → (fminmax32 md mx a b).1 = read b) ∧ (¬nan a → nan b → (fminmax32 md mx a b).1 = read a) ∧
      (nan a → nan b → (fminmax32 md mx a b).1 = if md.level1 then 0x7FC00000 else a ||| 0x00400000)) ∧
    (∀ v lo hi, (v, lo, hi) ∈ [(0x001, 0xFF800000, 0xFF800000), (0x002, 0x80800000, 0xFF7FFFFF), (0x004, 0x80000001, 0x807FFFFF),
        (0x008, 0x80000000, 0x80000000), (0x010, 0x00000000, 0x00000000), (0x020, 0x00000001, 0x007FFFFF),
        (0x040, 0x00800000, 0x7F7FFFFF), (0x080, 0x7F800000, 0x7F800000), (0x100, 0x7F800001, 0x7FBFFFFF), (0x100, 0xFF800001, 0xFFBFFFFF),
        (0x200, 0x7FC00000, 0x7FFFFFFF), (0x200, 0xFFC00000, 0xFFFFFFFF)] → lo ≤ a.toNat → a.toNat ≤ hi → fcls32 a = BitVec.ofNat 32 v)

/-- Conversions between FP32 and integers: RoundInt of the value read, saturated to the target's range with NV when it falls outside, NX
when only rounding changed it; a NaN gives 0, the greatest value at COMPAT level 1, with NV; an integer that FP32 holds is exact, and
becomes the bit pattern of its value with no flag (R114, R120, R162). -/
def Obligations.FloatConversions : Prop :=
  (∀ (md : Modes) (a : Lane) (c : Cvt) (lo hi : Int),
    (c, lo, hi) ∈ [(Cvt.f32ToInt32, -2147483648, 2147483647), (.f32ToUint32, 0, 4294967295), (.f32ToInt8, -128, 127),
      (.f32ToUint8, 0, 255)] →
    (∀ s m e, fp32.read md a.toNat = .fin s m e →
      let v : Int := if s then -(roundInt md.rnd s m e : Int) else (roundInt md.rnd s m e : Int)
      (v < lo → cvt32 c md a = (BitVec.ofInt 32 lo, 1)) ∧ (hi < v → cvt32 c md a = (BitVec.ofInt 32 hi, 1)) ∧
      (lo ≤ v → v ≤ hi → cvt32 c md a = (BitVec.ofInt 32 v, if dyEq (roundInt md.rnd s m e) 0 m e then 0 else 16))) ∧
    (∀ s, fp32.read md a.toNat = .inf s → cvt32 c md a = (BitVec.ofInt 32 (if s then lo else hi), 1)) ∧
    (∀ s q y, fp32.read md a.toNat = .nan s q y → cvt32 c md a = (if md.level1 then BitVec.ofInt 32 hi else 0, 1))) ∧
  (∀ (md : Modes) (a : Lane) (c : Cvt) (v : Int),
    (c, v) ∈ [(Cvt.int32ToF32, a.toInt), (.uint32ToF32, (a.toNat : Int)), (.int8ToF32, (BitVec.ofNat 8 a.toNat).toInt),
      (.uint8ToF32, ((a.toNat % 2 ^ 8 : Nat) : Int))] → v.natAbs ≤ 2 ^ 24 →
    (cvt32 c md a).2 = 0 ∧ (v = 0 → (cvt32 c md a).1 = 0) ∧
    (v ≠ 0 → ∃ m e, fp32.dec (cvt32 c md a).1.toNat = .fin (decide (v < 0)) m e ∧ dyEq m e v.natAbs 0 = true))

/-! ## Memory operations -/

/-- Addresses: contiguous a AB + OA + 4ℓ, indexed a AB + SignExt(X, 32), scalar a AB + OA, all modulo 2^64, and mu.ldr's core bits
exchanged; a block address is checked for alignment, then against 8,192·N_T, and names a byte of the block's allotment; a bench address
must have bits 63:22 zero and name a tile allotted to a block of the team's address space; a global one bits 63:57 zero (R179, R180,
R182, R188). -/
def Obligations.AddressForms : Prop :=
  ∀ (e : Env) (ab : BitVec 5) (n : BitVec 6) (j : BitVec 2) (c : BitVec 5) (l size : Nat) (a : Word) (acc : AccKind) (b : Lane),
    e.laneAddr ab (.reg n) l = Rule.add (e.t.a.get ab.toNat) (BitVec.ofInt 64 (e.t.vm.get (1024 * n.toNat + l)).toInt) ∧
    e.indexAddr ab (.reg n) l = Rule.add (e.t.a.get ab.toNat) (BitVec.ofInt 64 (e.t.vm.get (1024 * n.toNat + l)).toInt) ∧
    (∀ x : Sel, x ∈ [.imm j, .whole, .const c] →
      e.laneAddr ab x l = Rule.add (e.t.a.get ab.toNat) (Rule.add (e.scalar .vm x) (BitVec.ofNat 64 (4 * l))) ∧
      e.scalarAddr ab x = Rule.add (e.t.a.get ab.toNat) (e.scalar .a x)) ∧
    e.scalarAddr ab (.reg n) = Rule.add (e.t.a.get ab.toNat) (e.t.a.get n.toNat) ∧
    (benchXor a b).toNat = a.toNat - a.toNat / 2 ^ 19 % 8 * 2 ^ 19 + (a.toNat / 2 ^ 19 % 8 ^^^ b.toNat % 8) * 2 ^ 19 ∧
    (∀ sp, a.toNat % size ≠ 0 → e.place sp acc size a = .bad 0x07 0) ∧
    (a.toNat % size = 0 →
      (8192 * e.b.nt < a.toNat + size → e.place .block acc size a = .bad 0x0A 0) ∧
      (a.toNat + size ≤ 8192 * e.b.nt →
        e.place .block acc size a = .ok (.spad (2 ^ 19 * e.b.core + 8192 * e.b.tile0 + a.toNat)) none) ∧
      (2 ^ 22 ≤ a.toNat → e.place .bench acc size a = .bad 0x0A 0) ∧
      (a.toNat < 2 ^ 22 → ∀ core tile, core = coreOf e.z / 8 * 8 + a.toNat / 2 ^ 19 → tile = a.toNat % 2 ^ 19 / 8192 →
        ((∃ k y, (k, y) ∈ e.s.blocks ∧ y.core = core ∧ y.tile0 ≤ tile ∧ tile < y.tile0 + y.nt ∧ y.asid = e.t.asid ∧ y.settled = false) →
          e.place .bench acc size a = .ok (.spad (2 ^ 19 * core + a.toNat % 2 ^ 19)) none) ∧
        ((∀ k y, (k, y) ∈ e.s.blocks → ¬(y.core = core ∧ y.tile0 ≤ tile ∧ tile < y.tile0 + y.nt ∧ y.asid = e.t.asid ∧ y.settled = false)) →
          e.place .bench acc size a = .bad 0x09 4)) ∧
      (2 ^ 57 ≤ a.toNat → e.place .global acc size a = .bad 0x09 1))

/-- Scratchpad loads: once the predecessors are performed and the tiles are ready, each pass reads the words of its enabled lanes in its
clock and lands them, with their poison, at t + 6 + QX; mu.ldsa lands 64 bits; after its last pass the operation is issued and complete;
no memory, scratchpad, register, tile or queue changes (R42, R43, R183, R186, R187; with no watchpoint armed, R376). mu.lds, mu.gths and
mu.ldsa each complete in every state in which their turn has come and they are ready. -/
def Obligations.MuScratchpadLoads : Prop :=
  (∀ (s : State) (x : Slot) (i : Instr) (mk : Mask) (df : RFile) (md : BitVec 6) (ab : BitVec 5) (oa ob : Sel) (st : Strm),
    i = .muLds mk df md ab oa st ∨ i = .muGths mk df md ab ob st ∨ i = .muLdsa md ab oa st → s.runningSlot i = some x →
    x.mayCommit i (x.e.spadReady i) → x.Completes i s) ∧
  (∀ (s : State) (i : Instr) (x : Slot) (mk : Mask) (df : RFile) (md : BitVec 6) (ab : BitVec 5) (ox : Sel) (st : Strm) (p : Nat),
    i = .muLds mk df md ab ox st ∨ i = .muGths mk df md ab ox st → i.wf = true → s.runningSlot i = some x →
    s.Unwatched (coreOf x.e.z) → x.inPass i p → (x.o.st = .pending → x.e.spadReady i = true) →
    ∃ u t', exec i s = .next u ∧ s.SlotFrame u x.e.z [] ∧ u.spad = s.spad ∧ u.spadP = s.spadP ∧
      u.teams.get? x.e.z = some t' ∧ x.e.t.SlotFrame t' ∧
      t'.stands x.k (if x.last i p then .done else .running) ∧
      t'.land = (x.e.t.addLanding
        { due := x.e.c.t + 6 + (if i.readsQueue then 3 else 0), file := df, reg := md.toNat, pair := false, bal := false,
          vals := (x.e.passKeys i p).map fun y =>
            ⟨y.1, BitVec.ofNat 128 (Rule.bytes s.spad.get y.2 4), s.spadPoisoned y.2 4⟩,
          flags := 0, pend := none, lanes := [], key := some (landKey x.e.slot .mu) }).land) ∧
  (∀ (s : State) (i : Instr) (x : Slot) (md : BitVec 6) (ab : BitVec 5) (oa : Sel) (st : Strm) (k : Nat),
    i = .muLdsa md ab oa st → s.runningSlot i = some x → s.Unwatched (coreOf x.e.z) → x.e.queueReady i = true →
    x.e.spadReady i = true → x.e.spadAt i 0 = some k →
    ∃ u t', exec i s = .next u ∧ s.SlotFrame u x.e.z [] ∧ u.spad = s.spad ∧ u.spadP = s.spadP ∧
      u.teams.get? x.e.z = some t' ∧ x.e.t.SlotFrame t' ∧ t'.stands x.k .done ∧
      t'.land = (x.e.t.addLanding
        { due := x.e.c.t + 6 + (if i.readsQueue then 3 else 0), file := .a, reg := md.toNat, pair := false, bal := false,
          vals := [⟨0, BitVec.ofNat 128 (Rule.bytes s.spad.get k 8), s.spadPoisoned k 8⟩],
          flags := 0, pend := none, lanes := [], key := some (landKey x.e.slot .mu) }).land)

/-- Scratchpad stores: the words of a pass's enabled lanes are written in its clock in ascending lane order, the last writer of a byte
standing, and mu.stsa writes 64 bits of a MD; every byte outside the words stored, all of memory, every register, tile and queue stays as
it was (R43, R183, R187; with no watchpoint armed, R376). mu.sts, mu.scts and mu.stsa each complete in every state in which their turn has
come and they are ready. -/
def Obligations.MuScratchpadStores : Prop :=
  (∀ (s : State) (x : Slot) (i : Instr) (mk : Mask) (md : BitVec 6) (ab : BitVec 5) (oa ob : Sel) (st : Strm),
    i = .muSts mk ab oa ob st ∨ i = .muScts mk ab oa ob st ∨ i = .muStsa md ab oa st → s.runningSlot i = some x →
    x.mayCommit i (x.e.spadReady i) → x.Completes i s) ∧
  (∀ (s : State) (i : Instr) (x : Slot) (mk : Mask) (ab : BitVec 5) (oa ob data : Sel) (st : Strm) (p : Nat),
    (i = .muSts mk ab oa ob st ∧ data = ob) ∨ (i = .muScts mk ab oa ob st ∧ data = oa) → s.runningSlot i = some x →
    s.Unwatched (coreOf x.e.z) → Memory.wf s.spad = true → x.inPass i p → (x.o.st = .pending → x.e.spadReady i = true) →
    ∃ u t', exec i s = .next u ∧ s.SlotFrame u x.e.z [] ∧ u.teams.get? x.e.z = some t' ∧ x.e.t.SlotFrame t' ∧ t'.land = x.e.t.land ∧
      t'.stands x.k (if x.last i p then .done else .running) ∧ Memory.wf u.spad = true ∧
      (∀ a, u.spad.get a = (x.e.passKeys i p).foldl (fun f y => Rule.put f y.2 4 (x.e.lane .vm data y.1).toNat) s.spad.get a) ∧
      (∀ a, (∀ y ∈ x.e.passKeys i p, a < y.2 ∨ y.2 + 4 ≤ a) → u.spad.get a = s.spad.get a)) ∧
  (∀ (s : State) (i : Instr) (x : Slot) (md : BitVec 6) (ab : BitVec 5) (oa : Sel) (st : Strm) (k : Nat),
    i = .muStsa md ab oa st → s.runningSlot i = some x → s.Unwatched (coreOf x.e.z) → Memory.wf s.spad = true →
    x.e.queueReady i = true → x.e.spadReady i = true → x.e.spadAt i 0 = some k →
    ∃ u t', exec i s = .next u ∧ s.SlotFrame u x.e.z [] ∧ u.teams.get? x.e.z = some t' ∧ x.e.t.SlotFrame t' ∧ t'.land = x.e.t.land ∧
      t'.stands x.k .done ∧ Memory.wf u.spad = true ∧
      ∀ a, u.spad.get a = Rule.put s.spad.get k 8 (x.e.t.a.get md.toNat).toNat a)

/-- Scratchpad atomics: the lanes of a pass are applied in ascending order, each reading what the one before it left; each writes the new
value of its function and lands the old word in vm MD at t + 6 + QX; every byte outside the words named stays as it was (R190, R191,
R192; with no watchpoint armed, R376; a captured replay adds to its signature register, R396). mu.atms completes in every state in which
its turn has come and it is ready. -/
def Obligations.MuScratchpadAtomics : Prop :=
  (∀ (s : State) (x : Slot) (i : Instr) (mk : Mask) (af : AtomFn) (md : BitVec 6) (ab : BitVec 5) (oa ob : Sel) (st : Strm),
    i = .muAtms mk af md ab oa ob st → s.runningSlot i = some x → x.mayCommit i (x.e.spadReady i) → x.Completes i s) ∧
  ∀ (s : State) (i : Instr) (x : Slot) (mk : Mask) (af : AtomFn) (md : BitVec 6) (ab : BitVec 5) (oa ob : Sel) (st : Strm) (p : Nat)
    (r : (Nat → Byte) × List (Nat × Nat)),
    i = .muAtms mk af md ab oa ob st → s.runningSlot i = some x → s.Unwatched (coreOf x.e.z) → Memory.wf s.spad = true →
    x.inPass i p → (x.o.st = .pending → x.e.spadReady i = true) →
    r = (x.e.passKeys i p).foldl (fun r y =>
      (Rule.put r.1 y.2 4 (Rule.atom af (BitVec.ofNat 32 (Rule.bytes r.1 y.2 4)) (x.e.lane .vm ob y.1)
        (x.e.t.vm.get (1024 * md.toNat + y.1))).toNat, r.2 ++ [(y.1, Rule.bytes r.1 y.2 4)])) (s.spad.get, []) →
    ∃ u t' vals, exec i s = .next u ∧ s.SlotFrame u x.e.z [rplBase + 0x28] ∧ u.teams.get? x.e.z = some t' ∧ x.e.t.SlotFrame t' ∧
      t'.stands x.k (if x.last i p then .done else .running) ∧ Memory.wf u.spad = true ∧
      (∀ a, u.spad.get a = r.1 a) ∧ (∀ a, (∀ y ∈ x.e.passKeys i p, a < y.2 ∨ y.2 + 4 ≤ a) → u.spad.get a = s.spad.get a) ∧
      vals.map (fun v : LaneVal => (v.lane, v.v.toNat)) = r.2 ∧
      t'.land = (x.e.t.addLanding
        { due := x.e.c.t + 6 + (if i.readsQueue then 3 else 0), file := .vm, reg := md.toNat, pair := false, bal := false, vals := vals,
          flags := 0, pend := none, lanes := [], key := some (landKey x.e.slot .mu) }).land

/-- Global and bench-remote operations issue at once: each pass hands the accesses of its enabled lanes to the memory system, with data
and compare value, and a load's or an atomic's landing at t + 24 + QX waits for the reply; after its last pass the operation is issued;
with no lane enabled it completes at issue; nothing else changes until the accesses are performed (R183, R185, R188, R189, R190). The ten
forms each complete their issue in every state in which their turn has come and their queue bytes are ready. -/
def Obligations.MuFarOperations : Prop :=
  (∀ (s : State) (x : Slot) (i : Instr) (mk : Mask) (af : AtomFn) (fl : RFile) (md : BitVec 6) (ab : BitVec 5) (oa ob : Sel) (st : Strm),
    i = .muLdg mk fl md ab oa st ∨ i = .muGthg mk fl md ab ob st ∨ i = .muLdga md ab oa st ∨ i = .muStg mk ab oa ob st ∨
      i = .muSctg mk ab oa ob st ∨ i = .muStga md ab oa st ∨ i = .muAtmg mk af md ab oa ob st ∨ i = .muLdr mk fl md ab oa ob st ∨
      i = .muStr mk ab oa ob st ∨ i = .muAtmr mk af md ab oa ob st → s.runningSlot i = some x →
    x.mayCommit i true → x.Completes i s) ∧
  ∀ (s : State) (i : Instr) (x : Slot) (p : Nat) (fl : RFile) (md : BitVec 6) (data : Sel) (mk : Mask) (st : Strm),
    s.runningSlot i = some x → i.wf = true →
    let id := x.e.opId i
    let acc (f : Nat → Word) (q : Nat → Bool) (c : Nat → Lane) (l : Nat) : Option Access := x.e.access i l 4 (f l) (q l) (c l)
    let wait (l : List Access) : Landing :=
      { due := x.e.c.t + 24 + (if i.readsQueue then 3 else 0), file := fl, reg := md.toNat, pair := false, bal := false,
        vals := [], flags := 0, pend := some id, lanes := l.map Access.lane, key := some (landKey x.e.slot .mu) }
    let hand (l : List Access) (t : Team) : Team := t.updOp id fun o => { o with accs := o.accs ++ l, sentAt := x.e.s.clock }
    let lane (f : Nat → Word) (q : Nat → Bool) (c : Nat → Lane) : List Access := (lanesIn x.e.t i.maskOf p).filterMap (acc f q c)
    let clock (f : Team → Team) : Prop :=
      (x.inPass i p → x.last i p = false → exec i s = .next ((x.e.s.updTeam x.e.z f).setSt x.e.z x.k .running)) ∧
      (x.inPass i p → x.last i p = true →
        exec i s = .next (x.doneIn (x.e.s.updTeam x.e.z fun t => (f t).orderAfter id)))
    ((∃ ab oa ob, i = .muLdg mk fl md ab oa st ∨ i = .muGthg mk fl md ab ob st ∨ i = .muLdr mk fl md ab oa ob st) →
      clock fun t => (hand (lane (fun _ => 0) (fun _ => false) fun _ => 0) t).addLanding (wait (lane (fun _ => 0) (fun _ => false) fun _ => 0))) ∧
    ((∃ ab oa ob, (i = .muStg mk ab oa ob st ∧ data = ob) ∨ (i = .muSctg mk ab oa ob st ∧ data = oa) ∨
        (i = .muStr mk ab oa ob st ∧ data = ob)) →
      clock fun t => hand (lane (fun l => (x.e.lane .vm data l).setWidth 64) (x.e.laneP data) fun _ => 0) t) ∧
    ((∃ ab oa af, fl = .vm ∧ (i = .muAtmg mk af md ab oa data st ∨ i = .muAtmr mk af md ab oa data st)) →
      let l := lane (fun l => (x.e.lane .vm data l).setWidth 64) (x.e.laneP data) fun l => x.e.t.vm.get (1024 * md.toNat + l)
      clock fun t => (hand l t).addLanding (wait l)) ∧
    ((∃ ab oa, i = .muLdga md ab oa st ∧ fl = .a) → x.e.queueReady i = true → ∀ a, x.e.access i 0 8 0 false 0 = some a →
      exec i s = .next (x.doneIn (x.e.s.updTeam x.e.z fun t => ((hand [a] t).addLanding (wait [a])).orderAfter id))) ∧
    ((∃ ab oa, i = .muStga md ab oa st) → x.e.queueReady i = true →
      ∀ a, x.e.access i 0 8 (x.e.t.a.get md.toNat) false 0 = some a →
      exec i s = .next (x.doneIn (x.e.s.updTeam x.e.z fun t => (hand [a] t).orderAfter id))) ∧
    (∀ ab oa va, i = .muPfg ab oa st → va = (x.e.scalarAddr ab oa).toNat → x.e.queueReady i = true →
      let issued (u : State) : State := x.doneIn (u.updTeam x.e.z fun t => t.orderAfter id)
      let dropped : Prop := 3072 ≤ x.e.s.missUsed (coreOf x.e.z) ∨ 2 ^ 57 ≤ va ∨ (x.e.s.remoteNode x.e.t va).isSome = true
      (dropped → exec i s = .next (issued x.e.s)) ∧
      (¬dropped → (∀ er, x.e.s.translate (coreOf x.e.z) x.e.t.asid x.e.t.root va .read = .error er →
          exec i s = .next (issued x.e.s)) ∧
        (∀ w pa, x.e.s.translate (coreOf x.e.z) x.e.t.asid x.e.t.root va .read = .ok (w, pa) →
          let u := x.e.s.useXlat (coreOf x.e.z) w
          exec i s = .next (issued (if w.e.nc = true ∨ isHbm pa = false then u
            else (if u.l1Hit (coreOf x.e.z) pa then u
              else (u.refetch (coreOf x.e.z) pa 1 w.e.attr).l2Range (coreOf x.e.z) pa 1 w.e.attr false).l1Fill (coreOf x.e.z) pa)))))

/-- Address registers and transfers: a AB + OA modulo 2^64 and OA land in a MD at t + 1, a OA in s MD at t + 2, and each enabled lane of
a vm register in its file at t + 2, all + QX (R193). -/
def Obligations.MuRegisters : Prop :=
  ∀ (s : State) (i : Instr) (x : Slot), s.runningSlot i = some x →
    (x.e.queueReady i = true →
      (∀ md ab oa, i = .muAdda md ab oa → exec i s = .next (x.doneIn
        (x.lands i .mu .a md.toNat 1 ((Rule.add (x.e.t.a.get ab.toNat) (x.e.scalar .a oa)).setWidth 128) (x.e.scalarsP i)))) ∧
      (∀ md oa, i = .muMova md oa →
        exec i s = .next (x.doneIn (x.lands i .mu .a md.toNat 1 ((x.e.scalar .a oa).setWidth 128) (x.e.scalarsP i)))) ∧
      (∀ md oa, i = .muXfer md oa →
        exec i s = .next (x.doneIn (x.lands i .mu .s md.toNat 2 ((x.e.scalar .a oa).setWidth 128) (x.e.scalarsP i))))) ∧
    (∀ mk df md oa p, i = .muXferPerLane mk df md oa → i.wf = true →
      (x.inPass i p → exec i s = .next (x.afterPass i p
        (x.landsPass i .mu df md.toNat 2 false p (fun l => (x.e.lane .vm oa l).setWidth 128) (fun _ => 0) (x.e.lanesP i)))) ∧
      (x.noPass i → exec i s = .next (x.doneIn (x.landsNone i .mu df md.toNat 2 false))))

/-- Queue handles: mu.qbind takes the value of a MD with VALID 1 and bits 63:54 cleared, and unbinds for bit 53 = 0; mu.qwait commits when
F ≥ n, or 2^NLOG − F ≥ n, of the handle as it stood when the clock began, and else blocks; mu.qadv, once the earlier operations that write, or whose engine reads, the scratchpad are
complete, adds n to HEAD or TAIL modulo 2^(NLOG + 1), and raises QUEUE_HANDLE uncommitted when F would leave 0 to 2^NLOG (R34, R37, R194,
R195, R196). -/
def Obligations.MuQueueHandles : Prop :=
  ∀ (s : State) (i : Instr) (x : Slot), s.runningSlot i = some x → x.e.queueReady i = true →
    (∀ qh md v, i = .muQbind qh md → v = x.e.t.a.get md.toNat →
      exec i s = .next (x.doneIn (x.e.s.updBlock x.e.t.blk fun b => { b with
        q := b.q.set qh.toNat (if v.toNat / 2 ^ 53 % 2 = 1 then BitVec.ofNat 64 (v.toNat % 2 ^ 54) else 0), qP := b.qP.set qh.toNat 0 }))) ∧
    (∀ qs qh oa (q nlog head tail fill n : Nat), i = .muQwait qs qh oa ∨ i = .muQadv qs qh oa →
      q = ((if i = .muQwait qs qh oa then x.e.b.q0 else x.e.b.q).get qh.toNat).toNat → nlog = q / 2 ^ 23 % 2 ^ 4 → head = q / 2 ^ 27 % 2 ^ 13 → tail = q / 2 ^ 40 % 2 ^ 13 →
      fill = (tail + 2 ^ (nlog + 1) - head) % 2 ^ (nlog + 1) → n = (x.e.scalar .a oa).toNat →
      (i = .muQwait .c qh oa → (n ≤ fill → exec i s = .next (x.doneIn x.e.s)) ∧ (fill < n → exec i s = .next x.blocked)) ∧
      (i = .muQwait .p qh oa →
        (n ≤ 2 ^ nlog - fill → exec i s = .next (x.doneIn x.e.s)) ∧ (2 ^ nlog - fill < n → exec i s = .next x.blocked)) ∧
      (i = .muQadv qs qh oa →
        (x.e.advReady x.k qs = false → exec i s = .next x.blocked) ∧
        (x.e.advReady x.k qs = true →
          (qs = .c → n ≤ fill → exec i s = .next (x.doneIn (x.e.s.updBlock x.e.t.blk fun b => { b with
            q := b.q.set qh.toNat (BitVec.ofNat 64 (q - head * 2 ^ 27 + (head + n) % 2 ^ (nlog + 1) % 2 ^ 13 * 2 ^ 27)) }))) ∧
          (qs = .p → fill + n ≤ 2 ^ nlog → exec i s = .next (x.doneIn (x.e.s.updBlock x.e.t.blk fun b => { b with
            q := b.q.set qh.toNat (BitVec.ofNat 64 (q - tail * 2 ^ 40 + (tail + n) % 2 ^ (nlog + 1) % 2 ^ 13 * 2 ^ 40)) }))) ∧
          ((qs = .c → fill < n) → (qs = .p → 2 ^ nlog < fill + n) →
            exec i s = .next (x.e.s.takeTrap x.e.z ⟨0x0F, BitVec.ofNat 32 (qh.toNat + 56), 0, x.e.slot, 0, 0⟩)))))

/-- Tile state: mu.tfull sets FULL, mu.tgate GATE, mu.tclr clears CHUNK and FULL, each blocking while BUSYW = 1 and leaving the word's
other bits, but for the chunks completed in the same clock; BUSYW, what mu.cwait tests and what mu.tstat lands are those of the clock's
start (R44); mu.cwait commits for an empty mask, FULL, or every chunk of the mask, and else blocks; mu.tstat lands the state word and the
physical tile at t + 1 (R41, R43, R197). -/
def Obligations.MuTileState : Prop :=
  ∀ (s : State) (i : Instr) (x : Slot) (oa : Sel) (n : Nat) (w now : BitVec 32) (c : BitVec 16), s.runningSlot i = some x →
    x.e.queueReady i = true → n = (x.e.scalar .a oa).toNat → w = x.e.b.tiles0.get n → now = x.e.b.tiles.get n → c = x.e.b.chunkNow.get n →
    (i = .muTfull oa ∨ (∃ g, i = .muTgate g oa) ∨ i = .muTclr oa →
      (w.getLsbD 18 = true → exec i s = .next x.blocked) ∧
      (w.getLsbD 18 = false → ∃ v : BitVec 32,
        exec i s = .next (x.doneIn (x.e.s.updBlock x.e.t.blk fun b => { b with tiles := b.tiles.set n v })) ∧
        ∀ j, j < 22 → v.getLsbD j =
          (if i = .muTfull oa ∧ j = 16 then true
           else if i = .muTclr oa ∧ j < 16 then c.getLsbD j
           else if i = .muTclr oa ∧ j = 16 then decide (c = 0xFFFF)
           else if i = .muTgate true oa ∧ j = 17 then true
           else if i = .muTgate false oa ∧ j = 17 then false else now.getLsbD j))) ∧
    (∀ ob, i = .muCwait oa ob →
      let ready : Prop := w.getLsbD 16 = true ∨ ∀ j, j < 16 → (x.e.scalar .a ob).getLsbD j = true → w.getLsbD j = true
      (ready → exec i s = .next (x.doneIn x.e.s)) ∧ (¬ready → exec i s = .next x.blocked)) ∧
    (∀ md, i = .muTstat md oa → exec i s = .next (x.doneIn (x.lands i .mu .a md.toNat 1
      (BitVec.ofNat 128 (w.toNat + 2 ^ 32 * ((x.e.b.tile0 + n) % 64))) false)))

/-- Copy programs, copies, messages and tasks: mu.cprog reads 128 bytes into its program register; mu.copy starts a copy on captured
operands and on the program its word's checks captured, and is abandoned for a poisoned program or tile (R321); mu.msend reads its payload and the message is on its way; mu.mpost clears its chunk and enters its receive once its
predecessors are performed; mu.mprobe lands the counts of the overflow queue; mu.cpost reads its record; mu.tget asks for a task, and the
team has none active until the reply (R198, R200, R201, R205, R206, R208, R209, R210; with no watchpoint armed, R376). -/
def Obligations.MuUnits : Prop :=
  ∀ (s : State) (i : Instr) (x : Slot), s.runningSlot i = some x → x.e.queueReady i = true → s.Unwatched (coreOf x.e.z) →
    let id := x.e.opId i
    (∀ cp ab oa st a k, i = .muCprog cp ab oa st → a = (x.e.scalarAddr ab oa).toNat →
      k = 2 ^ 19 * x.e.b.core + 8192 * x.e.b.tile0 + a → x.e.predsReady i = true → x.e.b.readReady a 128 = true →
      x.e.t.locFree id (.spad k) 128 = true →
      ∃ u t', exec i s = .next u ∧ s.SlotFrame { u with blocks := s.blocks } x.e.z [] ∧ u.spad = s.spad ∧ u.teams.get? x.e.z = some t' ∧
        x.e.t.SlotFrame t' ∧ t'.stands x.k .done ∧ t'.land = x.e.t.land ∧
        u.blocks = s.blocks.upd x.e.t.blk fun b => { b with
          cp := b.cp.set cp.toNat (BitVec.ofNat 1024 (Rule.bytes s.spad.get k 128)),
          cpP := b.cpP.set cp.toNat (if s.spadPoisoned k 128 then 1 else 0) }) ∧
    (∀ cp oa ob st prog lines, i = .muCopy cp oa ob st → prog = cpProg x.e.c.cpv (x.e.scalar .a oa) (x.e.scalar .a ob) →
      lines = (x.e.s.updTeam x.e.z fun t => t.orderAfter id).nameLines (coreOf x.e.z) x.e.t prog →
      ((x.e.s.copies.filter fun c => coreOf c.z == coreOf x.e.z).length < 16 → x.e.b.copyReady prog = true →
        let late : Bool := (prog.srcTiles ++ prog.dstTiles).any fun n => x.e.b.tileP.get n != 0
        (x.e.c.cpvP = false → late = false → exec i s = .next (x.doneIn
          { ((x.e.s.updTeam x.e.z fun t => t.orderAfter id).updBlock x.e.t.blk fun b => b.copyStart prog) with
            copies := x.e.s.copies ++ [⟨id, x.e.t.blk, x.e.z, cp.toNat, x.e.c.cpv, x.e.scalar .a oa, x.e.scalar .a ob, st.scp, st.pm,
              ((x.e.memOp i).map MemOp.preds).getD [], 0, [], [], .running, lines.filter x.e.s.lineFree,
              lines.filter fun y => !x.e.s.lineFree y, [], false, 0, [], []⟩] })) ∧
        (x.e.c.cpvP = true → exec i s = .next (x.doneIn
          (x.e.s.updTeam x.e.z fun t => (t.orderAfter id).pendCause (.uncorrectable 4)))) ∧
        (x.e.c.cpvP = false → late = true → exec i s = .next (x.doneIn
          (x.e.s.updTeam x.e.z fun t => (t.orderAfter id).pendCause (.uncorrectable 5))))) ∧
      ((16 ≤ (x.e.s.copies.filter fun c => coreOf c.z == coreOf x.e.z).length ∨ x.e.b.copyReady prog = false) →
        exec i s = .next x.blocked)) ∧
    (∀ ab oa ob st k n, i = .muMsend ab oa ob st → n = 8 * ((x.e.scalar .a ob).toNat % 2 ^ 6) →
      k = 2 ^ 19 * x.e.b.core + 8192 * x.e.b.tile0 + (x.e.t.a.get ab.toNat).toNat →
      x.e.b.readReady (x.e.t.a.get ab.toNat).toNat n = true → x.e.t.locFree id (.spad k) n = true →
      ∃ u m t', exec i s = .next u ∧ s.SlotFrame { u with msgs := s.msgs, nextId := s.nextId } x.e.z [] ∧ u.spad = s.spad ∧
        u.msgs = s.msgs ++ [m] ∧ u.nextId = s.nextId + 1 ∧ u.teams.get? x.e.z = some t' ∧ x.e.t.SlotFrame t' ∧ t'.stands x.k .done ∧
        m.dest = x.e.scalar .a oa ∧ m.mcast = (x.e.scalar .a ob).getLsbD 16 ∧ m.payload.length = n ∧ m.op = some (x.e.z, id) ∧
        (∀ j, j < n → m.payload[j]? = some (s.spad.get (k + j))) ∧ m.srcTidx = x.e.t.teamid.toNat % 16 ∧
        m.srcBlk = x.e.t.blkid.toNat % 2 ^ 32 ∧ m.launch = x.e.t.launch ∧ m.far = none) ∧
    (∀ ab oa ob st a posted, i = .muMpost ab oa ob st → a = (x.e.t.a.get ab.toNat).toNat →
      posted = ((x.e.s.updBlock x.e.t.blk fun b => b.clearChunks a 16 false).updTeam x.e.z fun t => { (t.orderAfter id) with
        recv := t.recv ++ [⟨a, x.e.scalar .a oa, x.e.scalar .a ob, id, false⟩] }) →
      (x.e.t.recv.length < 8 →
        (x.e.predsReady i = false → exec i s = .next (x.doneIn posted)) ∧
        (x.e.predsReady i = true →
          exec i s = .next (x.doneIn ((posted.enterReceive x.e.z id).updTeam x.e.z fun t => t.complete id 4)))) ∧
      (8 ≤ x.e.t.recv.length → exec i s = .next x.blocked)) ∧
    (∀ md oa q n, i = .muMprobe md oa → q = ((x.e.s.cores.get? (coreOf x.e.z)).map CoreSt.overflow).getD [] →
      n = (q.filter fun m => m.forTeam x.e.t && m.matchWord == x.e.scalar .a oa).length →
      exec i s = .next (x.doneIn (x.lands i .mu .a md.toNat 1 (BitVec.ofNat 128
        (n % 128 + 2 ^ 8 * (x.e.t.recv.length % 16) + (if 64 ≤ q.length then 2 ^ 15 else 0))) false))) ∧
    (∀ ab oa st a k, i = .muCpost ab oa st → a = (x.e.scalarAddr ab oa).toNat →
      k = 2 ^ 19 * x.e.b.core + 8192 * x.e.b.tile0 + a → x.e.b.readReady a 64 = true → x.e.t.locFree id (.spad k) 64 = true →
      ∃ u t', exec i s = .next u ∧ s.SlotFrame u x.e.z [] ∧ u.spad = s.spad ∧ u.teams.get? x.e.z = some t' ∧ x.e.t.SlotFrame t' ∧
        t'.stands x.k .done ∧ t'.land = x.e.t.land ∧
        ∀ o ∈ t'.ops, o.id = id → o.dataP = s.spadPoisoned k 64 ∧ o.data.length = 64 ∧ ∀ j, j < 64 → o.data[j]? = some (s.spad.get (k + j))) ∧
    (∀ md ab oa st a, i = .muTget md ab oa st → a = (x.e.scalarAddr ab oa).toNat →
      exec i s = .next (x.doneIn (x.e.s.updTeam x.e.z fun t =>
        { (((t.updOp id fun o => { o with sentAt := x.e.s.clock, accs := o.accs ++
              [⟨0, a, .spad (2 ^ 19 * x.e.b.core + 8192 * x.e.b.tile0 + a), 64, 0, false, 0⟩] }).addLanding
            { due := x.e.c.t + 24 + (if i.readsQueue then 3 else 0), file := .a, reg := md.toNat, pair := false, bal := false, vals := [],
              flags := 0, pend := some id, lanes := [0], key := some (landKey x.e.slot .mu) }).orderAfter id) with activeTasks := 0 })))

/-! ## Matrix operations -/

/-- xu.fmt reads 16 bytes and lands them in f FA at t + 6 + QX with the reserved bits 0; every other XU operation is a command, which the
engine accepts when the bytes of its queue reads are ready or were when it read them, it holds fewer than eight, has accepted none in this
clock, no XU slot of a lower partition issues in it, and the busy tests pass: the slot commits, the stream advances, the tiles and accumulators it
uses become busy, and it is the engine's last command, unless one of the tiles has poisoned state and it is abandoned (R321); otherwise the
slot blocks, and keeps the queue values it has read (R43, R44, R212, R213, R216, R219, R220). -/
def Obligations.XuCommands : Prop :=
  (∀ (s : State) (i : Instr) (x : Slot) (fa : BitVec 3) (oa : Sel) (st : Strm) (a k : Nat), i = .xuFmt fa oa st → s.runningSlot i = some x →
    s.Unwatched (coreOf x.e.z) → x.e.queueReady i = true → a = (x.e.addrVal .f oa).toNat →
    k = 2 ^ 19 * x.e.b.core + 8192 * x.e.b.tile0 + a → x.e.predsReady i = true → x.e.b.readReady a 16 = true →
    x.e.t.locFree (x.e.opId i) (.spad k) 16 = true →
    ∃ u t', exec i s = .next u ∧ s.SlotFrame u x.e.z [] ∧ u.spad = s.spad ∧ u.spadP = s.spadP ∧ u.teams.get? x.e.z = some t' ∧
      x.e.t.SlotFrame t' ∧ t'.stands x.k .done ∧
      t'.land = (x.e.t.addLanding
        { due := x.e.c.t + 6 + (if i.readsQueue then 3 else 0), file := .f, reg := fa.toNat, pair := false, bal := false,
          vals := [⟨0, BitVec.ofNat 128 (Rule.bytes s.spad.get k 16) &&& 0xFFFF0007FFFFFFFF01FF#128, s.spadPoisoned k 16⟩],
          flags := 0, pend := none, lanes := [], key := some (landKey x.e.slot .xu) }).land) ∧
  (∀ (s : State) (i : Instr) (x : Slot) (c : CoreSt), i.kind = some .xu → (∀ fa oa st, i ≠ .xuFmt fa oa st) → s.runningSlot i = some x →
    x.e.s.cores.get? (coreOf x.e.z) = some c →
    let args := x.e.xuArgs i
    let free : Prop := c.mq.length < 8 ∧ c.xacc ≠ x.e.s.clock + 1 ∧ x.e.b.xuReady (xuUse i args) = true ∧
      (x.e.s.turn (turnXu (coreOf x.e.z)) = 0 ∨ partOf x.e.z % 4 < x.e.s.turn (turnXu (coreOf x.e.z)))
    let bad : Bool := (spanTiles ((xuUse i args).rd ++ (xuUse i args).wr)).any fun n => x.e.b.tileP.get n != 0
    (x.e.queueReady i = false → exec i s = .next x.blocked) ∧
    (x.e.queueReady i = true → free → bad = false →
      exec i s = .next (x.doneIn (((x.e.s.updTeam x.e.z fun t => t.orderAfter (x.e.opId i)).updBlock x.e.t.blk fun b =>
        b.xuStart (xuUse i args)).updCore (coreOf x.e.z) fun k => { k with
          mq := k.mq ++ [⟨x.e.opId i, x.e.t.blk, x.e.z, i, args, ((x.e.memOp i).map MemOp.preds).getD [], 0, none, []⟩],
          xacc := x.e.s.clock + 1 }))) ∧
    (x.e.queueReady i = true → free → bad = true →
      exec i s = .next (x.doneIn (x.e.s.updTeam x.e.z fun t => (t.orderAfter (x.e.opId i)).pendCause (.uncorrectable 5)))) ∧
    (x.e.queueReady i = true → ¬free → exec i s = .next ((x.e.s.keepReads x i).setSt x.e.z x.k .blocked)))

/-- The five accumulator commands, when they run: xu.acczr leaves 0 in every element of its accumulator; xu.accmv and xu.acctr copy the
bit patterns, in place and transposed; xu.accadd and xu.accscl are the FP32 sum and product under RNE and the flush modes captured at issue,
any NaN giving the canonical one; every element is read before any is written, and no other accumulator, register or memory changes (R118,
R213, R227). -/
def Obligations.MatrixAccumulators : Prop :=
  ∀ (s : State) (b : Block) (c : MCmd) (g : Nat) (d a : BitVec 3) (st : Strm) (oc : Sel) (f : Nat → Nat → Lane), SMap.wf s.acc = true →
    let w (x : BitVec 3) (i j : Nat) : Lane := s.acc.get (b.accKey x.toNat i j)
    let md := modesOf c.args.fm c.args.cm .rne
    let nan (x : Lane) : Prop := 2 ^ 31 - 2 ^ 23 < x.toNat % 2 ^ 31
    ((c.ins = .xuAcczr d st ∧ ∀ i j, f i j = 0) ∨ (c.ins = .xuAccmv d a st ∧ ∀ i j, f i j = w a i j) ∨
      (c.ins = .xuAcctr d a st ∧ ∀ i j, f i j = w a j i) ∨
      (c.ins = .xuAccadd d a st ∧ ∀ i j, (nan (w d i j) ∨ nan (w a i j) → f i j = 0x7FC00000) ∧
        (¬(nan (w d i j) ∨ nan (w a i j)) → f i j = (fadd32 md false (w d i j) (w a i j)).1)) ∨
      (c.ins = .xuAccscl d oc st ∧ ∀ i j, (nan (w d i j) ∨ nan (BitVec.ofNat 32 c.args.oc.toNat) → f i j = 0x7FC00000) ∧
        (¬(nan (w d i j) ∨ nan (BitVec.ofNat 32 c.args.oc.toNat)) →
          f i j = (fmul32 md (w d i j) (BitVec.ofNat 32 c.args.oc.toNat)).1))) →
    (∀ i j, i < 64 → j < 64 → (s.runCommand b c g).acc.get (b.accKey d.toNat i j) = f i j) ∧
    (∀ k, (∀ i j, i < 64 → j < 64 → k ≠ b.accKey d.toNat i j) → (s.runCommand b c g).acc.get k = s.acc.get k) ∧
    { s.runCommand b c g with acc := s.acc, accP := s.accP } = s

/-! ## Traps -/

/-- Taking a trap in user mode, when its frame can be written: what is due and has its data lands first; the landing buffer becomes the replay registers, at
distances from the team's team-cycle, and every held record is saved and cleared; the mode becomes trap mode and the next word is the one at
TRAPVEC; every register, flag, stream counter, loop register and control register keeps its value. A trap in trap mode writes no frame: the
team halts with NEST and event 7 waits. The frame's first words are the cause, slot, done mask and detail, the PC, the NPC, the address,
TCYC, FMODE, the lanes and the replay count. TRAP_ENTRY takes the pending asynchronous cause that comes first in the order, of copy faults the
oldest copy's, else the oldest of its kind; ERET_RESUME leaves trap mode with the fields the frame holds (R53, R55, R68, R144, R318, R319, R322; with no step running, R372). -/
def Obligations.TrapsAndReturns : Prop :=
  (∀ (s u : State) (z : Nat) (t0 t : Team) (f : Flt) (h : FrameHead) (l : List (Nat × List Byte × Bool)),
    s.teams.get? z = some t0 → t = t0.landStop → h = t.frameHead f → t.stepping = none →
    (t.tmode = false → l = frameBytes t h t.held t.replayList → (∀ x ∈ l, x.1 + x.2.1.length ≤ 2 ^ (12 + t.ctxlog)) →
      l.foldl (fun (r : Except XErr State) x => match r with
        | .ok s => s.writeFrame (coreOf z) t.asid t.root (t.ctxptr.toNat + x.1) x.2.1 x.2.2
        | .error e => .error e) (.ok ((s.updTeam z fun _ => t).abandonRefill z)) = .ok u →
      ∃ t', (s.takeTrap z f).teams.get? z = some t' ∧ t'.tmode = true ∧ t'.pc.toNat = t.trapvec.toNat / 2 % 2 ^ 56 * 2 ∧
        t'.land = [] ∧ t'.held = [] ∧ t'.replay = t.land.map (fun x => { x with due := x.due - t.tc, key := none }) ∧
        t'.ctx = none ∧ t'.halted = t.halted ∧ t'.done = 0 ∧
        t'.s = t.s ∧ t'.a = t.a ∧ t'.va = t.va ∧ t'.vb = t.vb ∧ t'.vm = t.vm ∧ t'.f = t.f ∧ t'.loop = t.loop ∧ t'.ic = t.ic ∧
        t'.dc = t.dc ∧ t'.fmode = t.fmode ∧ t'.compat = t.compat ∧ t'.tcyc = t.tcyc ∧ t'.ctxptr = t.ctxptr ∧ t'.trapvec = t.trapvec) ∧
    (t.tmode = true → ∃ t', (s.takeTrap z f).teams.get? z = some t' ∧ t'.tmode = true ∧ t'.halted = true ∧ t'.nest = true ∧
      t'.haltFrame = some h ∧ (s.takeTrap z f).mem = s.mem ∧ ∃ e, (s.takeTrap z f).cxq = s.cxq ++ [e] ∧ e.code = 7)) ∧
  (∀ (t : Team) (h : FrameHead) (held : AL SlotBits) (rep : List Landing), ∃ (b : List Byte) (r : List (Nat × List Byte × Bool)),
    frameBytes t h held rep = (0, b, false) :: r ∧ b.length = 256 ∧
    ∀ k v, (k, v) ∈ [(0, h.flt.cause % 256 + 2 ^ 8 * (h.flt.slot % 4) + 2 ^ 10 * h.done.toNat + (if h.partial_ then 2 ^ 13 else 0)
          + (if h.part2 then 2 ^ 14 else 0) + 2 ^ 16 * (h.flt.pass % 32) + 2 ^ 32 * h.flt.detail.toNat), (1, h.pc.toNat), (2, h.npc.toNat),
        (3, h.flt.addr.toNat), (4, h.tcyc.toNat), (5, t.fmode.toNat), (6, h.flt.lanes.toNat), (7, rep.length % 2 ^ 64), (18, h.imm.toNat)] →
      leNat ((b.drop (8 * k)).take 8) = v) ∧
  (∀ (s : State) (z : Nat) (t : Team) (a : Async) (p q : List Async), s.teams.get? z = some t → t.asyncReady = true →
    t.async = p ++ a :: q → (∀ x ∈ p, a.rank < x.rank ∨ (a.rank = x.rank ∧ a.age < x.age)) →
    (∀ x ∈ q, a.rank < x.rank ∨ (a.rank = x.rank ∧ a.age ≤ x.age)) →
    exec (.trapEntry z) s = .next ((s.updTeam z fun t => { t with
      async := p ++ q, ctx := none, fetched := none, zeroTrip := none, waiting := false }).takeTrap z a.flt)) ∧
  (∀ (s s' : State) (z : Nat) (t : Team) (f : FrameIn), s.teams.get? z = some t → t.eretReady = true → s.readFrame z t = .ok (s', f) →
    exec (.eretResume z) s = .next (((s'.updTeam z fun t => t.leaveTrap f).resumeCopies z).traceResume z) ∧
    (f.land = [] → (t.leaveTrap f).tmode = false ∧ (t.leaveTrap f).pc.toNat = leNat ((f.head.drop 8).take 8) / 2 % 2 ^ 56 * 2 ∧
      (t.leaveTrap f).done.toNat = leNat (f.head.take 8) / 2 ^ 10 % 2 ^ 3 ∧ (t.leaveTrap f).tcyc = field64 f.head 0x20 ∧
      (t.leaveTrap f).fmode = field64 f.head 0x28 &&& 0x1F00FF ∧ (t.leaveTrap f).loop = t.eretLoop ∧ (t.leaveTrap f).held = frameHeld f.head ∧ (t.leaveTrap f).dwinU = t.dwin ∧
      (t.leaveTrap f).dbaseU = t.dbase ∧ (t.leaveTrap f).s = t.s ∧ (t.leaveTrap f).a = t.a ∧ (t.leaveTrap f).compat = t.compat))

/-! ## The steps of the units -/

/-- Blocked slots, engines and the end of a block: a blocked slot that may commit is tried again in its partition's turn, and of a core's
blocked queue advances and commands the first, in ascending partition order, that its retry lets go; the matrix engine takes up its oldest
command that is ready, writes chunks while its clocks run and, when they are over, runs it, frees what it used and completes it; a copy
runs to the end of its unit and sets that chunk, completes when none is left, and suspends on a fault with its
team's trap pending; a block whose teams have all ended and whose operations have completed leaves the device, and its launch counts it
(R32, R37, R149, R202, R203, R212, R214, R216). -/
def Obligations.EngineSteps : Prop :=
  (∀ (s : State) (z k : Nat), s.mayRetry z k = true → s.turn (coreOf z) ≤ partOf z % 4 → exec (.blockedSlotCommit z k) s =
    .next (if (s.retrySlot z k).stillBlocked z k then s.retrySlot z k else (s.retrySlot z k).takeTurn (coreOf z) (partOf z % 4))) ∧
  (∀ (s : State) (core z k : Nat) (own : Instr → Bool) (i : Instr) (p q : List (Nat × Nat)),
    (i = .queueHandleUpdate core ∧ own = isAdvance) ∨ (i = .xuAcceptance core ∧ own = isCommand) →
    let goes (y : Nat × Nat) : Bool := s.mayRetry y.1 y.2 && decide (s.turn core ≤ partOf y.1 % 4)
      && !(s.retrySlot y.1 y.2).stillBlocked y.1 y.2
    (s.blockedSlots core own = p ++ (z, k) :: q → (∀ y ∈ p, goes y = false) → goes (z, k) = true →
      exec i s = .next ((s.retrySlot z k).takeTurn core (partOf z % 4))) ∧
    ((∀ y ∈ s.blockedSlots core own, goes y = false) → exec i s = .next s)) ∧
  (∀ (s : State) (core : Nat) (c : MCmd) (t : Team) (b : Block), s.headCmd core = some (c, t, b) →
    (s.cmdReady core c t b = true → exec (.matrixCommandBegin core) s =
      .next ((((s.engineReads b c).updCmd core c.id fun c => { c with due := some (s.clock + c.clocks) }).postRows core 5
        (bankRows (b.rowKeys c.readSpans.1) [] ++ bankRows (b.rowKeys (xuUse c.ins c.args).wr) [])).postRows core 6
          (bankRows (b.rowKeys c.readSpans.2) []))) ∧
    (s.cmdDone core c = false → c.due.isSome = true → exec (.matrixCommandCompletion core) s = .next (s.writeChunk core c b)) ∧
    (s.cmdDone core c = true → exec (.matrixCommandCompletion core) s =
      .next ((((s.runCommand b c c.groups).updCore core fun k => { k with mq := k.mq.filter fun x => x.id != c.id }).updBlock c.blk
        fun b => b.xuEnd (xuUse c.ins c.args)).updTeam c.z fun t => t.complete c.id 4))) ∧
  (∀ (s : State) (id : Nat) (c : Copy) (t : Team) (b : Block), s.copies.find? (fun x => x.id == id) = some c →
    s.copyReady c = some (t, b) →
    (∀ s' c' n, s.copyStep c t b = (s', c', .unit n) → exec (.copyChunkComplete id) s = .next (if c'.prog'.dstGlobal then s'
      else s'.updBlock c.blk fun b => b.setChunks (n / 16) (1#16 <<< (n % 16)))) ∧
    (∀ u w, u = (s.giveMse c).performViews (coreOf c.z) id w → w = s.doneWidth id c.scp → c.left = false → s.farOfCopy id = false →
      exec (.copyCompletion id) s =
        .next (({ u with copies := u.copies.filter fun x => x.id != id }.updBlock c.blk fun b => b.copyEnd c.prog').updTeam c.z
          fun t => t.complete id w)) ∧
    (∀ s' c' cause d a, s.copyStep c t b = (s', c', .fault cause d a) → t.ended = false → cause ≠ 0x1A →
      exec (.copyFaultSuspend id) s = .next ((s'.putCopy { c' with
        st := .suspended, wrote := [], owned := [], asked := [], mse := 0, probes := [], got := [] }).updTeam c.z fun t =>
        t.pendCause (.copyFault c.id cause d a)))) ∧
  (∀ (s : State) (k : Nat) (b : Block), s.blocks.get? k = some b → b.stop = false → s.blockDone k b = true →
    exec (.blockEnd k) s = .next { (s.dropQueued b).removeBlock k with
      launches := s.launches.upd b.launch fun l => { l with ended := l.ended ++ [(b.lin, b.teams.length)] } })

/-- The memory system: the port of a core at a bank serves its oldest ready request in its slot of 32 clocks, the next one after as
many slots as the line has sectors, at once when no copy owns the line, else behind a recall, which ends when every copy that held the line has finished with it; a load whose last value is fixed gets its
landing's data and frees its miss-status entries, free from the next clock; a store whose accesses are all performed completes at its scope;
a bank's only requester is served; a posted task is taken by its sub-queue; a walk's result is cached (R183, R185, R209, R246, R258, R264,
R273, R284). -/
def Obligations.MemorySystemSteps : Prop :=
  (∀ (s u : State) (core bank z line : Nat) (t : Team) (o : MemOp), s.clock % 32 = (core % 128 + bank % 128) % 32 →
    (s.portAt.get (portNo core bank)).toNat ≤ s.clock → s.portNext core bank = some (z, t, o, line) →
    u = { s with portAt := s.portAt.set (portNo core bank) (BitVec.ofNat 64 (s.clock + 32 * (o.slots line - 1) + 1)) } →
    (s.ownersFor z o.id line = [] → exec (.portSlotService core bank) s = .next (u.serveLine z t o line false)) ∧
    (s.ownersFor z o.id line ≠ [] → exec (.portSlotService core bank) s =
      .next { u with recalls := s.recalls ++ [⟨line, z, o.id, s.ownersFor z o.id line⟩] })) ∧
  (∀ (s : State) (line z : Nat) (r : Recall) (rest : List Recall) (t : Team) (o : MemOp), s.recalls = r :: rest → r.line = line →
    r.z < hostZ → (∀ c ∈ r.copies, c ∉ s.ownedLine line) → s.findOp r.op = some (z, t, o) →
    exec (.ownershipRecall line) s = .next (({ s with recalls := rest }.serveLine z t o line false).lineTurn line)) ∧
  (∀ (s : State) (core n : Nat), exec (.missStatusRelease core n) s = .next (s.updCore core fun c => { c with missDue := c.missDue - n })) ∧
  (∀ (s : State) (id z : Nat) (t : Team) (o : MemOp), s.findOp id = some (z, t, o) → o.kind = .load → o.arrived = false → o.done = false →
    o.issued = true → o.accs = [] → o.got ≠ [] → o.readyAt ≤ s.clock → exec (.loadReply id) s =
      .next (((s.reply z id o.got).releaseMse z id).updTeam z fun t => t.updOp id fun o => { o with arrived := true })) ∧
  (∀ (s : State) (id z : Nat) (t : Team) (o : MemOp), s.findOp id = some (z, t, o) → o.kind = .store → o.done = false → o.issued = true →
    o.accs = [] → o.readyAt ≤ s.clock → (∀ w ∈ s.views, w.op ≠ id) →
    exec (.operationCompletion id) s = .next (((s.performViews (coreOf z) id 4).releaseMse z id).updTeam z fun t => t.complete id 4)) ∧
  (∀ (s u : State) (id z : Nat) (t : Team) (o : MemOp), s.findOp id = some (z, t, o) → o.kind = .cpost → o.done = false →
    o.issued = true → t.predsDone o.preds o.scp = true → s.taskPost t.launch o.data o.dataP = some u →
    exec (.taskPostAccept id) s = .next (u.updTeam z fun t => t.complete id 4)) ∧
  (∀ (s : State) (core : Nat) (asid : BitVec 16) (va : Word) (acc : AccKind) (z : Nat) (t : Team) (w : WalkRes),
    s.teams.find? (fun x => coreOf x.1 == core && x.2.asid == asid) = some (z, t) → va.toNat < 2 ^ 57 →
    s.walk (core / 128) asid va.toNat 4 t.root = .ok w → w.e.allow acc = none → exec (.translationWalk core asid va acc) s = .next (s.useXlat core w)) ∧
  (∀ (s : State) (core bank r : Nat) (c : CoreSt), s.cores.get? core = some c → s.pendingAt core bank c = [r] →
    (∃ x ∈ c.breq, x.1 = bank ∧ x.2.1 = r) →
    c.bankAt.get bank ≠ BitVec.ofNat 64 (s.clock + 1) → s.bankChoice core bank c [r] = some r → s.wholeAt core bank c r = true →
    exec (.bankArbitration core bank) s = .next (s.updCore core fun c' => { c' with
      bankAt := c'.bankAt.set bank (BitVec.ofNat 64 (s.clock + 1)), deny := c.deny.set (8 * bank + r) 0,
      bank := c'.bank.put bank (r :: (c'.bank.getD bank []).filter fun x => x != r), breq := takeRows c'.breq bank r }))

/-- The memory configuration: a GO with a valid staged entry sets BUSY and a commit installs it; WMASK takes the ways and marks those that
convert, and a conversion zeroes its way; an invalidation removes the translations it names; DTCTL empties the filters; a fusion change
invalidates its bench's L1s; a scrub read leaves a sound granule alone, counts a corrected one, and poisons and counts an uncorrectable one;
and a register write stores the bits the register has (R263, R268 to R270, R285, R287, R289, R290, R406, R407, R415). -/
def Obligations.MemoryConfigurationSteps : Prop :=
  (∀ (s s' : State) (v : Word) (i : Nat), v.getLsbD 8 = true → v.getLsbD 10 = false → i = v.toNat % 64 → s' = s.putReg artctlOff 0 6 v.toNat →
    (s'.reg artctlOff).getLsbD 9 = false → artValid (s'.reg (memBase + 0x20000 + 16 * i)) (s'.reg (memBase + 0x20008 + 16 * i)) = true →
    exec (.artctlGo v) s = .next (((s'.putReg artctlOff 9 1 1).putReg artctlOff 10 1 0).putReg artctlOff 32 6 i)) ∧
  (∀ (s : State) (i : Nat), (s.reg artctlOff).getLsbD 9 = true → i = s.regBits artctlOff 32 6 →
    ∃ u, exec .artCommitComplete s = .next u ∧ u.regs = (s.putReg artctlOff 9 1 0).regs ∧
      u.artNow = (s.artNow.set (16 * i) (s.reg (memBase + 0x20000 + 16 * i))).set (16 * i + 8) (s.reg (memBase + 0x20008 + 16 * i)) ∧
      { u with regs := s.regs, artNow := s.artNow, cores := s.cores, l2 := s.l2 } = s) ∧
  (∀ (s : State) (k x : Nat) (v : Word), (s.reg (wmaskOff k)).getLsbD 32 = false → v.getLsbD 33 = false →
    2 ≤ (bitList 16 (v.toNat % 2 ^ 16)).length → x = (s.reg (wmaskOff k)).toNat % 2 ^ 16 ^^^ v.toNat % 2 ^ 16 →
    exec (.wmaskWrite k v) s = .next { ((((s.putReg (wmaskOff k) 0 16 v.toNat).putReg (wmaskOff k) 16 16 x).putReg (wmaskOff k) 32 1
        (if x = 0 then 0 else 1)).putReg (wmaskOff k) 33 1 0) with
      wayNow := s.wayNow.set k (s.wayNow.get k &&& ~~~(BitVec.ofNat 16 x)),
      holds := s.holds ++ (bitList 16 x).map fun w => 16 * k + w }) ∧
  (∀ (s : State) (k way : Nat), way < 16 → (s.reg (wmaskOff k)).getLsbD (16 + way) = true → s.wayInUse k way = false →
    ∃ u, exec (.wayConversionComplete k way) s = .next u ∧ u.holds = s.holds.filter (fun h => h != 16 * k + way) ∧
      u.mem = s.mem.keep (fun a => decide (a < 2 ^ 51 + 2 ^ 21 * k + 2 ^ 17 * way ∨ 2 ^ 51 + 2 ^ 21 * k + 2 ^ 17 * way + 2 ^ 17 ≤ a)) ∧
      { u with mem := s.mem, memP := s.memP, cores := s.cores, holds := s.holds, wayNow := s.wayNow, l2 := s.l2, regs := s.regs } = s) ∧
  (∀ (s s' : State) (v : Word), v.getLsbD 24 = true → v.getLsbD 26 = false → s' = s.putReg invctlOff 0 24 v.toNat →
    (s'.reg invctlOff).getLsbD 25 = false → v.toNat / 2 ^ 16 % 64 ≤ 45 →
    exec (.invctlGo v) s = .next (((s'.putReg invctlOff 25 1 1).putReg invctlOff 32 24 v.toNat).setReg invRunOff
      (BitVec.ofNat 64 (s'.regBits (memBase + 0x30000) 12 45)))) ∧
  (∀ s : State, (s.reg invctlOff).getLsbD 25 = true → s.invBusy = false →
    exec .invalidationComplete s = .next { (s.putReg invctlOff 25 1 0) with
      cores := s.cores.map fun x => (x.1, { x.2 with tlb := x.2.tlb.filter fun e => !(s.invAsid e.asid && s.invPages e.vpn e.pages) }),
      walkers := s.walkers.map fun x => (x.1, x.2.filter fun e =>
        !(s.invAsid e.asid && s.invPages (e.va * 2 ^ (9 * e.k)) (2 ^ (9 * e.k)))) }) ∧
  (∀ s : State, exec .dtctlGo s = .next (s.putReg dtctlOff 1 1 1) ∧
    ((s.reg dtctlOff).getLsbD 1 = true → exec .filterEmptied s = .next { (s.putReg dtctlOff 1 1 0) with dfilter := [] })) ∧
  (∀ (s : State) (bench : Nat) (on : Bool), s.fusing.get? bench = some on → s.benchLoads bench = false →
    ∃ u, exec (.fusionChange bench) s = .next u ∧ (bench ∈ u.fused ↔ on = true) ∧ (∀ y, y ≠ bench → (y ∈ u.fused ↔ y ∈ s.fused)) ∧
      u.fusing = s.fusing.del bench ∧ (∀ x ∈ u.cores, x.1 / 8 = bench → x.2.l1 = []) ∧
      { u with fused := s.fused, fusing := s.fusing, cores := s.cores } = s) ∧
  (∀ (s : State) (addr : Nat), exec (.scrubRead .mem addr .none) s = .next s ∧
    exec (.scrubRead .mem addr .corrected) s = .next (s.countSoft (s.scrubWhere .mem addr).1 (s.scrubWhere .mem addr).2 true) ∧
    exec (.scrubRead .mem addr .uncorrectable) s =
      .next (State.countSoft { s with memP := s.memP.set (addr / 8) 1 } (s.scrubWhere .mem addr).1 (s.scrubWhere .mem addr).2 false)) ∧
  (∀ (s : State) (m : Master) (off : Nat) (v : Word) (r : RegRule), regRule off = some r → off < 0x100000 →
    ((m = .host → off < 0x100 ∨ 0x128 ≤ off) →
      exec (.systemRegisterWrite m off v) s =
        .next (s.setReg off (((s.reg off &&& ~~~r.rw) ||| (v &&& r.rw)) &&& ~~~(v &&& r.w1c)))) ∧
    (0x100 ≤ off → off < 0x128 → exec (.netcfgWrite .mgmt off v) s =
        .next (s.setReg off (((s.reg off &&& ~~~r.rw) ||| (v &&& r.rw)) &&& ~~~(v &&& r.w1c))) ∧
      exec (.netcfgWrite .host off v) s = .next s ∧ exec (.systemRegisterWrite .host off v) s = .next s))

/-- The queue scheduler and the dispatchers: a notify takes WPTR in the recorded position at once, in the live one at
the end of the clock; QDIS begins a disable, whose
completion unmaps the queue and clears EN; a free slot maps the candidate; a slot with a checked record starts its launch and moves on;
dependences are read again; a launch that is over leaves the device; a block is placed where it fits; a hold for fragmentation or starvation
begins; a block is flagged (R293, R294, R296 to R298, R301 to R304, R307, R309). -/
def Obligations.SchedulerSteps : Prop :=
  (∀ (s : State) (q slot : Nat) (x : QSlot) (v : BitVec 16), q < 4096 → s.slotOfQueue q = some (slot, x) →
    ((v.toNat % ringMod x.qr + ringMod x.qr - x.rptr) % ringMod x.qr ≤ ringMod x.qr / 2 → exec (.notifyWptr q v) s =
      .next { s with qslots := s.qslots.put slot { x with next := some (v.toNat % ringMod x.qr), active := s.clock } }) ∧
    (ringMod x.qr / 2 < (v.toNat % ringMod x.qr + ringMod x.qr - x.rptr) % ringMod x.qr → exec (.notifyWptr q v) s =
      .next (State.queueError { s with qslots := s.qslots.put slot { x with next := some (v.toNat % ringMod x.qr), active := s.clock } } q 1))) ∧
  (∀ (s : State) (q : Nat) (v : BitVec 16), q < 4096 → s.slotOfQueue q = none →
    (v.toNat % ringMod (s.qRec q) + ringMod (s.qRec q) - wBits (s.qRec q) 5 16 16 % ringMod (s.qRec q)) % ringMod (s.qRec q)
      ≤ ringMod (s.qRec q) / 2 → exec (.notifyWptr q v) s =
      .next { ((s.qPut q 5 0 16 (v.toNat % ringMod (s.qRec q))).qPut q 5 32 1 1) with
        pendq := if s.pendq.contains q then s.pendq else s.pendq ++ [q] }) ∧
  (∀ (s s' : State) (v : Word), s' = s.putReg qdisOff 0 12 v.toNat → v.getLsbD 16 = true → (s'.reg qdisOff).getLsbD 17 = false →
    exec (.qdisGo v) s = .next ((s'.putReg qdisOff 17 1 1).putReg qdisOff 32 12 v.toNat)) ∧
  (∀ (s : State) (q slot : Nat) (x : QSlot), (s.reg qdisOff).getLsbD 17 = true → q = s.regBits qdisOff 32 12 →
    s.slotOfQueue q = some (slot, x) →
    exec .queueDisableComplete s = .next (((s.unmapQueue slot x).qPut q 1 7 1 0).putReg qdisOff 17 1 0)) ∧
  (∀ (s s' : State) (q slot : Nat) (x : QSlot), s.candidate = some q → slot < 256 → s.qslots.get? slot = none →
    qrUsable (s.qRec q) = true → s' = { s.qPut q 5 32 1 0 with pendq := s.pendq.filter fun x => x != q } →
    x = ⟨q, (s.qRec q).take 6, wBits (s.qRec q) 5 0 16 % ringMod (s.qRec q), wBits (s.qRec q) 5 16 16 % ringMod (s.qRec q), none, [],
      s.clock, s.clock, false, s.clock, none, false⟩ →
    exec (.queueMapping slot) s = .next { ((s'.qPut q 5 33 1 1).qPut q 5 34 8 slot) with qslots := s.qslots.put slot x }) ∧
  (∀ (s u : State) (slot : Nat) (x : QSlot) (lr : List Word), s.qslots.get? slot = some x → x.rptr ≠ x.wptr → x.lr = some lr →
    (∀ m ∈ x.met, m = true) → s.mayStart x.queue lr = true → s.prepare s.launchNo x lr = .ok u →
    exec (.launchStart slot) s = .next { u with
      launchNo := s.launchNo + 1,
      qslots := u.qslots.put slot { x with rptr := (x.rptr + 1) % ringMod x.qr, lr := none, met := [], active := s.clock } }) ∧
  (∀ (s u : State) (slot : Nat) (x : QSlot) (lr : List Word) (met : List Bool), s.qslots.get? slot = some x → x.lr = some lr →
    s.readDeps x.qr lr x.met = some (u, met) →
    exec (.dependenceRead slot) s = .next { u with qslots := u.qslots.put slot { x with met := met, readAt := u.clock, due := false } }) ∧
  (∀ (s : State) (n : Nat) (l : Launch), s.launches.get? n = some l → l.over = true → l.bits 0x30 0 57 = 0 → l.bits 0x18 16 1 = 0 →
    exec (.launchCompletion n) s =
      .next { s with launches := s.launches.del n, parks := s.parks.filter fun x => x.2.launch != n }) ∧
  (∀ (s u : State) (leaf n : Nat), (∀ c, (s.dispOf leaf).lastAt = some c → c + 8 ≤ s.clock) →
    (∀ y, leaf < y → y < 4 → (s.dispOf y).lastAt ≠ some s.clock) → (s.dispOf leaf).gang = [] → s.restores = [] →
    s.placeOne leaf (fun _ => true) = some (n, u) → exec (.blockPlacement leaf) s = .next u) ∧
  (∀ (s : State) (part : Nat) (p : Part) (h : Nat × Nat), s.parts.get? part = some p →
    (p.hold = none → 50000 ≤ p.frag → s.fragVariant part = some h → exec (.drainHold part) s =
      .next (s.updPart part fun p => { p with hold := some h })) ∧
    (p.hold = some h → s.holdOver part h = true → exec (.drainHold part) s =
      .next (s.updPart part fun p => { p with hold := none, frag := 0 }))) ∧
  (∀ (s : State) (leaf c : Nat) (h : Nat × Nat), (s.dispOf leaf).head = some h → (s.dispOf leaf).starve = none →
    (s.dispOf leaf).since h = some c → c + 1000000 ≤ s.clock → exec (.starvationHold leaf) s =
      .next { s with disp := s.disp.put leaf { s.dispOf leaf with starve := some h } }) ∧
  (∀ (s : State) (leaf k : Nat) (b : Block) (c : Option (Nat × Nat)) (rest : AL Block), (s.dispOf leaf).flag = none →
    s.blocks = (k, b) :: rest → b.core / 128 = leaf → s.flagCause leaf k b = some c → exec (.switchFlag leaf) s =
      .next { (s.updBlock k fun b => { b with flagged := true, shrink := c }) with
        disp := s.disp.put leaf { s.dispOf leaf with flag := some k } })

/-- The context engine: a GO that is not refused takes the next sequence number and sets BUSY; a SAVE names the blocks, launches and queues of
its target and asks their teams to stop; a RESTORE waits for its placement; a stopped team halts; a settled block's image is written into
the lowest free slot and event 1 waits; a RESTORE whose image cannot be used ends with event 10, which names the queue
and launch of a valid header; and an event is written at WR when the
ring has room (R324 to R328, R330, R333). -/
def Obligations.ContextSteps : Prop :=
  (∀ (s s0 s' : State) (m : Master) (v : Word) (n src : Nat), v.getLsbD 8 = true → v.getLsbD 10 = false →
    s0 = s.setReg cxcmdOff ((v &&& 0xFFFFFFFF000008FF#64) ||| (s.reg cxcmdOff &&& 0x00000000FFFFF600#64)) → s0.cxRefused = false →
    n = (s0.regBits cxcmdOff 12 20 + 1) % 2 ^ 20 → src = (if m = .host then 1 else 2) →
    s' = ((s0.putReg cxcmdOff 12 20 n).putReg cxcmdOff 9 1 1).putReg cxcmdOff 10 1 0 →
    (v.toNat % 16 = 1 → exec (.save m v) s =
      .next (s'.startSave (v.toNat / 16 % 16) (v.toNat / 2 ^ 32) src n (v.getLsbD 11))) ∧
    (v.toNat % 16 = 2 → exec (.restore m v) s = .next { s' with
      cx := some { save := false, source := src, seq := n, win := false, blocks := [], launches := [], queues := [] },
      restores := s'.restores ++ [⟨v.toNat / 2 ^ 32 % 2 ^ 12,
        if v.toNat / 2 ^ 46 % 2 = 1 then none else some (v.toNat / 2 ^ 44 % 4), n⟩] })) ∧
  (∀ (s : State) (kind target src n : Nat) (win : Bool) (z : Nat) (t : Team) (k : Nat) (b : Block), s.teams.get? z = some t →
    s.blocks = [(k, b)] → s.inTarget kind target k b = true → b.teams = [z] →
    ((s.startSave kind target src n win).teams.get? z = some { t with stopReq := true } ∧
      (s.startSave kind target src n win).blocks = [(k, { b with stop := true })])) ∧
  (∀ (s : State) (z : Nat) (t : Team), s.teams = [(z, t)] → t.stopReq = true → t.halted = false → t.ended = false →
    s.rowsDue (partOf z) = false → exec (.teamHalt (coreOf z)) s = .next (s.stopTeam z s.cxDetail)) ∧
  (∀ (s s' : State) (c : CxCmd) (k : Nat) (rest : List Nat) (b : Block), s.cx = some c → c.save = true → c.blocks = k :: rest →
    s.blocks.get? k = some b → (∀ z ∈ b.teams, ∀ t, s.teams.get? z = some t → t.halted = true ∨ t.ended = true) →
    s' = (s.settleCopies k).settleCommands b k → s'.opsSettled b = true →
    (s'.updBlock k fun b => { b with settled := true }).remoteOnWay b = false →
    exec (.blockSettle k) s = .next ((s'.updBlock k fun b => { b with settled := true }).saveBlock c k b)) ∧
  (∀ (s : State) (c : CxCmd) (k i : Nat) (b : Block) (img : List (Nat × Piece) × Nat), img = s.blockImage k b c.win s.cxDetail →
    img.2 ≤ s.cxSize → s.freeSlot = some i → ∃ w, s.saveBlock c k b = { ((s.writeImage (s.cxSlot i) img.2 img.1).nextBlock) with
      cxHeld := s.cxHeld.put i none,
      cxq := s.cxq ++ [⟨1, ((s.launches.get? b.launch).map Launch.queue).getD 0, k, i, c.seq, w⟩] }) ∧
  (∀ (s : State) (leaf : Nat) (r : RestoreReq) (rest : List RestoreReq), s.restores = r :: rest → s.cxImage r.slot = .bad → s.cx = none →
    exec (.restorePlacement leaf) s = .next { s with
      restores := rest, cxHeld := s.cxHeld.put r.slot none, cxq := s.cxq ++ [⟨10, (s.cxNamed r.slot).1, (s.cxNamed r.slot).2, r.slot, r.seq, 0⟩] }) ∧
  (∀ (s : State) (leaf n lin vi core : Nat) (r : RestoreReq) (rest : List RestoreReq) (l m : Launch) (v : Variant) (f : CoreFit),
    s.restores = r :: rest → s.cxImage r.slot = .block n lin vi m v → (∀ c, (s.dispOf leaf).lastAt = some c → c + 8 ≤ s.clock) →
    (∀ y, leaf < y → y < 4 → (s.dispOf y).lastAt ≠ some s.clock) → (s.dispOf leaf).starve = none →
    s.restoreFit leaf = some (r, n, lin, vi, l, core, f) → s.placeOne leaf (fun w => decide (l.prio < w.prio)) = none →
    exec (.restorePlacement leaf) s = .next { (s.restoreBlock r n lin vi leaf core l f) with
      disp := (s.restoreBlock r n lin vi leaf core l f).disp.put leaf { (s.restoreBlock r n lin vi leaf core l f).dispOf leaf with
        lastAt := some (s.restoreBlock r n lin vi leaf core l f).clock } }) ∧
  (∀ (s : State) (e : CxEvent) (rest : List CxEvent), s.cxq = e :: rest → 6 ≤ s.regBits ctxBase 0 4 →
    (s.regBits (ctxBase + 8) 0 16 + 2 ^ 16 - s.regBits (ctxBase + 8) 16 16) % 2 ^ 16 < 2 ^ s.regBits ctxBase 0 4 →
    e.code ∈ [3, 5, 6, 7, 8, 9, 12] → exec .contextEvent s = .next { ((s.writeMem (s.regBits ctxBase 12 40 * 4096
      + 32 * (s.regBits (ctxBase + 8) 0 16 % 2 ^ s.regBits ctxBase 0 4)) e.record false).putReg (ctxBase + 8) 0 16
      (s.regBits (ctxBase + 8) 0 16 + 1)) with cxq := rest })

/-- Debugging, tracing, counting and replay: a stop is on its way for nine clocks before its team halts; a halted team resumes, or steps,
from the next clock; a bench stop reaches all its teams; a step that does not commit ends after 1,024 cycles; a dump writes the halted
team's section, and a load reads it; TRBASE and a counter take what is written; at the end of a clock TIME advances by the clock's length;
and the replay operations begin, restore, empty the caches, and capture the signatures (R367 to R372, R381 to R383, R389 to R396). -/
def Obligations.DebugSteps : Prop :=
  (∀ (s : State) (z : Nat) (t : Team), s.teams.get? z = some t →
    (t.ended = false → t.skid = none → t.halted = false → exec (.tdbgStop z) s =
      .next (s.updTeam z fun t => t.haltSoon s.clock) ∧ t.haltSoon s.clock = { t with skid := some (s.clock, 0) }) ∧
    ((s.reg (tdbgOff z)).getLsbD 2 = true →
      exec (.tdbgResume z) s = .next (((s.putReg (tdbgOff z) 2 1 0).updTeam z fun t => { t with
        halted := false, haltFrame := none, nobp := true, startAt := max t.startAt (s.clock + 1), skid := none }).traceResume z) ∧
      exec (.tdbgStepgo z) s = .next (((s.putReg (tdbgOff z) 2 2 0).putReg (tdbgOff z) 7 1 0).updTeam z fun t => { t with
        halted := false, haltFrame := none, nobp := true, startAt := max t.startAt (s.clock + 1), skid := none,
        stepping := some s.clock })) ∧
    (∀ c n, t.skid = some (c, n) → t.halted = false → t.ended = false → c + 9 ≤ s.clock → s.rowsDue (partOf z) = false →
      exec (.debugHalt z) s = .next (s.debugHalt z n (s.clock - (c + 1)))) ∧
    (∀ c, t.stepping = some c → t.halted = false → t.ended = false → c + 1024 ≤ s.clock → s.rowsDue (partOf z) = false →
      exec (.stepTimeout z) s = .next (((s.stopTeam z 0).putReg (tdbgOff z) 2 6 3).updTeam z fun t => { t with stepping := none }))) ∧
  (∀ (s : State) (b : Nat), (s.bstop.get? b = none → (s.reg (bstatOff b)).getLsbD 0 = false → exec (.benchcmdStop b) s =
      .next { (s.putReg (bstatOff b) 1 3 1) with
        bstop := s.bstop.put b (s.clock, 1),
        teams := s.teams.map fun x => if coreOf x.1 / 8 = b then (x.1, x.2.haltSoon s.clock) else x }) ∧
    (exec (.benchcmdResume b) s = .next ((s.teams.foldl (fun s x => if coreOf x.1 / 8 = b then s.dbgResume x.1 (s.clock + 9) else s) s).putReg
      (bstatOff b) 0 1 0)) ∧
    (∀ c k, s.bstop.get? b = some (c, k) → c + 9 ≤ s.clock → exec (.benchStop b) s =
      .next { (s.putReg (bstatOff b) 0 1 1) with
        bstop := s.bstop.del b,
        teams := s.teams.map fun x => if coreOf x.1 / 8 = b ∧ x.2.ended = false then (x.1, x.2.haltSoon c) else x })) ∧
  (∀ (s s1 : State) (core slot z : Nat) (t : Team), slot < 64 → z = 64 * core + slot → s1.teams.get? z = some t → (s1.reg (coreDbg core)).getLsbD 11 = false → (s1.reg (tdbgOff z)).getLsbD 2 = true →
    (s1 = s.putReg (coreDbg core) 0 10 (1 + 16 * slot) → exec (.dump core slot) s =
      .next (s1.writeImage (s1.regBits (coreDbg core + 8) 6 46 * 64) (pieceLen (s1.teamSection false 0 z)) (flatPieces (s1.teamSection false 0 z)))) ∧
    (∀ u, s1 = s.putReg (coreDbg core) 0 10 (2 + 16 * slot) → s1.loadTeam (s1.regBits (coreDbg core + 8) 6 46 * 64) z t = some u →
      exec (.load core slot) s = .next u)) ∧
  (∀ (s s' : State) (core k : Nat) (v : Word), s' = s.setReg (coreDbg core + 0x480) (v &&& 0x000FFFFFFFFFF01F#64) → k < 4 →
    exec (.trbaseWrite core v) s =
      .next (s'.putReg (coreDbg core + 0x490) 0 32 (s'.regBits (coreDbg core + 0x490) 32 32)) ∧
    exec (.cntWrite core k true v) s = .next ((s.setReg (coreDbg core + 0x400 + 8 * k) (BitVec.ofNat 64 (v.toNat % 2 ^ 16))).updCore core
      fun c => { c with events := c.events.set (cntWritten k) 1 }) ∧
    (v.getLsbD 48 = true → exec (.cntWrite core k false v) s = .next ((s.setReg (coreDbg core + 0x420 + 8 * k)
      (BitVec.ofNat 64 (v.toNat % 2 ^ 48))).updCore core fun c => { c with events := c.events.set (cntWritten k) 1 }))) ∧
  (∀ (s : State) (part : Nat), exec (.traceSample part) s = .next (s.trace (part / 4) 3 (part % 4)
    (s.sampleOf part).1 (s.sampleOf part).2.1 (s.sampleOf part).2.2)) ∧
  (∀ s : State, ∃ u, exec .eventCounterIncrement s = .next u ∧ u.clock = s.clock + 1 ∧ u.ticked = true ∧ u.turns = [] ∧
    u.tick = s.tick + 277200 / (6 + s.pclk 0)) ∧
  (∀ (s : State) (op : Nat) (s1 : State), s1 = s.putReg rplBase 1 3 op → (s1.reg rplBase).getLsbD 5 = false →
    (op = 1 → exec .rplBegin s = .next { ((((s1.putReg rplBase 7 3 0).putReg (rplBase + 0x18) 0 24 0).setReg (rplBase + 0x20) 0).setReg
      (rplBase + 0x28) 0) with captured := [] }) ∧
    (op = 2 → (∀ x ∈ s.teams, x.2.asid.toNat ≠ (s.putReg rplBase 1 3 op).regBits rplBase 24 16) →
      exec .rplRestore s = .next s1.rplRestorePages) ∧
    (op = 3 → (∀ x ∈ s.teams, x.2.asid.toNat ≠ (s.putReg rplBase 1 3 op).regBits rplBase 24 16) →
      exec .rplReset s = .next { s1 with
        l2 := [], walkers := [], cores := s1.cores.map (fun x => (x.1, { x.2 with l1 := [], tlb := [] })),
        parts := s1.parts.map fun x => (x.1, { x.2 with table := [], lru := [] }) }) ∧
    (op = 4 → s1.regBits rplBase 16 8 = 0 → exec .rplEnd s =
      .next ((s1.setReg (rplBase + 0x30) (s1.reg (rplBase + 0x20))).setReg (rplBase + 0x38)
        ((s1.setReg (rplBase + 0x30) (s1.reg (rplBase + 0x20))).reg (rplBase + 0x28)))))

/-- Links and the host: a message reaches its block, and a multicast one its routers, or leaves for another device; a flit that is the next
one is taken, one received before is discarded, one that is not whole or not next is answered by a NAK; level-4 arrivals and releases; a probe is answered. The next packet of a session passes its
number and is applied: a write through the session's address space, at once or after others it has no byte in common with, and, all of them
performed, a read, a notify for the session's tenant, a register access by a
system session; one ahead is held, a duplicate is acknowledged again; an ACK forgets what it covers; what waits too long is sent again; an
acknowledgement falls due; ARP, neighbours, the link and pause frames (R340, R345, R347, R349, R351, R355, R357 to R363, R411, R415). -/
def Obligations.FabricAndHostSteps : Prop :=
  (∀ (s : State) (k node : Nat) (m : Msg), s.msgs[k]? = some m → s.mayDeliver k m = true → s.messageNode m = some node →
    exec (.messageDelivery k) s = .next (State.sendMessage { s with msgs := s.msgs.eraseIdx k } node m)) ∧
  (∀ (s : State) (k : Nat) (m : Msg), s.msgs[k]? = some m → s.mayDeliver k m = true → s.messageNode m = none →
    (m.mcast = false → exec (.messageDelivery k) s = .next (State.fate { s with msgs := s.msgs.eraseIdx k } m)) ∧
    (m.mcast = true → ∀ mem u, s.members m = some mem → State.enterRouter { s with msgs := s.msgs.eraseIdx k } m 5 m.source mem = some u →
      exec (.messageDelivery k) s = .next u)) ∧
  (∀ (s : State) (router core : Nat) (f : Fork) (mem : List Nat), s.forks = [f] → f.router = router → f.left = [(68 + core, mem)] →
    ∀ u, u = s.copies_ f.msg mem → u.forks = [f] → exec (.multicastFork router 0 1) s = .next { u with forks := [] }) ∧
  (∀ (s s' : State) (port : Nat) (x : BitVec 512), flGood x = true → s' = s.updPort port (fun y => y.acked (flBits x 44 12)) →
    (1 ≤ flBits x 58 2 → flBits x 58 2 ≤ 2 →
      (flBits x 32 12 = ((s'.portOf port).rxGood + 1) % 4096 → exec (.flitReceive port x) s = .next (s'.takeFlit port x)) ∧
      (flBits x 32 12 ≠ ((s'.portOf port).rxGood + 1) % 4096 →
        (((s'.portOf port).rxGood + 4096 - flBits x 32 12) % 4096 < 2048 → exec (.flitReceive port x) s = .next s') ∧
        (2048 ≤ ((s'.portOf port).rxGood + 4096 - flBits x 32 12) % 4096 → exec (.flitReceive port x) s = .next (s'.sendNak port)))) ∧
    (flBits x 58 2 = 0 → exec (.flitReceive port x) s = .next s') ∧ (flBits x 58 2 = 3 → exec (.flitReceive port x) s = .next (s'.replayFlits port))) ∧
  (∀ (s : State) (port : Nat) (x : BitVec 512), flGood x = false → exec (.flitReceive port x) s = .next (s.sendNak port)) ∧
  (∀ (s : State) (e n off : Nat), e < 64 → off = fabBase + 0x2000 + 32 * e → (s.reg off).getLsbD 0 = true → s.regBits (off + 8) 0 16 = 0 →
    n = s.regBits (off + 24) 33 16 + 1 →
    (n ≠ (s.putReg (off + 24) 33 16 n).regBits off 48 16 → exec (.level4Arrival e) s = .next (s.putReg (off + 24) 33 16 n)) ∧
    (n = (s.putReg (off + 24) 33 16 n).regBits off 48 16 →
      exec (.level4Arrival e) s = .next ((s.putReg (off + 24) 33 16 n).sendReleases e))) ∧
  (∀ (s s1 : State) (e off : Nat), e < 64 → off = fabBase + 0x2000 + 32 * e → (s.reg off).getLsbD 0 = true →
    s1 = s.putReg (off + 24) 0 32 0 → s1.regBits (off + 8) 0 16 ≠ 0 → s.launches = [] →
    exec (.level4Release e) s = .next (s1.putReg (off + 24) 32 1 (1 - s1.regBits (off + 24) 32 1))) ∧
  (∀ (s : State) (set : BitVec 16) (va : Word) (acc : AccKind),
    (∀ pin, s.probeLook set va.toNat acc = .ok pin → exec (.translationProbe set va acc) s =
      .next { s with out := s.out ++ [.probe set va none], pins := s.pins ++ [pin] }) ∧
    (∀ r, s.probeLook set va.toNat acc = .error r → exec (.translationProbe set va acc) s =
      .next { s with out := s.out ++ [.probe set va (some r)] })) ∧
  (∀ (s u v w1 : State) (p : Packet) (n : Nat), n = p.sess.toNat → s.FromPeer p → p.seq.toNat = ((s.sessSt n).acked p.ack.toNat).rxNext →
    (s.sessSt n).rxNext < 2 ^ 32 →
    u = State.passNumber { s with sess := s.sess.put n ((s.sessSt n).acked p.ack.toNat) } p → v = u.flushLate n →
    w1 = { u with fresh := u.fresh + 1 } →
    (∀ l, 1 ≤ p.len.toNat → p.len.toNat ≤ 8192 → p.payload.length = p.len.toNat → w1.sessPieces n p.addr.toNat p.len.toNat .write = .ok l →
      exec (.write p) s = .next (
        if Config.freeChoice u.fresh % 2 = 0 ∨ (u.sessSt n).late.any (fun q => u.writesMeet q p) = true then
          { w1 with sess := u.sess.put n { u.sessSt n with late := (u.sessSt n).late ++ [p] } }
        else (l.foldl (fun (a : State × List Byte) x =>
          ((a.1.useXlat noCore x.1).hostPut n x.2.1 x.1.e.attr (a.2.take x.2.2), a.2.drop x.2.2)) (w1, u.crypt p)).1)) ∧
    (∀ l, 1 ≤ p.len.toNat → p.len.toNat ≤ 65536 → v.sessPieces n p.addr.toNat p.len.toNat .read = .ok l →
      (∀ x ∈ l, v.memPoisoned x.2.1 x.2.2 = false) → ∀ w, w = l.foldl (fun s x => s.useXlat noCore x.1) v →
      exec (.read p) s = .next (w.sendReplies n p.seq.toNat (l.flatMap fun x => w.readMem x.2.1 x.2.2))) ∧
    (wBits (v.qRec (p.arg.toNat % 2 ^ 12)) 1 8 16 = v.regBits (sessOff n) 16 16 →
      exec (.notify p) s = .next (v.notify (p.arg.toNat % 2 ^ 12) (p.arg.toNat / 2 ^ 16))) ∧
    (∀ x, v.sessSys n = true → v.sysRead p.addr.toNat = some x →
      exec (.ctrlRead p) s = .next (v.sendPkt n 9 8 p.addr p.seq.toNat (leBytes 8 x))) ∧
    (∀ w, v.sessSys n = true → p.payload.length = 8 → v.sysWrite .host p.addr.toNat (BitVec.ofNat 64 (leNat (v.crypt p))) = some w →
      exec (.ctrlWrite p) s = .next w)) ∧
  (∀ (s : State) (p : Packet) (i : Instr) (n d : Nat), i ∈ [.write p, .read p, .notify p, .ctrlRead p, .ctrlWrite p] → n = p.sess.toNat →
    s.FromPeer p → d = (p.seq.toNat + 2 ^ 32 - (s.sessSt n).rxNext) % 2 ^ 32 →
    (1 ≤ d → d < 2 ^ 31 → (s.sessSt n).ahead.length < 256 → (∀ q ∈ (s.sessSt n).ahead, q.seq ≠ p.seq) → ∃ x : Sess,
      x = { (s.sessSt n).acked p.ack.toNat with ahead := (s.sessSt n).ahead ++ [p] } ∧
      ∃ u, exec i s = .next u ∧ { u with sess := s.sess } = s ∧ u.sess.get? n = some x) ∧
    (2 ^ 31 ≤ d → exec i s = .next (State.sendAck { s with sess := s.sess.put n ((s.sessSt n).acked p.ack.toNat) } n 0))) ∧
  (∀ (s : State) (p : Packet) (n : Nat), n = p.sess.toNat → s.FromPeer p → exec (.ack p) s = .next { s with
    sess := s.sess.put n { s.sessSt n with
      unacked := (s.sessSt n).unacked.filter fun t => decide (2 ^ 31 ≤ (p.ack.toNat + 2 ^ 32 - t.pkt.seq.toNat) % 2 ^ 32) } }) ∧
  (∀ (s : State) (n : Nat) (x : Sess) (old : TxPkt → Bool), x = s.sessSt n → s.sessValid n = true →
    (∀ t, old t = decide (t.at_ + s.rto n ≤ s.ns)) →
    ((∃ t ∈ x.unacked, old t = true) → (∀ t ∈ x.unacked, old t = true → t.tries < 64) → exec (.retransmissionTimeout n) s = .next
      { (x.unacked.filter old).foldl (fun (s : State) t => s.emit (.packet (s.framed t.pkt))) s with
        sess := s.sess.put n { x with unacked := x.unacked.map fun t => if old t then { t with at_ := s.ns, tries := t.tries + 1 } else t } }) ∧
    (∀ d u, x.ackDue = some d → d ≤ s.ns → x.late = [] → u = s.performViews noCore (hostOp n) 4 → exec (.ackTimer n) s = .next
      { (u.emit (.packet (u.mkPacket n 6 x.txNext 0 0 0 []))) with sess := s.sess.put n { x with ackDue := none } }) ∧
    (∀ d, x.ackDue = some d → d ≤ s.ns → (∀ p ∈ x.late, s.linesFree p = true) →
      exec (.ackTimer n) s = .next ((s.flushLate n).sendAck n 0)) ∧
    (x.ackDue = none → s.lateReady n ≠ [] →
      ∃ i ∈ s.lateReady n, exec (.ackTimer n) s = .next (State.performLate { s with fresh := s.fresh + 1 } n i))) ∧
  (∀ s : State, (s.reg 0).getLsbD 16 = true →
    (∀ ip : BitVec 32, ip ≠ 0 → ip.toNat = s.regBits 0x108 0 32 → exec (.arpRequest ip) s =
      .next (s.emit (.neighbor (BitVec.ofNat 48 (s.regBits 0x100 0 48)) (ip.setWidth 128)))) ∧
    (∀ ip : BitVec 128, ip ≠ 0 → ip = (s.reg 0x110).append (s.reg 0x118) → exec (.neighborSolicitation ip) s =
      .next (s.emit (.neighbor (BitVec.ofNat 48 (s.regBits 0x100 0 48)) ip)))) ∧
  (∀ (s : State) (p : Packet), (∀ n, n = p.sess.toNat → (s.framed p).peer = (s.reg (sessOff n + 16)).append (s.reg (sessOff n + 8)) ∧
      (s.framed p).port.toNat = s.regBits (sessOff n) 48 16) ∧ (s.framed p).ownPort.toNat = s.regBits 0x108 48 16 ∧
    (s.framed p).mac.toNat = s.regBits 0x120 0 48 ∧ (s.regBits 0x108 32 8 = 0 → (s.framed p).ttl = 64) ∧
    (s.regBits 0x100 63 1 = 1 → (s.framed p).vlans = 1 ∧ (s.framed p).vid.toNat = s.regBits 0x100 48 12 ∧
      (s.framed p).pcp.toNat = s.regBits 0x100 60 3) ∧
    (s.regBits 0x100 63 1 = 0 → (s.framed p).vlans = 0)) ∧
  (∀ (s : State) (o : Out), (∀ p, o = .packet p → s.familyOn p.peer = true) →
    (s.paused = 0 → s.emit o = { s with out := s.out ++ [o] }) ∧
    (s.paused = 0xFF → Config.priority < 8 → s.emit o = { s with txWait := s.txWait ++ [o] })) ∧
  (∀ (s : State) (up : Bool) (q : BitVec 8), exec (.ethernetLinkChange up) s =
      .next (s.putReg 0 16 1 (if up = true ∧ (s.reg 0).getLsbD 0 = true then 1 else 0)) ∧
    exec (.priorityFlowControlFrame q) s = .next (s.txWait.foldl State.emit { s with paused := q, txWait := [] }))

/-- The platform: a boot whose images are accepted makes every leaf, core and partition ready from the bank chosen, or else from the other
one, with each bench's eight logical cores on different ones of its nine, and one whose images are refused in both banks is recovery state; the management commands answer; an accepted image is stored in the other bank, which boots
next; attestation answers with the certificate, digests and measurements; the power cap, the temperatures and the coolant move the leaves'
clocks (R6, R408 to R413, R416 to R418, R420, R421; what the signature and digest functions give is log entry 13). -/
def Obligations.PlatformSteps : Prop :=
  (∀ s : State, exec .deviceReset s = .next (match s.plat.failed s.plat.boot with
      | none => (s.powered s.plat).running s.plat.boot false
      | some n => match s.plat.failed (1 - s.plat.boot) with
        | none => ((s.powered s.plat).running (1 - s.plat.boot) true).platformEvent 4
        | some _ => (s.powered s.plat).setReg 0 (BitVec.ofNat 64 (2 + 16 * n))) ∧
    (∀ b u, u = (s.powered s.plat).running b false → u.cores.length = 512 ∧ u.parts.length = 2048 ∧ u.plat.bank = b ∧ u.teams = [] ∧
      u.regs.get 0 = 0x55550000FF71 ∧ (∀ c, c < 512 → (u.coreMap.get c).toNat < 9) ∧
      ∀ c d, c < 512 → d < 512 → c / 8 = d / 8 → c ≠ d → u.coreMap.get c ≠ u.coreMap.get d) ∧
    exec .resetDevice s = .next { (State.powered { s with out := s.out ++ [.mgmt 0 []] } s.plat) with agenda := .deviceReset :: s.agenda }) ∧
  (∀ (s : State) (off : Nat), (s.reg 0).getLsbD 1 = false →
    (∀ v, s.sysRead off = some v → exec (.registerRead off) s = .next { s with out := s.out ++ [.mgmt 0 (leBytes 8 v)] }) ∧
    (∀ v u, s.sysWrite .mgmt off v = some u → exec (.registerWrite off v) s = .next { u with out := u.out ++ [.mgmt 0 []] }) ∧
    (∀ n key words u, n < 256 → (s.reg 0).getLsbD 0 = true → u = [3, 2, 1, 0].foldl (fun (s : State) i =>
        (s.sysWrite .mgmt (sessOff n + 8 * i) (words.getD i 0)).getD s) { s with sess := s.sess.put n { s.sessSt n with key := key } } →
      exec (.installSession n key words) s = .next { u with out := u.out ++ [.mgmt 0 []] }) ∧
    (∃ m : AL Nat, exec .raiseSvnMinimum s = .next { s with plat := { s.plat with svn := m }, out := s.out ++ [.mgmt 0 []] } ∧
      (∀ k, 1 ≤ k → k ≤ 3 → m.getD k 0 = max (s.plat.svn.getD k 0) (fwSvn (s.plat.image s.plat.bank k))) ∧
      ∀ k, (k < 1 ∨ 3 < k) → m.get? k = s.plat.svn.get? k)) ∧
  (∀ (s : State) (off : Nat) (b : List Byte), exec (.writeFirmwareImageChunk off b) s = .next { s with
      plat := { s.plat with chunk := s.plat.chunk.setRange off b, chunkLen := max s.plat.chunkLen (off + b.length) },
      out := s.out ++ [.mgmt 0 []] }) ∧
  (∀ (s : State) (l : List Byte) (k : Nat), l = s.plat.chunk.getRange 0 s.plat.chunkLen → k = ((l.drop 4).headD 0).toNat →
    exec .commitImage s = .next (if 1 ≤ k ∧ k ≤ 3 ∧ s.plat.accepts k l = true then { s with
      plat := { s.plat with chunk := [], chunkLen := 0, flash := s.plat.flash.put (4 * (1 - s.plat.bank) + k) l, boot := 1 - s.plat.bank },
      out := s.out ++ [.mgmt 0 []] }
    else { s with plat := { s.plat with chunk := [], chunkLen := 0 }, out := s.out ++ [.mgmt 1 []] })) ∧
  (∀ s : State, exec .readPlatformEventLog s = .next { s with out := s.out ++ [.mgmt 0 (s.plat.log.flatMap fun x =>
      leBytes 8 (BitVec.ofNat 64 x.1) ++ leBytes 8 (BitVec.ofNat 64 x.2))] }) ∧
  (∀ (s : State) (via : Via), s.spdmServed via = true →
    exec (.getDigests via) s = .next { s with out := s.out ++ [.spdm via (digestBytes (Config.sha384 Config.certificate))] } ∧
    (∀ a n, exec (.getCertificate via 0 a n) s = .next { s with out := s.out ++ [.spdm via ((Config.certificate.drop a).take n)] }) ∧
    (∀ nonce m, m = digestBytes (Config.sha384 Config.certificate) ++ leBytes 32 nonce → exec (.challenge via 0 nonce) s =
      .next { s with out := s.out ++ [.spdm via (m ++ signBytes (Config.deviceSign m))] }) ∧
    (∀ i l, i ≠ 0 → i ≠ 255 → s.measurement i = some l → exec (.getMeasurements via i none) s =
      .next { s with out := s.out ++ [.spdm via l] })) ∧
  (∀ (s : State) (v : Word), exec (.pcapWrite v) s = .next (s.putReg 0x200 0 13 (v.toNat % 2 ^ 13))) ∧
  (∀ (s : State) (leaf watts : Nat), leaf < 4 →
    let go (n : Nat) : State := { s with plat := { s.plat with clk := s.plat.clk.put leaf (if s.plat.cool then 0 else n) } }
    (capOf (s.regBits 0x200 0 13) < watts → exec (.powerCapStep leaf watts) s = .next (go (s.stepOf leaf - 1))) ∧
    (watts ≤ capOf (s.regBits 0x200 0 13) → exec (.powerCapStep leaf watts) s = .next (go (min 5 (s.stepOf leaf + 1)))) ∧
    exec (.thermalThrottling leaf) s = .next ((go (s.stepOf leaf - 1)).platformEvent 2)) ∧
  (∀ c, (c = 0 → capOf c = 3600) ∧ (1 ≤ c → c < 1200 → capOf c = 1200) ∧ (1200 ≤ c → c ≤ 3600 → capOf c = c) ∧
    (3600 < c → capOf c = 3600)) ∧
  (∀ s : State, ∃ u v w : State, exec .thermalShutdown s = .next u ∧ u.cores = [] ∧ u.parts = [] ∧ u.teams = [] ∧ u.mem = [] ∧
    u.plat = { s.plat with clk := [] } ∧ u.clock = s.clock ∧ u.agenda = s.agenda ∧
    exec .coolantLimit s = .next v ∧ v.plat.cool = true ∧ exec .coolantRecovery s = .next w ∧ w.plat.cool = false ∧
    ∀ leaf, leaf < 4 → v.plat.clk.get? leaf = some 0 ∧ w.plat.clk.get? leaf = some 5)

/-! ## Reset, memory and the invariant -/

/-- The machine right after reset: no core is on, the steps of boot lie ahead; every register of the register map is 0 but NET.MAC, the
fused station address, and WMASK, with all sixteen ways caching; nothing is listed in memory, and every store is in canonical form (R269,
R406, R410, R415; that memory reads 0 and what the flash and the fuses hold are the model's, log entries 3 and 6). -/
def Obligations.ResetState : Prop :=
  State.reset.cores = [] ∧ State.reset.parts = [] ∧ State.reset.teams = [] ∧ State.reset.blocks = [] ∧ State.reset.launches = [] ∧
    State.reset.qslots = [] ∧ State.reset.reg 0 = 0 ∧ State.reset.reg 0x100 ≠ 0 ∧
    (∀ k, k < 128 → State.reset.reg (0x110000 + 8 * k) = 0xFFFF) ∧
    (∀ off, off ≠ 0x100 → (∀ k, k < 128 → off ≠ 0x110000 + 8 * k) → State.reset.reg off = 0) ∧
    (∀ a, State.reset.mem.get a = 0 ∧ State.reset.memP.get a = 0) ∧ State.reset.Canonical

/-- Memory: a write stores its bytes in ascending order and leaves every other byte as it was, where no dirty window is enabled; the poison
of a granule it covers wholly is that of the data; no register, scratchpad or team changes; and a little-endian word reads back what was
written (R8, R287, R289). -/
def Obligations.MemoryWrites : Prop :=
  ∀ (s u : State) (pa : Nat) (l : List Byte) (p : Bool), s.Canonical → (∀ n, n < 32 → (s.reg (memBase + 0x40000 + 32 * n)).getLsbD 0 = false) →
    u = s.writeMem pa l p →
    u.Canonical ∧ (∀ i (h : i < l.length), u.mem.get (pa + i) = l[i]) ∧ (∀ a, (a < pa ∨ pa + l.length ≤ a) → u.mem.get a = s.mem.get a) ∧
      (∀ g, pa ≤ 8 * g → 8 * g + 8 ≤ pa + l.length → u.memP.get g = if p then 1 else 0) ∧
      (∀ g, (8 * g + 8 ≤ pa ∨ pa + l.length ≤ 8 * g) → u.memP.get g = s.memP.get g) ∧
      { u with mem := s.mem, memP := s.memP, cores := s.cores, l2 := s.l2 } = s ∧
      (∀ v : Word, l = leBytes 8 v → u.mem64 pa = v)

/-- Every step keeps the canonical form of every store: HBM and slice scratch, the scratchpads, the accumulators, and the poison of each, so
equal contents are equal data after any step of the device (R260, R288). -/
def Obligations.CanonicalKept : Prop := ∀ s t : State, s.Canonical → step s = .next t → t.Canonical
end

