-- ==== Sys2Proof/Laws/Decode.lean ====
section
/-!
SUPPORT. Laws of the field codes and of the slot layouts: each code's decoder answers what was encoded, and the fields of a packed slot
are the fields.
-/
namespace Sys2Proof

/-! ## Codes -/

@[simp] theorem Sel.dec_enc (x : Sel) : Sel.dec x.enc = some x := by
  cases x with
  | reg n => revert n; decide
  | queue h k => revert h k; decide
  | imm j => revert j; decide
  | whole => decide
  | const c => revert c; decide

@[simp] theorem Sel.decOr_enc (x : Sel) : Sel.decOr x.enc = x := by simp [Sel.decOr]
@[simp] theorem RFile.dec_enc (x : RFile) : RFile.dec x.enc = some x := by cases x <;> decide
@[simp] theorem dfSize_enc (x : RFile) : dfSize x.enc = x.size := by simp [dfSize]
@[simp] theorem Rm.dec_enc (x : Rm) : Rm.dec x.enc = some x := by cases x <;> decide
@[simp] theorem Scope.dec_enc (x : Scope) : Scope.dec x.enc = x := by cases x <;> decide
@[simp] theorem Cond.dec_enc (x : Cond) : Cond.dec x.enc = some x := by cases x <;> decide
@[simp] theorem Cond.decBr_encBr (x : Option Cond) : Cond.decBr (Cond.encBr x) = some x := by
  cases x with
  | none => decide
  | some c => cases c <;> decide
@[simp] theorem FCond.dec_enc (x : FCond) : FCond.dec x.enc = some x := by cases x <;> decide
@[simp] theorem LoopReg.dec_enc (x : LoopReg) : LoopReg.dec x.enc = some x := by cases x <;> decide
@[simp] theorem Counter.dec_enc (x : Counter) : Counter.dec x.enc = some x := by cases x <;> decide
@[simp] theorem Cvt.dec_enc (x : Cvt) : Cvt.dec x.enc = some x := by cases x <;> decide

@[simp] theorem TsFmt.dec_enc (x : TsFmt) : TsFmt.dec x.enc = some x := by cases x <;> decide
@[simp] theorem XferForm.dec_enc (x : XferForm) : XferForm.dec x.enc = some x := by cases x <;> decide
@[simp] theorem RedFn.dec_enc (x : RedFn) : RedFn.dec x.enc = some x := by cases x <;> decide
@[simp] theorem AtomFn.dec_enc (x : AtomFn) : AtomFn.dec x.enc = some x := by cases x <;> decide
@[simp] theorem QSide.dec_enc (x : QSide) : QSide.dec x.enc = some x := by cases x <;> decide

/-- A selector encoded for an operand that takes it passes the range test. -/
theorem selRangeOk_enc (x : Sel) (lim : Nat) (q : Bool) (h : x.ok lim q = true) : selRangeOk (x.enc, lim, q) = true := by
  simp [selRangeOk, h]

/-! ## Layouts -/

/-- A field that lies in the low part of an append. -/
theorem extract_low {w v : Nat} (x : BitVec w) (y : BitVec v) (k n : Nat) (h : k + n ≤ v) :
    (x ++ y).extractLsb' k n = y.extractLsb' k n := by
  ext i hi
  simp only [BitVec.getElem_extractLsb', BitVec.getLsbD_append, if_pos (show k + i < v by omega)]

/-- A field that lies in the high part of an append. -/
theorem extract_high {w v : Nat} (x : BitVec w) (y : BitVec v) (k n : Nat) (h : v ≤ k) :
    (x ++ y).extractLsb' k n = x.extractLsb' (k - v) n := by
  ext i hi
  simp only [BitVec.getElem_extractLsb', BitVec.getLsbD_append]
  rw [if_neg (by omega)]
  congr 1
  omega

/-- A whole field. -/
theorem extract_all {w : Nat} (x : BitVec w) : x.extractLsb' 0 w = x := by
  ext i hi
  simp

/-- A one-bit field. -/
theorem bit_high {w v : Nat} (x : BitVec w) (y : BitVec v) (k : Nat) (h : v ≤ k) : (x ++ y).getLsbD k = x.getLsbD (k - v) := by
  rw [BitVec.getLsbD_append, if_neg (by omega)]

theorem bit_low {w v : Nat} (x : BitVec w) (y : BitVec v) (k : Nat) (h : k < v) : (x ++ y).getLsbD k = y.getLsbD k := by
  rw [BitVec.getLsbD_append, if_pos h]

theorem SlotF.unpack_pack_su (f : SlotF) :
    SlotF.unpack .su (SlotF.pack .su f) =
      { op := f.op, d := f.d, a := f.a, b := f.b, c := f.c, code := f.code, csr := f.csr, str := f.str, lv := f.lv, df := f.df,
        rsv := (f.rsv.setWidth 17).setWidth 25 } := by
  simp only [SlotF.unpack, SlotF.pack, BitVec.cast_eq]
  simp (disch := omega) only [extract_low, extract_high, Nat.reduceSub, Nat.sub_self, extract_all]

theorem SlotF.unpack_pack_va (f : SlotF) :
    SlotF.unpack .va (SlotF.pack .va f) =
      { op := f.op, d := f.d, a := f.a, b := f.b, c := f.c, mb := f.mb, me := f.me, rm := f.rm, code := f.code, df := f.df,
        rsv := f.rsv } := by
  simp only [SlotF.unpack, SlotF.pack, BitVec.cast_eq]
  simp (disch := omega) only [extract_low, extract_high, bit_low, bit_high, Nat.reduceSub, Nat.sub_self, extract_all]
  simp

theorem SlotF.unpack_pack_vb (f : SlotF) :
    SlotF.unpack .vb (SlotF.pack .vb f) =
      { op := f.op, d := f.d, a := f.a, b := f.b, c := f.c, mb := f.mb, me := f.me, rm := f.rm, code := f.code, df := f.df,
        rsv := f.rsv } := SlotF.unpack_pack_va f

theorem SlotF.unpack_pack_mu (f : SlotF) :
    SlotF.unpack .mu (SlotF.pack .mu f) =
      { op := f.op, d := f.d, df := f.df, ab := f.ab, a := f.a, b := f.b, mb := f.mb, me := f.me, str := f.str, pm := f.pm,
        scp := f.scp, code := f.code, qh := f.qh, rsv := (f.rsv.setWidth 15).setWidth 25 } := by
  simp only [SlotF.unpack, SlotF.pack, BitVec.cast_eq]
  simp (disch := omega) only [extract_low, extract_high, bit_low, bit_high, Nat.reduceSub, Nat.sub_self, extract_all]
  simp

theorem SlotF.unpack_pack_xu (f : SlotF) :
    SlotF.unpack .xu (SlotF.pack .xu f) =
      { op := f.op, acc := f.acc, fa := f.fa, fb := f.fb, a := f.a, b := f.b, c := f.c, str := f.str, pm := f.pm, scp := f.scp,
        code := f.code, acb := f.acb, rsv := (f.rsv.setWidth 19).setWidth 25 } := by
  simp only [SlotF.unpack, SlotF.pack, BitVec.cast_eq]
  simp (disch := omega) only [extract_low, extract_high, Nat.reduceSub, Nat.sub_self, extract_all]

end Sys2Proof
end

