-- ==== Sys2Proof/Laws/Store.lean ====
section
/-!
SUPPORT. Laws of the sparse stores: a read after a write, the canonical form is kept, and equal stores are equal lists; laws of lists of
records.
-/
namespace Sys2Proof.Machine

/-! ## Stores -/

@[simp] theorem SMap.get_nil {w : Nat} (k : Nat) : SMap.get ([] : SMap w) k = 0 := rfl

@[simp] theorem SMap.wf_nil {w : Nat} : SMap.wf ([] : SMap w) = true := rfl

theorem SMap.wf_cons {w : Nat} (k : Nat) (v : BitVec w) (r : SMap w) :
    SMap.wf ((k, v) :: r) = true ↔ v ≠ 0 ∧ SMap.above k r = true ∧ SMap.wf r = true := by
  simp [SMap.wf, and_assoc]

/-- A key below every listed one reads 0. -/
theorem SMap.get_of_above {w : Nat} {m : SMap w} {k : Nat} (hw : SMap.wf m = true) (h : SMap.above k m = true) {j : Nat} (hj : j ≤ k) :
    SMap.get m j = 0 := by
  induction m generalizing k with
  | nil => rfl
  | cons e r ih =>
    obtain ⟨i, v⟩ := e
    have hi : k < i := by simpa [SMap.above] using h
    have := SMap.wf_cons i v r |>.mp hw
    simp only [SMap.get, if_neg (show ¬ i = j by omega)]
    exact ih this.2.2 this.2.1 (by omega)

/-- A write leaves every other key as it was. -/
theorem SMap.get_set_ne {w : Nat} (m : SMap w) (k : Nat) (v : BitVec w) {j : Nat} (h : j ≠ k) : (SMap.set m k v).get j = m.get j := by
  induction m with
  | nil => simp only [SMap.set]; split <;> simp [SMap.get, Ne.symm h]
  | cons e r ih =>
    obtain ⟨i, u⟩ := e
    simp only [SMap.set]
    split
    · simp [SMap.get, ih]
    · split
      · rename_i hik
        subst hik
        split <;> simp [SMap.get, Ne.symm h]
      · split <;> simp [SMap.get, Ne.symm h]

/-- A read after a write of the same key gives what was written. -/
theorem SMap.get_set_eq {w : Nat} {m : SMap w} (hw : SMap.wf m = true) (k : Nat) (v : BitVec w) : (SMap.set m k v).get k = v := by
  induction m with
  | nil => simp only [SMap.set]; split <;> simp_all [SMap.get]
  | cons e r ih =>
    obtain ⟨i, u⟩ := e
    have hc := SMap.wf_cons i u r |>.mp hw
    simp only [SMap.set]
    split
    · rename_i h
      simp only [SMap.get, if_neg (show ¬ i = k by omega)]
      exact ih hc.2.2
    · split
      · rename_i hik
        subst hik
        split
        · rename_i hv
          rw [hv]
          exact SMap.get_of_above hc.2.2 hc.2.1 (Nat.le_refl _)
        · simp [SMap.get]
      · split
        · rename_i h1 h2 hv
          rw [hv]
          have : SMap.get ((i, u) :: r) k = 0 := by
            simp only [SMap.get, if_neg h2]
            exact SMap.get_of_above hc.2.2 hc.2.1 (by omega)
          exact this
        · simp [SMap.get]

/-- A read after a write. -/
theorem SMap.get_set {w : Nat} {m : SMap w} (hw : SMap.wf m = true) (k : Nat) (v : BitVec w) (j : Nat) :
    (SMap.set m k v).get j = if j = k then v else m.get j := by
  split
  · rename_i h
    rw [h, SMap.get_set_eq hw]
  · rename_i h
    exact SMap.get_set_ne m k v h

/-- A write above a key leaves the list above it. -/
theorem SMap.above_set {w : Nat} (m : SMap w) (i k : Nat) (v : BitVec w) (h : SMap.above i m = true) (hw : SMap.wf m = true) (hk : i < k) :
    SMap.above i (SMap.set m k v) = true := by
  cases m with
  | nil => simp only [SMap.set]; split <;> simp [SMap.above, hk]
  | cons e r =>
    obtain ⟨j, u⟩ := e
    have hj : i < j := by simpa [SMap.above] using h
    have hc := SMap.wf_cons j u r |>.mp hw
    simp only [SMap.set]
    split
    · simpa [SMap.above] using hj
    · split
      · split
        · cases r with
          | nil => rfl
          | cons f r =>
            obtain ⟨x, y⟩ := f
            have := hc.2.1
            simp [SMap.above] at this ⊢
            omega
        · simpa [SMap.above] using hk
      · split
        · simpa [SMap.above] using hj
        · simpa [SMap.above] using hk

/-- A write keeps the canonical form. -/
theorem SMap.wf_set {w : Nat} {m : SMap w} (hw : SMap.wf m = true) (k : Nat) (v : BitVec w) : SMap.wf (SMap.set m k v) = true := by
  induction m with
  | nil => simp only [SMap.set]; split <;> simp_all [SMap.wf, SMap.above]
  | cons e r ih =>
    obtain ⟨j, u⟩ := e
    have hc := SMap.wf_cons j u r |>.mp hw
    simp only [SMap.set]
    split
    · rename_i h
      exact (SMap.wf_cons ..).mpr ⟨hc.1, SMap.above_set r j k v hc.2.1 hc.2.2 h, ih hc.2.2⟩
    · split
      · rename_i h
        subst h
        split
        · exact hc.2.2
        · rename_i hv
          exact (SMap.wf_cons ..).mpr ⟨hv, hc.2.1, hc.2.2⟩
      · rename_i h1 h2
        split
        · exact hw
        · rename_i hv
          exact (SMap.wf_cons ..).mpr ⟨hv, by simp [SMap.above]; omega, hw⟩

/-- Writing a range keeps the canonical form. -/
theorem SMap.wf_setRange {w : Nat} {m : SMap w} (hw : SMap.wf m = true) (k : Nat) (l : List (BitVec w)) :
    SMap.wf (SMap.setRange m k l) = true := by
  induction l generalizing m k with
  | nil => exact hw
  | cons v r ih => exact ih (SMap.wf_set hw k v) (k + 1)

/-- A read of a key outside a written range. -/
theorem SMap.get_setRange_out {w : Nat} (m : SMap w) (k : Nat) (l : List (BitVec w)) (j : Nat) (h : j < k ∨ k + l.length ≤ j) :
    (SMap.setRange m k l).get j = m.get j := by
  induction l generalizing m k with
  | nil => rfl
  | cons v r ih =>
    simp only [List.length_cons] at h
    rw [SMap.setRange, ih _ _ (by omega), SMap.get_set_ne _ _ _ (by omega)]

/-- A read of a key inside a written range. -/
theorem SMap.get_setRange_in {w : Nat} {m : SMap w} (hw : SMap.wf m = true) (k : Nat) (l : List (BitVec w)) (i : Nat) (h : i < l.length) :
    (SMap.setRange m k l).get (k + i) = l[i] := by
  induction l generalizing m k i with
  | nil => simp at h
  | cons v r ih =>
    rw [SMap.setRange]
    cases i with
    | zero =>
      rw [SMap.get_setRange_out _ _ _ _ (by omega)]
      simp [SMap.get_set_eq hw]
    | succ n =>
      have := ih (SMap.wf_set hw k v) (k + 1) n (by simpa using h)
      simpa [Nat.add_assoc, Nat.add_comm 1 n] using this

/-- Keeping some keys keeps the canonical form. -/
theorem SMap.above_of_le {w : Nat} {m : SMap w} {i k : Nat} (h : SMap.above k m = true) (hk : i ≤ k) : SMap.above i m = true := by
  cases m with
  | nil => rfl
  | cons e r => simp [SMap.above] at h ⊢; omega

theorem SMap.above_keep {w : Nat} (m : SMap w) (p : Nat → Bool) (i : Nat) (hw : SMap.wf m = true) (h : SMap.above i m = true) :
    SMap.above i (SMap.keep m p) = true := by
  induction m generalizing i with
  | nil => rfl
  | cons e r ih =>
    obtain ⟨j, u⟩ := e
    have hc := SMap.wf_cons j u r |>.mp hw
    have hj : i < j := by simpa [SMap.above] using h
    by_cases hp : p j = true
    · simpa [SMap.keep, hp, SMap.above] using hj
    · have : SMap.keep ((j, u) :: r) p = SMap.keep r p := by simp [SMap.keep, hp]
      rw [this]
      exact ih i hc.2.2 (SMap.above_of_le hc.2.1 (by omega))

theorem SMap.wf_keep {w : Nat} {m : SMap w} (hw : SMap.wf m = true) (p : Nat → Bool) : SMap.wf (SMap.keep m p) = true := by
  induction m with
  | nil => rfl
  | cons e r ih =>
    obtain ⟨j, u⟩ := e
    have hc := SMap.wf_cons j u r |>.mp hw
    by_cases hp : p j = true
    · have : SMap.keep ((j, u) :: r) p = (j, u) :: SMap.keep r p := by simp [SMap.keep, hp]
      rw [this]
      exact (SMap.wf_cons ..).mpr ⟨hc.1, SMap.above_keep r p j hc.2.2 hc.2.1, ih hc.2.2⟩
    · have : SMap.keep ((j, u) :: r) p = SMap.keep r p := by simp [SMap.keep, hp]
      rw [this]
      exact ih hc.2.2

/-! ## Records -/

@[simp] theorem AL.get?_nil {α : Type} (k : Nat) : AL.get? ([] : AL α) k = none := rfl

theorem AL.get?_put_ne {α : Type} (l : AL α) (k : Nat) (v : α) {j : Nat} (h : j ≠ k) : (AL.put l k v).get? j = l.get? j := by
  induction l with
  | nil => simp [AL.put, AL.get?, Ne.symm h]
  | cons e r ih =>
    obtain ⟨i, u⟩ := e
    simp only [AL.put]
    split
    · simp [AL.get?, ih]
    · split
      · rename_i hik
        subst hik
        simp [AL.get?, Ne.symm h]
      · simp [AL.get?, Ne.symm h]

theorem AL.get?_put_eq {α : Type} (l : AL α) (k : Nat) (v : α) : (AL.put l k v).get? k = some v := by
  induction l with
  | nil => simp [AL.put, AL.get?]
  | cons e r ih =>
    obtain ⟨i, u⟩ := e
    simp only [AL.put]
    split
    · rename_i h
      simp only [AL.get?, if_neg (show ¬ i = k by omega)]
      exact ih
    · split <;> simp [AL.get?]

/-- A change of one record leaves the others. -/
theorem AL.get?_upd_ne {α : Type} (l : AL α) (k : Nat) (f : α → α) {j : Nat} (h : j ≠ k) : (AL.upd l k f).get? j = l.get? j := by
  induction l with
  | nil => rfl
  | cons e r ih =>
    obtain ⟨i, u⟩ := e
    simp only [AL.upd]
    split
    · rename_i hi
      simp only [AL.get?, if_neg (show ¬ i = j by omega)]
    · simp only [AL.get?, ih]

/-- A change of a record that is present. -/
theorem AL.get?_upd_eq {α : Type} (l : AL α) (k : Nat) (f : α → α) : (AL.upd l k f).get? k = (l.get? k).map f := by
  induction l with
  | nil => rfl
  | cons e r ih =>
    obtain ⟨i, u⟩ := e
    simp only [AL.upd]
    split
    · rename_i hi
      simp only [AL.get?, if_pos hi, Option.map_some]
    · rename_i hi
      simp only [AL.get?, if_neg hi, ih]

/-- A change that leaves the record as it is leaves all. -/
theorem AL.upd_same {α : Type} (l : AL α) (k : Nat) (f : α → α) (h : ∀ v, l.get? k = some v → f v = v) : AL.upd l k f = l := by
  induction l with
  | nil => rfl
  | cons e r ih =>
    obtain ⟨i, u⟩ := e
    simp only [AL.upd]
    split
    · rename_i hi
      rw [h u (by simp [AL.get?, hi])]
    · rename_i hi
      rw [ih fun v hv => h v (by simpa [AL.get?, hi] using hv)]

/-- Two changes of one record are one. -/
theorem AL.upd_upd {α : Type} (l : AL α) (k : Nat) (f g : α → α) : (AL.upd l k f).upd k g = AL.upd l k fun v => g (f v) := by
  induction l with
  | nil => rfl
  | cons e r ih =>
    obtain ⟨i, u⟩ := e
    by_cases hi : i = k
    · simp [AL.upd, hi]
    · simp [AL.upd, hi, ih]

end Sys2Proof.Machine
end

