-- ==== Sys2Proof/Laws/State.lean ====
section
/-!
SUPPORT. What each update of the state leaves: one lemma per field and update, so that no proof unfolds a record update; and what a
changed team, block, core, partition or register reads as.
-/
namespace Sys2Proof.Machine

set_option Elab.async false

/-! ## updTeam -/

@[simp] theorem State.updTeam_mem (s : State) (z : Nat) (g : Team → Team) : (s.updTeam z g).mem = s.mem := rfl
@[simp] theorem State.updTeam_memP (s : State) (z : Nat) (g : Team → Team) : (s.updTeam z g).memP = s.memP := rfl
@[simp] theorem State.updTeam_views (s : State) (z : Nat) (g : Team → Team) : (s.updTeam z g).views = s.views := rfl
@[simp] theorem State.updTeam_spad (s : State) (z : Nat) (g : Team → Team) : (s.updTeam z g).spad = s.spad := rfl
@[simp] theorem State.updTeam_spadP (s : State) (z : Nat) (g : Team → Team) : (s.updTeam z g).spadP = s.spadP := rfl
@[simp] theorem State.updTeam_acc (s : State) (z : Nat) (g : Team → Team) : (s.updTeam z g).acc = s.acc := rfl
@[simp] theorem State.updTeam_accP (s : State) (z : Nat) (g : Team → Team) : (s.updTeam z g).accP = s.accP := rfl
@[simp] theorem State.updTeam_regs (s : State) (z : Nat) (g : Team → Team) : (s.updTeam z g).regs = s.regs := rfl
@[simp] theorem State.updTeam_dfilter (s : State) (z : Nat) (g : Team → Team) : (s.updTeam z g).dfilter = s.dfilter := rfl
@[simp] theorem State.updTeam_artNow (s : State) (z : Nat) (g : Team → Team) : (s.updTeam z g).artNow = s.artNow := rfl
@[simp] theorem State.updTeam_wayNow (s : State) (z : Nat) (g : Team → Team) : (s.updTeam z g).wayNow = s.wayNow := rfl
@[simp] theorem State.updTeam_blocks (s : State) (z : Nat) (g : Team → Team) : (s.updTeam z g).blocks = s.blocks := rfl
@[simp] theorem State.updTeam_launches (s : State) (z : Nat) (g : Team → Team) : (s.updTeam z g).launches = s.launches := rfl
@[simp] theorem State.updTeam_copies (s : State) (z : Nat) (g : Team → Team) : (s.updTeam z g).copies = s.copies := rfl
@[simp] theorem State.updTeam_recalls (s : State) (z : Nat) (g : Team → Team) : (s.updTeam z g).recalls = s.recalls := rfl
@[simp] theorem State.updTeam_cores (s : State) (z : Nat) (g : Team → Team) : (s.updTeam z g).cores = s.cores := rfl
@[simp] theorem State.updTeam_parts (s : State) (z : Nat) (g : Team → Team) : (s.updTeam z g).parts = s.parts := rfl
@[simp] theorem State.updTeam_cxq (s : State) (z : Nat) (g : Team → Team) : (s.updTeam z g).cxq = s.cxq := rfl
@[simp] theorem State.updTeam_agenda (s : State) (z : Nat) (g : Team → Team) : (s.updTeam z g).agenda = s.agenda := rfl
@[simp] theorem State.updTeam_out (s : State) (z : Nat) (g : Team → Team) : (s.updTeam z g).out = s.out := rfl
@[simp] theorem State.updTeam_clock (s : State) (z : Nat) (g : Team → Team) : (s.updTeam z g).clock = s.clock := rfl
@[simp] theorem State.updTeam_ticked (s : State) (z : Nat) (g : Team → Team) : (s.updTeam z g).ticked = s.ticked := rfl
@[simp] theorem State.updTeam_tick (s : State) (z : Nat) (g : Team → Team) : (s.updTeam z g).tick = s.tick := rfl
@[simp] theorem State.updTeam_bstop (s : State) (z : Nat) (g : Team → Team) : (s.updTeam z g).bstop = s.bstop := rfl
@[simp] theorem State.updTeam_msgs (s : State) (z : Nat) (g : Team → Team) : (s.updTeam z g).msgs = s.msgs := rfl
@[simp] theorem State.updTeam_parks (s : State) (z : Nat) (g : Team → Team) : (s.updTeam z g).parks = s.parks := rfl
@[simp] theorem State.updTeam_captured (s : State) (z : Nat) (g : Team → Team) : (s.updTeam z g).captured = s.captured := rfl
@[simp] theorem State.updTeam_l2 (s : State) (z : Nat) (g : Team → Team) : (s.updTeam z g).l2 = s.l2 := rfl
@[simp] theorem State.updTeam_fused (s : State) (z : Nat) (g : Team → Team) : (s.updTeam z g).fused = s.fused := rfl
@[simp] theorem State.updTeam_fusing (s : State) (z : Nat) (g : Team → Team) : (s.updTeam z g).fusing = s.fusing := rfl
@[simp] theorem State.updTeam_holds (s : State) (z : Nat) (g : Team → Team) : (s.updTeam z g).holds = s.holds := rfl
@[simp] theorem State.updTeam_pins (s : State) (z : Nat) (g : Team → Team) : (s.updTeam z g).pins = s.pins := rfl
@[simp] theorem State.updTeam_qslots (s : State) (z : Nat) (g : Team → Team) : (s.updTeam z g).qslots = s.qslots := rfl
@[simp] theorem State.updTeam_pendq (s : State) (z : Nat) (g : Team → Team) : (s.updTeam z g).pendq = s.pendq := rfl
@[simp] theorem State.updTeam_launchNo (s : State) (z : Nat) (g : Team → Team) : (s.updTeam z g).launchNo = s.launchNo := rfl
@[simp] theorem State.updTeam_disp (s : State) (z : Nat) (g : Team → Team) : (s.updTeam z g).disp = s.disp := rfl
@[simp] theorem State.updTeam_cx (s : State) (z : Nat) (g : Team → Team) : (s.updTeam z g).cx = s.cx := rfl
@[simp] theorem State.updTeam_cxHeld (s : State) (z : Nat) (g : Team → Team) : (s.updTeam z g).cxHeld = s.cxHeld := rfl
@[simp] theorem State.updTeam_restores (s : State) (z : Nat) (g : Team → Team) : (s.updTeam z g).restores = s.restores := rfl
@[simp] theorem State.updTeam_forks (s : State) (z : Nat) (g : Team → Team) : (s.updTeam z g).forks = s.forks := rfl
@[simp] theorem State.updTeam_ports (s : State) (z : Nat) (g : Team → Team) : (s.updTeam z g).ports = s.ports := rfl
@[simp] theorem State.updTeam_sess (s : State) (z : Nat) (g : Team → Team) : (s.updTeam z g).sess = s.sess := rfl
@[simp] theorem State.updTeam_paused (s : State) (z : Nat) (g : Team → Team) : (s.updTeam z g).paused = s.paused := rfl
@[simp] theorem State.updTeam_plat (s : State) (z : Nat) (g : Team → Team) : (s.updTeam z g).plat = s.plat := rfl
@[simp] theorem State.updTeam_fresh (s : State) (z : Nat) (g : Team → Team) : (s.updTeam z g).fresh = s.fresh := rfl
@[simp] theorem State.updTeam_nextId (s : State) (z : Nat) (g : Team → Team) : (s.updTeam z g).nextId = s.nextId := rfl
@[simp] theorem State.updTeam_cur (s : State) (z : Nat) (g : Team → Team) : (s.updTeam z g).cur = s.cur := rfl
@[simp] theorem State.updTeam_turns (s : State) (z : Nat) (g : Team → Team) : (s.updTeam z g).turns = s.turns := rfl
@[simp] theorem State.updTeam_far (s : State) (z : Nat) (g : Team → Team) : (s.updTeam z g).far = s.far := rfl
@[simp] theorem State.updTeam_txWait (s : State) (z : Nat) (g : Team → Team) : (s.updTeam z g).txWait = s.txWait := rfl
@[simp] theorem State.updTeam_coreMap (s : State) (z : Nat) (g : Team → Team) : (s.updTeam z g).coreMap = s.coreMap := rfl
@[simp] theorem State.updTeam_walkers (s : State) (z : Nat) (g : Team → Team) : (s.updTeam z g).walkers = s.walkers := rfl
@[simp] theorem State.updTeam_portAt (s : State) (z : Nat) (g : Team → Team) : (s.updTeam z g).portAt = s.portAt := rfl

/-! ## updBlock -/

@[simp] theorem State.updBlock_mem (s : State) (k : Nat) (g : Block → Block) : (s.updBlock k g).mem = s.mem := rfl
@[simp] theorem State.updBlock_memP (s : State) (k : Nat) (g : Block → Block) : (s.updBlock k g).memP = s.memP := rfl
@[simp] theorem State.updBlock_views (s : State) (k : Nat) (g : Block → Block) : (s.updBlock k g).views = s.views := rfl
@[simp] theorem State.updBlock_spad (s : State) (k : Nat) (g : Block → Block) : (s.updBlock k g).spad = s.spad := rfl
@[simp] theorem State.updBlock_spadP (s : State) (k : Nat) (g : Block → Block) : (s.updBlock k g).spadP = s.spadP := rfl
@[simp] theorem State.updBlock_acc (s : State) (k : Nat) (g : Block → Block) : (s.updBlock k g).acc = s.acc := rfl
@[simp] theorem State.updBlock_accP (s : State) (k : Nat) (g : Block → Block) : (s.updBlock k g).accP = s.accP := rfl
@[simp] theorem State.updBlock_regs (s : State) (k : Nat) (g : Block → Block) : (s.updBlock k g).regs = s.regs := rfl
@[simp] theorem State.updBlock_dfilter (s : State) (k : Nat) (g : Block → Block) : (s.updBlock k g).dfilter = s.dfilter := rfl
@[simp] theorem State.updBlock_artNow (s : State) (k : Nat) (g : Block → Block) : (s.updBlock k g).artNow = s.artNow := rfl
@[simp] theorem State.updBlock_wayNow (s : State) (k : Nat) (g : Block → Block) : (s.updBlock k g).wayNow = s.wayNow := rfl
@[simp] theorem State.updBlock_teams (s : State) (k : Nat) (g : Block → Block) : (s.updBlock k g).teams = s.teams := rfl
@[simp] theorem State.updBlock_launches (s : State) (k : Nat) (g : Block → Block) : (s.updBlock k g).launches = s.launches := rfl
@[simp] theorem State.updBlock_copies (s : State) (k : Nat) (g : Block → Block) : (s.updBlock k g).copies = s.copies := rfl
@[simp] theorem State.updBlock_recalls (s : State) (k : Nat) (g : Block → Block) : (s.updBlock k g).recalls = s.recalls := rfl
@[simp] theorem State.updBlock_cores (s : State) (k : Nat) (g : Block → Block) : (s.updBlock k g).cores = s.cores := rfl
@[simp] theorem State.updBlock_parts (s : State) (k : Nat) (g : Block → Block) : (s.updBlock k g).parts = s.parts := rfl
@[simp] theorem State.updBlock_cxq (s : State) (k : Nat) (g : Block → Block) : (s.updBlock k g).cxq = s.cxq := rfl
@[simp] theorem State.updBlock_agenda (s : State) (k : Nat) (g : Block → Block) : (s.updBlock k g).agenda = s.agenda := rfl
@[simp] theorem State.updBlock_out (s : State) (k : Nat) (g : Block → Block) : (s.updBlock k g).out = s.out := rfl
@[simp] theorem State.updBlock_clock (s : State) (k : Nat) (g : Block → Block) : (s.updBlock k g).clock = s.clock := rfl
@[simp] theorem State.updBlock_ticked (s : State) (k : Nat) (g : Block → Block) : (s.updBlock k g).ticked = s.ticked := rfl
@[simp] theorem State.updBlock_tick (s : State) (k : Nat) (g : Block → Block) : (s.updBlock k g).tick = s.tick := rfl
@[simp] theorem State.updBlock_bstop (s : State) (k : Nat) (g : Block → Block) : (s.updBlock k g).bstop = s.bstop := rfl
@[simp] theorem State.updBlock_msgs (s : State) (k : Nat) (g : Block → Block) : (s.updBlock k g).msgs = s.msgs := rfl
@[simp] theorem State.updBlock_parks (s : State) (k : Nat) (g : Block → Block) : (s.updBlock k g).parks = s.parks := rfl
@[simp] theorem State.updBlock_captured (s : State) (k : Nat) (g : Block → Block) : (s.updBlock k g).captured = s.captured := rfl
@[simp] theorem State.updBlock_l2 (s : State) (k : Nat) (g : Block → Block) : (s.updBlock k g).l2 = s.l2 := rfl
@[simp] theorem State.updBlock_fused (s : State) (k : Nat) (g : Block → Block) : (s.updBlock k g).fused = s.fused := rfl
@[simp] theorem State.updBlock_fusing (s : State) (k : Nat) (g : Block → Block) : (s.updBlock k g).fusing = s.fusing := rfl
@[simp] theorem State.updBlock_holds (s : State) (k : Nat) (g : Block → Block) : (s.updBlock k g).holds = s.holds := rfl
@[simp] theorem State.updBlock_pins (s : State) (k : Nat) (g : Block → Block) : (s.updBlock k g).pins = s.pins := rfl
@[simp] theorem State.updBlock_qslots (s : State) (k : Nat) (g : Block → Block) : (s.updBlock k g).qslots = s.qslots := rfl
@[simp] theorem State.updBlock_pendq (s : State) (k : Nat) (g : Block → Block) : (s.updBlock k g).pendq = s.pendq := rfl
@[simp] theorem State.updBlock_launchNo (s : State) (k : Nat) (g : Block → Block) : (s.updBlock k g).launchNo = s.launchNo := rfl
@[simp] theorem State.updBlock_disp (s : State) (k : Nat) (g : Block → Block) : (s.updBlock k g).disp = s.disp := rfl
@[simp] theorem State.updBlock_cx (s : State) (k : Nat) (g : Block → Block) : (s.updBlock k g).cx = s.cx := rfl
@[simp] theorem State.updBlock_cxHeld (s : State) (k : Nat) (g : Block → Block) : (s.updBlock k g).cxHeld = s.cxHeld := rfl
@[simp] theorem State.updBlock_restores (s : State) (k : Nat) (g : Block → Block) : (s.updBlock k g).restores = s.restores := rfl
@[simp] theorem State.updBlock_forks (s : State) (k : Nat) (g : Block → Block) : (s.updBlock k g).forks = s.forks := rfl
@[simp] theorem State.updBlock_ports (s : State) (k : Nat) (g : Block → Block) : (s.updBlock k g).ports = s.ports := rfl
@[simp] theorem State.updBlock_sess (s : State) (k : Nat) (g : Block → Block) : (s.updBlock k g).sess = s.sess := rfl
@[simp] theorem State.updBlock_paused (s : State) (k : Nat) (g : Block → Block) : (s.updBlock k g).paused = s.paused := rfl
@[simp] theorem State.updBlock_plat (s : State) (k : Nat) (g : Block → Block) : (s.updBlock k g).plat = s.plat := rfl
@[simp] theorem State.updBlock_fresh (s : State) (k : Nat) (g : Block → Block) : (s.updBlock k g).fresh = s.fresh := rfl
@[simp] theorem State.updBlock_nextId (s : State) (k : Nat) (g : Block → Block) : (s.updBlock k g).nextId = s.nextId := rfl
@[simp] theorem State.updBlock_cur (s : State) (k : Nat) (g : Block → Block) : (s.updBlock k g).cur = s.cur := rfl
@[simp] theorem State.updBlock_turns (s : State) (k : Nat) (g : Block → Block) : (s.updBlock k g).turns = s.turns := rfl
@[simp] theorem State.updBlock_far (s : State) (k : Nat) (g : Block → Block) : (s.updBlock k g).far = s.far := rfl
@[simp] theorem State.updBlock_txWait (s : State) (k : Nat) (g : Block → Block) : (s.updBlock k g).txWait = s.txWait := rfl
@[simp] theorem State.updBlock_coreMap (s : State) (k : Nat) (g : Block → Block) : (s.updBlock k g).coreMap = s.coreMap := rfl
@[simp] theorem State.updBlock_walkers (s : State) (k : Nat) (g : Block → Block) : (s.updBlock k g).walkers = s.walkers := rfl
@[simp] theorem State.updBlock_portAt (s : State) (k : Nat) (g : Block → Block) : (s.updBlock k g).portAt = s.portAt := rfl

/-! ## updCore -/

@[simp] theorem State.updCore_mem (s : State) (k : Nat) (g : CoreSt → CoreSt) : (s.updCore k g).mem = s.mem := rfl
@[simp] theorem State.updCore_memP (s : State) (k : Nat) (g : CoreSt → CoreSt) : (s.updCore k g).memP = s.memP := rfl
@[simp] theorem State.updCore_views (s : State) (k : Nat) (g : CoreSt → CoreSt) : (s.updCore k g).views = s.views := rfl
@[simp] theorem State.updCore_spad (s : State) (k : Nat) (g : CoreSt → CoreSt) : (s.updCore k g).spad = s.spad := rfl
@[simp] theorem State.updCore_spadP (s : State) (k : Nat) (g : CoreSt → CoreSt) : (s.updCore k g).spadP = s.spadP := rfl
@[simp] theorem State.updCore_acc (s : State) (k : Nat) (g : CoreSt → CoreSt) : (s.updCore k g).acc = s.acc := rfl
@[simp] theorem State.updCore_accP (s : State) (k : Nat) (g : CoreSt → CoreSt) : (s.updCore k g).accP = s.accP := rfl
@[simp] theorem State.updCore_regs (s : State) (k : Nat) (g : CoreSt → CoreSt) : (s.updCore k g).regs = s.regs := rfl
@[simp] theorem State.updCore_dfilter (s : State) (k : Nat) (g : CoreSt → CoreSt) : (s.updCore k g).dfilter = s.dfilter := rfl
@[simp] theorem State.updCore_artNow (s : State) (k : Nat) (g : CoreSt → CoreSt) : (s.updCore k g).artNow = s.artNow := rfl
@[simp] theorem State.updCore_wayNow (s : State) (k : Nat) (g : CoreSt → CoreSt) : (s.updCore k g).wayNow = s.wayNow := rfl
@[simp] theorem State.updCore_teams (s : State) (k : Nat) (g : CoreSt → CoreSt) : (s.updCore k g).teams = s.teams := rfl
@[simp] theorem State.updCore_blocks (s : State) (k : Nat) (g : CoreSt → CoreSt) : (s.updCore k g).blocks = s.blocks := rfl
@[simp] theorem State.updCore_launches (s : State) (k : Nat) (g : CoreSt → CoreSt) : (s.updCore k g).launches = s.launches := rfl
@[simp] theorem State.updCore_copies (s : State) (k : Nat) (g : CoreSt → CoreSt) : (s.updCore k g).copies = s.copies := rfl
@[simp] theorem State.updCore_recalls (s : State) (k : Nat) (g : CoreSt → CoreSt) : (s.updCore k g).recalls = s.recalls := rfl
@[simp] theorem State.updCore_parts (s : State) (k : Nat) (g : CoreSt → CoreSt) : (s.updCore k g).parts = s.parts := rfl
@[simp] theorem State.updCore_cxq (s : State) (k : Nat) (g : CoreSt → CoreSt) : (s.updCore k g).cxq = s.cxq := rfl
@[simp] theorem State.updCore_agenda (s : State) (k : Nat) (g : CoreSt → CoreSt) : (s.updCore k g).agenda = s.agenda := rfl
@[simp] theorem State.updCore_out (s : State) (k : Nat) (g : CoreSt → CoreSt) : (s.updCore k g).out = s.out := rfl
@[simp] theorem State.updCore_clock (s : State) (k : Nat) (g : CoreSt → CoreSt) : (s.updCore k g).clock = s.clock := rfl
@[simp] theorem State.updCore_ticked (s : State) (k : Nat) (g : CoreSt → CoreSt) : (s.updCore k g).ticked = s.ticked := rfl
@[simp] theorem State.updCore_tick (s : State) (k : Nat) (g : CoreSt → CoreSt) : (s.updCore k g).tick = s.tick := rfl
@[simp] theorem State.updCore_bstop (s : State) (k : Nat) (g : CoreSt → CoreSt) : (s.updCore k g).bstop = s.bstop := rfl
@[simp] theorem State.updCore_msgs (s : State) (k : Nat) (g : CoreSt → CoreSt) : (s.updCore k g).msgs = s.msgs := rfl
@[simp] theorem State.updCore_parks (s : State) (k : Nat) (g : CoreSt → CoreSt) : (s.updCore k g).parks = s.parks := rfl
@[simp] theorem State.updCore_captured (s : State) (k : Nat) (g : CoreSt → CoreSt) : (s.updCore k g).captured = s.captured := rfl
@[simp] theorem State.updCore_l2 (s : State) (k : Nat) (g : CoreSt → CoreSt) : (s.updCore k g).l2 = s.l2 := rfl
@[simp] theorem State.updCore_fused (s : State) (k : Nat) (g : CoreSt → CoreSt) : (s.updCore k g).fused = s.fused := rfl
@[simp] theorem State.updCore_fusing (s : State) (k : Nat) (g : CoreSt → CoreSt) : (s.updCore k g).fusing = s.fusing := rfl
@[simp] theorem State.updCore_holds (s : State) (k : Nat) (g : CoreSt → CoreSt) : (s.updCore k g).holds = s.holds := rfl
@[simp] theorem State.updCore_pins (s : State) (k : Nat) (g : CoreSt → CoreSt) : (s.updCore k g).pins = s.pins := rfl
@[simp] theorem State.updCore_qslots (s : State) (k : Nat) (g : CoreSt → CoreSt) : (s.updCore k g).qslots = s.qslots := rfl
@[simp] theorem State.updCore_pendq (s : State) (k : Nat) (g : CoreSt → CoreSt) : (s.updCore k g).pendq = s.pendq := rfl
@[simp] theorem State.updCore_launchNo (s : State) (k : Nat) (g : CoreSt → CoreSt) : (s.updCore k g).launchNo = s.launchNo := rfl
@[simp] theorem State.updCore_disp (s : State) (k : Nat) (g : CoreSt → CoreSt) : (s.updCore k g).disp = s.disp := rfl
@[simp] theorem State.updCore_cx (s : State) (k : Nat) (g : CoreSt → CoreSt) : (s.updCore k g).cx = s.cx := rfl
@[simp] theorem State.updCore_cxHeld (s : State) (k : Nat) (g : CoreSt → CoreSt) : (s.updCore k g).cxHeld = s.cxHeld := rfl
@[simp] theorem State.updCore_restores (s : State) (k : Nat) (g : CoreSt → CoreSt) : (s.updCore k g).restores = s.restores := rfl
@[simp] theorem State.updCore_forks (s : State) (k : Nat) (g : CoreSt → CoreSt) : (s.updCore k g).forks = s.forks := rfl
@[simp] theorem State.updCore_ports (s : State) (k : Nat) (g : CoreSt → CoreSt) : (s.updCore k g).ports = s.ports := rfl
@[simp] theorem State.updCore_sess (s : State) (k : Nat) (g : CoreSt → CoreSt) : (s.updCore k g).sess = s.sess := rfl
@[simp] theorem State.updCore_paused (s : State) (k : Nat) (g : CoreSt → CoreSt) : (s.updCore k g).paused = s.paused := rfl
@[simp] theorem State.updCore_plat (s : State) (k : Nat) (g : CoreSt → CoreSt) : (s.updCore k g).plat = s.plat := rfl
@[simp] theorem State.updCore_fresh (s : State) (k : Nat) (g : CoreSt → CoreSt) : (s.updCore k g).fresh = s.fresh := rfl
@[simp] theorem State.updCore_nextId (s : State) (k : Nat) (g : CoreSt → CoreSt) : (s.updCore k g).nextId = s.nextId := rfl
@[simp] theorem State.updCore_cur (s : State) (k : Nat) (g : CoreSt → CoreSt) : (s.updCore k g).cur = s.cur := rfl
@[simp] theorem State.updCore_turns (s : State) (k : Nat) (g : CoreSt → CoreSt) : (s.updCore k g).turns = s.turns := rfl
@[simp] theorem State.updCore_far (s : State) (k : Nat) (g : CoreSt → CoreSt) : (s.updCore k g).far = s.far := rfl
@[simp] theorem State.updCore_txWait (s : State) (k : Nat) (g : CoreSt → CoreSt) : (s.updCore k g).txWait = s.txWait := rfl
@[simp] theorem State.updCore_coreMap (s : State) (k : Nat) (g : CoreSt → CoreSt) : (s.updCore k g).coreMap = s.coreMap := rfl
@[simp] theorem State.updCore_walkers (s : State) (k : Nat) (g : CoreSt → CoreSt) : (s.updCore k g).walkers = s.walkers := rfl
@[simp] theorem State.updCore_portAt (s : State) (k : Nat) (g : CoreSt → CoreSt) : (s.updCore k g).portAt = s.portAt := rfl

/-! ## updPart -/

@[simp] theorem State.updPart_mem (s : State) (k : Nat) (g : Part → Part) : (s.updPart k g).mem = s.mem := rfl
@[simp] theorem State.updPart_memP (s : State) (k : Nat) (g : Part → Part) : (s.updPart k g).memP = s.memP := rfl
@[simp] theorem State.updPart_views (s : State) (k : Nat) (g : Part → Part) : (s.updPart k g).views = s.views := rfl
@[simp] theorem State.updPart_spad (s : State) (k : Nat) (g : Part → Part) : (s.updPart k g).spad = s.spad := rfl
@[simp] theorem State.updPart_spadP (s : State) (k : Nat) (g : Part → Part) : (s.updPart k g).spadP = s.spadP := rfl
@[simp] theorem State.updPart_acc (s : State) (k : Nat) (g : Part → Part) : (s.updPart k g).acc = s.acc := rfl
@[simp] theorem State.updPart_accP (s : State) (k : Nat) (g : Part → Part) : (s.updPart k g).accP = s.accP := rfl
@[simp] theorem State.updPart_regs (s : State) (k : Nat) (g : Part → Part) : (s.updPart k g).regs = s.regs := rfl
@[simp] theorem State.updPart_dfilter (s : State) (k : Nat) (g : Part → Part) : (s.updPart k g).dfilter = s.dfilter := rfl
@[simp] theorem State.updPart_artNow (s : State) (k : Nat) (g : Part → Part) : (s.updPart k g).artNow = s.artNow := rfl
@[simp] theorem State.updPart_wayNow (s : State) (k : Nat) (g : Part → Part) : (s.updPart k g).wayNow = s.wayNow := rfl
@[simp] theorem State.updPart_teams (s : State) (k : Nat) (g : Part → Part) : (s.updPart k g).teams = s.teams := rfl
@[simp] theorem State.updPart_blocks (s : State) (k : Nat) (g : Part → Part) : (s.updPart k g).blocks = s.blocks := rfl
@[simp] theorem State.updPart_launches (s : State) (k : Nat) (g : Part → Part) : (s.updPart k g).launches = s.launches := rfl
@[simp] theorem State.updPart_copies (s : State) (k : Nat) (g : Part → Part) : (s.updPart k g).copies = s.copies := rfl
@[simp] theorem State.updPart_recalls (s : State) (k : Nat) (g : Part → Part) : (s.updPart k g).recalls = s.recalls := rfl
@[simp] theorem State.updPart_cores (s : State) (k : Nat) (g : Part → Part) : (s.updPart k g).cores = s.cores := rfl
@[simp] theorem State.updPart_cxq (s : State) (k : Nat) (g : Part → Part) : (s.updPart k g).cxq = s.cxq := rfl
@[simp] theorem State.updPart_agenda (s : State) (k : Nat) (g : Part → Part) : (s.updPart k g).agenda = s.agenda := rfl
@[simp] theorem State.updPart_out (s : State) (k : Nat) (g : Part → Part) : (s.updPart k g).out = s.out := rfl
@[simp] theorem State.updPart_clock (s : State) (k : Nat) (g : Part → Part) : (s.updPart k g).clock = s.clock := rfl
@[simp] theorem State.updPart_ticked (s : State) (k : Nat) (g : Part → Part) : (s.updPart k g).ticked = s.ticked := rfl
@[simp] theorem State.updPart_tick (s : State) (k : Nat) (g : Part → Part) : (s.updPart k g).tick = s.tick := rfl
@[simp] theorem State.updPart_bstop (s : State) (k : Nat) (g : Part → Part) : (s.updPart k g).bstop = s.bstop := rfl
@[simp] theorem State.updPart_msgs (s : State) (k : Nat) (g : Part → Part) : (s.updPart k g).msgs = s.msgs := rfl
@[simp] theorem State.updPart_parks (s : State) (k : Nat) (g : Part → Part) : (s.updPart k g).parks = s.parks := rfl
@[simp] theorem State.updPart_captured (s : State) (k : Nat) (g : Part → Part) : (s.updPart k g).captured = s.captured := rfl
@[simp] theorem State.updPart_l2 (s : State) (k : Nat) (g : Part → Part) : (s.updPart k g).l2 = s.l2 := rfl
@[simp] theorem State.updPart_fused (s : State) (k : Nat) (g : Part → Part) : (s.updPart k g).fused = s.fused := rfl
@[simp] theorem State.updPart_fusing (s : State) (k : Nat) (g : Part → Part) : (s.updPart k g).fusing = s.fusing := rfl
@[simp] theorem State.updPart_holds (s : State) (k : Nat) (g : Part → Part) : (s.updPart k g).holds = s.holds := rfl
@[simp] theorem State.updPart_pins (s : State) (k : Nat) (g : Part → Part) : (s.updPart k g).pins = s.pins := rfl
@[simp] theorem State.updPart_qslots (s : State) (k : Nat) (g : Part → Part) : (s.updPart k g).qslots = s.qslots := rfl
@[simp] theorem State.updPart_pendq (s : State) (k : Nat) (g : Part → Part) : (s.updPart k g).pendq = s.pendq := rfl
@[simp] theorem State.updPart_launchNo (s : State) (k : Nat) (g : Part → Part) : (s.updPart k g).launchNo = s.launchNo := rfl
@[simp] theorem State.updPart_disp (s : State) (k : Nat) (g : Part → Part) : (s.updPart k g).disp = s.disp := rfl
@[simp] theorem State.updPart_cx (s : State) (k : Nat) (g : Part → Part) : (s.updPart k g).cx = s.cx := rfl
@[simp] theorem State.updPart_cxHeld (s : State) (k : Nat) (g : Part → Part) : (s.updPart k g).cxHeld = s.cxHeld := rfl
@[simp] theorem State.updPart_restores (s : State) (k : Nat) (g : Part → Part) : (s.updPart k g).restores = s.restores := rfl
@[simp] theorem State.updPart_forks (s : State) (k : Nat) (g : Part → Part) : (s.updPart k g).forks = s.forks := rfl
@[simp] theorem State.updPart_ports (s : State) (k : Nat) (g : Part → Part) : (s.updPart k g).ports = s.ports := rfl
@[simp] theorem State.updPart_sess (s : State) (k : Nat) (g : Part → Part) : (s.updPart k g).sess = s.sess := rfl
@[simp] theorem State.updPart_paused (s : State) (k : Nat) (g : Part → Part) : (s.updPart k g).paused = s.paused := rfl
@[simp] theorem State.updPart_plat (s : State) (k : Nat) (g : Part → Part) : (s.updPart k g).plat = s.plat := rfl
@[simp] theorem State.updPart_fresh (s : State) (k : Nat) (g : Part → Part) : (s.updPart k g).fresh = s.fresh := rfl
@[simp] theorem State.updPart_nextId (s : State) (k : Nat) (g : Part → Part) : (s.updPart k g).nextId = s.nextId := rfl
@[simp] theorem State.updPart_cur (s : State) (k : Nat) (g : Part → Part) : (s.updPart k g).cur = s.cur := rfl
@[simp] theorem State.updPart_turns (s : State) (k : Nat) (g : Part → Part) : (s.updPart k g).turns = s.turns := rfl
@[simp] theorem State.updPart_far (s : State) (k : Nat) (g : Part → Part) : (s.updPart k g).far = s.far := rfl
@[simp] theorem State.updPart_txWait (s : State) (k : Nat) (g : Part → Part) : (s.updPart k g).txWait = s.txWait := rfl
@[simp] theorem State.updPart_coreMap (s : State) (k : Nat) (g : Part → Part) : (s.updPart k g).coreMap = s.coreMap := rfl
@[simp] theorem State.updPart_walkers (s : State) (k : Nat) (g : Part → Part) : (s.updPart k g).walkers = s.walkers := rfl
@[simp] theorem State.updPart_portAt (s : State) (k : Nat) (g : Part → Part) : (s.updPart k g).portAt = s.portAt := rfl

/-! ## setReg -/

@[simp] theorem State.setReg_mem (s : State) (off : Nat) (v : Word) : (s.setReg off v).mem = s.mem := rfl
@[simp] theorem State.setReg_memP (s : State) (off : Nat) (v : Word) : (s.setReg off v).memP = s.memP := rfl
@[simp] theorem State.setReg_views (s : State) (off : Nat) (v : Word) : (s.setReg off v).views = s.views := rfl
@[simp] theorem State.setReg_spad (s : State) (off : Nat) (v : Word) : (s.setReg off v).spad = s.spad := rfl
@[simp] theorem State.setReg_spadP (s : State) (off : Nat) (v : Word) : (s.setReg off v).spadP = s.spadP := rfl
@[simp] theorem State.setReg_acc (s : State) (off : Nat) (v : Word) : (s.setReg off v).acc = s.acc := rfl
@[simp] theorem State.setReg_accP (s : State) (off : Nat) (v : Word) : (s.setReg off v).accP = s.accP := rfl
@[simp] theorem State.setReg_dfilter (s : State) (off : Nat) (v : Word) : (s.setReg off v).dfilter = s.dfilter := rfl
@[simp] theorem State.setReg_artNow (s : State) (off : Nat) (v : Word) : (s.setReg off v).artNow = s.artNow := rfl
@[simp] theorem State.setReg_wayNow (s : State) (off : Nat) (v : Word) : (s.setReg off v).wayNow = s.wayNow := rfl
@[simp] theorem State.setReg_teams (s : State) (off : Nat) (v : Word) : (s.setReg off v).teams = s.teams := rfl
@[simp] theorem State.setReg_blocks (s : State) (off : Nat) (v : Word) : (s.setReg off v).blocks = s.blocks := rfl
@[simp] theorem State.setReg_launches (s : State) (off : Nat) (v : Word) : (s.setReg off v).launches = s.launches := rfl
@[simp] theorem State.setReg_copies (s : State) (off : Nat) (v : Word) : (s.setReg off v).copies = s.copies := rfl
@[simp] theorem State.setReg_recalls (s : State) (off : Nat) (v : Word) : (s.setReg off v).recalls = s.recalls := rfl
@[simp] theorem State.setReg_cores (s : State) (off : Nat) (v : Word) : (s.setReg off v).cores = s.cores := rfl
@[simp] theorem State.setReg_parts (s : State) (off : Nat) (v : Word) : (s.setReg off v).parts = s.parts := rfl
@[simp] theorem State.setReg_cxq (s : State) (off : Nat) (v : Word) : (s.setReg off v).cxq = s.cxq := rfl
@[simp] theorem State.setReg_agenda (s : State) (off : Nat) (v : Word) : (s.setReg off v).agenda = s.agenda := rfl
@[simp] theorem State.setReg_out (s : State) (off : Nat) (v : Word) : (s.setReg off v).out = s.out := rfl
@[simp] theorem State.setReg_clock (s : State) (off : Nat) (v : Word) : (s.setReg off v).clock = s.clock := rfl
@[simp] theorem State.setReg_ticked (s : State) (off : Nat) (v : Word) : (s.setReg off v).ticked = s.ticked := rfl
@[simp] theorem State.setReg_tick (s : State) (off : Nat) (v : Word) : (s.setReg off v).tick = s.tick := rfl
@[simp] theorem State.setReg_bstop (s : State) (off : Nat) (v : Word) : (s.setReg off v).bstop = s.bstop := rfl
@[simp] theorem State.setReg_msgs (s : State) (off : Nat) (v : Word) : (s.setReg off v).msgs = s.msgs := rfl
@[simp] theorem State.setReg_parks (s : State) (off : Nat) (v : Word) : (s.setReg off v).parks = s.parks := rfl
@[simp] theorem State.setReg_captured (s : State) (off : Nat) (v : Word) : (s.setReg off v).captured = s.captured := rfl
@[simp] theorem State.setReg_l2 (s : State) (off : Nat) (v : Word) : (s.setReg off v).l2 = s.l2 := rfl
@[simp] theorem State.setReg_fused (s : State) (off : Nat) (v : Word) : (s.setReg off v).fused = s.fused := rfl
@[simp] theorem State.setReg_fusing (s : State) (off : Nat) (v : Word) : (s.setReg off v).fusing = s.fusing := rfl
@[simp] theorem State.setReg_holds (s : State) (off : Nat) (v : Word) : (s.setReg off v).holds = s.holds := rfl
@[simp] theorem State.setReg_pins (s : State) (off : Nat) (v : Word) : (s.setReg off v).pins = s.pins := rfl
@[simp] theorem State.setReg_qslots (s : State) (off : Nat) (v : Word) : (s.setReg off v).qslots = s.qslots := rfl
@[simp] theorem State.setReg_pendq (s : State) (off : Nat) (v : Word) : (s.setReg off v).pendq = s.pendq := rfl
@[simp] theorem State.setReg_launchNo (s : State) (off : Nat) (v : Word) : (s.setReg off v).launchNo = s.launchNo := rfl
@[simp] theorem State.setReg_disp (s : State) (off : Nat) (v : Word) : (s.setReg off v).disp = s.disp := rfl
@[simp] theorem State.setReg_cx (s : State) (off : Nat) (v : Word) : (s.setReg off v).cx = s.cx := rfl
@[simp] theorem State.setReg_cxHeld (s : State) (off : Nat) (v : Word) : (s.setReg off v).cxHeld = s.cxHeld := rfl
@[simp] theorem State.setReg_restores (s : State) (off : Nat) (v : Word) : (s.setReg off v).restores = s.restores := rfl
@[simp] theorem State.setReg_forks (s : State) (off : Nat) (v : Word) : (s.setReg off v).forks = s.forks := rfl
@[simp] theorem State.setReg_ports (s : State) (off : Nat) (v : Word) : (s.setReg off v).ports = s.ports := rfl
@[simp] theorem State.setReg_sess (s : State) (off : Nat) (v : Word) : (s.setReg off v).sess = s.sess := rfl
@[simp] theorem State.setReg_paused (s : State) (off : Nat) (v : Word) : (s.setReg off v).paused = s.paused := rfl
@[simp] theorem State.setReg_plat (s : State) (off : Nat) (v : Word) : (s.setReg off v).plat = s.plat := rfl
@[simp] theorem State.setReg_fresh (s : State) (off : Nat) (v : Word) : (s.setReg off v).fresh = s.fresh := rfl
@[simp] theorem State.setReg_nextId (s : State) (off : Nat) (v : Word) : (s.setReg off v).nextId = s.nextId := rfl
@[simp] theorem State.setReg_cur (s : State) (off : Nat) (v : Word) : (s.setReg off v).cur = s.cur := rfl
@[simp] theorem State.setReg_turns (s : State) (off : Nat) (v : Word) : (s.setReg off v).turns = s.turns := rfl
@[simp] theorem State.setReg_far (s : State) (off : Nat) (v : Word) : (s.setReg off v).far = s.far := rfl
@[simp] theorem State.setReg_txWait (s : State) (off : Nat) (v : Word) : (s.setReg off v).txWait = s.txWait := rfl
@[simp] theorem State.setReg_coreMap (s : State) (off : Nat) (v : Word) : (s.setReg off v).coreMap = s.coreMap := rfl
@[simp] theorem State.setReg_walkers (s : State) (off : Nat) (v : Word) : (s.setReg off v).walkers = s.walkers := rfl
@[simp] theorem State.setReg_portAt (s : State) (off : Nat) (v : Word) : (s.setReg off v).portAt = s.portAt := rfl

/-! ## updCtx -/

@[simp] theorem State.updCtx_mem (s : State) (z : Nat) (g : Ctx → Ctx) : (s.updCtx z g).mem = s.mem := rfl
@[simp] theorem State.updCtx_memP (s : State) (z : Nat) (g : Ctx → Ctx) : (s.updCtx z g).memP = s.memP := rfl
@[simp] theorem State.updCtx_views (s : State) (z : Nat) (g : Ctx → Ctx) : (s.updCtx z g).views = s.views := rfl
@[simp] theorem State.updCtx_spad (s : State) (z : Nat) (g : Ctx → Ctx) : (s.updCtx z g).spad = s.spad := rfl
@[simp] theorem State.updCtx_spadP (s : State) (z : Nat) (g : Ctx → Ctx) : (s.updCtx z g).spadP = s.spadP := rfl
@[simp] theorem State.updCtx_acc (s : State) (z : Nat) (g : Ctx → Ctx) : (s.updCtx z g).acc = s.acc := rfl
@[simp] theorem State.updCtx_accP (s : State) (z : Nat) (g : Ctx → Ctx) : (s.updCtx z g).accP = s.accP := rfl
@[simp] theorem State.updCtx_regs (s : State) (z : Nat) (g : Ctx → Ctx) : (s.updCtx z g).regs = s.regs := rfl
@[simp] theorem State.updCtx_dfilter (s : State) (z : Nat) (g : Ctx → Ctx) : (s.updCtx z g).dfilter = s.dfilter := rfl
@[simp] theorem State.updCtx_artNow (s : State) (z : Nat) (g : Ctx → Ctx) : (s.updCtx z g).artNow = s.artNow := rfl
@[simp] theorem State.updCtx_wayNow (s : State) (z : Nat) (g : Ctx → Ctx) : (s.updCtx z g).wayNow = s.wayNow := rfl
@[simp] theorem State.updCtx_blocks (s : State) (z : Nat) (g : Ctx → Ctx) : (s.updCtx z g).blocks = s.blocks := rfl
@[simp] theorem State.updCtx_launches (s : State) (z : Nat) (g : Ctx → Ctx) : (s.updCtx z g).launches = s.launches := rfl
@[simp] theorem State.updCtx_copies (s : State) (z : Nat) (g : Ctx → Ctx) : (s.updCtx z g).copies = s.copies := rfl
@[simp] theorem State.updCtx_recalls (s : State) (z : Nat) (g : Ctx → Ctx) : (s.updCtx z g).recalls = s.recalls := rfl
@[simp] theorem State.updCtx_cores (s : State) (z : Nat) (g : Ctx → Ctx) : (s.updCtx z g).cores = s.cores := rfl
@[simp] theorem State.updCtx_parts (s : State) (z : Nat) (g : Ctx → Ctx) : (s.updCtx z g).parts = s.parts := rfl
@[simp] theorem State.updCtx_cxq (s : State) (z : Nat) (g : Ctx → Ctx) : (s.updCtx z g).cxq = s.cxq := rfl
@[simp] theorem State.updCtx_agenda (s : State) (z : Nat) (g : Ctx → Ctx) : (s.updCtx z g).agenda = s.agenda := rfl
@[simp] theorem State.updCtx_out (s : State) (z : Nat) (g : Ctx → Ctx) : (s.updCtx z g).out = s.out := rfl
@[simp] theorem State.updCtx_clock (s : State) (z : Nat) (g : Ctx → Ctx) : (s.updCtx z g).clock = s.clock := rfl
@[simp] theorem State.updCtx_ticked (s : State) (z : Nat) (g : Ctx → Ctx) : (s.updCtx z g).ticked = s.ticked := rfl
@[simp] theorem State.updCtx_tick (s : State) (z : Nat) (g : Ctx → Ctx) : (s.updCtx z g).tick = s.tick := rfl
@[simp] theorem State.updCtx_bstop (s : State) (z : Nat) (g : Ctx → Ctx) : (s.updCtx z g).bstop = s.bstop := rfl
@[simp] theorem State.updCtx_msgs (s : State) (z : Nat) (g : Ctx → Ctx) : (s.updCtx z g).msgs = s.msgs := rfl
@[simp] theorem State.updCtx_parks (s : State) (z : Nat) (g : Ctx → Ctx) : (s.updCtx z g).parks = s.parks := rfl
@[simp] theorem State.updCtx_captured (s : State) (z : Nat) (g : Ctx → Ctx) : (s.updCtx z g).captured = s.captured := rfl
@[simp] theorem State.updCtx_l2 (s : State) (z : Nat) (g : Ctx → Ctx) : (s.updCtx z g).l2 = s.l2 := rfl
@[simp] theorem State.updCtx_fused (s : State) (z : Nat) (g : Ctx → Ctx) : (s.updCtx z g).fused = s.fused := rfl
@[simp] theorem State.updCtx_fusing (s : State) (z : Nat) (g : Ctx → Ctx) : (s.updCtx z g).fusing = s.fusing := rfl
@[simp] theorem State.updCtx_holds (s : State) (z : Nat) (g : Ctx → Ctx) : (s.updCtx z g).holds = s.holds := rfl
@[simp] theorem State.updCtx_pins (s : State) (z : Nat) (g : Ctx → Ctx) : (s.updCtx z g).pins = s.pins := rfl
@[simp] theorem State.updCtx_qslots (s : State) (z : Nat) (g : Ctx → Ctx) : (s.updCtx z g).qslots = s.qslots := rfl
@[simp] theorem State.updCtx_pendq (s : State) (z : Nat) (g : Ctx → Ctx) : (s.updCtx z g).pendq = s.pendq := rfl
@[simp] theorem State.updCtx_launchNo (s : State) (z : Nat) (g : Ctx → Ctx) : (s.updCtx z g).launchNo = s.launchNo := rfl
@[simp] theorem State.updCtx_disp (s : State) (z : Nat) (g : Ctx → Ctx) : (s.updCtx z g).disp = s.disp := rfl
@[simp] theorem State.updCtx_cx (s : State) (z : Nat) (g : Ctx → Ctx) : (s.updCtx z g).cx = s.cx := rfl
@[simp] theorem State.updCtx_cxHeld (s : State) (z : Nat) (g : Ctx → Ctx) : (s.updCtx z g).cxHeld = s.cxHeld := rfl
@[simp] theorem State.updCtx_restores (s : State) (z : Nat) (g : Ctx → Ctx) : (s.updCtx z g).restores = s.restores := rfl
@[simp] theorem State.updCtx_forks (s : State) (z : Nat) (g : Ctx → Ctx) : (s.updCtx z g).forks = s.forks := rfl
@[simp] theorem State.updCtx_ports (s : State) (z : Nat) (g : Ctx → Ctx) : (s.updCtx z g).ports = s.ports := rfl
@[simp] theorem State.updCtx_sess (s : State) (z : Nat) (g : Ctx → Ctx) : (s.updCtx z g).sess = s.sess := rfl
@[simp] theorem State.updCtx_paused (s : State) (z : Nat) (g : Ctx → Ctx) : (s.updCtx z g).paused = s.paused := rfl
@[simp] theorem State.updCtx_plat (s : State) (z : Nat) (g : Ctx → Ctx) : (s.updCtx z g).plat = s.plat := rfl
@[simp] theorem State.updCtx_fresh (s : State) (z : Nat) (g : Ctx → Ctx) : (s.updCtx z g).fresh = s.fresh := rfl
@[simp] theorem State.updCtx_nextId (s : State) (z : Nat) (g : Ctx → Ctx) : (s.updCtx z g).nextId = s.nextId := rfl
@[simp] theorem State.updCtx_cur (s : State) (z : Nat) (g : Ctx → Ctx) : (s.updCtx z g).cur = s.cur := rfl
@[simp] theorem State.updCtx_turns (s : State) (z : Nat) (g : Ctx → Ctx) : (s.updCtx z g).turns = s.turns := rfl
@[simp] theorem State.updCtx_far (s : State) (z : Nat) (g : Ctx → Ctx) : (s.updCtx z g).far = s.far := rfl
@[simp] theorem State.updCtx_txWait (s : State) (z : Nat) (g : Ctx → Ctx) : (s.updCtx z g).txWait = s.txWait := rfl
@[simp] theorem State.updCtx_coreMap (s : State) (z : Nat) (g : Ctx → Ctx) : (s.updCtx z g).coreMap = s.coreMap := rfl
@[simp] theorem State.updCtx_walkers (s : State) (z : Nat) (g : Ctx → Ctx) : (s.updCtx z g).walkers = s.walkers := rfl
@[simp] theorem State.updCtx_portAt (s : State) (z : Nat) (g : Ctx → Ctx) : (s.updCtx z g).portAt = s.portAt := rfl

/-! ## updOpSt -/

@[simp] theorem State.updOpSt_mem (s : State) (z k : Nat) (g : OpSt → OpSt) : (s.updOpSt z k g).mem = s.mem := rfl
@[simp] theorem State.updOpSt_memP (s : State) (z k : Nat) (g : OpSt → OpSt) : (s.updOpSt z k g).memP = s.memP := rfl
@[simp] theorem State.updOpSt_views (s : State) (z k : Nat) (g : OpSt → OpSt) : (s.updOpSt z k g).views = s.views := rfl
@[simp] theorem State.updOpSt_spad (s : State) (z k : Nat) (g : OpSt → OpSt) : (s.updOpSt z k g).spad = s.spad := rfl
@[simp] theorem State.updOpSt_spadP (s : State) (z k : Nat) (g : OpSt → OpSt) : (s.updOpSt z k g).spadP = s.spadP := rfl
@[simp] theorem State.updOpSt_acc (s : State) (z k : Nat) (g : OpSt → OpSt) : (s.updOpSt z k g).acc = s.acc := rfl
@[simp] theorem State.updOpSt_accP (s : State) (z k : Nat) (g : OpSt → OpSt) : (s.updOpSt z k g).accP = s.accP := rfl
@[simp] theorem State.updOpSt_regs (s : State) (z k : Nat) (g : OpSt → OpSt) : (s.updOpSt z k g).regs = s.regs := rfl
@[simp] theorem State.updOpSt_dfilter (s : State) (z k : Nat) (g : OpSt → OpSt) : (s.updOpSt z k g).dfilter = s.dfilter := rfl
@[simp] theorem State.updOpSt_artNow (s : State) (z k : Nat) (g : OpSt → OpSt) : (s.updOpSt z k g).artNow = s.artNow := rfl
@[simp] theorem State.updOpSt_wayNow (s : State) (z k : Nat) (g : OpSt → OpSt) : (s.updOpSt z k g).wayNow = s.wayNow := rfl
@[simp] theorem State.updOpSt_blocks (s : State) (z k : Nat) (g : OpSt → OpSt) : (s.updOpSt z k g).blocks = s.blocks := rfl
@[simp] theorem State.updOpSt_launches (s : State) (z k : Nat) (g : OpSt → OpSt) : (s.updOpSt z k g).launches = s.launches := rfl
@[simp] theorem State.updOpSt_copies (s : State) (z k : Nat) (g : OpSt → OpSt) : (s.updOpSt z k g).copies = s.copies := rfl
@[simp] theorem State.updOpSt_recalls (s : State) (z k : Nat) (g : OpSt → OpSt) : (s.updOpSt z k g).recalls = s.recalls := rfl
@[simp] theorem State.updOpSt_cores (s : State) (z k : Nat) (g : OpSt → OpSt) : (s.updOpSt z k g).cores = s.cores := rfl
@[simp] theorem State.updOpSt_parts (s : State) (z k : Nat) (g : OpSt → OpSt) : (s.updOpSt z k g).parts = s.parts := rfl
@[simp] theorem State.updOpSt_cxq (s : State) (z k : Nat) (g : OpSt → OpSt) : (s.updOpSt z k g).cxq = s.cxq := rfl
@[simp] theorem State.updOpSt_agenda (s : State) (z k : Nat) (g : OpSt → OpSt) : (s.updOpSt z k g).agenda = s.agenda := rfl
@[simp] theorem State.updOpSt_out (s : State) (z k : Nat) (g : OpSt → OpSt) : (s.updOpSt z k g).out = s.out := rfl
@[simp] theorem State.updOpSt_clock (s : State) (z k : Nat) (g : OpSt → OpSt) : (s.updOpSt z k g).clock = s.clock := rfl
@[simp] theorem State.updOpSt_ticked (s : State) (z k : Nat) (g : OpSt → OpSt) : (s.updOpSt z k g).ticked = s.ticked := rfl
@[simp] theorem State.updOpSt_tick (s : State) (z k : Nat) (g : OpSt → OpSt) : (s.updOpSt z k g).tick = s.tick := rfl
@[simp] theorem State.updOpSt_bstop (s : State) (z k : Nat) (g : OpSt → OpSt) : (s.updOpSt z k g).bstop = s.bstop := rfl
@[simp] theorem State.updOpSt_msgs (s : State) (z k : Nat) (g : OpSt → OpSt) : (s.updOpSt z k g).msgs = s.msgs := rfl
@[simp] theorem State.updOpSt_parks (s : State) (z k : Nat) (g : OpSt → OpSt) : (s.updOpSt z k g).parks = s.parks := rfl
@[simp] theorem State.updOpSt_captured (s : State) (z k : Nat) (g : OpSt → OpSt) : (s.updOpSt z k g).captured = s.captured := rfl
@[simp] theorem State.updOpSt_l2 (s : State) (z k : Nat) (g : OpSt → OpSt) : (s.updOpSt z k g).l2 = s.l2 := rfl
@[simp] theorem State.updOpSt_fused (s : State) (z k : Nat) (g : OpSt → OpSt) : (s.updOpSt z k g).fused = s.fused := rfl
@[simp] theorem State.updOpSt_fusing (s : State) (z k : Nat) (g : OpSt → OpSt) : (s.updOpSt z k g).fusing = s.fusing := rfl
@[simp] theorem State.updOpSt_holds (s : State) (z k : Nat) (g : OpSt → OpSt) : (s.updOpSt z k g).holds = s.holds := rfl
@[simp] theorem State.updOpSt_pins (s : State) (z k : Nat) (g : OpSt → OpSt) : (s.updOpSt z k g).pins = s.pins := rfl
@[simp] theorem State.updOpSt_qslots (s : State) (z k : Nat) (g : OpSt → OpSt) : (s.updOpSt z k g).qslots = s.qslots := rfl
@[simp] theorem State.updOpSt_pendq (s : State) (z k : Nat) (g : OpSt → OpSt) : (s.updOpSt z k g).pendq = s.pendq := rfl
@[simp] theorem State.updOpSt_launchNo (s : State) (z k : Nat) (g : OpSt → OpSt) : (s.updOpSt z k g).launchNo = s.launchNo := rfl
@[simp] theorem State.updOpSt_disp (s : State) (z k : Nat) (g : OpSt → OpSt) : (s.updOpSt z k g).disp = s.disp := rfl
@[simp] theorem State.updOpSt_cx (s : State) (z k : Nat) (g : OpSt → OpSt) : (s.updOpSt z k g).cx = s.cx := rfl
@[simp] theorem State.updOpSt_cxHeld (s : State) (z k : Nat) (g : OpSt → OpSt) : (s.updOpSt z k g).cxHeld = s.cxHeld := rfl
@[simp] theorem State.updOpSt_restores (s : State) (z k : Nat) (g : OpSt → OpSt) : (s.updOpSt z k g).restores = s.restores := rfl
@[simp] theorem State.updOpSt_forks (s : State) (z k : Nat) (g : OpSt → OpSt) : (s.updOpSt z k g).forks = s.forks := rfl
@[simp] theorem State.updOpSt_ports (s : State) (z k : Nat) (g : OpSt → OpSt) : (s.updOpSt z k g).ports = s.ports := rfl
@[simp] theorem State.updOpSt_sess (s : State) (z k : Nat) (g : OpSt → OpSt) : (s.updOpSt z k g).sess = s.sess := rfl
@[simp] theorem State.updOpSt_paused (s : State) (z k : Nat) (g : OpSt → OpSt) : (s.updOpSt z k g).paused = s.paused := rfl
@[simp] theorem State.updOpSt_plat (s : State) (z k : Nat) (g : OpSt → OpSt) : (s.updOpSt z k g).plat = s.plat := rfl
@[simp] theorem State.updOpSt_fresh (s : State) (z k : Nat) (g : OpSt → OpSt) : (s.updOpSt z k g).fresh = s.fresh := rfl
@[simp] theorem State.updOpSt_nextId (s : State) (z k : Nat) (g : OpSt → OpSt) : (s.updOpSt z k g).nextId = s.nextId := rfl
@[simp] theorem State.updOpSt_cur (s : State) (z k : Nat) (g : OpSt → OpSt) : (s.updOpSt z k g).cur = s.cur := rfl
@[simp] theorem State.updOpSt_turns (s : State) (z k : Nat) (g : OpSt → OpSt) : (s.updOpSt z k g).turns = s.turns := rfl
@[simp] theorem State.updOpSt_far (s : State) (z k : Nat) (g : OpSt → OpSt) : (s.updOpSt z k g).far = s.far := rfl
@[simp] theorem State.updOpSt_txWait (s : State) (z k : Nat) (g : OpSt → OpSt) : (s.updOpSt z k g).txWait = s.txWait := rfl
@[simp] theorem State.updOpSt_coreMap (s : State) (z k : Nat) (g : OpSt → OpSt) : (s.updOpSt z k g).coreMap = s.coreMap := rfl
@[simp] theorem State.updOpSt_walkers (s : State) (z k : Nat) (g : OpSt → OpSt) : (s.updOpSt z k g).walkers = s.walkers := rfl
@[simp] theorem State.updOpSt_portAt (s : State) (z k : Nat) (g : OpSt → OpSt) : (s.updOpSt z k g).portAt = s.portAt := rfl

/-! ## setSt -/

@[simp] theorem State.setSt_mem (s : State) (z k : Nat) (st : OpStatus) : (s.setSt z k st).mem = s.mem := rfl
@[simp] theorem State.setSt_memP (s : State) (z k : Nat) (st : OpStatus) : (s.setSt z k st).memP = s.memP := rfl
@[simp] theorem State.setSt_views (s : State) (z k : Nat) (st : OpStatus) : (s.setSt z k st).views = s.views := rfl
@[simp] theorem State.setSt_spad (s : State) (z k : Nat) (st : OpStatus) : (s.setSt z k st).spad = s.spad := rfl
@[simp] theorem State.setSt_spadP (s : State) (z k : Nat) (st : OpStatus) : (s.setSt z k st).spadP = s.spadP := rfl
@[simp] theorem State.setSt_acc (s : State) (z k : Nat) (st : OpStatus) : (s.setSt z k st).acc = s.acc := rfl
@[simp] theorem State.setSt_accP (s : State) (z k : Nat) (st : OpStatus) : (s.setSt z k st).accP = s.accP := rfl
@[simp] theorem State.setSt_regs (s : State) (z k : Nat) (st : OpStatus) : (s.setSt z k st).regs = s.regs := rfl
@[simp] theorem State.setSt_dfilter (s : State) (z k : Nat) (st : OpStatus) : (s.setSt z k st).dfilter = s.dfilter := rfl
@[simp] theorem State.setSt_artNow (s : State) (z k : Nat) (st : OpStatus) : (s.setSt z k st).artNow = s.artNow := rfl
@[simp] theorem State.setSt_wayNow (s : State) (z k : Nat) (st : OpStatus) : (s.setSt z k st).wayNow = s.wayNow := rfl
@[simp] theorem State.setSt_blocks (s : State) (z k : Nat) (st : OpStatus) : (s.setSt z k st).blocks = s.blocks := rfl
@[simp] theorem State.setSt_launches (s : State) (z k : Nat) (st : OpStatus) : (s.setSt z k st).launches = s.launches := rfl
@[simp] theorem State.setSt_copies (s : State) (z k : Nat) (st : OpStatus) : (s.setSt z k st).copies = s.copies := rfl
@[simp] theorem State.setSt_recalls (s : State) (z k : Nat) (st : OpStatus) : (s.setSt z k st).recalls = s.recalls := rfl
@[simp] theorem State.setSt_cores (s : State) (z k : Nat) (st : OpStatus) : (s.setSt z k st).cores = s.cores := rfl
@[simp] theorem State.setSt_parts (s : State) (z k : Nat) (st : OpStatus) : (s.setSt z k st).parts = s.parts := rfl
@[simp] theorem State.setSt_cxq (s : State) (z k : Nat) (st : OpStatus) : (s.setSt z k st).cxq = s.cxq := rfl
@[simp] theorem State.setSt_agenda (s : State) (z k : Nat) (st : OpStatus) : (s.setSt z k st).agenda = s.agenda := rfl
@[simp] theorem State.setSt_out (s : State) (z k : Nat) (st : OpStatus) : (s.setSt z k st).out = s.out := rfl
@[simp] theorem State.setSt_clock (s : State) (z k : Nat) (st : OpStatus) : (s.setSt z k st).clock = s.clock := rfl
@[simp] theorem State.setSt_ticked (s : State) (z k : Nat) (st : OpStatus) : (s.setSt z k st).ticked = s.ticked := rfl
@[simp] theorem State.setSt_tick (s : State) (z k : Nat) (st : OpStatus) : (s.setSt z k st).tick = s.tick := rfl
@[simp] theorem State.setSt_bstop (s : State) (z k : Nat) (st : OpStatus) : (s.setSt z k st).bstop = s.bstop := rfl
@[simp] theorem State.setSt_msgs (s : State) (z k : Nat) (st : OpStatus) : (s.setSt z k st).msgs = s.msgs := rfl
@[simp] theorem State.setSt_parks (s : State) (z k : Nat) (st : OpStatus) : (s.setSt z k st).parks = s.parks := rfl
@[simp] theorem State.setSt_captured (s : State) (z k : Nat) (st : OpStatus) : (s.setSt z k st).captured = s.captured := rfl
@[simp] theorem State.setSt_l2 (s : State) (z k : Nat) (st : OpStatus) : (s.setSt z k st).l2 = s.l2 := rfl
@[simp] theorem State.setSt_fused (s : State) (z k : Nat) (st : OpStatus) : (s.setSt z k st).fused = s.fused := rfl
@[simp] theorem State.setSt_fusing (s : State) (z k : Nat) (st : OpStatus) : (s.setSt z k st).fusing = s.fusing := rfl
@[simp] theorem State.setSt_holds (s : State) (z k : Nat) (st : OpStatus) : (s.setSt z k st).holds = s.holds := rfl
@[simp] theorem State.setSt_pins (s : State) (z k : Nat) (st : OpStatus) : (s.setSt z k st).pins = s.pins := rfl
@[simp] theorem State.setSt_qslots (s : State) (z k : Nat) (st : OpStatus) : (s.setSt z k st).qslots = s.qslots := rfl
@[simp] theorem State.setSt_pendq (s : State) (z k : Nat) (st : OpStatus) : (s.setSt z k st).pendq = s.pendq := rfl
@[simp] theorem State.setSt_launchNo (s : State) (z k : Nat) (st : OpStatus) : (s.setSt z k st).launchNo = s.launchNo := rfl
@[simp] theorem State.setSt_disp (s : State) (z k : Nat) (st : OpStatus) : (s.setSt z k st).disp = s.disp := rfl
@[simp] theorem State.setSt_cx (s : State) (z k : Nat) (st : OpStatus) : (s.setSt z k st).cx = s.cx := rfl
@[simp] theorem State.setSt_cxHeld (s : State) (z k : Nat) (st : OpStatus) : (s.setSt z k st).cxHeld = s.cxHeld := rfl
@[simp] theorem State.setSt_restores (s : State) (z k : Nat) (st : OpStatus) : (s.setSt z k st).restores = s.restores := rfl
@[simp] theorem State.setSt_forks (s : State) (z k : Nat) (st : OpStatus) : (s.setSt z k st).forks = s.forks := rfl
@[simp] theorem State.setSt_ports (s : State) (z k : Nat) (st : OpStatus) : (s.setSt z k st).ports = s.ports := rfl
@[simp] theorem State.setSt_sess (s : State) (z k : Nat) (st : OpStatus) : (s.setSt z k st).sess = s.sess := rfl
@[simp] theorem State.setSt_paused (s : State) (z k : Nat) (st : OpStatus) : (s.setSt z k st).paused = s.paused := rfl
@[simp] theorem State.setSt_plat (s : State) (z k : Nat) (st : OpStatus) : (s.setSt z k st).plat = s.plat := rfl
@[simp] theorem State.setSt_fresh (s : State) (z k : Nat) (st : OpStatus) : (s.setSt z k st).fresh = s.fresh := rfl
@[simp] theorem State.setSt_nextId (s : State) (z k : Nat) (st : OpStatus) : (s.setSt z k st).nextId = s.nextId := rfl
@[simp] theorem State.setSt_cur (s : State) (z k : Nat) (st : OpStatus) : (s.setSt z k st).cur = s.cur := rfl
@[simp] theorem State.setSt_turns (s : State) (z k : Nat) (st : OpStatus) : (s.setSt z k st).turns = s.turns := rfl
@[simp] theorem State.setSt_far (s : State) (z k : Nat) (st : OpStatus) : (s.setSt z k st).far = s.far := rfl
@[simp] theorem State.setSt_txWait (s : State) (z k : Nat) (st : OpStatus) : (s.setSt z k st).txWait = s.txWait := rfl
@[simp] theorem State.setSt_coreMap (s : State) (z k : Nat) (st : OpStatus) : (s.setSt z k st).coreMap = s.coreMap := rfl
@[simp] theorem State.setSt_walkers (s : State) (z k : Nat) (st : OpStatus) : (s.setSt z k st).walkers = s.walkers := rfl
@[simp] theorem State.setSt_portAt (s : State) (z k : Nat) (st : OpStatus) : (s.setSt z k st).portAt = s.portAt := rfl

/-! ## land -/

@[simp] theorem State.land_mem (s : State) (z : Nat) (l : Landing) : (s.land z l).mem = s.mem := rfl
@[simp] theorem State.land_memP (s : State) (z : Nat) (l : Landing) : (s.land z l).memP = s.memP := rfl
@[simp] theorem State.land_views (s : State) (z : Nat) (l : Landing) : (s.land z l).views = s.views := rfl
@[simp] theorem State.land_spad (s : State) (z : Nat) (l : Landing) : (s.land z l).spad = s.spad := rfl
@[simp] theorem State.land_spadP (s : State) (z : Nat) (l : Landing) : (s.land z l).spadP = s.spadP := rfl
@[simp] theorem State.land_acc (s : State) (z : Nat) (l : Landing) : (s.land z l).acc = s.acc := rfl
@[simp] theorem State.land_accP (s : State) (z : Nat) (l : Landing) : (s.land z l).accP = s.accP := rfl
@[simp] theorem State.land_regs (s : State) (z : Nat) (l : Landing) : (s.land z l).regs = s.regs := rfl
@[simp] theorem State.land_dfilter (s : State) (z : Nat) (l : Landing) : (s.land z l).dfilter = s.dfilter := rfl
@[simp] theorem State.land_artNow (s : State) (z : Nat) (l : Landing) : (s.land z l).artNow = s.artNow := rfl
@[simp] theorem State.land_wayNow (s : State) (z : Nat) (l : Landing) : (s.land z l).wayNow = s.wayNow := rfl
@[simp] theorem State.land_blocks (s : State) (z : Nat) (l : Landing) : (s.land z l).blocks = s.blocks := rfl
@[simp] theorem State.land_launches (s : State) (z : Nat) (l : Landing) : (s.land z l).launches = s.launches := rfl
@[simp] theorem State.land_copies (s : State) (z : Nat) (l : Landing) : (s.land z l).copies = s.copies := rfl
@[simp] theorem State.land_recalls (s : State) (z : Nat) (l : Landing) : (s.land z l).recalls = s.recalls := rfl
@[simp] theorem State.land_cores (s : State) (z : Nat) (l : Landing) : (s.land z l).cores = s.cores := rfl
@[simp] theorem State.land_parts (s : State) (z : Nat) (l : Landing) : (s.land z l).parts = s.parts := rfl
@[simp] theorem State.land_cxq (s : State) (z : Nat) (l : Landing) : (s.land z l).cxq = s.cxq := rfl
@[simp] theorem State.land_agenda (s : State) (z : Nat) (l : Landing) : (s.land z l).agenda = s.agenda := rfl
@[simp] theorem State.land_out (s : State) (z : Nat) (l : Landing) : (s.land z l).out = s.out := rfl
@[simp] theorem State.land_clock (s : State) (z : Nat) (l : Landing) : (s.land z l).clock = s.clock := rfl
@[simp] theorem State.land_ticked (s : State) (z : Nat) (l : Landing) : (s.land z l).ticked = s.ticked := rfl
@[simp] theorem State.land_tick (s : State) (z : Nat) (l : Landing) : (s.land z l).tick = s.tick := rfl
@[simp] theorem State.land_bstop (s : State) (z : Nat) (l : Landing) : (s.land z l).bstop = s.bstop := rfl
@[simp] theorem State.land_msgs (s : State) (z : Nat) (l : Landing) : (s.land z l).msgs = s.msgs := rfl
@[simp] theorem State.land_parks (s : State) (z : Nat) (l : Landing) : (s.land z l).parks = s.parks := rfl
@[simp] theorem State.land_captured (s : State) (z : Nat) (l : Landing) : (s.land z l).captured = s.captured := rfl
@[simp] theorem State.land_l2 (s : State) (z : Nat) (l : Landing) : (s.land z l).l2 = s.l2 := rfl
@[simp] theorem State.land_fused (s : State) (z : Nat) (l : Landing) : (s.land z l).fused = s.fused := rfl
@[simp] theorem State.land_fusing (s : State) (z : Nat) (l : Landing) : (s.land z l).fusing = s.fusing := rfl
@[simp] theorem State.land_holds (s : State) (z : Nat) (l : Landing) : (s.land z l).holds = s.holds := rfl
@[simp] theorem State.land_pins (s : State) (z : Nat) (l : Landing) : (s.land z l).pins = s.pins := rfl
@[simp] theorem State.land_qslots (s : State) (z : Nat) (l : Landing) : (s.land z l).qslots = s.qslots := rfl
@[simp] theorem State.land_pendq (s : State) (z : Nat) (l : Landing) : (s.land z l).pendq = s.pendq := rfl
@[simp] theorem State.land_launchNo (s : State) (z : Nat) (l : Landing) : (s.land z l).launchNo = s.launchNo := rfl
@[simp] theorem State.land_disp (s : State) (z : Nat) (l : Landing) : (s.land z l).disp = s.disp := rfl
@[simp] theorem State.land_cx (s : State) (z : Nat) (l : Landing) : (s.land z l).cx = s.cx := rfl
@[simp] theorem State.land_cxHeld (s : State) (z : Nat) (l : Landing) : (s.land z l).cxHeld = s.cxHeld := rfl
@[simp] theorem State.land_restores (s : State) (z : Nat) (l : Landing) : (s.land z l).restores = s.restores := rfl
@[simp] theorem State.land_forks (s : State) (z : Nat) (l : Landing) : (s.land z l).forks = s.forks := rfl
@[simp] theorem State.land_ports (s : State) (z : Nat) (l : Landing) : (s.land z l).ports = s.ports := rfl
@[simp] theorem State.land_sess (s : State) (z : Nat) (l : Landing) : (s.land z l).sess = s.sess := rfl
@[simp] theorem State.land_paused (s : State) (z : Nat) (l : Landing) : (s.land z l).paused = s.paused := rfl
@[simp] theorem State.land_plat (s : State) (z : Nat) (l : Landing) : (s.land z l).plat = s.plat := rfl
@[simp] theorem State.land_fresh (s : State) (z : Nat) (l : Landing) : (s.land z l).fresh = s.fresh := rfl
@[simp] theorem State.land_nextId (s : State) (z : Nat) (l : Landing) : (s.land z l).nextId = s.nextId := rfl
@[simp] theorem State.land_cur (s : State) (z : Nat) (l : Landing) : (s.land z l).cur = s.cur := rfl
@[simp] theorem State.land_turns (s : State) (z : Nat) (l : Landing) : (s.land z l).turns = s.turns := rfl
@[simp] theorem State.land_far (s : State) (z : Nat) (l : Landing) : (s.land z l).far = s.far := rfl
@[simp] theorem State.land_txWait (s : State) (z : Nat) (l : Landing) : (s.land z l).txWait = s.txWait := rfl
@[simp] theorem State.land_coreMap (s : State) (z : Nat) (l : Landing) : (s.land z l).coreMap = s.coreMap := rfl
@[simp] theorem State.land_walkers (s : State) (z : Nat) (l : Landing) : (s.land z l).walkers = s.walkers := rfl
@[simp] theorem State.land_portAt (s : State) (z : Nat) (l : Landing) : (s.land z l).portAt = s.portAt := rfl

/-! ## What is changed -/

theorem State.updTeam_teams (s : State) (z : Nat) (g : Team → Team) : (s.updTeam z g).teams = s.teams.upd z g := rfl

/-- The changed team. -/
theorem State.updTeam_same (s : State) (z : Nat) (g : Team → Team) : (s.updTeam z g).teams.get? z = (s.teams.get? z).map g :=
  AL.get?_upd_eq ..

/-- Every other team. -/
theorem State.updTeam_other (s : State) (z : Nat) (g : Team → Team) {y : Nat} (h : y ≠ z) :
    (s.updTeam z g).teams.get? y = s.teams.get? y := AL.get?_upd_ne _ _ _ h

theorem State.updBlock_same (s : State) (k : Nat) (g : Block → Block) : (s.updBlock k g).blocks.get? k = (s.blocks.get? k).map g :=
  AL.get?_upd_eq ..

theorem State.updBlock_other (s : State) (k : Nat) (g : Block → Block) {y : Nat} (h : y ≠ k) :
    (s.updBlock k g).blocks.get? y = s.blocks.get? y := AL.get?_upd_ne _ _ _ h

theorem State.updCore_same (s : State) (k : Nat) (g : CoreSt → CoreSt) : (s.updCore k g).cores.get? k = (s.cores.get? k).map g :=
  AL.get?_upd_eq ..

theorem State.updCore_other (s : State) (k : Nat) (g : CoreSt → CoreSt) {y : Nat} (h : y ≠ k) :
    (s.updCore k g).cores.get? y = s.cores.get? y := AL.get?_upd_ne _ _ _ h

theorem State.updPart_same (s : State) (k : Nat) (g : Part → Part) : (s.updPart k g).parts.get? k = (s.parts.get? k).map g :=
  AL.get?_upd_eq ..

theorem State.updPart_other (s : State) (k : Nat) (g : Part → Part) {y : Nat} (h : y ≠ k) :
    (s.updPart k g).parts.get? y = s.parts.get? y := AL.get?_upd_ne _ _ _ h

/-- Every other register. -/
theorem State.setReg_other (s : State) (off : Nat) (v : Word) {o : Nat} (h : o ≠ off) : (s.setReg off v).reg o = s.reg o :=
  SMap.get_set_ne _ _ _ h

/-- The written register. -/
theorem State.setReg_same (s : State) (off : Nat) (v : Word) (h : s.regs.wf = true) : (s.setReg off v).reg off = v :=
  SMap.get_set_eq h _ _

/-- A change of one team changes nothing but the teams. -/
theorem State.updTeam_sameButTeams (s : State) (z : Nat) (g : Team → Team) : s.SameButTeams (s.updTeam z g) := rfl

/-- A change of one team leaves the others. -/
theorem State.updTeam_sameOther (s : State) (z : Nat) (g : Team → Team) : s.SameOtherTeams (s.updTeam z g) z :=
  fun _ h => State.updTeam_other s z g h

/-- A team's word in progress is no other state of it. -/
theorem State.setSt_same (s : State) (z k : Nat) (st : OpStatus) :
    (s.setSt z k st).teams.get? z = (s.teams.get? z).map fun t =>
      { t with ctx := t.ctx.map fun c => { c with ops := c.ops.modify k fun o => { o with st := st } } } :=
  AL.get?_upd_eq ..

end Sys2Proof.Machine
end

