-- ==== Sys2Proof/Laws/Memory.lean ====
section
/-!
SUPPORT. The memory operations, each with what it may change, and the canonical form: every operation that writes a byte store keeps it, and
the machine right after reset has it.
-/
namespace Sys2Proof.Machine

/-! ## Frames -/

/-- The dirty-page bits of a page change memory and the filters only. -/
theorem State.markPage_frame (s : State) (pa : Nat) : { s.markPage pa with mem := s.mem, dfilter := s.dfilter } = s := by
  have h : ∀ (l : List Nat) (t : State), { t with mem := s.mem, dfilter := s.dfilter } = s →
      { (l.foldl (fun s n =>
          match s.dirtyBit pa n with
          | none => s
          | some (b, i) =>
            let key := (s.homeSlice pa * 32 + n) * 2 ^ 24 + pa / 2 ^ 16
            if s.dfilter.contains key then s
            else { s with mem := s.mem.set b (s.mem.get b ||| (1#8 <<< i)), dfilter := key :: s.dfilter }) t) with
        mem := s.mem, dfilter := s.dfilter } = s := by
    intro l
    induction l with
    | nil => exact fun t ht => ht
    | cons n l ih =>
      intro t ht
      refine ih _ ?_
      dsimp only
      split
      · exact ht
      · split <;> exact ht
  exact h _ s rfl

/-- A sector's access at its slice changes the L2 only. -/
theorem State.l2Touch_frame (s : State) (slice pa : Nat) (w : Bool) : { s.l2Touch slice pa w with l2 := s.l2 } = s := by
  unfold State.l2Touch
  dsimp only
  split
  · rfl
  · split
    · rfl
    · split <;> rfl

/-- So does a range's. -/
theorem State.l2Range_frame (s : State) (core pa n : Nat) (attr : PageAttr) (w : Bool) :
    { s.l2Range core pa n attr w with l2 := s.l2 } = s := by
  unfold State.l2Range
  split
  · rfl
  · have h : ∀ (l : List Nat) (t : State), { t with l2 := s.l2 } = s →
        { (l.foldl (fun s i =>
            if isHbm (64 * (pa / 64 + i)) then s.l2Touch (s.sliceOf core (64 * (pa / 64 + i)) attr w) (64 * (pa / 64 + i)) w else s) t) with
          l2 := s.l2 } = s := by
      intro l
      induction l with
      | nil => exact fun t ht => ht
      | cons i l ih =>
        intro t ht
        refine ih _ ?_
        dsimp only
        split
        · exact (congrArg (fun u : State => { u with l2 := s.l2 }) (t.l2Touch_frame _ _ w)).trans ht
        · exact ht
    exact h _ s rfl

/-- Dirty-page bits change memory and the filters only. -/
theorem State.markDirty_frame (s : State) (pa n : Nat) : { s.markDirty pa n with mem := s.mem, dfilter := s.dfilter } = s := by
  unfold State.markDirty
  generalize List.range _ = l
  have h : ∀ (l : List Nat) (t : State), { t with mem := s.mem, dfilter := s.dfilter } = s →
      { l.foldl (fun s i => s.markPage (max pa (2 ^ 16 * (pa / 2 ^ 16 + i)))) t with mem := s.mem, dfilter := s.dfilter } = s := by
    intro l
    induction l with
    | nil => exact fun t ht => ht
    | cons i l ih =>
      exact fun t ht => ih _
        ((congrArg (fun u : State => { u with mem := s.mem, dfilter := s.dfilter }) (t.markPage_frame _)).trans ht)
  exact h l s rfl

/-- A write of memory changes memory, its poison, the dirty-page filters and the caches only. -/
theorem State.writeMem_frame (s : State) (pa : Nat) (l : List Byte) (p : Bool) :
    { s.writeMem pa l p with mem := s.mem, memP := s.memP, dfilter := s.dfilter, cores := s.cores, l2 := s.l2 } = s := by
  unfold State.writeMem
  split
  · rfl
  · let t : State := { s with mem := s.mem.setRange pa l, memP := granPoison s.memP 8 pa l.length p }
    let k (u : State) : State := { u with mem := s.mem, memP := s.memP, dfilter := s.dfilter, cores := s.cores, l2 := s.l2 }
    have h1 := congrArg k (State.l2Range_frame ((t.markDirty pa l.length).l1Drop pa l.length) 0 pa l.length .ap true)
    have h2 := congrArg k (t.markDirty_frame pa l.length)
    have h3 : k (((t.markDirty pa l.length).l1Drop pa l.length).l2Range 0 pa l.length .ap true) = k ((t.markDirty pa l.length).l1Drop pa l.length) := h1
    have h4 : k (t.markDirty pa l.length) = k t := h2
    exact h3.trans h4

/-- A write of a scratchpad changes the scratchpads and their poison only. -/
theorem State.writeSpad_frame (s : State) (k : Nat) (l : List Byte) (p : Bool) :
    { s.writeSpad k l p with spad := s.spad, spadP := s.spadP } = s := by
  unfold State.writeSpad
  split <;> rfl

@[simp] theorem State.writeMem_views (s : State) (pa : Nat) (l : List Byte) (p : Bool) : (s.writeMem pa l p).views = s.views :=
  (congrArg State.views (s.writeMem_frame pa l p) :)
@[simp] theorem State.writeMem_spad (s : State) (pa : Nat) (l : List Byte) (p : Bool) : (s.writeMem pa l p).spad = s.spad :=
  (congrArg State.spad (s.writeMem_frame pa l p) :)
@[simp] theorem State.writeMem_spadP (s : State) (pa : Nat) (l : List Byte) (p : Bool) : (s.writeMem pa l p).spadP = s.spadP :=
  (congrArg State.spadP (s.writeMem_frame pa l p) :)
@[simp] theorem State.writeMem_acc (s : State) (pa : Nat) (l : List Byte) (p : Bool) : (s.writeMem pa l p).acc = s.acc :=
  (congrArg State.acc (s.writeMem_frame pa l p) :)
@[simp] theorem State.writeMem_accP (s : State) (pa : Nat) (l : List Byte) (p : Bool) : (s.writeMem pa l p).accP = s.accP :=
  (congrArg State.accP (s.writeMem_frame pa l p) :)
@[simp] theorem State.writeMem_regs (s : State) (pa : Nat) (l : List Byte) (p : Bool) : (s.writeMem pa l p).regs = s.regs :=
  (congrArg State.regs (s.writeMem_frame pa l p) :)
@[simp] theorem State.writeMem_artNow (s : State) (pa : Nat) (l : List Byte) (p : Bool) : (s.writeMem pa l p).artNow = s.artNow :=
  (congrArg State.artNow (s.writeMem_frame pa l p) :)
@[simp] theorem State.writeMem_wayNow (s : State) (pa : Nat) (l : List Byte) (p : Bool) : (s.writeMem pa l p).wayNow = s.wayNow :=
  (congrArg State.wayNow (s.writeMem_frame pa l p) :)
@[simp] theorem State.writeMem_teams (s : State) (pa : Nat) (l : List Byte) (p : Bool) : (s.writeMem pa l p).teams = s.teams :=
  (congrArg State.teams (s.writeMem_frame pa l p) :)
@[simp] theorem State.writeMem_blocks (s : State) (pa : Nat) (l : List Byte) (p : Bool) : (s.writeMem pa l p).blocks = s.blocks :=
  (congrArg State.blocks (s.writeMem_frame pa l p) :)
@[simp] theorem State.writeMem_launches (s : State) (pa : Nat) (l : List Byte) (p : Bool) : (s.writeMem pa l p).launches = s.launches :=
  (congrArg State.launches (s.writeMem_frame pa l p) :)
@[simp] theorem State.writeMem_copies (s : State) (pa : Nat) (l : List Byte) (p : Bool) : (s.writeMem pa l p).copies = s.copies :=
  (congrArg State.copies (s.writeMem_frame pa l p) :)
@[simp] theorem State.writeMem_recalls (s : State) (pa : Nat) (l : List Byte) (p : Bool) : (s.writeMem pa l p).recalls = s.recalls :=
  (congrArg State.recalls (s.writeMem_frame pa l p) :)
@[simp] theorem State.writeMem_parts (s : State) (pa : Nat) (l : List Byte) (p : Bool) : (s.writeMem pa l p).parts = s.parts :=
  (congrArg State.parts (s.writeMem_frame pa l p) :)
@[simp] theorem State.writeMem_cxq (s : State) (pa : Nat) (l : List Byte) (p : Bool) : (s.writeMem pa l p).cxq = s.cxq :=
  (congrArg State.cxq (s.writeMem_frame pa l p) :)
@[simp] theorem State.writeMem_agenda (s : State) (pa : Nat) (l : List Byte) (p : Bool) : (s.writeMem pa l p).agenda = s.agenda :=
  (congrArg State.agenda (s.writeMem_frame pa l p) :)
@[simp] theorem State.writeMem_out (s : State) (pa : Nat) (l : List Byte) (p : Bool) : (s.writeMem pa l p).out = s.out :=
  (congrArg State.out (s.writeMem_frame pa l p) :)
@[simp] theorem State.writeMem_clock (s : State) (pa : Nat) (l : List Byte) (p : Bool) : (s.writeMem pa l p).clock = s.clock :=
  (congrArg State.clock (s.writeMem_frame pa l p) :)
@[simp] theorem State.writeMem_ticked (s : State) (pa : Nat) (l : List Byte) (p : Bool) : (s.writeMem pa l p).ticked = s.ticked :=
  (congrArg State.ticked (s.writeMem_frame pa l p) :)
@[simp] theorem State.writeMem_tick (s : State) (pa : Nat) (l : List Byte) (p : Bool) : (s.writeMem pa l p).tick = s.tick :=
  (congrArg State.tick (s.writeMem_frame pa l p) :)
@[simp] theorem State.writeMem_bstop (s : State) (pa : Nat) (l : List Byte) (p : Bool) : (s.writeMem pa l p).bstop = s.bstop :=
  (congrArg State.bstop (s.writeMem_frame pa l p) :)
@[simp] theorem State.writeMem_msgs (s : State) (pa : Nat) (l : List Byte) (p : Bool) : (s.writeMem pa l p).msgs = s.msgs :=
  (congrArg State.msgs (s.writeMem_frame pa l p) :)
@[simp] theorem State.writeMem_parks (s : State) (pa : Nat) (l : List Byte) (p : Bool) : (s.writeMem pa l p).parks = s.parks :=
  (congrArg State.parks (s.writeMem_frame pa l p) :)
@[simp] theorem State.writeMem_captured (s : State) (pa : Nat) (l : List Byte) (p : Bool) : (s.writeMem pa l p).captured = s.captured :=
  (congrArg State.captured (s.writeMem_frame pa l p) :)
@[simp] theorem State.writeMem_fused (s : State) (pa : Nat) (l : List Byte) (p : Bool) : (s.writeMem pa l p).fused = s.fused :=
  (congrArg State.fused (s.writeMem_frame pa l p) :)
@[simp] theorem State.writeMem_fusing (s : State) (pa : Nat) (l : List Byte) (p : Bool) : (s.writeMem pa l p).fusing = s.fusing :=
  (congrArg State.fusing (s.writeMem_frame pa l p) :)
@[simp] theorem State.writeMem_holds (s : State) (pa : Nat) (l : List Byte) (p : Bool) : (s.writeMem pa l p).holds = s.holds :=
  (congrArg State.holds (s.writeMem_frame pa l p) :)
@[simp] theorem State.writeMem_pins (s : State) (pa : Nat) (l : List Byte) (p : Bool) : (s.writeMem pa l p).pins = s.pins :=
  (congrArg State.pins (s.writeMem_frame pa l p) :)
@[simp] theorem State.writeMem_qslots (s : State) (pa : Nat) (l : List Byte) (p : Bool) : (s.writeMem pa l p).qslots = s.qslots :=
  (congrArg State.qslots (s.writeMem_frame pa l p) :)
@[simp] theorem State.writeMem_pendq (s : State) (pa : Nat) (l : List Byte) (p : Bool) : (s.writeMem pa l p).pendq = s.pendq :=
  (congrArg State.pendq (s.writeMem_frame pa l p) :)
@[simp] theorem State.writeMem_launchNo (s : State) (pa : Nat) (l : List Byte) (p : Bool) : (s.writeMem pa l p).launchNo = s.launchNo :=
  (congrArg State.launchNo (s.writeMem_frame pa l p) :)
@[simp] theorem State.writeMem_disp (s : State) (pa : Nat) (l : List Byte) (p : Bool) : (s.writeMem pa l p).disp = s.disp :=
  (congrArg State.disp (s.writeMem_frame pa l p) :)
@[simp] theorem State.writeMem_cx (s : State) (pa : Nat) (l : List Byte) (p : Bool) : (s.writeMem pa l p).cx = s.cx :=
  (congrArg State.cx (s.writeMem_frame pa l p) :)
@[simp] theorem State.writeMem_cxHeld (s : State) (pa : Nat) (l : List Byte) (p : Bool) : (s.writeMem pa l p).cxHeld = s.cxHeld :=
  (congrArg State.cxHeld (s.writeMem_frame pa l p) :)
@[simp] theorem State.writeMem_restores (s : State) (pa : Nat) (l : List Byte) (p : Bool) : (s.writeMem pa l p).restores = s.restores :=
  (congrArg State.restores (s.writeMem_frame pa l p) :)
@[simp] theorem State.writeMem_forks (s : State) (pa : Nat) (l : List Byte) (p : Bool) : (s.writeMem pa l p).forks = s.forks :=
  (congrArg State.forks (s.writeMem_frame pa l p) :)
@[simp] theorem State.writeMem_ports (s : State) (pa : Nat) (l : List Byte) (p : Bool) : (s.writeMem pa l p).ports = s.ports :=
  (congrArg State.ports (s.writeMem_frame pa l p) :)
@[simp] theorem State.writeMem_sess (s : State) (pa : Nat) (l : List Byte) (p : Bool) : (s.writeMem pa l p).sess = s.sess :=
  (congrArg State.sess (s.writeMem_frame pa l p) :)
@[simp] theorem State.writeMem_paused (s : State) (pa : Nat) (l : List Byte) (p : Bool) : (s.writeMem pa l p).paused = s.paused :=
  (congrArg State.paused (s.writeMem_frame pa l p) :)
@[simp] theorem State.writeMem_plat (s : State) (pa : Nat) (l : List Byte) (p : Bool) : (s.writeMem pa l p).plat = s.plat :=
  (congrArg State.plat (s.writeMem_frame pa l p) :)
@[simp] theorem State.writeMem_fresh (s : State) (pa : Nat) (l : List Byte) (p : Bool) : (s.writeMem pa l p).fresh = s.fresh :=
  (congrArg State.fresh (s.writeMem_frame pa l p) :)
@[simp] theorem State.writeMem_nextId (s : State) (pa : Nat) (l : List Byte) (p : Bool) : (s.writeMem pa l p).nextId = s.nextId :=
  (congrArg State.nextId (s.writeMem_frame pa l p) :)
@[simp] theorem State.writeMem_cur (s : State) (pa : Nat) (l : List Byte) (p : Bool) : (s.writeMem pa l p).cur = s.cur :=
  (congrArg State.cur (s.writeMem_frame pa l p) :)
@[simp] theorem State.writeMem_turns (s : State) (pa : Nat) (l : List Byte) (p : Bool) : (s.writeMem pa l p).turns = s.turns :=
  (congrArg State.turns (s.writeMem_frame pa l p) :)
@[simp] theorem State.writeMem_far (s : State) (pa : Nat) (l : List Byte) (p : Bool) : (s.writeMem pa l p).far = s.far :=
  (congrArg State.far (s.writeMem_frame pa l p) :)
@[simp] theorem State.writeMem_txWait (s : State) (pa : Nat) (l : List Byte) (p : Bool) : (s.writeMem pa l p).txWait = s.txWait :=
  (congrArg State.txWait (s.writeMem_frame pa l p) :)
@[simp] theorem State.writeMem_coreMap (s : State) (pa : Nat) (l : List Byte) (p : Bool) : (s.writeMem pa l p).coreMap = s.coreMap :=
  (congrArg State.coreMap (s.writeMem_frame pa l p) :)
@[simp] theorem State.writeMem_walkers (s : State) (pa : Nat) (l : List Byte) (p : Bool) : (s.writeMem pa l p).walkers = s.walkers :=
  (congrArg State.walkers (s.writeMem_frame pa l p) :)
@[simp] theorem State.writeMem_portAt (s : State) (pa : Nat) (l : List Byte) (p : Bool) : (s.writeMem pa l p).portAt = s.portAt :=
  (congrArg State.portAt (s.writeMem_frame pa l p) :)

@[simp] theorem State.writeSpad_mem (s : State) (k : Nat) (l : List Byte) (p : Bool) : (s.writeSpad k l p).mem = s.mem :=
  (congrArg State.mem (s.writeSpad_frame k l p) :)
@[simp] theorem State.writeSpad_memP (s : State) (k : Nat) (l : List Byte) (p : Bool) : (s.writeSpad k l p).memP = s.memP :=
  (congrArg State.memP (s.writeSpad_frame k l p) :)
@[simp] theorem State.writeSpad_views (s : State) (k : Nat) (l : List Byte) (p : Bool) : (s.writeSpad k l p).views = s.views :=
  (congrArg State.views (s.writeSpad_frame k l p) :)
@[simp] theorem State.writeSpad_acc (s : State) (k : Nat) (l : List Byte) (p : Bool) : (s.writeSpad k l p).acc = s.acc :=
  (congrArg State.acc (s.writeSpad_frame k l p) :)
@[simp] theorem State.writeSpad_accP (s : State) (k : Nat) (l : List Byte) (p : Bool) : (s.writeSpad k l p).accP = s.accP :=
  (congrArg State.accP (s.writeSpad_frame k l p) :)
@[simp] theorem State.writeSpad_regs (s : State) (k : Nat) (l : List Byte) (p : Bool) : (s.writeSpad k l p).regs = s.regs :=
  (congrArg State.regs (s.writeSpad_frame k l p) :)
@[simp] theorem State.writeSpad_dfilter (s : State) (k : Nat) (l : List Byte) (p : Bool) : (s.writeSpad k l p).dfilter = s.dfilter :=
  (congrArg State.dfilter (s.writeSpad_frame k l p) :)
@[simp] theorem State.writeSpad_artNow (s : State) (k : Nat) (l : List Byte) (p : Bool) : (s.writeSpad k l p).artNow = s.artNow :=
  (congrArg State.artNow (s.writeSpad_frame k l p) :)
@[simp] theorem State.writeSpad_wayNow (s : State) (k : Nat) (l : List Byte) (p : Bool) : (s.writeSpad k l p).wayNow = s.wayNow :=
  (congrArg State.wayNow (s.writeSpad_frame k l p) :)
@[simp] theorem State.writeSpad_teams (s : State) (k : Nat) (l : List Byte) (p : Bool) : (s.writeSpad k l p).teams = s.teams :=
  (congrArg State.teams (s.writeSpad_frame k l p) :)
@[simp] theorem State.writeSpad_blocks (s : State) (k : Nat) (l : List Byte) (p : Bool) : (s.writeSpad k l p).blocks = s.blocks :=
  (congrArg State.blocks (s.writeSpad_frame k l p) :)
@[simp] theorem State.writeSpad_launches (s : State) (k : Nat) (l : List Byte) (p : Bool) : (s.writeSpad k l p).launches = s.launches :=
  (congrArg State.launches (s.writeSpad_frame k l p) :)
@[simp] theorem State.writeSpad_copies (s : State) (k : Nat) (l : List Byte) (p : Bool) : (s.writeSpad k l p).copies = s.copies :=
  (congrArg State.copies (s.writeSpad_frame k l p) :)
@[simp] theorem State.writeSpad_recalls (s : State) (k : Nat) (l : List Byte) (p : Bool) : (s.writeSpad k l p).recalls = s.recalls :=
  (congrArg State.recalls (s.writeSpad_frame k l p) :)
@[simp] theorem State.writeSpad_cores (s : State) (k : Nat) (l : List Byte) (p : Bool) : (s.writeSpad k l p).cores = s.cores :=
  (congrArg State.cores (s.writeSpad_frame k l p) :)
@[simp] theorem State.writeSpad_parts (s : State) (k : Nat) (l : List Byte) (p : Bool) : (s.writeSpad k l p).parts = s.parts :=
  (congrArg State.parts (s.writeSpad_frame k l p) :)
@[simp] theorem State.writeSpad_cxq (s : State) (k : Nat) (l : List Byte) (p : Bool) : (s.writeSpad k l p).cxq = s.cxq :=
  (congrArg State.cxq (s.writeSpad_frame k l p) :)
@[simp] theorem State.writeSpad_agenda (s : State) (k : Nat) (l : List Byte) (p : Bool) : (s.writeSpad k l p).agenda = s.agenda :=
  (congrArg State.agenda (s.writeSpad_frame k l p) :)
@[simp] theorem State.writeSpad_out (s : State) (k : Nat) (l : List Byte) (p : Bool) : (s.writeSpad k l p).out = s.out :=
  (congrArg State.out (s.writeSpad_frame k l p) :)
@[simp] theorem State.writeSpad_clock (s : State) (k : Nat) (l : List Byte) (p : Bool) : (s.writeSpad k l p).clock = s.clock :=
  (congrArg State.clock (s.writeSpad_frame k l p) :)
@[simp] theorem State.writeSpad_ticked (s : State) (k : Nat) (l : List Byte) (p : Bool) : (s.writeSpad k l p).ticked = s.ticked :=
  (congrArg State.ticked (s.writeSpad_frame k l p) :)
@[simp] theorem State.writeSpad_tick (s : State) (k : Nat) (l : List Byte) (p : Bool) : (s.writeSpad k l p).tick = s.tick :=
  (congrArg State.tick (s.writeSpad_frame k l p) :)
@[simp] theorem State.writeSpad_bstop (s : State) (k : Nat) (l : List Byte) (p : Bool) : (s.writeSpad k l p).bstop = s.bstop :=
  (congrArg State.bstop (s.writeSpad_frame k l p) :)
@[simp] theorem State.writeSpad_msgs (s : State) (k : Nat) (l : List Byte) (p : Bool) : (s.writeSpad k l p).msgs = s.msgs :=
  (congrArg State.msgs (s.writeSpad_frame k l p) :)
@[simp] theorem State.writeSpad_parks (s : State) (k : Nat) (l : List Byte) (p : Bool) : (s.writeSpad k l p).parks = s.parks :=
  (congrArg State.parks (s.writeSpad_frame k l p) :)
@[simp] theorem State.writeSpad_captured (s : State) (k : Nat) (l : List Byte) (p : Bool) : (s.writeSpad k l p).captured = s.captured :=
  (congrArg State.captured (s.writeSpad_frame k l p) :)
@[simp] theorem State.writeSpad_l2 (s : State) (k : Nat) (l : List Byte) (p : Bool) : (s.writeSpad k l p).l2 = s.l2 :=
  (congrArg State.l2 (s.writeSpad_frame k l p) :)
@[simp] theorem State.writeSpad_fused (s : State) (k : Nat) (l : List Byte) (p : Bool) : (s.writeSpad k l p).fused = s.fused :=
  (congrArg State.fused (s.writeSpad_frame k l p) :)
@[simp] theorem State.writeSpad_fusing (s : State) (k : Nat) (l : List Byte) (p : Bool) : (s.writeSpad k l p).fusing = s.fusing :=
  (congrArg State.fusing (s.writeSpad_frame k l p) :)
@[simp] theorem State.writeSpad_holds (s : State) (k : Nat) (l : List Byte) (p : Bool) : (s.writeSpad k l p).holds = s.holds :=
  (congrArg State.holds (s.writeSpad_frame k l p) :)
@[simp] theorem State.writeSpad_pins (s : State) (k : Nat) (l : List Byte) (p : Bool) : (s.writeSpad k l p).pins = s.pins :=
  (congrArg State.pins (s.writeSpad_frame k l p) :)
@[simp] theorem State.writeSpad_qslots (s : State) (k : Nat) (l : List Byte) (p : Bool) : (s.writeSpad k l p).qslots = s.qslots :=
  (congrArg State.qslots (s.writeSpad_frame k l p) :)
@[simp] theorem State.writeSpad_pendq (s : State) (k : Nat) (l : List Byte) (p : Bool) : (s.writeSpad k l p).pendq = s.pendq :=
  (congrArg State.pendq (s.writeSpad_frame k l p) :)
@[simp] theorem State.writeSpad_launchNo (s : State) (k : Nat) (l : List Byte) (p : Bool) : (s.writeSpad k l p).launchNo = s.launchNo :=
  (congrArg State.launchNo (s.writeSpad_frame k l p) :)
@[simp] theorem State.writeSpad_disp (s : State) (k : Nat) (l : List Byte) (p : Bool) : (s.writeSpad k l p).disp = s.disp :=
  (congrArg State.disp (s.writeSpad_frame k l p) :)
@[simp] theorem State.writeSpad_cx (s : State) (k : Nat) (l : List Byte) (p : Bool) : (s.writeSpad k l p).cx = s.cx :=
  (congrArg State.cx (s.writeSpad_frame k l p) :)
@[simp] theorem State.writeSpad_cxHeld (s : State) (k : Nat) (l : List Byte) (p : Bool) : (s.writeSpad k l p).cxHeld = s.cxHeld :=
  (congrArg State.cxHeld (s.writeSpad_frame k l p) :)
@[simp] theorem State.writeSpad_restores (s : State) (k : Nat) (l : List Byte) (p : Bool) : (s.writeSpad k l p).restores = s.restores :=
  (congrArg State.restores (s.writeSpad_frame k l p) :)
@[simp] theorem State.writeSpad_forks (s : State) (k : Nat) (l : List Byte) (p : Bool) : (s.writeSpad k l p).forks = s.forks :=
  (congrArg State.forks (s.writeSpad_frame k l p) :)
@[simp] theorem State.writeSpad_ports (s : State) (k : Nat) (l : List Byte) (p : Bool) : (s.writeSpad k l p).ports = s.ports :=
  (congrArg State.ports (s.writeSpad_frame k l p) :)
@[simp] theorem State.writeSpad_sess (s : State) (k : Nat) (l : List Byte) (p : Bool) : (s.writeSpad k l p).sess = s.sess :=
  (congrArg State.sess (s.writeSpad_frame k l p) :)
@[simp] theorem State.writeSpad_paused (s : State) (k : Nat) (l : List Byte) (p : Bool) : (s.writeSpad k l p).paused = s.paused :=
  (congrArg State.paused (s.writeSpad_frame k l p) :)
@[simp] theorem State.writeSpad_plat (s : State) (k : Nat) (l : List Byte) (p : Bool) : (s.writeSpad k l p).plat = s.plat :=
  (congrArg State.plat (s.writeSpad_frame k l p) :)
@[simp] theorem State.writeSpad_fresh (s : State) (k : Nat) (l : List Byte) (p : Bool) : (s.writeSpad k l p).fresh = s.fresh :=
  (congrArg State.fresh (s.writeSpad_frame k l p) :)
@[simp] theorem State.writeSpad_nextId (s : State) (k : Nat) (l : List Byte) (p : Bool) : (s.writeSpad k l p).nextId = s.nextId :=
  (congrArg State.nextId (s.writeSpad_frame k l p) :)
@[simp] theorem State.writeSpad_cur (s : State) (k : Nat) (l : List Byte) (p : Bool) : (s.writeSpad k l p).cur = s.cur :=
  (congrArg State.cur (s.writeSpad_frame k l p) :)
@[simp] theorem State.writeSpad_turns (s : State) (k : Nat) (l : List Byte) (p : Bool) : (s.writeSpad k l p).turns = s.turns :=
  (congrArg State.turns (s.writeSpad_frame k l p) :)
@[simp] theorem State.writeSpad_far (s : State) (k : Nat) (l : List Byte) (p : Bool) : (s.writeSpad k l p).far = s.far :=
  (congrArg State.far (s.writeSpad_frame k l p) :)
@[simp] theorem State.writeSpad_txWait (s : State) (k : Nat) (l : List Byte) (p : Bool) : (s.writeSpad k l p).txWait = s.txWait :=
  (congrArg State.txWait (s.writeSpad_frame k l p) :)
@[simp] theorem State.writeSpad_coreMap (s : State) (k : Nat) (l : List Byte) (p : Bool) : (s.writeSpad k l p).coreMap = s.coreMap :=
  (congrArg State.coreMap (s.writeSpad_frame k l p) :)
@[simp] theorem State.writeSpad_walkers (s : State) (k : Nat) (l : List Byte) (p : Bool) : (s.writeSpad k l p).walkers = s.walkers :=
  (congrArg State.walkers (s.writeSpad_frame k l p) :)
@[simp] theorem State.writeSpad_portAt (s : State) (k : Nat) (l : List Byte) (p : Bool) : (s.writeSpad k l p).portAt = s.portAt :=
  (congrArg State.portAt (s.writeSpad_frame k l p) :)

/-! ## The canonical form -/

/-- Poison granules are written in canonical form. -/
theorem granPoison_wf {m : SMap 1} (h : m.wf = true) (g pa n : Nat) (p : Bool) : (granPoison m g pa n p).wf = true := by
  unfold granPoison
  generalize List.range _ = l
  induction l generalizing m with
  | nil => exact h
  | cons i l ih =>
    refine ih ?_
    dsimp only
    split
    · exact SMap.wf_set h _ _
    · split
      · exact SMap.wf_set h _ _
      · exact h

/-- The dirty-page bits of a page keep memory in canonical form. -/
theorem State.markPage_wf (s : State) (pa : Nat) (h : Memory.wf s.mem = true) : Memory.wf (s.markPage pa).mem = true := by
  unfold State.markPage
  generalize List.range 32 = l
  induction l generalizing s with
  | nil => exact h
  | cons n l ih =>
    refine ih _ ?_
    dsimp only
    split
    · exact h
    · split
      · exact h
      · exact SMap.wf_set h _ _

/-- Dirty-page bits keep memory in canonical form. -/
theorem State.markDirty_wf (s : State) (pa n : Nat) (h : Memory.wf s.mem = true) : Memory.wf (s.markDirty pa n).mem = true := by
  unfold State.markDirty
  generalize List.range _ = l
  induction l generalizing s with
  | nil => exact h
  | cons i l ih => exact ih _ (s.markPage_wf _ h)

/-- The poison of memory is not what dirty-page bits change. -/
theorem State.markDirty_memP (s : State) (pa n : Nat) : (s.markDirty pa n).memP = s.memP := (congrArg State.memP (s.markDirty_frame pa n) :)

/-- A write keeps memory in canonical form. -/
theorem State.writeMem_wf (s : State) (pa : Nat) (l : List Byte) (p : Bool) (h : Memory.wf s.mem = true) :
    Memory.wf (s.writeMem pa l p).mem = true := by
  unfold State.writeMem
  split
  · exact h
  · exact (congrArg (fun u : State => Memory.wf u.mem) (State.l2Range_frame _ 0 pa l.length .ap true)).trans
      (State.markDirty_wf _ pa l.length (SMap.wf_setRange h pa l))

/-- A write keeps the poison of memory in canonical form. -/
theorem State.writeMem_wfP (s : State) (pa : Nat) (l : List Byte) (p : Bool) (h : s.memP.wf = true) : (s.writeMem pa l p).memP.wf = true := by
  unfold State.writeMem
  split
  · exact h
  · exact (congrArg (fun u : State => u.memP.wf) (State.l2Range_frame _ 0 pa l.length .ap true)).trans
      ((congrArg SMap.wf (State.markDirty_memP _ pa l.length)).trans (granPoison_wf h 8 pa l.length p))

/-- A write of memory keeps every store canonical. -/
theorem State.writeMem_canonical (s : State) (pa : Nat) (l : List Byte) (p : Bool) (h : s.Canonical) : (s.writeMem pa l p).Canonical := by
  refine ⟨s.writeMem_wf pa l p h.1, s.writeMem_wfP pa l p h.2.1, ?_, ?_, ?_, ?_⟩
  · simpa using h.2.2.1
  · simpa using h.2.2.2.1
  · simpa using h.2.2.2.2.1
  · simpa using h.2.2.2.2.2

/-- A write of a scratchpad keeps every store canonical. -/
theorem State.writeSpad_canonical (s : State) (k : Nat) (l : List Byte) (p : Bool) (h : s.Canonical) : (s.writeSpad k l p).Canonical := by
  unfold State.writeSpad
  split
  · exact h
  · exact ⟨h.1, h.2.1, SMap.wf_setRange h.2.2.1 k l, granPoison_wf h.2.2.2.1 4 k l.length p, h.2.2.2.2.1, h.2.2.2.2.2⟩

/-- A write of an accumulator element keeps every store canonical. -/
theorem State.setAccElem_canonical (s : State) (k : Nat) (v : Lane) (p : Bool) (h : s.Canonical) : (s.setAccElem k v p).Canonical :=
  ⟨h.1, h.2.1, h.2.2.1, h.2.2.2.1, SMap.wf_set h.2.2.2.2.1 k v, SMap.wf_set h.2.2.2.2.2 k (pBit p)⟩

/-- A way's conversion keeps every store canonical. -/
theorem State.zeroWay_canonical (s : State) (base : Nat) (h : s.Canonical) : (s.zeroWay base).Canonical := by
  let out (g k : Nat) : Bool := !(decide (base / g ≤ k) && decide (k < (base + 2 ^ 17) / g))
  exact ⟨SMap.wf_keep h.1 (out 1), SMap.wf_keep h.2.1 (out 8), h.2.2⟩

/-- The allotment of a new block keeps every store canonical. -/
theorem State.clearAllot_canonical (s : State) (core tile0 nt : Nat) (accs : List Nat) (h : s.Canonical) :
    (s.clearAllot core tile0 nt accs).Canonical := by
  let lo := spadKey core (8192 * tile0)
  let out (g k : Nat) : Bool := !(decide (lo / g ≤ k) && decide (k < (lo + 8192 * nt) / g))
  let keepAcc (k : Nat) : Bool := !(k / 32768 == core && accs.contains (k / 4096 % 8))
  exact ⟨h.1, h.2.1, SMap.wf_keep h.2.2.1 (out 1), SMap.wf_keep h.2.2.2.1 (out 4), SMap.wf_keep h.2.2.2.2.1 keepAcc,
    SMap.wf_keep h.2.2.2.2.2 keepAcc⟩

/-- A stage of a queue's records, of a slot, or of an image is a fold of writes: what each of its writes keeps, the fold keeps. -/
theorem foldl_keeps {α β : Type} (q : α → Prop) (f : α → β → α) (h : ∀ a b, q a → q (f a b)) (l : List β) (a : α) (ha : q a) :
    q (l.foldl f a) := by
  induction l generalizing a with
  | nil => exact ha
  | cons b l ih => exact ih _ (h a b ha)

/-! ## Restores (R333) -/

/-- What RESTORE_PLACEMENT does with the oldest RESTORE. -/
theorem exec_restorePlacement (s : State) (leaf : Nat) (r : RestoreReq) (rest : List RestoreReq) (h : s.restores = r :: rest) :
    exec (.restorePlacement leaf) s = .next (s.restoreOldest leaf r (s.cxImage r.slot)) := by
  show execRestorePlacement leaf s = _
  unfold execRestorePlacement
  rw [h]

end Sys2Proof.Machine
end

