-- ==== Sys2Proof/Laws/PerInstr.lean ====
section
/-!
SUPPORT. RoundTrip, one lemma per instruction: the slot field the encoder writes for a well-formed instruction decodes to it, held or not
as its map allows (R58 to R66, R87 to R91). A step of the device has no slot field, and its lemma says nothing.
-/
namespace Sys2Proof.Laws.RoundTrip

open Sys2Proof

set_option Elab.async false
set_option linter.unusedSimpArgs false
set_option linter.unusedVariables false

/-- A well-formed slot operation decodes from its own fields, with the hold bit where its map's H column allows it. -/
def Statement (i : Instr) : Prop :=
  i.wf = true → ∀ k h, i.kind = some k → (h = true → i.holdable = true) → decodeSlot k h (i.fields.pack k) = .ok i

/-- What the slot decoder answers, from the row of the map and the tests it makes. -/
theorem ok_of (k : Kind) (h : Bool) (x : SlotBits) (f : SlotF) (r : Row) (i : Instr) (hf : SlotF.unpack k x = f)
    (hr : mapRow k f = r) (h1 : r.known = true) (h2 : (h && !r.hold) = false) (h3 : (f.rsv != 0) = false)
    (h4 : (!f.me && f.mb != 0) = false) (h5 : Fld.all.any (fun g => !r.used.contains g && !f.isZero g) = false)
    (h6 : r.sels.all selRangeOk = true) (h7 : f.d.toNat < r.regLim) (h8 : r.ins = some i) :
    decodeSlot k h x = .ok i := by
  subst hf hr
  have h6' : (mapRow k (SlotF.unpack k x)).sels.any (fun y => !selRangeOk y) = false := by
    simp only [List.all_eq_true, List.any_eq_false] at *
    intro y hy
    simp [h6 y hy]
  simp only [decodeSlot, h1, h2, h3, h4, h5, h6', h8, Bool.not_true, Bool.or_self, Bool.false_eq_true, if_false,
    decide_eq_true_eq, Nat.not_le_of_lt h7]

theorem sel64 (x : Sel) : x.ok 64 true = true := by cases x <;> simp [Sel.ok]; omega

theorem mask_zero (mk : Mask) : (!mk.isSome && mk.getD 0 != 0) = false := by cases mk <;> simp

theorem mask_eq (mk : Mask) : (if mk.isSome = true then some (mk.getD 0#6) else none) = mk := by cases mk <;> simp

theorem gate_enc (g : Bool) : gateDec (if g then 1 else 0) = some g := by cases g <;> decide

theorem topk_enc (a b : Bool) : topkDec ((if a then 1 else 0) ||| (if b then 2 else 0)) = some (a, b) := by
  cases a <;> cases b <;> decide

theorem d_lt (d : BitVec 6) : d.toNat < 64 := d.isLt

theorem suNop  : Statement (.suNop) := by
  intro hw k h hk hh
  cases hk
  refine ok_of _ _ _ { op := 0x00 } ((fun f : SlotF => row false [] [] (64) <| some .suNop) { op := 0x00 }) _
    ((SlotF.unpack_pack_su _).trans rfl) rfl rfl ?_ rfl ?_ rfl ?_ ?_ ?_
  · simpa [row, Instr.holdable] using hh
  · rfl
  · rfl
  · exact Nat.zero_lt_succ 63
  · rfl

theorem suEnd  : Statement (.suEnd) := by
  intro hw k h hk hh
  cases hk
  refine ok_of _ _ _ { op := 0x01 } ((fun f : SlotF => row false [] [] (64) <| some .suEnd) { op := 0x01 }) _
    ((SlotF.unpack_pack_su _).trans rfl) rfl rfl ?_ rfl ?_ rfl ?_ ?_ ?_
  · simpa [row, Instr.holdable] using hh
  · rfl
  · rfl
  · exact Nat.zero_lt_succ 63
  · rfl

theorem suAdd (sd : BitVec 6) (sa : Sel) (sb : Sel) : Statement (.suAdd sd sa sb) := by
  intro hw k h hk hh
  cases hk
  refine ok_of _ _ _ { op := 0x02, d := sd, a := sa.enc, b := sb.enc } ((fun f : SlotF => row true [.d, .a, .b] [(f.a, 64, true), (f.b, 64, true)] (64) <| (Sel.dec f.a).bind fun sa => (Sel.dec f.b).bind fun sb => some (.suAdd f.d sa sb)) { op := 0x02, d := sd, a := sa.enc, b := sb.enc }) _
    ((SlotF.unpack_pack_su _).trans rfl) rfl rfl ?_ rfl ?_ rfl ?_ ?_ ?_
  · exact Bool.and_false h
  · rfl
  · simp [row, selRangeOk, sel64, hw]
  · exact sd.isLt
  · simp [row, SlotF.mask, SlotF.strm, mask_eq, hw]

theorem suSub (sd : BitVec 6) (sa : Sel) (sb : Sel) : Statement (.suSub sd sa sb) := by
  intro hw k h hk hh
  cases hk
  refine ok_of _ _ _ { op := 0x03, d := sd, a := sa.enc, b := sb.enc } ((fun f : SlotF => row true [.d, .a, .b] [(f.a, 64, true), (f.b, 64, true)] (64) <| (Sel.dec f.a).bind fun sa => (Sel.dec f.b).bind fun sb => some (.suSub f.d sa sb)) { op := 0x03, d := sd, a := sa.enc, b := sb.enc }) _
    ((SlotF.unpack_pack_su _).trans rfl) rfl rfl ?_ rfl ?_ rfl ?_ ?_ ?_
  · exact Bool.and_false h
  · rfl
  · simp [row, selRangeOk, sel64, hw]
  · exact sd.isLt
  · simp [row, SlotF.mask, SlotF.strm, mask_eq, hw]

theorem suMul (sd : BitVec 6) (sa : Sel) (sb : Sel) : Statement (.suMul sd sa sb) := by
  intro hw k h hk hh
  cases hk
  refine ok_of _ _ _ { op := 0x04, d := sd, a := sa.enc, b := sb.enc } ((fun f : SlotF => row true [.d, .a, .b] [(f.a, 64, true), (f.b, 64, true)] (64) <| (Sel.dec f.a).bind fun sa => (Sel.dec f.b).bind fun sb => some (.suMul f.d sa sb)) { op := 0x04, d := sd, a := sa.enc, b := sb.enc }) _
    ((SlotF.unpack_pack_su _).trans rfl) rfl rfl ?_ rfl ?_ rfl ?_ ?_ ?_
  · exact Bool.and_false h
  · rfl
  · simp [row, selRangeOk, sel64, hw]
  · exact sd.isLt
  · simp [row, SlotF.mask, SlotF.strm, mask_eq, hw]

theorem suMulh (sd : BitVec 6) (sa : Sel) (sb : Sel) : Statement (.suMulh sd sa sb) := by
  intro hw k h hk hh
  cases hk
  refine ok_of _ _ _ { op := 0x05, d := sd, a := sa.enc, b := sb.enc } ((fun f : SlotF => row true [.d, .a, .b] [(f.a, 64, true), (f.b, 64, true)] (64) <| (Sel.dec f.a).bind fun sa => (Sel.dec f.b).bind fun sb => some (.suMulh f.d sa sb)) { op := 0x05, d := sd, a := sa.enc, b := sb.enc }) _
    ((SlotF.unpack_pack_su _).trans rfl) rfl rfl ?_ rfl ?_ rfl ?_ ?_ ?_
  · exact Bool.and_false h
  · rfl
  · simp [row, selRangeOk, sel64, hw]
  · exact sd.isLt
  · simp [row, SlotF.mask, SlotF.strm, mask_eq, hw]

theorem suMulhu (sd : BitVec 6) (sa : Sel) (sb : Sel) : Statement (.suMulhu sd sa sb) := by
  intro hw k h hk hh
  cases hk
  refine ok_of _ _ _ { op := 0x06, d := sd, a := sa.enc, b := sb.enc } ((fun f : SlotF => row true [.d, .a, .b] [(f.a, 64, true), (f.b, 64, true)] (64) <| (Sel.dec f.a).bind fun sa => (Sel.dec f.b).bind fun sb => some (.suMulhu f.d sa sb)) { op := 0x06, d := sd, a := sa.enc, b := sb.enc }) _
    ((SlotF.unpack_pack_su _).trans rfl) rfl rfl ?_ rfl ?_ rfl ?_ ?_ ?_
  · exact Bool.and_false h
  · rfl
  · simp [row, selRangeOk, sel64, hw]
  · exact sd.isLt
  · simp [row, SlotF.mask, SlotF.strm, mask_eq, hw]

theorem suAnd (sd : BitVec 6) (sa : Sel) (sb : Sel) : Statement (.suAnd sd sa sb) := by
  intro hw k h hk hh
  cases hk
  refine ok_of _ _ _ { op := 0x07, d := sd, a := sa.enc, b := sb.enc } ((fun f : SlotF => row true [.d, .a, .b] [(f.a, 64, true), (f.b, 64, true)] (64) <| (Sel.dec f.a).bind fun sa => (Sel.dec f.b).bind fun sb => some (.suAnd f.d sa sb)) { op := 0x07, d := sd, a := sa.enc, b := sb.enc }) _
    ((SlotF.unpack_pack_su _).trans rfl) rfl rfl ?_ rfl ?_ rfl ?_ ?_ ?_
  · exact Bool.and_false h
  · rfl
  · simp [row, selRangeOk, sel64, hw]
  · exact sd.isLt
  · simp [row, SlotF.mask, SlotF.strm, mask_eq, hw]

theorem suOr (sd : BitVec 6) (sa : Sel) (sb : Sel) : Statement (.suOr sd sa sb) := by
  intro hw k h hk hh
  cases hk
  refine ok_of _ _ _ { op := 0x08, d := sd, a := sa.enc, b := sb.enc } ((fun f : SlotF => row true [.d, .a, .b] [(f.a, 64, true), (f.b, 64, true)] (64) <| (Sel.dec f.a).bind fun sa => (Sel.dec f.b).bind fun sb => some (.suOr f.d sa sb)) { op := 0x08, d := sd, a := sa.enc, b := sb.enc }) _
    ((SlotF.unpack_pack_su _).trans rfl) rfl rfl ?_ rfl ?_ rfl ?_ ?_ ?_
  · exact Bool.and_false h
  · rfl
  · simp [row, selRangeOk, sel64, hw]
  · exact sd.isLt
  · simp [row, SlotF.mask, SlotF.strm, mask_eq, hw]

theorem suXor (sd : BitVec 6) (sa : Sel) (sb : Sel) : Statement (.suXor sd sa sb) := by
  intro hw k h hk hh
  cases hk
  refine ok_of _ _ _ { op := 0x09, d := sd, a := sa.enc, b := sb.enc } ((fun f : SlotF => row true [.d, .a, .b] [(f.a, 64, true), (f.b, 64, true)] (64) <| (Sel.dec f.a).bind fun sa => (Sel.dec f.b).bind fun sb => some (.suXor f.d sa sb)) { op := 0x09, d := sd, a := sa.enc, b := sb.enc }) _
    ((SlotF.unpack_pack_su _).trans rfl) rfl rfl ?_ rfl ?_ rfl ?_ ?_ ?_
  · exact Bool.and_false h
  · rfl
  · simp [row, selRangeOk, sel64, hw]
  · exact sd.isLt
  · simp [row, SlotF.mask, SlotF.strm, mask_eq, hw]

theorem suAndn (sd : BitVec 6) (sa : Sel) (sb : Sel) : Statement (.suAndn sd sa sb) := by
  intro hw k h hk hh
  cases hk
  refine ok_of _ _ _ { op := 0x0A, d := sd, a := sa.enc, b := sb.enc } ((fun f : SlotF => row true [.d, .a, .b] [(f.a, 64, true), (f.b, 64, true)] (64) <| (Sel.dec f.a).bind fun sa => (Sel.dec f.b).bind fun sb => some (.suAndn f.d sa sb)) { op := 0x0A, d := sd, a := sa.enc, b := sb.enc }) _
    ((SlotF.unpack_pack_su _).trans rfl) rfl rfl ?_ rfl ?_ rfl ?_ ?_ ?_
  · exact Bool.and_false h
  · rfl
  · simp [row, selRangeOk, sel64, hw]
  · exact sd.isLt
  · simp [row, SlotF.mask, SlotF.strm, mask_eq, hw]

theorem suShl (sd : BitVec 6) (sa : Sel) (sb : Sel) : Statement (.suShl sd sa sb) := by
  intro hw k h hk hh
  cases hk
  refine ok_of _ _ _ { op := 0x0B, d := sd, a := sa.enc, b := sb.enc } ((fun f : SlotF => row true [.d, .a, .b] [(f.a, 64, true), (f.b, 64, true)] (64) <| (Sel.dec f.a).bind fun sa => (Sel.dec f.b).bind fun sb => some (.suShl f.d sa sb)) { op := 0x0B, d := sd, a := sa.enc, b := sb.enc }) _
    ((SlotF.unpack_pack_su _).trans rfl) rfl rfl ?_ rfl ?_ rfl ?_ ?_ ?_
  · exact Bool.and_false h
  · rfl
  · simp [row, selRangeOk, sel64, hw]
  · exact sd.isLt
  · simp [row, SlotF.mask, SlotF.strm, mask_eq, hw]

theorem suShr (sd : BitVec 6) (sa : Sel) (sb : Sel) : Statement (.suShr sd sa sb) := by
  intro hw k h hk hh
  cases hk
  refine ok_of _ _ _ { op := 0x0C, d := sd, a := sa.enc, b := sb.enc } ((fun f : SlotF => row true [.d, .a, .b] [(f.a, 64, true), (f.b, 64, true)] (64) <| (Sel.dec f.a).bind fun sa => (Sel.dec f.b).bind fun sb => some (.suShr f.d sa sb)) { op := 0x0C, d := sd, a := sa.enc, b := sb.enc }) _
    ((SlotF.unpack_pack_su _).trans rfl) rfl rfl ?_ rfl ?_ rfl ?_ ?_ ?_
  · exact Bool.and_false h
  · rfl
  · simp [row, selRangeOk, sel64, hw]
  · exact sd.isLt
  · simp [row, SlotF.mask, SlotF.strm, mask_eq, hw]

theorem suSar (sd : BitVec 6) (sa : Sel) (sb : Sel) : Statement (.suSar sd sa sb) := by
  intro hw k h hk hh
  cases hk
  refine ok_of _ _ _ { op := 0x0D, d := sd, a := sa.enc, b := sb.enc } ((fun f : SlotF => row true [.d, .a, .b] [(f.a, 64, true), (f.b, 64, true)] (64) <| (Sel.dec f.a).bind fun sa => (Sel.dec f.b).bind fun sb => some (.suSar f.d sa sb)) { op := 0x0D, d := sd, a := sa.enc, b := sb.enc }) _
    ((SlotF.unpack_pack_su _).trans rfl) rfl rfl ?_ rfl ?_ rfl ?_ ?_ ?_
  · exact Bool.and_false h
  · rfl
  · simp [row, selRangeOk, sel64, hw]
  · exact sd.isLt
  · simp [row, SlotF.mask, SlotF.strm, mask_eq, hw]

theorem suMin (sd : BitVec 6) (sa : Sel) (sb : Sel) : Statement (.suMin sd sa sb) := by
  intro hw k h hk hh
  cases hk
  refine ok_of _ _ _ { op := 0x0E, d := sd, a := sa.enc, b := sb.enc } ((fun f : SlotF => row true [.d, .a, .b] [(f.a, 64, true), (f.b, 64, true)] (64) <| (Sel.dec f.a).bind fun sa => (Sel.dec f.b).bind fun sb => some (.suMin f.d sa sb)) { op := 0x0E, d := sd, a := sa.enc, b := sb.enc }) _
    ((SlotF.unpack_pack_su _).trans rfl) rfl rfl ?_ rfl ?_ rfl ?_ ?_ ?_
  · exact Bool.and_false h
  · rfl
  · simp [row, selRangeOk, sel64, hw]
  · exact sd.isLt
  · simp [row, SlotF.mask, SlotF.strm, mask_eq, hw]

theorem suMax (sd : BitVec 6) (sa : Sel) (sb : Sel) : Statement (.suMax sd sa sb) := by
  intro hw k h hk hh
  cases hk
  refine ok_of _ _ _ { op := 0x0F, d := sd, a := sa.enc, b := sb.enc } ((fun f : SlotF => row true [.d, .a, .b] [(f.a, 64, true), (f.b, 64, true)] (64) <| (Sel.dec f.a).bind fun sa => (Sel.dec f.b).bind fun sb => some (.suMax f.d sa sb)) { op := 0x0F, d := sd, a := sa.enc, b := sb.enc }) _
    ((SlotF.unpack_pack_su _).trans rfl) rfl rfl ?_ rfl ?_ rfl ?_ ?_ ?_
  · exact Bool.and_false h
  · rfl
  · simp [row, selRangeOk, sel64, hw]
  · exact sd.isLt
  · simp [row, SlotF.mask, SlotF.strm, mask_eq, hw]

theorem suMinu (sd : BitVec 6) (sa : Sel) (sb : Sel) : Statement (.suMinu sd sa sb) := by
  intro hw k h hk hh
  cases hk
  refine ok_of _ _ _ { op := 0x10, d := sd, a := sa.enc, b := sb.enc } ((fun f : SlotF => row true [.d, .a, .b] [(f.a, 64, true), (f.b, 64, true)] (64) <| (Sel.dec f.a).bind fun sa => (Sel.dec f.b).bind fun sb => some (.suMinu f.d sa sb)) { op := 0x10, d := sd, a := sa.enc, b := sb.enc }) _
    ((SlotF.unpack_pack_su _).trans rfl) rfl rfl ?_ rfl ?_ rfl ?_ ?_ ?_
  · exact Bool.and_false h
  · rfl
  · simp [row, selRangeOk, sel64, hw]
  · exact sd.isLt
  · simp [row, SlotF.mask, SlotF.strm, mask_eq, hw]

theorem suMaxu (sd : BitVec 6) (sa : Sel) (sb : Sel) : Statement (.suMaxu sd sa sb) := by
  intro hw k h hk hh
  cases hk
  refine ok_of _ _ _ { op := 0x11, d := sd, a := sa.enc, b := sb.enc } ((fun f : SlotF => row true [.d, .a, .b] [(f.a, 64, true), (f.b, 64, true)] (64) <| (Sel.dec f.a).bind fun sa => (Sel.dec f.b).bind fun sb => some (.suMaxu f.d sa sb)) { op := 0x11, d := sd, a := sa.enc, b := sb.enc }) _
    ((SlotF.unpack_pack_su _).trans rfl) rfl rfl ?_ rfl ?_ rfl ?_ ?_ ?_
  · exact Bool.and_false h
  · rfl
  · simp [row, selRangeOk, sel64, hw]
  · exact sd.isLt
  · simp [row, SlotF.mask, SlotF.strm, mask_eq, hw]

theorem suPopc (sd : BitVec 6) (sa : Sel) : Statement (.suPopc sd sa) := by
  intro hw k h hk hh
  cases hk
  refine ok_of _ _ _ { op := 0x12, d := sd, a := sa.enc } ((fun f : SlotF => row true [.d, .a] [(f.a, 64, true)] (64) <| (Sel.dec f.a).bind fun sa => some (.suPopc f.d sa)) { op := 0x12, d := sd, a := sa.enc }) _
    ((SlotF.unpack_pack_su _).trans rfl) rfl rfl ?_ rfl ?_ rfl ?_ ?_ ?_
  · exact Bool.and_false h
  · rfl
  · simp [row, selRangeOk, sel64, hw]
  · exact sd.isLt
  · simp [row, SlotF.mask, SlotF.strm, mask_eq, hw]

theorem suClz (sd : BitVec 6) (sa : Sel) : Statement (.suClz sd sa) := by
  intro hw k h hk hh
  cases hk
  refine ok_of _ _ _ { op := 0x13, d := sd, a := sa.enc } ((fun f : SlotF => row true [.d, .a] [(f.a, 64, true)] (64) <| (Sel.dec f.a).bind fun sa => some (.suClz f.d sa)) { op := 0x13, d := sd, a := sa.enc }) _
    ((SlotF.unpack_pack_su _).trans rfl) rfl rfl ?_ rfl ?_ rfl ?_ ?_ ?_
  · exact Bool.and_false h
  · rfl
  · simp [row, selRangeOk, sel64, hw]
  · exact sd.isLt
  · simp [row, SlotF.mask, SlotF.strm, mask_eq, hw]

theorem suCtz (sd : BitVec 6) (sa : Sel) : Statement (.suCtz sd sa) := by
  intro hw k h hk hh
  cases hk
  refine ok_of _ _ _ { op := 0x14, d := sd, a := sa.enc } ((fun f : SlotF => row true [.d, .a] [(f.a, 64, true)] (64) <| (Sel.dec f.a).bind fun sa => some (.suCtz f.d sa)) { op := 0x14, d := sd, a := sa.enc }) _
    ((SlotF.unpack_pack_su _).trans rfl) rfl rfl ?_ rfl ?_ rfl ?_ ?_ ?_
  · exact Bool.and_false h
  · rfl
  · simp [row, selRangeOk, sel64, hw]
  · exact sd.isLt
  · simp [row, SlotF.mask, SlotF.strm, mask_eq, hw]

theorem suCmp (cc : Cond) (sd : BitVec 6) (sa : Sel) (sb : Sel) : Statement (.suCmp cc sd sa sb) := by
  intro hw k h hk hh
  cases hk
  refine ok_of _ _ _ { op := 0x15, code := cc.enc, d := sd, a := sa.enc, b := sb.enc } ((fun f : SlotF => row true [.code, .d, .a, .b] [(f.a, 64, true), (f.b, 64, true)] (64) <| (Cond.dec f.code).bind fun cc => (Sel.dec f.a).bind fun sa => (Sel.dec f.b).bind fun sb => some (.suCmp cc f.d sa sb)) { op := 0x15, code := cc.enc, d := sd, a := sa.enc, b := sb.enc }) _
    ((SlotF.unpack_pack_su _).trans rfl) rfl rfl ?_ rfl ?_ rfl ?_ ?_ ?_
  · exact Bool.and_false h
  · rfl
  · simp [row, selRangeOk, sel64, hw]
  · exact sd.isLt
  · simp [row, SlotF.mask, SlotF.strm, mask_eq, hw]

theorem suSel (sd : BitVec 6) (sa : Sel) (sb : Sel) (sc : Sel) : Statement (.suSel sd sa sb sc) := by
  intro hw k h hk hh
  cases hk
  refine ok_of _ _ _ { op := 0x16, d := sd, a := sa.enc, b := sb.enc, c := sc.enc } ((fun f : SlotF => row true [.d, .a, .b, .c] [(f.a, 64, true), (f.b, 64, true), (f.c, 64, true)] (64) <| (Sel.dec f.a).bind fun sa => (Sel.dec f.b).bind fun sb => (Sel.dec f.c).bind fun sc => some (.suSel f.d sa sb sc)) { op := 0x16, d := sd, a := sa.enc, b := sb.enc, c := sc.enc }) _
    ((SlotF.unpack_pack_su _).trans rfl) rfl rfl ?_ rfl ?_ rfl ?_ ?_ ?_
  · exact Bool.and_false h
  · rfl
  · simp [row, selRangeOk, sel64, hw]
  · exact sd.isLt
  · simp [row, SlotF.mask, SlotF.strm, mask_eq, hw]

theorem suMov (sd : BitVec 6) (sa : Sel) : Statement (.suMov sd sa) := by
  intro hw k h hk hh
  cases hk
  refine ok_of _ _ _ { op := 0x17, d := sd, a := sa.enc } ((fun f : SlotF => row true [.d, .a] [(f.a, 64, true)] (64) <| (Sel.dec f.a).bind fun sa => some (.suMov f.d sa)) { op := 0x17, d := sd, a := sa.enc }) _
    ((SlotF.unpack_pack_su _).trans rfl) rfl rfl ?_ rfl ?_ rfl ?_ ?_ ?_
  · exact Bool.and_false h
  · rfl
  · simp [row, selRangeOk, sel64, hw]
  · exact sd.isLt
  · simp [row, SlotF.mask, SlotF.strm, mask_eq, hw]

theorem suBfx (sd : BitVec 6) (sa : Sel) (sb : Sel) (sc : Sel) : Statement (.suBfx sd sa sb sc) := by
  intro hw k h hk hh
  cases hk
  refine ok_of _ _ _ { op := 0x18, d := sd, a := sa.enc, b := sb.enc, c := sc.enc } ((fun f : SlotF => row true [.d, .a, .b, .c] [(f.a, 64, true), (f.b, 64, true), (f.c, 64, true)] (64) <| (Sel.dec f.a).bind fun sa => (Sel.dec f.b).bind fun sb => (Sel.dec f.c).bind fun sc => some (.suBfx f.d sa sb sc)) { op := 0x18, d := sd, a := sa.enc, b := sb.enc, c := sc.enc }) _
    ((SlotF.unpack_pack_su _).trans rfl) rfl rfl ?_ rfl ?_ rfl ?_ ?_ ?_
  · exact Bool.and_false h
  · rfl
  · simp [row, selRangeOk, sel64, hw]
  · exact sd.isLt
  · simp [row, SlotF.mask, SlotF.strm, mask_eq, hw]

theorem suBmsk (sd : BitVec 6) (sa : Sel) (sb : Sel) : Statement (.suBmsk sd sa sb) := by
  intro hw k h hk hh
  cases hk
  refine ok_of _ _ _ { op := 0x19, d := sd, a := sa.enc, b := sb.enc } ((fun f : SlotF => row true [.d, .a, .b] [(f.a, 64, true), (f.b, 64, true)] (64) <| (Sel.dec f.a).bind fun sa => (Sel.dec f.b).bind fun sb => some (.suBmsk f.d sa sb)) { op := 0x19, d := sd, a := sa.enc, b := sb.enc }) _
    ((SlotF.unpack_pack_su _).trans rfl) rfl rfl ?_ rfl ?_ rfl ?_ ?_ ?_
  · exact Bool.and_false h
  · rfl
  · simp [row, selRangeOk, sel64, hw]
  · exact sd.isLt
  · simp [row, SlotF.mask, SlotF.strm, mask_eq, hw]

theorem suBr (occ : Option Cond) (sa : Sel) (sb : Sel) (sc : Sel) : Statement (.suBr occ sa sb sc) := by
  intro hw k h hk hh
  cases hk
  refine ok_of _ _ _ { op := 0x20, code := Cond.encBr occ, a := sa.enc, b := sb.enc, c := sc.enc } ((fun f : SlotF => row false [.code, .a, .b, .c] (if f.code = 0 then [(f.c, 64, true)] else [(f.a, 64, true), (f.b, 64, true), (f.c, 64, true)]) (64) <| (Cond.decBr f.code).bind fun occ => (Sel.dec f.c).bind fun sc => some (.suBr occ (Sel.decOr f.a) (Sel.decOr f.b) sc)) { op := 0x20, code := Cond.encBr occ, a := sa.enc, b := sb.enc, c := sc.enc }) _
    ((SlotF.unpack_pack_su _).trans rfl) rfl rfl ?_ rfl ?_ rfl ?_ ?_ ?_
  · simpa [row, Instr.holdable] using hh
  · rfl
  · cases occ with
    | none => simp [row, selRangeOk, sel64, Cond.encBr]
    | some c => cases c <;> simp [row, selRangeOk, sel64, Cond.encBr, Cond.enc]
  · exact Nat.zero_lt_succ 63
  · simp [row, SlotF.mask, SlotF.strm, mask_eq, hw]

theorem suCall (sd : BitVec 6) (sc : Sel) : Statement (.suCall sd sc) := by
  intro hw k h hk hh
  cases hk
  refine ok_of _ _ _ { op := 0x21, d := sd, c := sc.enc } ((fun f : SlotF => row false [.d, .c] [(f.c, 64, true)] (64) <| (Sel.dec f.c).bind fun sc => some (.suCall f.d sc)) { op := 0x21, d := sd, c := sc.enc }) _
    ((SlotF.unpack_pack_su _).trans rfl) rfl rfl ?_ rfl ?_ rfl ?_ ?_ ?_
  · simpa [row, Instr.holdable] using hh
  · rfl
  · simp [row, selRangeOk, sel64, hw]
  · exact sd.isLt
  · simp [row, SlotF.mask, SlotF.strm, mask_eq, hw]

theorem suCalli (sd : BitVec 6) (sa : Sel) : Statement (.suCalli sd sa) := by
  intro hw k h hk hh
  cases hk
  refine ok_of _ _ _ { op := 0x22, d := sd, a := sa.enc } ((fun f : SlotF => row false [.d, .a] [(f.a, 64, true)] (64) <| (Sel.dec f.a).bind fun sa => some (.suCalli f.d sa)) { op := 0x22, d := sd, a := sa.enc }) _
    ((SlotF.unpack_pack_su _).trans rfl) rfl rfl ?_ rfl ?_ rfl ?_ ?_ ?_
  · simpa [row, Instr.holdable] using hh
  · rfl
  · simp [row, selRangeOk, sel64, hw]
  · exact sd.isLt
  · simp [row, SlotF.mask, SlotF.strm, mask_eq, hw]

theorem suJmpi (sa : Sel) : Statement (.suJmpi sa) := by
  intro hw k h hk hh
  cases hk
  refine ok_of _ _ _ { op := 0x23, a := sa.enc } ((fun f : SlotF => row false [.a] [(f.a, 64, true)] (64) <| (Sel.dec f.a).bind fun sa => some (.suJmpi sa)) { op := 0x23, a := sa.enc }) _
    ((SlotF.unpack_pack_su _).trans rfl) rfl rfl ?_ rfl ?_ rfl ?_ ?_ ?_
  · simpa [row, Instr.holdable] using hh
  · rfl
  · simp [row, selRangeOk, sel64, hw]
  · exact Nat.zero_lt_succ 63
  · simp [row, SlotF.mask, SlotF.strm, mask_eq, hw]

theorem suLoop (lv : BitVec 3) (sa : Sel) (sc : Sel) : Statement (.suLoop lv sa sc) := by
  intro hw k h hk hh
  cases hk
  simp only [Instr.wf, Bool.and_eq_true, Bool.or_eq_true, beq_iff_eq, decide_eq_true_eq] at hw
  refine ok_of _ _ _ { op := 0x24, lv := lv, a := sa.enc, c := sc.enc } ((fun f : SlotF => row false [.lv, .a, .c] [(f.a, 64, true), (f.c, 64, true)] (64) <| (Sel.dec f.a).bind fun sa => (Sel.dec f.c).bind fun sc => if f.lv.toNat < 2 then some (.suLoop f.lv sa sc) else none) { op := 0x24, lv := lv, a := sa.enc, c := sc.enc }) _
    ((SlotF.unpack_pack_su _).trans rfl) rfl rfl ?_ rfl ?_ rfl ?_ ?_ ?_
  · simpa [row, Instr.holdable] using hh
  · rfl
  · simp [row, selRangeOk, sel64, hw]
  · exact Nat.zero_lt_succ 63
  · simp [row, SlotF.mask, SlotF.strm, mask_eq, hw]

theorem suLbrk (lv : BitVec 3) : Statement (.suLbrk lv) := by
  intro hw k h hk hh
  cases hk
  simp only [Instr.wf, Bool.and_eq_true, Bool.or_eq_true, beq_iff_eq, decide_eq_true_eq] at hw
  refine ok_of _ _ _ { op := 0x25, lv := lv } ((fun f : SlotF => row false [.lv] [] (64) <| if f.lv.toNat < 2 then some (.suLbrk f.lv) else none) { op := 0x25, lv := lv }) _
    ((SlotF.unpack_pack_su _).trans rfl) rfl rfl ?_ rfl ?_ rfl ?_ ?_ ?_
  · simpa [row, Instr.holdable] using hh
  · rfl
  · rfl
  · exact Nat.zero_lt_succ 63
  · simp [row, SlotF.mask, SlotF.strm, mask_eq, hw]

theorem suLrd (sd : BitVec 6) (lv : BitVec 3) (lr : LoopReg) : Statement (.suLrd sd lv lr) := by
  intro hw k h hk hh
  cases hk
  simp only [Instr.wf, Bool.and_eq_true, Bool.or_eq_true, beq_iff_eq, decide_eq_true_eq] at hw
  refine ok_of _ _ _ { op := 0x26, d := sd, lv := lv, code := lr.enc } ((fun f : SlotF => row false [.d, .lv, .code] [] (64) <| (LoopReg.dec f.code).bind fun lr => if f.lv.toNat < 2 then some (.suLrd f.d f.lv lr) else none) { op := 0x26, d := sd, lv := lv, code := lr.enc }) _
    ((SlotF.unpack_pack_su _).trans rfl) rfl rfl ?_ rfl ?_ rfl ?_ ?_ ?_
  · simpa [row, Instr.holdable] using hh
  · rfl
  · rfl
  · exact sd.isLt
  · simp [row, SlotF.mask, SlotF.strm, mask_eq, hw]

theorem suLwr (lv : BitVec 3) (lr : LoopReg) (sa : Sel) : Statement (.suLwr lv lr sa) := by
  intro hw k h hk hh
  cases hk
  simp only [Instr.wf, Bool.and_eq_true, Bool.or_eq_true, beq_iff_eq, decide_eq_true_eq] at hw
  refine ok_of _ _ _ { op := 0x27, lv := lv, code := lr.enc, a := sa.enc } ((fun f : SlotF => row false [.lv, .code, .a] [(f.a, 64, true)] (64) <| (LoopReg.dec f.code).bind fun lr => (Sel.dec f.a).bind fun sa => if f.lv.toNat < 2 then some (.suLwr f.lv lr sa) else none) { op := 0x27, lv := lv, code := lr.enc, a := sa.enc }) _
    ((SlotF.unpack_pack_su _).trans rfl) rfl rfl ?_ rfl ?_ rfl ?_ ?_ ?_
  · simpa [row, Instr.holdable] using hh
  · rfl
  · simp [row, selRangeOk, sel64, hw]
  · exact Nat.zero_lt_succ 63
  · simp [row, SlotF.mask, SlotF.strm, mask_eq, hw]

theorem suSwait (str : BitVec 3) (sb : Sel) : Statement (.suSwait str sb) := by
  intro hw k h hk hh
  cases hk
  refine ok_of _ _ _ { op := 0x28, str := str, b := sb.enc } ((fun f : SlotF => row false [.str, .b] [(f.b, 64, true)] (64) <| (Sel.dec f.b).bind fun sb => some (.suSwait f.str sb)) { op := 0x28, str := str, b := sb.enc }) _
    ((SlotF.unpack_pack_su _).trans rfl) rfl rfl ?_ rfl ?_ rfl ?_ ?_ ?_
  · simpa [row, Instr.holdable] using hh
  · rfl
  · simp [row, selRangeOk, sel64, hw]
  · exact Nat.zero_lt_succ 63
  · simp [row, SlotF.mask, SlotF.strm, mask_eq, hw]

theorem suSrd (sd : BitVec 6) (str : BitVec 3) (ctr : Counter) : Statement (.suSrd sd str ctr) := by
  intro hw k h hk hh
  cases hk
  refine ok_of _ _ _ { op := 0x29, d := sd, str := str, code := ctr.enc } ((fun f : SlotF => row false [.d, .str, .code] [] (64) <| (Counter.dec f.code).bind fun ctr => some (.suSrd f.d f.str ctr)) { op := 0x29, d := sd, str := str, code := ctr.enc }) _
    ((SlotF.unpack_pack_su _).trans rfl) rfl rfl ?_ rfl ?_ rfl ?_ ?_ ?_
  · simpa [row, Instr.holdable] using hh
  · rfl
  · rfl
  · exact sd.isLt
  · simp [row, SlotF.mask, SlotF.strm, mask_eq, hw]

theorem suBar (lv : BitVec 3) : Statement (.suBar lv) := by
  intro hw k h hk hh
  cases hk
  simp only [Instr.wf, Bool.and_eq_true, Bool.or_eq_true, beq_iff_eq, decide_eq_true_eq] at hw
  refine ok_of _ _ _ { op := 0x2A, lv := lv } ((fun f : SlotF => row false [.lv] [] (64) <| if f.lv.toNat < 5 then some (.suBar f.lv) else none) { op := 0x2A, lv := lv }) _
    ((SlotF.unpack_pack_su _).trans rfl) rfl rfl ?_ rfl ?_ rfl ?_ ?_ ?_
  · simpa [row, Instr.holdable] using hh
  · rfl
  · rfl
  · exact Nat.zero_lt_succ 63
  · simp [row, SlotF.mask, SlotF.strm, mask_eq, hw]

theorem suSwpt (sa : Sel) : Statement (.suSwpt sa) := by
  intro hw k h hk hh
  cases hk
  refine ok_of _ _ _ { op := 0x2B, a := sa.enc } ((fun f : SlotF => row false [.a] [(f.a, 64, true)] (64) <| (Sel.dec f.a).bind fun sa => some (.suSwpt sa)) { op := 0x2B, a := sa.enc }) _
    ((SlotF.unpack_pack_su _).trans rfl) rfl rfl ?_ rfl ?_ rfl ?_ ?_ ?_
  · simpa [row, Instr.holdable] using hh
  · rfl
  · simp [row, selRangeOk, sel64, hw]
  · exact Nat.zero_lt_succ 63
  · simp [row, SlotF.mask, SlotF.strm, mask_eq, hw]

theorem suBcast (df : RFile) (sd : BitVec 6) (sa : Sel) : Statement (.suBcast df sd sa) := by
  intro hw k h hk hh
  cases hk
  simp only [Instr.wf, Bool.and_eq_true, Bool.or_eq_true, beq_iff_eq, decide_eq_true_eq] at hw
  refine ok_of _ _ _ { op := 0x2C, df := df.enc, d := sd, a := sa.enc } ((fun f : SlotF => row false [.df, .d, .a] [(f.a, 64, true)] (dfSize f.df) <| (RFile.dec f.df).bind fun df => (Sel.dec f.a).bind fun sa => if (df = .va ∨ df = .vb ∨ df = .vm) then some (.suBcast df f.d sa) else none) { op := 0x2C, df := df.enc, d := sd, a := sa.enc }) _
    ((SlotF.unpack_pack_su _).trans rfl) rfl rfl ?_ rfl ?_ rfl ?_ ?_ ?_
  · simpa [row, Instr.holdable] using hh
  · rfl
  · simp [row, selRangeOk, sel64, hw]
  · simp [row]; omega
  · simp [row, SlotF.mask, SlotF.strm, mask_eq, hw]; revert hw; cases df <;> simp

theorem suXfer (sd : BitVec 6) (sa : Sel) : Statement (.suXfer sd sa) := by
  intro hw k h hk hh
  cases hk
  simp only [Instr.wf, Bool.and_eq_true, Bool.or_eq_true, beq_iff_eq, decide_eq_true_eq] at hw
  refine ok_of _ _ _ { op := 0x2D, d := sd, a := sa.enc, df := 1 } ((fun f : SlotF => row false [.d, .a, .df] [(f.a, 64, true)] (32) <| (Sel.dec f.a).bind fun sa => if f.df = 1 then some (.suXfer f.d sa) else none) { op := 0x2D, d := sd, a := sa.enc, df := 1 }) _
    ((SlotF.unpack_pack_su _).trans rfl) rfl rfl ?_ rfl ?_ rfl ?_ ?_ ?_
  · simpa [row, Instr.holdable] using hh
  · rfl
  · simp [row, selRangeOk, sel64, hw]
  · simp [row]; omega
  · simp [row, SlotF.mask, SlotF.strm, mask_eq, hw]

theorem suCsrr (sd : BitVec 6) (csr : BitVec 12) : Statement (.suCsrr sd csr) := by
  intro hw k h hk hh
  cases hk
  refine ok_of _ _ _ { op := 0x30, d := sd, csr := csr } ((fun f : SlotF => row false [.d, .csr] [] (64) <| some (.suCsrr f.d f.csr)) { op := 0x30, d := sd, csr := csr }) _
    ((SlotF.unpack_pack_su _).trans rfl) rfl rfl ?_ rfl ?_ rfl ?_ ?_ ?_
  · simpa [row, Instr.holdable] using hh
  · rfl
  · rfl
  · exact sd.isLt
  · simp [row, SlotF.mask, SlotF.strm, mask_eq, hw]

theorem suCsrw (csr : BitVec 12) (sa : Sel) : Statement (.suCsrw csr sa) := by
  intro hw k h hk hh
  cases hk
  refine ok_of _ _ _ { op := 0x31, csr := csr, a := sa.enc } ((fun f : SlotF => row false [.csr, .a] [(f.a, 64, true)] (64) <| (Sel.dec f.a).bind fun sa => some (.suCsrw f.csr sa)) { op := 0x31, csr := csr, a := sa.enc }) _
    ((SlotF.unpack_pack_su _).trans rfl) rfl rfl ?_ rfl ?_ rfl ?_ ?_ ?_
  · simpa [row, Instr.holdable] using hh
  · rfl
  · simp [row, selRangeOk, sel64, hw]
  · exact Nat.zero_lt_succ 63
  · simp [row, SlotF.mask, SlotF.strm, mask_eq, hw]

theorem suTrap (sa : Sel) : Statement (.suTrap sa) := by
  intro hw k h hk hh
  cases hk
  refine ok_of _ _ _ { op := 0x32, a := sa.enc } ((fun f : SlotF => row false [.a] [(f.a, 64, true)] (64) <| (Sel.dec f.a).bind fun sa => some (.suTrap sa)) { op := 0x32, a := sa.enc }) _
    ((SlotF.unpack_pack_su _).trans rfl) rfl rfl ?_ rfl ?_ rfl ?_ ?_ ?_
  · simpa [row, Instr.holdable] using hh
  · rfl
  · simp [row, selRangeOk, sel64, hw]
  · exact Nat.zero_lt_succ 63
  · simp [row, SlotF.mask, SlotF.strm, mask_eq, hw]

theorem suEret  : Statement (.suEret) := by
  intro hw k h hk hh
  cases hk
  refine ok_of _ _ _ { op := 0x33 } ((fun f : SlotF => row false [] [] (64) <| some .suEret) { op := 0x33 }) _
    ((SlotF.unpack_pack_su _).trans rfl) rfl rfl ?_ rfl ?_ rfl ?_ ?_ ?_
  · simpa [row, Instr.holdable] using hh
  · rfl
  · rfl
  · exact Nat.zero_lt_succ 63
  · rfl

theorem suDpf (sa : Sel) (sb : Sel) : Statement (.suDpf sa sb) := by
  intro hw k h hk hh
  cases hk
  refine ok_of _ _ _ { op := 0x34, a := sa.enc, b := sb.enc } ((fun f : SlotF => row false [.a, .b] [(f.a, 64, true), (f.b, 64, true)] (64) <| (Sel.dec f.a).bind fun sa => (Sel.dec f.b).bind fun sb => some (.suDpf sa sb)) { op := 0x34, a := sa.enc, b := sb.enc }) _
    ((SlotF.unpack_pack_su _).trans rfl) rfl rfl ?_ rfl ?_ rfl ?_ ?_ ?_
  · simpa [row, Instr.holdable] using hh
  · rfl
  · simp [row, selRangeOk, sel64, hw]
  · exact Nat.zero_lt_succ 63
  · simp [row, SlotF.mask, SlotF.strm, mask_eq, hw]

theorem suDinv  : Statement (.suDinv) := by
  intro hw k h hk hh
  cases hk
  refine ok_of _ _ _ { op := 0x35 } ((fun f : SlotF => row false [] [] (64) <| some .suDinv) { op := 0x35 }) _
    ((SlotF.unpack_pack_su _).trans rfl) rfl rfl ?_ rfl ?_ rfl ?_ ?_ ?_
  · simpa [row, Instr.holdable] using hh
  · rfl
  · rfl
  · exact Nat.zero_lt_succ 63
  · rfl

theorem suHclr (sa : Sel) : Statement (.suHclr sa) := by
  intro hw k h hk hh
  cases hk
  refine ok_of _ _ _ { op := 0x36, a := sa.enc } ((fun f : SlotF => row false [.a] [(f.a, 64, true)] (64) <| (Sel.dec f.a).bind fun sa => some (.suHclr sa)) { op := 0x36, a := sa.enc }) _
    ((SlotF.unpack_pack_su _).trans rfl) rfl rfl ?_ rfl ?_ rfl ?_ ?_ ?_
  · simpa [row, Instr.holdable] using hh
  · rfl
  · simp [row, selRangeOk, sel64, hw]
  · exact Nat.zero_lt_succ 63
  · simp [row, SlotF.mask, SlotF.strm, mask_eq, hw]

theorem vaAdd (mk : Mask) (vd : BitVec 6) (oa : Sel) (ob : Sel) : Statement (.vaAdd mk vd oa ob) := by
  intro hw k h hk hh
  cases hk
  refine ok_of _ _ _ { op := 0x01, mb := mk.getD 0, me := mk.isSome, d := vd, a := oa.enc, b := ob.enc } ((fun f : SlotF => row true [.mb, .me, .d, .a, .b] [(f.a, 64, true), (f.b, 64, true)] (64) <| (Sel.dec f.a).bind fun oa => (Sel.dec f.b).bind fun ob => some (.vaAdd f.mask f.d oa ob)) { op := 0x01, mb := mk.getD 0, me := mk.isSome, d := vd, a := oa.enc, b := ob.enc }) _
    ((SlotF.unpack_pack_va _).trans rfl) rfl rfl ?_ rfl ?_ rfl ?_ ?_ ?_
  · exact Bool.and_false h
  · exact mask_zero mk
  · simp [row, selRangeOk, sel64, hw]
  · exact vd.isLt
  · simp [row, SlotF.mask, SlotF.strm, mask_eq, hw]

theorem vaSub (mk : Mask) (vd : BitVec 6) (oa : Sel) (ob : Sel) : Statement (.vaSub mk vd oa ob) := by
  intro hw k h hk hh
  cases hk
  refine ok_of _ _ _ { op := 0x02, mb := mk.getD 0, me := mk.isSome, d := vd, a := oa.enc, b := ob.enc } ((fun f : SlotF => row true [.mb, .me, .d, .a, .b] [(f.a, 64, true), (f.b, 64, true)] (64) <| (Sel.dec f.a).bind fun oa => (Sel.dec f.b).bind fun ob => some (.vaSub f.mask f.d oa ob)) { op := 0x02, mb := mk.getD 0, me := mk.isSome, d := vd, a := oa.enc, b := ob.enc }) _
    ((SlotF.unpack_pack_va _).trans rfl) rfl rfl ?_ rfl ?_ rfl ?_ ?_ ?_
  · exact Bool.and_false h
  · exact mask_zero mk
  · simp [row, selRangeOk, sel64, hw]
  · exact vd.isLt
  · simp [row, SlotF.mask, SlotF.strm, mask_eq, hw]

theorem vaMul (mk : Mask) (vd : BitVec 6) (oa : Sel) (ob : Sel) : Statement (.vaMul mk vd oa ob) := by
  intro hw k h hk hh
  cases hk
  refine ok_of _ _ _ { op := 0x03, mb := mk.getD 0, me := mk.isSome, d := vd, a := oa.enc, b := ob.enc } ((fun f : SlotF => row true [.mb, .me, .d, .a, .b] [(f.a, 64, true), (f.b, 64, true)] (64) <| (Sel.dec f.a).bind fun oa => (Sel.dec f.b).bind fun ob => some (.vaMul f.mask f.d oa ob)) { op := 0x03, mb := mk.getD 0, me := mk.isSome, d := vd, a := oa.enc, b := ob.enc }) _
    ((SlotF.unpack_pack_va _).trans rfl) rfl rfl ?_ rfl ?_ rfl ?_ ?_ ?_
  · exact Bool.and_false h
  · exact mask_zero mk
  · simp [row, selRangeOk, sel64, hw]
  · exact vd.isLt
  · simp [row, SlotF.mask, SlotF.strm, mask_eq, hw]

theorem vaMulh (mk : Mask) (vd : BitVec 6) (oa : Sel) (ob : Sel) : Statement (.vaMulh mk vd oa ob) := by
  intro hw k h hk hh
  cases hk
  refine ok_of _ _ _ { op := 0x04, mb := mk.getD 0, me := mk.isSome, d := vd, a := oa.enc, b := ob.enc } ((fun f : SlotF => row true [.mb, .me, .d, .a, .b] [(f.a, 64, true), (f.b, 64, true)] (64) <| (Sel.dec f.a).bind fun oa => (Sel.dec f.b).bind fun ob => some (.vaMulh f.mask f.d oa ob)) { op := 0x04, mb := mk.getD 0, me := mk.isSome, d := vd, a := oa.enc, b := ob.enc }) _
    ((SlotF.unpack_pack_va _).trans rfl) rfl rfl ?_ rfl ?_ rfl ?_ ?_ ?_
  · exact Bool.and_false h
  · exact mask_zero mk
  · simp [row, selRangeOk, sel64, hw]
  · exact vd.isLt
  · simp [row, SlotF.mask, SlotF.strm, mask_eq, hw]

theorem vaMulhu (mk : Mask) (vd : BitVec 6) (oa : Sel) (ob : Sel) : Statement (.vaMulhu mk vd oa ob) := by
  intro hw k h hk hh
  cases hk
  refine ok_of _ _ _ { op := 0x05, mb := mk.getD 0, me := mk.isSome, d := vd, a := oa.enc, b := ob.enc } ((fun f : SlotF => row true [.mb, .me, .d, .a, .b] [(f.a, 64, true), (f.b, 64, true)] (64) <| (Sel.dec f.a).bind fun oa => (Sel.dec f.b).bind fun ob => some (.vaMulhu f.mask f.d oa ob)) { op := 0x05, mb := mk.getD 0, me := mk.isSome, d := vd, a := oa.enc, b := ob.enc }) _
    ((SlotF.unpack_pack_va _).trans rfl) rfl rfl ?_ rfl ?_ rfl ?_ ?_ ?_
  · exact Bool.and_false h
  · exact mask_zero mk
  · simp [row, selRangeOk, sel64, hw]
  · exact vd.isLt
  · simp [row, SlotF.mask, SlotF.strm, mask_eq, hw]

theorem vaAnd (mk : Mask) (vd : BitVec 6) (oa : Sel) (ob : Sel) : Statement (.vaAnd mk vd oa ob) := by
  intro hw k h hk hh
  cases hk
  refine ok_of _ _ _ { op := 0x06, mb := mk.getD 0, me := mk.isSome, d := vd, a := oa.enc, b := ob.enc } ((fun f : SlotF => row true [.mb, .me, .d, .a, .b] [(f.a, 64, true), (f.b, 64, true)] (64) <| (Sel.dec f.a).bind fun oa => (Sel.dec f.b).bind fun ob => some (.vaAnd f.mask f.d oa ob)) { op := 0x06, mb := mk.getD 0, me := mk.isSome, d := vd, a := oa.enc, b := ob.enc }) _
    ((SlotF.unpack_pack_va _).trans rfl) rfl rfl ?_ rfl ?_ rfl ?_ ?_ ?_
  · exact Bool.and_false h
  · exact mask_zero mk
  · simp [row, selRangeOk, sel64, hw]
  · exact vd.isLt
  · simp [row, SlotF.mask, SlotF.strm, mask_eq, hw]

theorem vaOr (mk : Mask) (vd : BitVec 6) (oa : Sel) (ob : Sel) : Statement (.vaOr mk vd oa ob) := by
  intro hw k h hk hh
  cases hk
  refine ok_of _ _ _ { op := 0x07, mb := mk.getD 0, me := mk.isSome, d := vd, a := oa.enc, b := ob.enc } ((fun f : SlotF => row true [.mb, .me, .d, .a, .b] [(f.a, 64, true), (f.b, 64, true)] (64) <| (Sel.dec f.a).bind fun oa => (Sel.dec f.b).bind fun ob => some (.vaOr f.mask f.d oa ob)) { op := 0x07, mb := mk.getD 0, me := mk.isSome, d := vd, a := oa.enc, b := ob.enc }) _
    ((SlotF.unpack_pack_va _).trans rfl) rfl rfl ?_ rfl ?_ rfl ?_ ?_ ?_
  · exact Bool.and_false h
  · exact mask_zero mk
  · simp [row, selRangeOk, sel64, hw]
  · exact vd.isLt
  · simp [row, SlotF.mask, SlotF.strm, mask_eq, hw]

theorem vaXor (mk : Mask) (vd : BitVec 6) (oa : Sel) (ob : Sel) : Statement (.vaXor mk vd oa ob) := by
  intro hw k h hk hh
  cases hk
  refine ok_of _ _ _ { op := 0x08, mb := mk.getD 0, me := mk.isSome, d := vd, a := oa.enc, b := ob.enc } ((fun f : SlotF => row true [.mb, .me, .d, .a, .b] [(f.a, 64, true), (f.b, 64, true)] (64) <| (Sel.dec f.a).bind fun oa => (Sel.dec f.b).bind fun ob => some (.vaXor f.mask f.d oa ob)) { op := 0x08, mb := mk.getD 0, me := mk.isSome, d := vd, a := oa.enc, b := ob.enc }) _
    ((SlotF.unpack_pack_va _).trans rfl) rfl rfl ?_ rfl ?_ rfl ?_ ?_ ?_
  · exact Bool.and_false h
  · exact mask_zero mk
  · simp [row, selRangeOk, sel64, hw]
  · exact vd.isLt
  · simp [row, SlotF.mask, SlotF.strm, mask_eq, hw]

theorem vaAndn (mk : Mask) (vd : BitVec 6) (oa : Sel) (ob : Sel) : Statement (.vaAndn mk vd oa ob) := by
  intro hw k h hk hh
  cases hk
  refine ok_of _ _ _ { op := 0x09, mb := mk.getD 0, me := mk.isSome, d := vd, a := oa.enc, b := ob.enc } ((fun f : SlotF => row true [.mb, .me, .d, .a, .b] [(f.a, 64, true), (f.b, 64, true)] (64) <| (Sel.dec f.a).bind fun oa => (Sel.dec f.b).bind fun ob => some (.vaAndn f.mask f.d oa ob)) { op := 0x09, mb := mk.getD 0, me := mk.isSome, d := vd, a := oa.enc, b := ob.enc }) _
    ((SlotF.unpack_pack_va _).trans rfl) rfl rfl ?_ rfl ?_ rfl ?_ ?_ ?_
  · exact Bool.and_false h
  · exact mask_zero mk
  · simp [row, selRangeOk, sel64, hw]
  · exact vd.isLt
  · simp [row, SlotF.mask, SlotF.strm, mask_eq, hw]

theorem vaShl (mk : Mask) (vd : BitVec 6) (oa : Sel) (ob : Sel) : Statement (.vaShl mk vd oa ob) := by
  intro hw k h hk hh
  cases hk
  refine ok_of _ _ _ { op := 0x0A, mb := mk.getD 0, me := mk.isSome, d := vd, a := oa.enc, b := ob.enc } ((fun f : SlotF => row true [.mb, .me, .d, .a, .b] [(f.a, 64, true), (f.b, 64, true)] (64) <| (Sel.dec f.a).bind fun oa => (Sel.dec f.b).bind fun ob => some (.vaShl f.mask f.d oa ob)) { op := 0x0A, mb := mk.getD 0, me := mk.isSome, d := vd, a := oa.enc, b := ob.enc }) _
    ((SlotF.unpack_pack_va _).trans rfl) rfl rfl ?_ rfl ?_ rfl ?_ ?_ ?_
  · exact Bool.and_false h
  · exact mask_zero mk
  · simp [row, selRangeOk, sel64, hw]
  · exact vd.isLt
  · simp [row, SlotF.mask, SlotF.strm, mask_eq, hw]

theorem vaShr (mk : Mask) (vd : BitVec 6) (oa : Sel) (ob : Sel) : Statement (.vaShr mk vd oa ob) := by
  intro hw k h hk hh
  cases hk
  refine ok_of _ _ _ { op := 0x0B, mb := mk.getD 0, me := mk.isSome, d := vd, a := oa.enc, b := ob.enc } ((fun f : SlotF => row true [.mb, .me, .d, .a, .b] [(f.a, 64, true), (f.b, 64, true)] (64) <| (Sel.dec f.a).bind fun oa => (Sel.dec f.b).bind fun ob => some (.vaShr f.mask f.d oa ob)) { op := 0x0B, mb := mk.getD 0, me := mk.isSome, d := vd, a := oa.enc, b := ob.enc }) _
    ((SlotF.unpack_pack_va _).trans rfl) rfl rfl ?_ rfl ?_ rfl ?_ ?_ ?_
  · exact Bool.and_false h
  · exact mask_zero mk
  · simp [row, selRangeOk, sel64, hw]
  · exact vd.isLt
  · simp [row, SlotF.mask, SlotF.strm, mask_eq, hw]

theorem vaSar (mk : Mask) (vd : BitVec 6) (oa : Sel) (ob : Sel) : Statement (.vaSar mk vd oa ob) := by
  intro hw k h hk hh
  cases hk
  refine ok_of _ _ _ { op := 0x0C, mb := mk.getD 0, me := mk.isSome, d := vd, a := oa.enc, b := ob.enc } ((fun f : SlotF => row true [.mb, .me, .d, .a, .b] [(f.a, 64, true), (f.b, 64, true)] (64) <| (Sel.dec f.a).bind fun oa => (Sel.dec f.b).bind fun ob => some (.vaSar f.mask f.d oa ob)) { op := 0x0C, mb := mk.getD 0, me := mk.isSome, d := vd, a := oa.enc, b := ob.enc }) _
    ((SlotF.unpack_pack_va _).trans rfl) rfl rfl ?_ rfl ?_ rfl ?_ ?_ ?_
  · exact Bool.and_false h
  · exact mask_zero mk
  · simp [row, selRangeOk, sel64, hw]
  · exact vd.isLt
  · simp [row, SlotF.mask, SlotF.strm, mask_eq, hw]

theorem vaMin (mk : Mask) (vd : BitVec 6) (oa : Sel) (ob : Sel) : Statement (.vaMin mk vd oa ob) := by
  intro hw k h hk hh
  cases hk
  refine ok_of _ _ _ { op := 0x0D, mb := mk.getD 0, me := mk.isSome, d := vd, a := oa.enc, b := ob.enc } ((fun f : SlotF => row true [.mb, .me, .d, .a, .b] [(f.a, 64, true), (f.b, 64, true)] (64) <| (Sel.dec f.a).bind fun oa => (Sel.dec f.b).bind fun ob => some (.vaMin f.mask f.d oa ob)) { op := 0x0D, mb := mk.getD 0, me := mk.isSome, d := vd, a := oa.enc, b := ob.enc }) _
    ((SlotF.unpack_pack_va _).trans rfl) rfl rfl ?_ rfl ?_ rfl ?_ ?_ ?_
  · exact Bool.and_false h
  · exact mask_zero mk
  · simp [row, selRangeOk, sel64, hw]
  · exact vd.isLt
  · simp [row, SlotF.mask, SlotF.strm, mask_eq, hw]

theorem vaMax (mk : Mask) (vd : BitVec 6) (oa : Sel) (ob : Sel) : Statement (.vaMax mk vd oa ob) := by
  intro hw k h hk hh
  cases hk
  refine ok_of _ _ _ { op := 0x0E, mb := mk.getD 0, me := mk.isSome, d := vd, a := oa.enc, b := ob.enc } ((fun f : SlotF => row true [.mb, .me, .d, .a, .b] [(f.a, 64, true), (f.b, 64, true)] (64) <| (Sel.dec f.a).bind fun oa => (Sel.dec f.b).bind fun ob => some (.vaMax f.mask f.d oa ob)) { op := 0x0E, mb := mk.getD 0, me := mk.isSome, d := vd, a := oa.enc, b := ob.enc }) _
    ((SlotF.unpack_pack_va _).trans rfl) rfl rfl ?_ rfl ?_ rfl ?_ ?_ ?_
  · exact Bool.and_false h
  · exact mask_zero mk
  · simp [row, selRangeOk, sel64, hw]
  · exact vd.isLt
  · simp [row, SlotF.mask, SlotF.strm, mask_eq, hw]

theorem vaMinu (mk : Mask) (vd : BitVec 6) (oa : Sel) (ob : Sel) : Statement (.vaMinu mk vd oa ob) := by
  intro hw k h hk hh
  cases hk
  refine ok_of _ _ _ { op := 0x0F, mb := mk.getD 0, me := mk.isSome, d := vd, a := oa.enc, b := ob.enc } ((fun f : SlotF => row true [.mb, .me, .d, .a, .b] [(f.a, 64, true), (f.b, 64, true)] (64) <| (Sel.dec f.a).bind fun oa => (Sel.dec f.b).bind fun ob => some (.vaMinu f.mask f.d oa ob)) { op := 0x0F, mb := mk.getD 0, me := mk.isSome, d := vd, a := oa.enc, b := ob.enc }) _
    ((SlotF.unpack_pack_va _).trans rfl) rfl rfl ?_ rfl ?_ rfl ?_ ?_ ?_
  · exact Bool.and_false h
  · exact mask_zero mk
  · simp [row, selRangeOk, sel64, hw]
  · exact vd.isLt
  · simp [row, SlotF.mask, SlotF.strm, mask_eq, hw]

theorem vaMaxu (mk : Mask) (vd : BitVec 6) (oa : Sel) (ob : Sel) : Statement (.vaMaxu mk vd oa ob) := by
  intro hw k h hk hh
  cases hk
  refine ok_of _ _ _ { op := 0x10, mb := mk.getD 0, me := mk.isSome, d := vd, a := oa.enc, b := ob.enc } ((fun f : SlotF => row true [.mb, .me, .d, .a, .b] [(f.a, 64, true), (f.b, 64, true)] (64) <| (Sel.dec f.a).bind fun oa => (Sel.dec f.b).bind fun ob => some (.vaMaxu f.mask f.d oa ob)) { op := 0x10, mb := mk.getD 0, me := mk.isSome, d := vd, a := oa.enc, b := ob.enc }) _
    ((SlotF.unpack_pack_va _).trans rfl) rfl rfl ?_ rfl ?_ rfl ?_ ?_ ?_
  · exact Bool.and_false h
  · exact mask_zero mk
  · simp [row, selRangeOk, sel64, hw]
  · exact vd.isLt
  · simp [row, SlotF.mask, SlotF.strm, mask_eq, hw]

theorem vaCmp (mk : Mask) (cc : Cond) (vd : BitVec 6) (oa : Sel) (ob : Sel) : Statement (.vaCmp mk cc vd oa ob) := by
  intro hw k h hk hh
  cases hk
  refine ok_of _ _ _ { op := 0x11, mb := mk.getD 0, me := mk.isSome, code := cc.enc, d := vd, a := oa.enc, b := ob.enc } ((fun f : SlotF => row true [.mb, .me, .code, .d, .a, .b] [(f.a, 64, true), (f.b, 64, true)] (64) <| (Cond.dec f.code).bind fun cc => (Sel.dec f.a).bind fun oa => (Sel.dec f.b).bind fun ob => some (.vaCmp f.mask cc f.d oa ob)) { op := 0x11, mb := mk.getD 0, me := mk.isSome, code := cc.enc, d := vd, a := oa.enc, b := ob.enc }) _
    ((SlotF.unpack_pack_va _).trans rfl) rfl rfl ?_ rfl ?_ rfl ?_ ?_ ?_
  · exact Bool.and_false h
  · exact mask_zero mk
  · simp [row, selRangeOk, sel64, hw]
  · exact vd.isLt
  · simp [row, SlotF.mask, SlotF.strm, mask_eq, hw]

theorem vaSel (mk : Mask) (vd : BitVec 6) (oa : Sel) (ob : Sel) (oc : Sel) : Statement (.vaSel mk vd oa ob oc) := by
  intro hw k h hk hh
  cases hk
  refine ok_of _ _ _ { op := 0x12, mb := mk.getD 0, me := mk.isSome, d := vd, a := oa.enc, b := ob.enc, c := oc.enc } ((fun f : SlotF => row true [.mb, .me, .d, .a, .b, .c] [(f.a, 64, true), (f.b, 64, true), (f.c, 64, true)] (64) <| (Sel.dec f.a).bind fun oa => (Sel.dec f.b).bind fun ob => (Sel.dec f.c).bind fun oc => some (.vaSel f.mask f.d oa ob oc)) { op := 0x12, mb := mk.getD 0, me := mk.isSome, d := vd, a := oa.enc, b := ob.enc, c := oc.enc }) _
    ((SlotF.unpack_pack_va _).trans rfl) rfl rfl ?_ rfl ?_ rfl ?_ ?_ ?_
  · exact Bool.and_false h
  · exact mask_zero mk
  · simp [row, selRangeOk, sel64, hw]
  · exact vd.isLt
  · simp [row, SlotF.mask, SlotF.strm, mask_eq, hw]

theorem vaMov (mk : Mask) (vd : BitVec 6) (oa : Sel) : Statement (.vaMov mk vd oa) := by
  intro hw k h hk hh
  cases hk
  refine ok_of _ _ _ { op := 0x13, mb := mk.getD 0, me := mk.isSome, d := vd, a := oa.enc } ((fun f : SlotF => row true [.mb, .me, .d, .a] [(f.a, 64, true)] (64) <| (Sel.dec f.a).bind fun oa => some (.vaMov f.mask f.d oa)) { op := 0x13, mb := mk.getD 0, me := mk.isSome, d := vd, a := oa.enc }) _
    ((SlotF.unpack_pack_va _).trans rfl) rfl rfl ?_ rfl ?_ rfl ?_ ?_ ?_
  · exact Bool.and_false h
  · exact mask_zero mk
  · simp [row, selRangeOk, sel64, hw]
  · exact vd.isLt
  · simp [row, SlotF.mask, SlotF.strm, mask_eq, hw]

theorem vaAdds (mk : Mask) (vd : BitVec 6) (oa : Sel) (ob : Sel) : Statement (.vaAdds mk vd oa ob) := by
  intro hw k h hk hh
  cases hk
  refine ok_of _ _ _ { op := 0x14, mb := mk.getD 0, me := mk.isSome, d := vd, a := oa.enc, b := ob.enc } ((fun f : SlotF => row true [.mb, .me, .d, .a, .b] [(f.a, 64, true), (f.b, 64, true)] (64) <| (Sel.dec f.a).bind fun oa => (Sel.dec f.b).bind fun ob => some (.vaAdds f.mask f.d oa ob)) { op := 0x14, mb := mk.getD 0, me := mk.isSome, d := vd, a := oa.enc, b := ob.enc }) _
    ((SlotF.unpack_pack_va _).trans rfl) rfl rfl ?_ rfl ?_ rfl ?_ ?_ ?_
  · exact Bool.and_false h
  · exact mask_zero mk
  · simp [row, selRangeOk, sel64, hw]
  · exact vd.isLt
  · simp [row, SlotF.mask, SlotF.strm, mask_eq, hw]

theorem vaSubs (mk : Mask) (vd : BitVec 6) (oa : Sel) (ob : Sel) : Statement (.vaSubs mk vd oa ob) := by
  intro hw k h hk hh
  cases hk
  refine ok_of _ _ _ { op := 0x15, mb := mk.getD 0, me := mk.isSome, d := vd, a := oa.enc, b := ob.enc } ((fun f : SlotF => row true [.mb, .me, .d, .a, .b] [(f.a, 64, true), (f.b, 64, true)] (64) <| (Sel.dec f.a).bind fun oa => (Sel.dec f.b).bind fun ob => some (.vaSubs f.mask f.d oa ob)) { op := 0x15, mb := mk.getD 0, me := mk.isSome, d := vd, a := oa.enc, b := ob.enc }) _
    ((SlotF.unpack_pack_va _).trans rfl) rfl rfl ?_ rfl ?_ rfl ?_ ?_ ?_
  · exact Bool.and_false h
  · exact mask_zero mk
  · simp [row, selRangeOk, sel64, hw]
  · exact vd.isLt
  · simp [row, SlotF.mask, SlotF.strm, mask_eq, hw]

theorem vaAdd64 (mk : Mask) (vd : BitVec 6) (oa : Sel) (ob : Sel) : Statement (.vaAdd64 mk vd oa ob) := by
  intro hw k h hk hh
  cases hk
  simp only [Instr.wf, Bool.and_eq_true, Bool.or_eq_true, beq_iff_eq, decide_eq_true_eq] at hw
  refine ok_of _ _ _ { op := 0x18, mb := mk.getD 0, me := mk.isSome, d := vd, a := oa.enc, b := ob.enc } ((fun f : SlotF => row true [.mb, .me, .d, .a, .b] [(f.a, 64, false), (f.b, 64, false)] (64) <| (Sel.dec f.a).bind fun oa => (Sel.dec f.b).bind fun ob => some (.vaAdd64 f.mask f.d oa ob)) { op := 0x18, mb := mk.getD 0, me := mk.isSome, d := vd, a := oa.enc, b := ob.enc }) _
    ((SlotF.unpack_pack_va _).trans rfl) rfl rfl ?_ rfl ?_ rfl ?_ ?_ ?_
  · exact Bool.and_false h
  · exact mask_zero mk
  · simp [row, selRangeOk, sel64, hw]
  · exact vd.isLt
  · simp [row, SlotF.mask, SlotF.strm, mask_eq, hw]

theorem vaSub64 (mk : Mask) (vd : BitVec 6) (oa : Sel) (ob : Sel) : Statement (.vaSub64 mk vd oa ob) := by
  intro hw k h hk hh
  cases hk
  simp only [Instr.wf, Bool.and_eq_true, Bool.or_eq_true, beq_iff_eq, decide_eq_true_eq] at hw
  refine ok_of _ _ _ { op := 0x19, mb := mk.getD 0, me := mk.isSome, d := vd, a := oa.enc, b := ob.enc } ((fun f : SlotF => row true [.mb, .me, .d, .a, .b] [(f.a, 64, false), (f.b, 64, false)] (64) <| (Sel.dec f.a).bind fun oa => (Sel.dec f.b).bind fun ob => some (.vaSub64 f.mask f.d oa ob)) { op := 0x19, mb := mk.getD 0, me := mk.isSome, d := vd, a := oa.enc, b := ob.enc }) _
    ((SlotF.unpack_pack_va _).trans rfl) rfl rfl ?_ rfl ?_ rfl ?_ ?_ ?_
  · exact Bool.and_false h
  · exact mask_zero mk
  · simp [row, selRangeOk, sel64, hw]
  · exact vd.isLt
  · simp [row, SlotF.mask, SlotF.strm, mask_eq, hw]

theorem vaShl64 (mk : Mask) (vd : BitVec 6) (oa : Sel) (ob : Sel) : Statement (.vaShl64 mk vd oa ob) := by
  intro hw k h hk hh
  cases hk
  simp only [Instr.wf, Bool.and_eq_true, Bool.or_eq_true, beq_iff_eq, decide_eq_true_eq] at hw
  refine ok_of _ _ _ { op := 0x1A, mb := mk.getD 0, me := mk.isSome, d := vd, a := oa.enc, b := ob.enc } ((fun f : SlotF => row true [.mb, .me, .d, .a, .b] [(f.a, 64, false), (f.b, 64, true)] (64) <| (Sel.dec f.a).bind fun oa => (Sel.dec f.b).bind fun ob => some (.vaShl64 f.mask f.d oa ob)) { op := 0x1A, mb := mk.getD 0, me := mk.isSome, d := vd, a := oa.enc, b := ob.enc }) _
    ((SlotF.unpack_pack_va _).trans rfl) rfl rfl ?_ rfl ?_ rfl ?_ ?_ ?_
  · exact Bool.and_false h
  · exact mask_zero mk
  · simp [row, selRangeOk, sel64, hw]
  · exact vd.isLt
  · simp [row, SlotF.mask, SlotF.strm, mask_eq, hw]

theorem vaShr64 (mk : Mask) (vd : BitVec 6) (oa : Sel) (ob : Sel) : Statement (.vaShr64 mk vd oa ob) := by
  intro hw k h hk hh
  cases hk
  simp only [Instr.wf, Bool.and_eq_true, Bool.or_eq_true, beq_iff_eq, decide_eq_true_eq] at hw
  refine ok_of _ _ _ { op := 0x1B, mb := mk.getD 0, me := mk.isSome, d := vd, a := oa.enc, b := ob.enc } ((fun f : SlotF => row true [.mb, .me, .d, .a, .b] [(f.a, 64, false), (f.b, 64, true)] (64) <| (Sel.dec f.a).bind fun oa => (Sel.dec f.b).bind fun ob => some (.vaShr64 f.mask f.d oa ob)) { op := 0x1B, mb := mk.getD 0, me := mk.isSome, d := vd, a := oa.enc, b := ob.enc }) _
    ((SlotF.unpack_pack_va _).trans rfl) rfl rfl ?_ rfl ?_ rfl ?_ ?_ ?_
  · exact Bool.and_false h
  · exact mask_zero mk
  · simp [row, selRangeOk, sel64, hw]
  · exact vd.isLt
  · simp [row, SlotF.mask, SlotF.strm, mask_eq, hw]

theorem vaSar64 (mk : Mask) (vd : BitVec 6) (oa : Sel) (ob : Sel) : Statement (.vaSar64 mk vd oa ob) := by
  intro hw k h hk hh
  cases hk
  simp only [Instr.wf, Bool.and_eq_true, Bool.or_eq_true, beq_iff_eq, decide_eq_true_eq] at hw
  refine ok_of _ _ _ { op := 0x1C, mb := mk.getD 0, me := mk.isSome, d := vd, a := oa.enc, b := ob.enc } ((fun f : SlotF => row true [.mb, .me, .d, .a, .b] [(f.a, 64, false), (f.b, 64, true)] (64) <| (Sel.dec f.a).bind fun oa => (Sel.dec f.b).bind fun ob => some (.vaSar64 f.mask f.d oa ob)) { op := 0x1C, mb := mk.getD 0, me := mk.isSome, d := vd, a := oa.enc, b := ob.enc }) _
    ((SlotF.unpack_pack_va _).trans rfl) rfl rfl ?_ rfl ?_ rfl ?_ ?_ ?_
  · exact Bool.and_false h
  · exact mask_zero mk
  · simp [row, selRangeOk, sel64, hw]
  · exact vd.isLt
  · simp [row, SlotF.mask, SlotF.strm, mask_eq, hw]

theorem vaCmp64 (mk : Mask) (cc : Cond) (vd : BitVec 6) (oa : Sel) (ob : Sel) : Statement (.vaCmp64 mk cc vd oa ob) := by
  intro hw k h hk hh
  cases hk
  simp only [Instr.wf, Bool.and_eq_true, Bool.or_eq_true, beq_iff_eq, decide_eq_true_eq] at hw
  refine ok_of _ _ _ { op := 0x1D, mb := mk.getD 0, me := mk.isSome, code := cc.enc, d := vd, a := oa.enc, b := ob.enc } ((fun f : SlotF => row true [.mb, .me, .code, .d, .a, .b] [(f.a, 64, false), (f.b, 64, false)] (64) <| (Cond.dec f.code).bind fun cc => (Sel.dec f.a).bind fun oa => (Sel.dec f.b).bind fun ob => some (.vaCmp64 f.mask cc f.d oa ob)) { op := 0x1D, mb := mk.getD 0, me := mk.isSome, code := cc.enc, d := vd, a := oa.enc, b := ob.enc }) _
    ((SlotF.unpack_pack_va _).trans rfl) rfl rfl ?_ rfl ?_ rfl ?_ ?_ ?_
  · exact Bool.and_false h
  · exact mask_zero mk
  · simp [row, selRangeOk, sel64, hw]
  · exact vd.isLt
  · simp [row, SlotF.mask, SlotF.strm, mask_eq, hw]

theorem vaFadd (mk : Mask) (rm : Rm) (vd : BitVec 6) (oa : Sel) (ob : Sel) : Statement (.vaFadd mk rm vd oa ob) := by
  intro hw k h hk hh
  cases hk
  refine ok_of _ _ _ { op := 0x20, mb := mk.getD 0, me := mk.isSome, rm := rm.enc, d := vd, a := oa.enc, b := ob.enc } ((fun f : SlotF => row true [.mb, .me, .rm, .d, .a, .b] [(f.a, 64, true), (f.b, 64, true)] (64) <| (Rm.dec f.rm).bind fun rm => (Sel.dec f.a).bind fun oa => (Sel.dec f.b).bind fun ob => some (.vaFadd f.mask rm f.d oa ob)) { op := 0x20, mb := mk.getD 0, me := mk.isSome, rm := rm.enc, d := vd, a := oa.enc, b := ob.enc }) _
    ((SlotF.unpack_pack_va _).trans rfl) rfl rfl ?_ rfl ?_ rfl ?_ ?_ ?_
  · exact Bool.and_false h
  · exact mask_zero mk
  · simp [row, selRangeOk, sel64, hw]
  · exact vd.isLt
  · simp [row, SlotF.mask, SlotF.strm, mask_eq, hw]

theorem vaFsub (mk : Mask) (rm : Rm) (vd : BitVec 6) (oa : Sel) (ob : Sel) : Statement (.vaFsub mk rm vd oa ob) := by
  intro hw k h hk hh
  cases hk
  refine ok_of _ _ _ { op := 0x21, mb := mk.getD 0, me := mk.isSome, rm := rm.enc, d := vd, a := oa.enc, b := ob.enc } ((fun f : SlotF => row true [.mb, .me, .rm, .d, .a, .b] [(f.a, 64, true), (f.b, 64, true)] (64) <| (Rm.dec f.rm).bind fun rm => (Sel.dec f.a).bind fun oa => (Sel.dec f.b).bind fun ob => some (.vaFsub f.mask rm f.d oa ob)) { op := 0x21, mb := mk.getD 0, me := mk.isSome, rm := rm.enc, d := vd, a := oa.enc, b := ob.enc }) _
    ((SlotF.unpack_pack_va _).trans rfl) rfl rfl ?_ rfl ?_ rfl ?_ ?_ ?_
  · exact Bool.and_false h
  · exact mask_zero mk
  · simp [row, selRangeOk, sel64, hw]
  · exact vd.isLt
  · simp [row, SlotF.mask, SlotF.strm, mask_eq, hw]

theorem vaFmul (mk : Mask) (rm : Rm) (vd : BitVec 6) (oa : Sel) (ob : Sel) : Statement (.vaFmul mk rm vd oa ob) := by
  intro hw k h hk hh
  cases hk
  refine ok_of _ _ _ { op := 0x22, mb := mk.getD 0, me := mk.isSome, rm := rm.enc, d := vd, a := oa.enc, b := ob.enc } ((fun f : SlotF => row true [.mb, .me, .rm, .d, .a, .b] [(f.a, 64, true), (f.b, 64, true)] (64) <| (Rm.dec f.rm).bind fun rm => (Sel.dec f.a).bind fun oa => (Sel.dec f.b).bind fun ob => some (.vaFmul f.mask rm f.d oa ob)) { op := 0x22, mb := mk.getD 0, me := mk.isSome, rm := rm.enc, d := vd, a := oa.enc, b := ob.enc }) _
    ((SlotF.unpack_pack_va _).trans rfl) rfl rfl ?_ rfl ?_ rfl ?_ ?_ ?_
  · exact Bool.and_false h
  · exact mask_zero mk
  · simp [row, selRangeOk, sel64, hw]
  · exact vd.isLt
  · simp [row, SlotF.mask, SlotF.strm, mask_eq, hw]

theorem vaFma (mk : Mask) (rm : Rm) (vd : BitVec 6) (oa : Sel) (ob : Sel) (oc : Sel) : Statement (.vaFma mk rm vd oa ob oc) := by
  intro hw k h hk hh
  cases hk
  refine ok_of _ _ _ { op := 0x23, mb := mk.getD 0, me := mk.isSome, rm := rm.enc, d := vd, a := oa.enc, b := ob.enc, c := oc.enc } ((fun f : SlotF => row true [.mb, .me, .rm, .d, .a, .b, .c] [(f.a, 64, true), (f.b, 64, true), (f.c, 64, true)] (64) <| (Rm.dec f.rm).bind fun rm => (Sel.dec f.a).bind fun oa => (Sel.dec f.b).bind fun ob => (Sel.dec f.c).bind fun oc => some (.vaFma f.mask rm f.d oa ob oc)) { op := 0x23, mb := mk.getD 0, me := mk.isSome, rm := rm.enc, d := vd, a := oa.enc, b := ob.enc, c := oc.enc }) _
    ((SlotF.unpack_pack_va _).trans rfl) rfl rfl ?_ rfl ?_ rfl ?_ ?_ ?_
  · exact Bool.and_false h
  · exact mask_zero mk
  · simp [row, selRangeOk, sel64, hw]
  · exact vd.isLt
  · simp [row, SlotF.mask, SlotF.strm, mask_eq, hw]

theorem vaFnma (mk : Mask) (rm : Rm) (vd : BitVec 6) (oa : Sel) (ob : Sel) (oc : Sel) : Statement (.vaFnma mk rm vd oa ob oc) := by
  intro hw k h hk hh
  cases hk
  refine ok_of _ _ _ { op := 0x24, mb := mk.getD 0, me := mk.isSome, rm := rm.enc, d := vd, a := oa.enc, b := ob.enc, c := oc.enc } ((fun f : SlotF => row true [.mb, .me, .rm, .d, .a, .b, .c] [(f.a, 64, true), (f.b, 64, true), (f.c, 64, true)] (64) <| (Rm.dec f.rm).bind fun rm => (Sel.dec f.a).bind fun oa => (Sel.dec f.b).bind fun ob => (Sel.dec f.c).bind fun oc => some (.vaFnma f.mask rm f.d oa ob oc)) { op := 0x24, mb := mk.getD 0, me := mk.isSome, rm := rm.enc, d := vd, a := oa.enc, b := ob.enc, c := oc.enc }) _
    ((SlotF.unpack_pack_va _).trans rfl) rfl rfl ?_ rfl ?_ rfl ?_ ?_ ?_
  · exact Bool.and_false h
  · exact mask_zero mk
  · simp [row, selRangeOk, sel64, hw]
  · exact vd.isLt
  · simp [row, SlotF.mask, SlotF.strm, mask_eq, hw]

theorem vaFmin (mk : Mask) (vd : BitVec 6) (oa : Sel) (ob : Sel) : Statement (.vaFmin mk vd oa ob) := by
  intro hw k h hk hh
  cases hk
  refine ok_of _ _ _ { op := 0x25, mb := mk.getD 0, me := mk.isSome, d := vd, a := oa.enc, b := ob.enc } ((fun f : SlotF => row true [.mb, .me, .d, .a, .b] [(f.a, 64, true), (f.b, 64, true)] (64) <| (Sel.dec f.a).bind fun oa => (Sel.dec f.b).bind fun ob => some (.vaFmin f.mask f.d oa ob)) { op := 0x25, mb := mk.getD 0, me := mk.isSome, d := vd, a := oa.enc, b := ob.enc }) _
    ((SlotF.unpack_pack_va _).trans rfl) rfl rfl ?_ rfl ?_ rfl ?_ ?_ ?_
  · exact Bool.and_false h
  · exact mask_zero mk
  · simp [row, selRangeOk, sel64, hw]
  · exact vd.isLt
  · simp [row, SlotF.mask, SlotF.strm, mask_eq, hw]

theorem vaFmax (mk : Mask) (vd : BitVec 6) (oa : Sel) (ob : Sel) : Statement (.vaFmax mk vd oa ob) := by
  intro hw k h hk hh
  cases hk
  refine ok_of _ _ _ { op := 0x26, mb := mk.getD 0, me := mk.isSome, d := vd, a := oa.enc, b := ob.enc } ((fun f : SlotF => row true [.mb, .me, .d, .a, .b] [(f.a, 64, true), (f.b, 64, true)] (64) <| (Sel.dec f.a).bind fun oa => (Sel.dec f.b).bind fun ob => some (.vaFmax f.mask f.d oa ob)) { op := 0x26, mb := mk.getD 0, me := mk.isSome, d := vd, a := oa.enc, b := ob.enc }) _
    ((SlotF.unpack_pack_va _).trans rfl) rfl rfl ?_ rfl ?_ rfl ?_ ?_ ?_
  · exact Bool.and_false h
  · exact mask_zero mk
  · simp [row, selRangeOk, sel64, hw]
  · exact vd.isLt
  · simp [row, SlotF.mask, SlotF.strm, mask_eq, hw]

theorem vaFabs (mk : Mask) (vd : BitVec 6) (oa : Sel) : Statement (.vaFabs mk vd oa) := by
  intro hw k h hk hh
  cases hk
  refine ok_of _ _ _ { op := 0x27, mb := mk.getD 0, me := mk.isSome, d := vd, a := oa.enc } ((fun f : SlotF => row true [.mb, .me, .d, .a] [(f.a, 64, true)] (64) <| (Sel.dec f.a).bind fun oa => some (.vaFabs f.mask f.d oa)) { op := 0x27, mb := mk.getD 0, me := mk.isSome, d := vd, a := oa.enc }) _
    ((SlotF.unpack_pack_va _).trans rfl) rfl rfl ?_ rfl ?_ rfl ?_ ?_ ?_
  · exact Bool.and_false h
  · exact mask_zero mk
  · simp [row, selRangeOk, sel64, hw]
  · exact vd.isLt
  · simp [row, SlotF.mask, SlotF.strm, mask_eq, hw]

theorem vaFneg (mk : Mask) (vd : BitVec 6) (oa : Sel) : Statement (.vaFneg mk vd oa) := by
  intro hw k h hk hh
  cases hk
  refine ok_of _ _ _ { op := 0x28, mb := mk.getD 0, me := mk.isSome, d := vd, a := oa.enc } ((fun f : SlotF => row true [.mb, .me, .d, .a] [(f.a, 64, true)] (64) <| (Sel.dec f.a).bind fun oa => some (.vaFneg f.mask f.d oa)) { op := 0x28, mb := mk.getD 0, me := mk.isSome, d := vd, a := oa.enc }) _
    ((SlotF.unpack_pack_va _).trans rfl) rfl rfl ?_ rfl ?_ rfl ?_ ?_ ?_
  · exact Bool.and_false h
  · exact mask_zero mk
  · simp [row, selRangeOk, sel64, hw]
  · exact vd.isLt
  · simp [row, SlotF.mask, SlotF.strm, mask_eq, hw]

theorem vaFcmp (mk : Mask) (fc : FCond) (vd : BitVec 6) (oa : Sel) (ob : Sel) : Statement (.vaFcmp mk fc vd oa ob) := by
  intro hw k h hk hh
  cases hk
  refine ok_of _ _ _ { op := 0x29, mb := mk.getD 0, me := mk.isSome, code := fc.enc, d := vd, a := oa.enc, b := ob.enc } ((fun f : SlotF => row true [.mb, .me, .code, .d, .a, .b] [(f.a, 64, true), (f.b, 64, true)] (64) <| (FCond.dec f.code).bind fun fc => (Sel.dec f.a).bind fun oa => (Sel.dec f.b).bind fun ob => some (.vaFcmp f.mask fc f.d oa ob)) { op := 0x29, mb := mk.getD 0, me := mk.isSome, code := fc.enc, d := vd, a := oa.enc, b := ob.enc }) _
    ((SlotF.unpack_pack_va _).trans rfl) rfl rfl ?_ rfl ?_ rfl ?_ ?_ ?_
  · exact Bool.and_false h
  · exact mask_zero mk
  · simp [row, selRangeOk, sel64, hw]
  · exact vd.isLt
  · simp [row, SlotF.mask, SlotF.strm, mask_eq, hw]

theorem vaFcls (mk : Mask) (vd : BitVec 6) (oa : Sel) : Statement (.vaFcls mk vd oa) := by
  intro hw k h hk hh
  cases hk
  refine ok_of _ _ _ { op := 0x2A, mb := mk.getD 0, me := mk.isSome, d := vd, a := oa.enc } ((fun f : SlotF => row true [.mb, .me, .d, .a] [(f.a, 64, true)] (64) <| (Sel.dec f.a).bind fun oa => some (.vaFcls f.mask f.d oa)) { op := 0x2A, mb := mk.getD 0, me := mk.isSome, d := vd, a := oa.enc }) _
    ((SlotF.unpack_pack_va _).trans rfl) rfl rfl ?_ rfl ?_ rfl ?_ ?_ ?_
  · exact Bool.and_false h
  · exact mask_zero mk
  · simp [row, selRangeOk, sel64, hw]
  · exact vd.isLt
  · simp [row, SlotF.mask, SlotF.strm, mask_eq, hw]

theorem vaCvt (mk : Mask) (cv : Cvt) (rm : Rm) (vd : BitVec 6) (oa : Sel) : Statement (.vaCvt mk cv rm vd oa) := by
  intro hw k h hk hh
  cases hk
  refine ok_of _ _ _ { op := 0x30, mb := mk.getD 0, me := mk.isSome, code := cv.enc, rm := rm.enc, d := vd, a := oa.enc } ((fun f : SlotF => row true [.mb, .me, .code, .rm, .d, .a] [(f.a, 64, true)] (64) <| (Cvt.dec f.code).bind fun cv => (Rm.dec f.rm).bind fun rm => (Sel.dec f.a).bind fun oa => some (.vaCvt f.mask cv rm f.d oa)) { op := 0x30, mb := mk.getD 0, me := mk.isSome, code := cv.enc, rm := rm.enc, d := vd, a := oa.enc }) _
    ((SlotF.unpack_pack_va _).trans rfl) rfl rfl ?_ rfl ?_ rfl ?_ ?_ ?_
  · exact Bool.and_false h
  · exact mask_zero mk
  · simp [row, selRangeOk, sel64, hw]
  · exact vd.isLt
  · simp [row, SlotF.mask, SlotF.strm, mask_eq, hw]

theorem vaTsq (mk : Mask) (ts : TsFmt) (rm : Rm) (vd : BitVec 6) (oa : Sel) : Statement (.vaTsq mk ts rm vd oa) := by
  intro hw k h hk hh
  cases hk
  refine ok_of _ _ _ { op := 0x31, mb := mk.getD 0, me := mk.isSome, code := ts.enc, rm := rm.enc, d := vd, a := oa.enc } ((fun f : SlotF => row true [.mb, .me, .code, .rm, .d, .a] [(f.a, 64, true)] (64) <| (TsFmt.dec f.code).bind fun ts => (Rm.dec f.rm).bind fun rm => (Sel.dec f.a).bind fun oa => some (.vaTsq f.mask ts rm f.d oa)) { op := 0x31, mb := mk.getD 0, me := mk.isSome, code := ts.enc, rm := rm.enc, d := vd, a := oa.enc }) _
    ((SlotF.unpack_pack_va _).trans rfl) rfl rfl ?_ rfl ?_ rfl ?_ ?_ ?_
  · exact Bool.and_false h
  · exact mask_zero mk
  · simp [row, selRangeOk, sel64, hw]
  · exact vd.isLt
  · simp [row, SlotF.mask, SlotF.strm, mask_eq, hw]

theorem vaTsdq (mk : Mask) (ts : TsFmt) (vd : BitVec 6) (oa : Sel) (ob : Sel) : Statement (.vaTsdq mk ts vd oa ob) := by
  intro hw k h hk hh
  cases hk
  refine ok_of _ _ _ { op := 0x32, mb := mk.getD 0, me := mk.isSome, code := ts.enc, d := vd, a := oa.enc, b := ob.enc } ((fun f : SlotF => row true [.mb, .me, .code, .d, .a, .b] [(f.a, 64, true), (f.b, 64, true)] (64) <| (TsFmt.dec f.code).bind fun ts => (Sel.dec f.a).bind fun oa => (Sel.dec f.b).bind fun ob => some (.vaTsdq f.mask ts f.d oa ob)) { op := 0x32, mb := mk.getD 0, me := mk.isSome, code := ts.enc, d := vd, a := oa.enc, b := ob.enc }) _
    ((SlotF.unpack_pack_va _).trans rfl) rfl rfl ?_ rfl ?_ rfl ?_ ?_ ?_
  · exact Bool.and_false h
  · exact mask_zero mk
  · simp [row, selRangeOk, sel64, hw]
  · exact vd.isLt
  · simp [row, SlotF.mask, SlotF.strm, mask_eq, hw]

theorem vaXfer (mk : Mask) (xf : XferForm) (df : RFile) (vd : BitVec 6) (oa : Sel) : Statement (.vaXfer mk xf df vd oa) := by
  intro hw k h hk hh
  cases hk
  simp only [Instr.wf, Bool.and_eq_true, Bool.or_eq_true, beq_iff_eq, decide_eq_true_eq] at hw
  refine ok_of _ _ _ { op := 0x38, mb := mk.getD 0, me := mk.isSome, code := xf.enc, df := df.enc, d := vd, a := oa.enc } ((fun f : SlotF => row true [.mb, .me, .code, .df, .d, .a] [(f.a, 64, f.code != 2)] (dfSize f.df) <| (XferForm.dec f.code).bind fun xf => (RFile.dec f.df).bind fun df => (Sel.dec f.a).bind fun oa => if xf.ok .va df = true then some (.vaXfer f.mask xf df f.d oa) else none) { op := 0x38, mb := mk.getD 0, me := mk.isSome, code := xf.enc, df := df.enc, d := vd, a := oa.enc }) _
    ((SlotF.unpack_pack_va _).trans rfl) rfl rfl ?_ rfl ?_ rfl ?_ ?_ ?_
  · exact Bool.and_false h
  · exact mask_zero mk
  · cases xf <;> simp_all [row, selRangeOk, sel64, XferForm.enc]
  · simp [row]; omega
  · simp [row, SlotF.mask, SlotF.strm, mask_eq, hw]

theorem vbAdd (mk : Mask) (vd : BitVec 6) (oa : Sel) (ob : Sel) : Statement (.vbAdd mk vd oa ob) := by
  intro hw k h hk hh
  cases hk
  simp only [Instr.wf, Bool.and_eq_true, Bool.or_eq_true, beq_iff_eq, decide_eq_true_eq] at hw
  refine ok_of _ _ _ { op := 0x01, mb := mk.getD 0, me := mk.isSome, d := vd, a := oa.enc, b := ob.enc } ((fun f : SlotF => row true [.mb, .me, .d, .a, .b] [(f.a, 32, true), (f.b, 32, true)] (32) <| (Sel.dec f.a).bind fun oa => (Sel.dec f.b).bind fun ob => some (.vbAdd f.mask f.d oa ob)) { op := 0x01, mb := mk.getD 0, me := mk.isSome, d := vd, a := oa.enc, b := ob.enc }) _
    ((SlotF.unpack_pack_vb _).trans rfl) rfl rfl ?_ rfl ?_ rfl ?_ ?_ ?_
  · exact Bool.and_false h
  · exact mask_zero mk
  · simp [row, selRangeOk, sel64, hw]
  · simp [row]; omega
  · simp [row, SlotF.mask, SlotF.strm, mask_eq, hw]

theorem vbSub (mk : Mask) (vd : BitVec 6) (oa : Sel) (ob : Sel) : Statement (.vbSub mk vd oa ob) := by
  intro hw k h hk hh
  cases hk
  simp only [Instr.wf, Bool.and_eq_true, Bool.or_eq_true, beq_iff_eq, decide_eq_true_eq] at hw
  refine ok_of _ _ _ { op := 0x02, mb := mk.getD 0, me := mk.isSome, d := vd, a := oa.enc, b := ob.enc } ((fun f : SlotF => row true [.mb, .me, .d, .a, .b] [(f.a, 32, true), (f.b, 32, true)] (32) <| (Sel.dec f.a).bind fun oa => (Sel.dec f.b).bind fun ob => some (.vbSub f.mask f.d oa ob)) { op := 0x02, mb := mk.getD 0, me := mk.isSome, d := vd, a := oa.enc, b := ob.enc }) _
    ((SlotF.unpack_pack_vb _).trans rfl) rfl rfl ?_ rfl ?_ rfl ?_ ?_ ?_
  · exact Bool.and_false h
  · exact mask_zero mk
  · simp [row, selRangeOk, sel64, hw]
  · simp [row]; omega
  · simp [row, SlotF.mask, SlotF.strm, mask_eq, hw]

theorem vbAnd (mk : Mask) (vd : BitVec 6) (oa : Sel) (ob : Sel) : Statement (.vbAnd mk vd oa ob) := by
  intro hw k h hk hh
  cases hk
  simp only [Instr.wf, Bool.and_eq_true, Bool.or_eq_true, beq_iff_eq, decide_eq_true_eq] at hw
  refine ok_of _ _ _ { op := 0x06, mb := mk.getD 0, me := mk.isSome, d := vd, a := oa.enc, b := ob.enc } ((fun f : SlotF => row true [.mb, .me, .d, .a, .b] [(f.a, 32, true), (f.b, 32, true)] (32) <| (Sel.dec f.a).bind fun oa => (Sel.dec f.b).bind fun ob => some (.vbAnd f.mask f.d oa ob)) { op := 0x06, mb := mk.getD 0, me := mk.isSome, d := vd, a := oa.enc, b := ob.enc }) _
    ((SlotF.unpack_pack_vb _).trans rfl) rfl rfl ?_ rfl ?_ rfl ?_ ?_ ?_
  · exact Bool.and_false h
  · exact mask_zero mk
  · simp [row, selRangeOk, sel64, hw]
  · simp [row]; omega
  · simp [row, SlotF.mask, SlotF.strm, mask_eq, hw]

theorem vbOr (mk : Mask) (vd : BitVec 6) (oa : Sel) (ob : Sel) : Statement (.vbOr mk vd oa ob) := by
  intro hw k h hk hh
  cases hk
  simp only [Instr.wf, Bool.and_eq_true, Bool.or_eq_true, beq_iff_eq, decide_eq_true_eq] at hw
  refine ok_of _ _ _ { op := 0x07, mb := mk.getD 0, me := mk.isSome, d := vd, a := oa.enc, b := ob.enc } ((fun f : SlotF => row true [.mb, .me, .d, .a, .b] [(f.a, 32, true), (f.b, 32, true)] (32) <| (Sel.dec f.a).bind fun oa => (Sel.dec f.b).bind fun ob => some (.vbOr f.mask f.d oa ob)) { op := 0x07, mb := mk.getD 0, me := mk.isSome, d := vd, a := oa.enc, b := ob.enc }) _
    ((SlotF.unpack_pack_vb _).trans rfl) rfl rfl ?_ rfl ?_ rfl ?_ ?_ ?_
  · exact Bool.and_false h
  · exact mask_zero mk
  · simp [row, selRangeOk, sel64, hw]
  · simp [row]; omega
  · simp [row, SlotF.mask, SlotF.strm, mask_eq, hw]

theorem vbXor (mk : Mask) (vd : BitVec 6) (oa : Sel) (ob : Sel) : Statement (.vbXor mk vd oa ob) := by
  intro hw k h hk hh
  cases hk
  simp only [Instr.wf, Bool.and_eq_true, Bool.or_eq_true, beq_iff_eq, decide_eq_true_eq] at hw
  refine ok_of _ _ _ { op := 0x08, mb := mk.getD 0, me := mk.isSome, d := vd, a := oa.enc, b := ob.enc } ((fun f : SlotF => row true [.mb, .me, .d, .a, .b] [(f.a, 32, true), (f.b, 32, true)] (32) <| (Sel.dec f.a).bind fun oa => (Sel.dec f.b).bind fun ob => some (.vbXor f.mask f.d oa ob)) { op := 0x08, mb := mk.getD 0, me := mk.isSome, d := vd, a := oa.enc, b := ob.enc }) _
    ((SlotF.unpack_pack_vb _).trans rfl) rfl rfl ?_ rfl ?_ rfl ?_ ?_ ?_
  · exact Bool.and_false h
  · exact mask_zero mk
  · simp [row, selRangeOk, sel64, hw]
  · simp [row]; omega
  · simp [row, SlotF.mask, SlotF.strm, mask_eq, hw]

theorem vbShl (mk : Mask) (vd : BitVec 6) (oa : Sel) (ob : Sel) : Statement (.vbShl mk vd oa ob) := by
  intro hw k h hk hh
  cases hk
  simp only [Instr.wf, Bool.and_eq_true, Bool.or_eq_true, beq_iff_eq, decide_eq_true_eq] at hw
  refine ok_of _ _ _ { op := 0x0A, mb := mk.getD 0, me := mk.isSome, d := vd, a := oa.enc, b := ob.enc } ((fun f : SlotF => row true [.mb, .me, .d, .a, .b] [(f.a, 32, true), (f.b, 32, true)] (32) <| (Sel.dec f.a).bind fun oa => (Sel.dec f.b).bind fun ob => some (.vbShl f.mask f.d oa ob)) { op := 0x0A, mb := mk.getD 0, me := mk.isSome, d := vd, a := oa.enc, b := ob.enc }) _
    ((SlotF.unpack_pack_vb _).trans rfl) rfl rfl ?_ rfl ?_ rfl ?_ ?_ ?_
  · exact Bool.and_false h
  · exact mask_zero mk
  · simp [row, selRangeOk, sel64, hw]
  · simp [row]; omega
  · simp [row, SlotF.mask, SlotF.strm, mask_eq, hw]

theorem vbShr (mk : Mask) (vd : BitVec 6) (oa : Sel) (ob : Sel) : Statement (.vbShr mk vd oa ob) := by
  intro hw k h hk hh
  cases hk
  simp only [Instr.wf, Bool.and_eq_true, Bool.or_eq_true, beq_iff_eq, decide_eq_true_eq] at hw
  refine ok_of _ _ _ { op := 0x0B, mb := mk.getD 0, me := mk.isSome, d := vd, a := oa.enc, b := ob.enc } ((fun f : SlotF => row true [.mb, .me, .d, .a, .b] [(f.a, 32, true), (f.b, 32, true)] (32) <| (Sel.dec f.a).bind fun oa => (Sel.dec f.b).bind fun ob => some (.vbShr f.mask f.d oa ob)) { op := 0x0B, mb := mk.getD 0, me := mk.isSome, d := vd, a := oa.enc, b := ob.enc }) _
    ((SlotF.unpack_pack_vb _).trans rfl) rfl rfl ?_ rfl ?_ rfl ?_ ?_ ?_
  · exact Bool.and_false h
  · exact mask_zero mk
  · simp [row, selRangeOk, sel64, hw]
  · simp [row]; omega
  · simp [row, SlotF.mask, SlotF.strm, mask_eq, hw]

theorem vbMin (mk : Mask) (vd : BitVec 6) (oa : Sel) (ob : Sel) : Statement (.vbMin mk vd oa ob) := by
  intro hw k h hk hh
  cases hk
  simp only [Instr.wf, Bool.and_eq_true, Bool.or_eq_true, beq_iff_eq, decide_eq_true_eq] at hw
  refine ok_of _ _ _ { op := 0x0D, mb := mk.getD 0, me := mk.isSome, d := vd, a := oa.enc, b := ob.enc } ((fun f : SlotF => row true [.mb, .me, .d, .a, .b] [(f.a, 32, true), (f.b, 32, true)] (32) <| (Sel.dec f.a).bind fun oa => (Sel.dec f.b).bind fun ob => some (.vbMin f.mask f.d oa ob)) { op := 0x0D, mb := mk.getD 0, me := mk.isSome, d := vd, a := oa.enc, b := ob.enc }) _
    ((SlotF.unpack_pack_vb _).trans rfl) rfl rfl ?_ rfl ?_ rfl ?_ ?_ ?_
  · exact Bool.and_false h
  · exact mask_zero mk
  · simp [row, selRangeOk, sel64, hw]
  · simp [row]; omega
  · simp [row, SlotF.mask, SlotF.strm, mask_eq, hw]

theorem vbMax (mk : Mask) (vd : BitVec 6) (oa : Sel) (ob : Sel) : Statement (.vbMax mk vd oa ob) := by
  intro hw k h hk hh
  cases hk
  simp only [Instr.wf, Bool.and_eq_true, Bool.or_eq_true, beq_iff_eq, decide_eq_true_eq] at hw
  refine ok_of _ _ _ { op := 0x0E, mb := mk.getD 0, me := mk.isSome, d := vd, a := oa.enc, b := ob.enc } ((fun f : SlotF => row true [.mb, .me, .d, .a, .b] [(f.a, 32, true), (f.b, 32, true)] (32) <| (Sel.dec f.a).bind fun oa => (Sel.dec f.b).bind fun ob => some (.vbMax f.mask f.d oa ob)) { op := 0x0E, mb := mk.getD 0, me := mk.isSome, d := vd, a := oa.enc, b := ob.enc }) _
    ((SlotF.unpack_pack_vb _).trans rfl) rfl rfl ?_ rfl ?_ rfl ?_ ?_ ?_
  · exact Bool.and_false h
  · exact mask_zero mk
  · simp [row, selRangeOk, sel64, hw]
  · simp [row]; omega
  · simp [row, SlotF.mask, SlotF.strm, mask_eq, hw]

theorem vbCmp (mk : Mask) (cc : Cond) (vd : BitVec 6) (oa : Sel) (ob : Sel) : Statement (.vbCmp mk cc vd oa ob) := by
  intro hw k h hk hh
  cases hk
  simp only [Instr.wf, Bool.and_eq_true, Bool.or_eq_true, beq_iff_eq, decide_eq_true_eq] at hw
  refine ok_of _ _ _ { op := 0x11, mb := mk.getD 0, me := mk.isSome, code := cc.enc, d := vd, a := oa.enc, b := ob.enc } ((fun f : SlotF => row true [.mb, .me, .code, .d, .a, .b] [(f.a, 32, true), (f.b, 32, true)] (32) <| (Cond.dec f.code).bind fun cc => (Sel.dec f.a).bind fun oa => (Sel.dec f.b).bind fun ob => some (.vbCmp f.mask cc f.d oa ob)) { op := 0x11, mb := mk.getD 0, me := mk.isSome, code := cc.enc, d := vd, a := oa.enc, b := ob.enc }) _
    ((SlotF.unpack_pack_vb _).trans rfl) rfl rfl ?_ rfl ?_ rfl ?_ ?_ ?_
  · exact Bool.and_false h
  · exact mask_zero mk
  · simp [row, selRangeOk, sel64, hw]
  · simp [row]; omega
  · simp [row, SlotF.mask, SlotF.strm, mask_eq, hw]

theorem vbSel (mk : Mask) (vd : BitVec 6) (oa : Sel) (ob : Sel) (oc : Sel) : Statement (.vbSel mk vd oa ob oc) := by
  intro hw k h hk hh
  cases hk
  simp only [Instr.wf, Bool.and_eq_true, Bool.or_eq_true, beq_iff_eq, decide_eq_true_eq] at hw
  refine ok_of _ _ _ { op := 0x12, mb := mk.getD 0, me := mk.isSome, d := vd, a := oa.enc, b := ob.enc, c := oc.enc } ((fun f : SlotF => row true [.mb, .me, .d, .a, .b, .c] [(f.a, 32, true), (f.b, 32, true), (f.c, 32, true)] (32) <| (Sel.dec f.a).bind fun oa => (Sel.dec f.b).bind fun ob => (Sel.dec f.c).bind fun oc => some (.vbSel f.mask f.d oa ob oc)) { op := 0x12, mb := mk.getD 0, me := mk.isSome, d := vd, a := oa.enc, b := ob.enc, c := oc.enc }) _
    ((SlotF.unpack_pack_vb _).trans rfl) rfl rfl ?_ rfl ?_ rfl ?_ ?_ ?_
  · exact Bool.and_false h
  · exact mask_zero mk
  · simp [row, selRangeOk, sel64, hw]
  · simp [row]; omega
  · simp [row, SlotF.mask, SlotF.strm, mask_eq, hw]

theorem vbMov (mk : Mask) (vd : BitVec 6) (oa : Sel) : Statement (.vbMov mk vd oa) := by
  intro hw k h hk hh
  cases hk
  simp only [Instr.wf, Bool.and_eq_true, Bool.or_eq_true, beq_iff_eq, decide_eq_true_eq] at hw
  refine ok_of _ _ _ { op := 0x13, mb := mk.getD 0, me := mk.isSome, d := vd, a := oa.enc } ((fun f : SlotF => row true [.mb, .me, .d, .a] [(f.a, 32, true)] (32) <| (Sel.dec f.a).bind fun oa => some (.vbMov f.mask f.d oa)) { op := 0x13, mb := mk.getD 0, me := mk.isSome, d := vd, a := oa.enc }) _
    ((SlotF.unpack_pack_vb _).trans rfl) rfl rfl ?_ rfl ?_ rfl ?_ ?_ ?_
  · exact Bool.and_false h
  · exact mask_zero mk
  · simp [row, selRangeOk, sel64, hw]
  · simp [row]; omega
  · simp [row, SlotF.mask, SlotF.strm, mask_eq, hw]

theorem vbPopc (mk : Mask) (vd : BitVec 6) (oa : Sel) : Statement (.vbPopc mk vd oa) := by
  intro hw k h hk hh
  cases hk
  simp only [Instr.wf, Bool.and_eq_true, Bool.or_eq_true, beq_iff_eq, decide_eq_true_eq] at hw
  refine ok_of _ _ _ { op := 0x16, mb := mk.getD 0, me := mk.isSome, d := vd, a := oa.enc } ((fun f : SlotF => row true [.mb, .me, .d, .a] [(f.a, 32, true)] (32) <| (Sel.dec f.a).bind fun oa => some (.vbPopc f.mask f.d oa)) { op := 0x16, mb := mk.getD 0, me := mk.isSome, d := vd, a := oa.enc }) _
    ((SlotF.unpack_pack_vb _).trans rfl) rfl rfl ?_ rfl ?_ rfl ?_ ?_ ?_
  · exact Bool.and_false h
  · exact mask_zero mk
  · simp [row, selRangeOk, sel64, hw]
  · simp [row]; omega
  · simp [row, SlotF.mask, SlotF.strm, mask_eq, hw]

theorem vbClz (mk : Mask) (vd : BitVec 6) (oa : Sel) : Statement (.vbClz mk vd oa) := by
  intro hw k h hk hh
  cases hk
  simp only [Instr.wf, Bool.and_eq_true, Bool.or_eq_true, beq_iff_eq, decide_eq_true_eq] at hw
  refine ok_of _ _ _ { op := 0x17, mb := mk.getD 0, me := mk.isSome, d := vd, a := oa.enc } ((fun f : SlotF => row true [.mb, .me, .d, .a] [(f.a, 32, true)] (32) <| (Sel.dec f.a).bind fun oa => some (.vbClz f.mask f.d oa)) { op := 0x17, mb := mk.getD 0, me := mk.isSome, d := vd, a := oa.enc }) _
    ((SlotF.unpack_pack_vb _).trans rfl) rfl rfl ?_ rfl ?_ rfl ?_ ?_ ?_
  · exact Bool.and_false h
  · exact mask_zero mk
  · simp [row, selRangeOk, sel64, hw]
  · simp [row]; omega
  · simp [row, SlotF.mask, SlotF.strm, mask_eq, hw]

theorem vbFadd (mk : Mask) (rm : Rm) (vd : BitVec 6) (oa : Sel) (ob : Sel) : Statement (.vbFadd mk rm vd oa ob) := by
  intro hw k h hk hh
  cases hk
  simp only [Instr.wf, Bool.and_eq_true, Bool.or_eq_true, beq_iff_eq, decide_eq_true_eq] at hw
  refine ok_of _ _ _ { op := 0x20, mb := mk.getD 0, me := mk.isSome, rm := rm.enc, d := vd, a := oa.enc, b := ob.enc } ((fun f : SlotF => row true [.mb, .me, .rm, .d, .a, .b] [(f.a, 32, true), (f.b, 32, true)] (32) <| (Rm.dec f.rm).bind fun rm => (Sel.dec f.a).bind fun oa => (Sel.dec f.b).bind fun ob => some (.vbFadd f.mask rm f.d oa ob)) { op := 0x20, mb := mk.getD 0, me := mk.isSome, rm := rm.enc, d := vd, a := oa.enc, b := ob.enc }) _
    ((SlotF.unpack_pack_vb _).trans rfl) rfl rfl ?_ rfl ?_ rfl ?_ ?_ ?_
  · exact Bool.and_false h
  · exact mask_zero mk
  · simp [row, selRangeOk, sel64, hw]
  · simp [row]; omega
  · simp [row, SlotF.mask, SlotF.strm, mask_eq, hw]

theorem vbFmul (mk : Mask) (rm : Rm) (vd : BitVec 6) (oa : Sel) (ob : Sel) : Statement (.vbFmul mk rm vd oa ob) := by
  intro hw k h hk hh
  cases hk
  simp only [Instr.wf, Bool.and_eq_true, Bool.or_eq_true, beq_iff_eq, decide_eq_true_eq] at hw
  refine ok_of _ _ _ { op := 0x22, mb := mk.getD 0, me := mk.isSome, rm := rm.enc, d := vd, a := oa.enc, b := ob.enc } ((fun f : SlotF => row true [.mb, .me, .rm, .d, .a, .b] [(f.a, 32, true), (f.b, 32, true)] (32) <| (Rm.dec f.rm).bind fun rm => (Sel.dec f.a).bind fun oa => (Sel.dec f.b).bind fun ob => some (.vbFmul f.mask rm f.d oa ob)) { op := 0x22, mb := mk.getD 0, me := mk.isSome, rm := rm.enc, d := vd, a := oa.enc, b := ob.enc }) _
    ((SlotF.unpack_pack_vb _).trans rfl) rfl rfl ?_ rfl ?_ rfl ?_ ?_ ?_
  · exact Bool.and_false h
  · exact mask_zero mk
  · simp [row, selRangeOk, sel64, hw]
  · simp [row]; omega
  · simp [row, SlotF.mask, SlotF.strm, mask_eq, hw]

theorem vbFma (mk : Mask) (rm : Rm) (vd : BitVec 6) (oa : Sel) (ob : Sel) (oc : Sel) : Statement (.vbFma mk rm vd oa ob oc) := by
  intro hw k h hk hh
  cases hk
  simp only [Instr.wf, Bool.and_eq_true, Bool.or_eq_true, beq_iff_eq, decide_eq_true_eq] at hw
  refine ok_of _ _ _ { op := 0x23, mb := mk.getD 0, me := mk.isSome, rm := rm.enc, d := vd, a := oa.enc, b := ob.enc, c := oc.enc } ((fun f : SlotF => row true [.mb, .me, .rm, .d, .a, .b, .c] [(f.a, 32, true), (f.b, 32, true), (f.c, 32, true)] (32) <| (Rm.dec f.rm).bind fun rm => (Sel.dec f.a).bind fun oa => (Sel.dec f.b).bind fun ob => (Sel.dec f.c).bind fun oc => some (.vbFma f.mask rm f.d oa ob oc)) { op := 0x23, mb := mk.getD 0, me := mk.isSome, rm := rm.enc, d := vd, a := oa.enc, b := ob.enc, c := oc.enc }) _
    ((SlotF.unpack_pack_vb _).trans rfl) rfl rfl ?_ rfl ?_ rfl ?_ ?_ ?_
  · exact Bool.and_false h
  · exact mask_zero mk
  · simp [row, selRangeOk, sel64, hw]
  · simp [row]; omega
  · simp [row, SlotF.mask, SlotF.strm, mask_eq, hw]

theorem vbRcp (mk : Mask) (vd : BitVec 6) (oa : Sel) : Statement (.vbRcp mk vd oa) := by
  intro hw k h hk hh
  cases hk
  simp only [Instr.wf, Bool.and_eq_true, Bool.or_eq_true, beq_iff_eq, decide_eq_true_eq] at hw
  refine ok_of _ _ _ { op := 0x40, mb := mk.getD 0, me := mk.isSome, d := vd, a := oa.enc } ((fun f : SlotF => row true [.mb, .me, .d, .a] [(f.a, 32, true)] (32) <| (Sel.dec f.a).bind fun oa => some (.vbRcp f.mask f.d oa)) { op := 0x40, mb := mk.getD 0, me := mk.isSome, d := vd, a := oa.enc }) _
    ((SlotF.unpack_pack_vb _).trans rfl) rfl rfl ?_ rfl ?_ rfl ?_ ?_ ?_
  · exact Bool.and_false h
  · exact mask_zero mk
  · simp [row, selRangeOk, sel64, hw]
  · simp [row]; omega
  · simp [row, SlotF.mask, SlotF.strm, mask_eq, hw]

theorem vbRsqrt (mk : Mask) (vd : BitVec 6) (oa : Sel) : Statement (.vbRsqrt mk vd oa) := by
  intro hw k h hk hh
  cases hk
  simp only [Instr.wf, Bool.and_eq_true, Bool.or_eq_true, beq_iff_eq, decide_eq_true_eq] at hw
  refine ok_of _ _ _ { op := 0x41, mb := mk.getD 0, me := mk.isSome, d := vd, a := oa.enc } ((fun f : SlotF => row true [.mb, .me, .d, .a] [(f.a, 32, true)] (32) <| (Sel.dec f.a).bind fun oa => some (.vbRsqrt f.mask f.d oa)) { op := 0x41, mb := mk.getD 0, me := mk.isSome, d := vd, a := oa.enc }) _
    ((SlotF.unpack_pack_vb _).trans rfl) rfl rfl ?_ rfl ?_ rfl ?_ ?_ ?_
  · exact Bool.and_false h
  · exact mask_zero mk
  · simp [row, selRangeOk, sel64, hw]
  · simp [row]; omega
  · simp [row, SlotF.mask, SlotF.strm, mask_eq, hw]

theorem vbSqrt (mk : Mask) (vd : BitVec 6) (oa : Sel) : Statement (.vbSqrt mk vd oa) := by
  intro hw k h hk hh
  cases hk
  simp only [Instr.wf, Bool.and_eq_true, Bool.or_eq_true, beq_iff_eq, decide_eq_true_eq] at hw
  refine ok_of _ _ _ { op := 0x42, mb := mk.getD 0, me := mk.isSome, d := vd, a := oa.enc } ((fun f : SlotF => row true [.mb, .me, .d, .a] [(f.a, 32, true)] (32) <| (Sel.dec f.a).bind fun oa => some (.vbSqrt f.mask f.d oa)) { op := 0x42, mb := mk.getD 0, me := mk.isSome, d := vd, a := oa.enc }) _
    ((SlotF.unpack_pack_vb _).trans rfl) rfl rfl ?_ rfl ?_ rfl ?_ ?_ ?_
  · exact Bool.and_false h
  · exact mask_zero mk
  · simp [row, selRangeOk, sel64, hw]
  · simp [row]; omega
  · simp [row, SlotF.mask, SlotF.strm, mask_eq, hw]

theorem vbExp2 (mk : Mask) (vd : BitVec 6) (oa : Sel) : Statement (.vbExp2 mk vd oa) := by
  intro hw k h hk hh
  cases hk
  simp only [Instr.wf, Bool.and_eq_true, Bool.or_eq_true, beq_iff_eq, decide_eq_true_eq] at hw
  refine ok_of _ _ _ { op := 0x43, mb := mk.getD 0, me := mk.isSome, d := vd, a := oa.enc } ((fun f : SlotF => row true [.mb, .me, .d, .a] [(f.a, 32, true)] (32) <| (Sel.dec f.a).bind fun oa => some (.vbExp2 f.mask f.d oa)) { op := 0x43, mb := mk.getD 0, me := mk.isSome, d := vd, a := oa.enc }) _
    ((SlotF.unpack_pack_vb _).trans rfl) rfl rfl ?_ rfl ?_ rfl ?_ ?_ ?_
  · exact Bool.and_false h
  · exact mask_zero mk
  · simp [row, selRangeOk, sel64, hw]
  · simp [row]; omega
  · simp [row, SlotF.mask, SlotF.strm, mask_eq, hw]

theorem vbLog2 (mk : Mask) (vd : BitVec 6) (oa : Sel) : Statement (.vbLog2 mk vd oa) := by
  intro hw k h hk hh
  cases hk
  simp only [Instr.wf, Bool.and_eq_true, Bool.or_eq_true, beq_iff_eq, decide_eq_true_eq] at hw
  refine ok_of _ _ _ { op := 0x44, mb := mk.getD 0, me := mk.isSome, d := vd, a := oa.enc } ((fun f : SlotF => row true [.mb, .me, .d, .a] [(f.a, 32, true)] (32) <| (Sel.dec f.a).bind fun oa => some (.vbLog2 f.mask f.d oa)) { op := 0x44, mb := mk.getD 0, me := mk.isSome, d := vd, a := oa.enc }) _
    ((SlotF.unpack_pack_vb _).trans rfl) rfl rfl ?_ rfl ?_ rfl ?_ ?_ ?_
  · exact Bool.and_false h
  · exact mask_zero mk
  · simp [row, selRangeOk, sel64, hw]
  · simp [row]; omega
  · simp [row, SlotF.mask, SlotF.strm, mask_eq, hw]

theorem vbSin (mk : Mask) (vd : BitVec 6) (oa : Sel) : Statement (.vbSin mk vd oa) := by
  intro hw k h hk hh
  cases hk
  simp only [Instr.wf, Bool.and_eq_true, Bool.or_eq_true, beq_iff_eq, decide_eq_true_eq] at hw
  refine ok_of _ _ _ { op := 0x45, mb := mk.getD 0, me := mk.isSome, d := vd, a := oa.enc } ((fun f : SlotF => row true [.mb, .me, .d, .a] [(f.a, 32, true)] (32) <| (Sel.dec f.a).bind fun oa => some (.vbSin f.mask f.d oa)) { op := 0x45, mb := mk.getD 0, me := mk.isSome, d := vd, a := oa.enc }) _
    ((SlotF.unpack_pack_vb _).trans rfl) rfl rfl ?_ rfl ?_ rfl ?_ ?_ ?_
  · exact Bool.and_false h
  · exact mask_zero mk
  · simp [row, selRangeOk, sel64, hw]
  · simp [row]; omega
  · simp [row, SlotF.mask, SlotF.strm, mask_eq, hw]

theorem vbCos (mk : Mask) (vd : BitVec 6) (oa : Sel) : Statement (.vbCos mk vd oa) := by
  intro hw k h hk hh
  cases hk
  simp only [Instr.wf, Bool.and_eq_true, Bool.or_eq_true, beq_iff_eq, decide_eq_true_eq] at hw
  refine ok_of _ _ _ { op := 0x46, mb := mk.getD 0, me := mk.isSome, d := vd, a := oa.enc } ((fun f : SlotF => row true [.mb, .me, .d, .a] [(f.a, 32, true)] (32) <| (Sel.dec f.a).bind fun oa => some (.vbCos f.mask f.d oa)) { op := 0x46, mb := mk.getD 0, me := mk.isSome, d := vd, a := oa.enc }) _
    ((SlotF.unpack_pack_vb _).trans rfl) rfl rfl ?_ rfl ?_ rfl ?_ ?_ ?_
  · exact Bool.and_false h
  · exact mask_zero mk
  · simp [row, selRangeOk, sel64, hw]
  · simp [row]; omega
  · simp [row, SlotF.mask, SlotF.strm, mask_eq, hw]

theorem vbTanh (mk : Mask) (vd : BitVec 6) (oa : Sel) : Statement (.vbTanh mk vd oa) := by
  intro hw k h hk hh
  cases hk
  simp only [Instr.wf, Bool.and_eq_true, Bool.or_eq_true, beq_iff_eq, decide_eq_true_eq] at hw
  refine ok_of _ _ _ { op := 0x47, mb := mk.getD 0, me := mk.isSome, d := vd, a := oa.enc } ((fun f : SlotF => row true [.mb, .me, .d, .a] [(f.a, 32, true)] (32) <| (Sel.dec f.a).bind fun oa => some (.vbTanh f.mask f.d oa)) { op := 0x47, mb := mk.getD 0, me := mk.isSome, d := vd, a := oa.enc }) _
    ((SlotF.unpack_pack_vb _).trans rfl) rfl rfl ?_ rfl ?_ rfl ?_ ?_ ?_
  · exact Bool.and_false h
  · exact mask_zero mk
  · simp [row, selRangeOk, sel64, hw]
  · simp [row]; omega
  · simp [row, SlotF.mask, SlotF.strm, mask_eq, hw]

theorem vbPerm (mk : Mask) (vd : BitVec 6) (oa : Sel) (ob : Sel) : Statement (.vbPerm mk vd oa ob) := by
  intro hw k h hk hh
  cases hk
  simp only [Instr.wf, Bool.and_eq_true, Bool.or_eq_true, beq_iff_eq, decide_eq_true_eq] at hw
  refine ok_of _ _ _ { op := 0x50, mb := mk.getD 0, me := mk.isSome, d := vd, a := oa.enc, b := ob.enc } ((fun f : SlotF => row true [.mb, .me, .d, .a, .b] [(f.a, 32, true), (f.b, 32, true)] (32) <| (Sel.dec f.a).bind fun oa => (Sel.dec f.b).bind fun ob => some (.vbPerm f.mask f.d oa ob)) { op := 0x50, mb := mk.getD 0, me := mk.isSome, d := vd, a := oa.enc, b := ob.enc }) _
    ((SlotF.unpack_pack_vb _).trans rfl) rfl rfl ?_ rfl ?_ rfl ?_ ?_ ?_
  · exact Bool.and_false h
  · exact mask_zero mk
  · simp [row, selRangeOk, sel64, hw]
  · simp [row]; omega
  · simp [row, SlotF.mask, SlotF.strm, mask_eq, hw]

theorem vbShfl (mk : Mask) (vd : BitVec 6) (oa : Sel) (ob : Sel) : Statement (.vbShfl mk vd oa ob) := by
  intro hw k h hk hh
  cases hk
  simp only [Instr.wf, Bool.and_eq_true, Bool.or_eq_true, beq_iff_eq, decide_eq_true_eq] at hw
  refine ok_of _ _ _ { op := 0x51, mb := mk.getD 0, me := mk.isSome, d := vd, a := oa.enc, b := ob.enc } ((fun f : SlotF => row true [.mb, .me, .d, .a, .b] [(f.a, 32, true), (f.b, 32, true)] (32) <| (Sel.dec f.a).bind fun oa => (Sel.dec f.b).bind fun ob => some (.vbShfl f.mask f.d oa ob)) { op := 0x51, mb := mk.getD 0, me := mk.isSome, d := vd, a := oa.enc, b := ob.enc }) _
    ((SlotF.unpack_pack_vb _).trans rfl) rfl rfl ?_ rfl ?_ rfl ?_ ?_ ?_
  · exact Bool.and_false h
  · exact mask_zero mk
  · simp [row, selRangeOk, sel64, hw]
  · simp [row]; omega
  · simp [row, SlotF.mask, SlotF.strm, mask_eq, hw]

theorem vbRot (mk : Mask) (vd : BitVec 6) (oa : Sel) (ob : Sel) : Statement (.vbRot mk vd oa ob) := by
  intro hw k h hk hh
  cases hk
  simp only [Instr.wf, Bool.and_eq_true, Bool.or_eq_true, beq_iff_eq, decide_eq_true_eq] at hw
  refine ok_of _ _ _ { op := 0x52, mb := mk.getD 0, me := mk.isSome, d := vd, a := oa.enc, b := ob.enc } ((fun f : SlotF => row true [.mb, .me, .d, .a, .b] [(f.a, 32, true), (f.b, 32, true)] (32) <| (Sel.dec f.a).bind fun oa => (Sel.dec f.b).bind fun ob => some (.vbRot f.mask f.d oa ob)) { op := 0x52, mb := mk.getD 0, me := mk.isSome, d := vd, a := oa.enc, b := ob.enc }) _
    ((SlotF.unpack_pack_vb _).trans rfl) rfl rfl ?_ rfl ?_ rfl ?_ ?_ ?_
  · exact Bool.and_false h
  · exact mask_zero mk
  · simp [row, selRangeOk, sel64, hw]
  · simp [row]; omega
  · simp [row, SlotF.mask, SlotF.strm, mask_eq, hw]

theorem vbBcl (mk : Mask) (vd : BitVec 6) (oa : Sel) (ob : Sel) : Statement (.vbBcl mk vd oa ob) := by
  intro hw k h hk hh
  cases hk
  simp only [Instr.wf, Bool.and_eq_true, Bool.or_eq_true, beq_iff_eq, decide_eq_true_eq] at hw
  refine ok_of _ _ _ { op := 0x53, mb := mk.getD 0, me := mk.isSome, d := vd, a := oa.enc, b := ob.enc } ((fun f : SlotF => row true [.mb, .me, .d, .a, .b] [(f.a, 32, true), (f.b, 32, true)] (32) <| (Sel.dec f.a).bind fun oa => (Sel.dec f.b).bind fun ob => some (.vbBcl f.mask f.d oa ob)) { op := 0x53, mb := mk.getD 0, me := mk.isSome, d := vd, a := oa.enc, b := ob.enc }) _
    ((SlotF.unpack_pack_vb _).trans rfl) rfl rfl ?_ rfl ?_ rfl ?_ ?_ ?_
  · exact Bool.and_false h
  · exact mask_zero mk
  · simp [row, selRangeOk, sel64, hw]
  · simp [row]; omega
  · simp [row, SlotF.mask, SlotF.strm, mask_eq, hw]

theorem vbRed (mk : Mask) (rf : RedFn) (vd : BitVec 6) (oa : Sel) : Statement (.vbRed mk rf vd oa) := by
  intro hw k h hk hh
  cases hk
  simp only [Instr.wf, Bool.and_eq_true, Bool.or_eq_true, beq_iff_eq, decide_eq_true_eq] at hw
  refine ok_of _ _ _ { op := 0x54, mb := mk.getD 0, me := mk.isSome, code := rf.enc, d := vd, a := oa.enc } ((fun f : SlotF => row true [.mb, .me, .code, .d, .a] [(f.a, 32, true)] (32) <| (RedFn.dec f.code).bind fun rf => (Sel.dec f.a).bind fun oa => some (.vbRed f.mask rf f.d oa)) { op := 0x54, mb := mk.getD 0, me := mk.isSome, code := rf.enc, d := vd, a := oa.enc }) _
    ((SlotF.unpack_pack_vb _).trans rfl) rfl rfl ?_ rfl ?_ rfl ?_ ?_ ?_
  · exact Bool.and_false h
  · exact mask_zero mk
  · simp [row, selRangeOk, sel64, hw]
  · simp [row]; omega
  · simp [row, SlotF.mask, SlotF.strm, mask_eq, hw]

theorem vbScan (mk : Mask) (rf : RedFn) (vd : BitVec 6) (oa : Sel) : Statement (.vbScan mk rf vd oa) := by
  intro hw k h hk hh
  cases hk
  simp only [Instr.wf, Bool.and_eq_true, Bool.or_eq_true, beq_iff_eq, decide_eq_true_eq] at hw
  refine ok_of _ _ _ { op := 0x55, mb := mk.getD 0, me := mk.isSome, code := rf.enc, d := vd, a := oa.enc } ((fun f : SlotF => row true [.mb, .me, .code, .d, .a] [(f.a, 32, true)] (32) <| (RedFn.dec f.code).bind fun rf => (Sel.dec f.a).bind fun oa => some (.vbScan f.mask rf f.d oa)) { op := 0x55, mb := mk.getD 0, me := mk.isSome, code := rf.enc, d := vd, a := oa.enc }) _
    ((SlotF.unpack_pack_vb _).trans rfl) rfl rfl ?_ rfl ?_ rfl ?_ ?_ ?_
  · exact Bool.and_false h
  · exact mask_zero mk
  · simp [row, selRangeOk, sel64, hw]
  · simp [row]; omega
  · simp [row, SlotF.mask, SlotF.strm, mask_eq, hw]

theorem vbMatch (mk : Mask) (vd : BitVec 6) (oa : Sel) : Statement (.vbMatch mk vd oa) := by
  intro hw k h hk hh
  cases hk
  simp only [Instr.wf, Bool.and_eq_true, Bool.or_eq_true, beq_iff_eq, decide_eq_true_eq] at hw
  refine ok_of _ _ _ { op := 0x56, mb := mk.getD 0, me := mk.isSome, d := vd, a := oa.enc } ((fun f : SlotF => row true [.mb, .me, .d, .a] [(f.a, 32, true)] (32) <| (Sel.dec f.a).bind fun oa => some (.vbMatch f.mask f.d oa)) { op := 0x56, mb := mk.getD 0, me := mk.isSome, d := vd, a := oa.enc }) _
    ((SlotF.unpack_pack_vb _).trans rfl) rfl rfl ?_ rfl ?_ rfl ?_ ?_ ?_
  · exact Bool.and_false h
  · exact mask_zero mk
  · simp [row, selRangeOk, sel64, hw]
  · simp [row]; omega
  · simp [row, SlotF.mask, SlotF.strm, mask_eq, hw]

theorem vbXfer (mk : Mask) (xf : XferForm) (df : RFile) (vd : BitVec 6) (oa : Sel) : Statement (.vbXfer mk xf df vd oa) := by
  intro hw k h hk hh
  cases hk
  simp only [Instr.wf, Bool.and_eq_true, Bool.or_eq_true, beq_iff_eq, decide_eq_true_eq] at hw
  refine ok_of _ _ _ { op := 0x38, mb := mk.getD 0, me := mk.isSome, code := xf.enc, df := df.enc, d := vd, a := oa.enc } ((fun f : SlotF => row true [.mb, .me, .code, .df, .d, .a] [(f.a, 32, true)] (dfSize f.df) <| (XferForm.dec f.code).bind fun xf => (RFile.dec f.df).bind fun df => (Sel.dec f.a).bind fun oa => if xf.ok .vb df = true then some (.vbXfer f.mask xf df f.d oa) else none) { op := 0x38, mb := mk.getD 0, me := mk.isSome, code := xf.enc, df := df.enc, d := vd, a := oa.enc }) _
    ((SlotF.unpack_pack_vb _).trans rfl) rfl rfl ?_ rfl ?_ rfl ?_ ?_ ?_
  · exact Bool.and_false h
  · exact mask_zero mk
  · simp [row, selRangeOk, sel64, hw]
  · simp [row]; omega
  · simp [row, SlotF.mask, SlotF.strm, mask_eq, hw]

theorem muLds (mk : Mask) (df : RFile) (md : BitVec 6) (ab : BitVec 5) (oa : Sel) (st : Strm) : Statement (.muLds mk df md ab oa st) := by
  intro hw k h hk hh
  cases hk
  simp only [Instr.wf, Bool.and_eq_true, Bool.or_eq_true, beq_iff_eq, decide_eq_true_eq] at hw
  refine ok_of _ _ _ { op := 0x01, mb := mk.getD 0, me := mk.isSome, df := df.enc, d := md, ab := ab, a := oa.enc, str := st.str, pm := st.pm, scp := st.scp.enc } ((fun f : SlotF => row true [.mb, .me, .df, .d, .ab, .a, .str, .pm, .scp] [(f.a, 0, true)] (dfSize f.df) <| (RFile.dec f.df).bind fun df => (Sel.dec f.a).bind fun oa => if (df = .va ∨ df = .vb ∨ df = .vm) then some (.muLds f.mask df f.d f.ab oa f.strm) else none) { op := 0x01, mb := mk.getD 0, me := mk.isSome, df := df.enc, d := md, ab := ab, a := oa.enc, str := st.str, pm := st.pm, scp := st.scp.enc }) _
    ((SlotF.unpack_pack_mu _).trans rfl) rfl rfl ?_ rfl ?_ rfl ?_ ?_ ?_
  · exact Bool.and_false h
  · exact mask_zero mk
  · simp [row, selRangeOk, sel64, hw]
  · simp [row]; omega
  · simp [row, SlotF.mask, SlotF.strm, mask_eq, hw]; revert hw; cases df <;> simp

theorem muSts (mk : Mask) (ab : BitVec 5) (oa : Sel) (ob : Sel) (st : Strm) : Statement (.muSts mk ab oa ob st) := by
  intro hw k h hk hh
  cases hk
  simp only [Instr.wf, Bool.and_eq_true, Bool.or_eq_true, beq_iff_eq, decide_eq_true_eq] at hw
  refine ok_of _ _ _ { op := 0x02, mb := mk.getD 0, me := mk.isSome, ab := ab, a := oa.enc, b := ob.enc, str := st.str, pm := st.pm, scp := st.scp.enc } ((fun f : SlotF => row true [.mb, .me, .ab, .a, .b, .str, .pm, .scp] [(f.a, 0, true), (f.b, 16, true)] (64) <| (Sel.dec f.a).bind fun oa => (Sel.dec f.b).bind fun ob => some (.muSts f.mask f.ab oa ob f.strm)) { op := 0x02, mb := mk.getD 0, me := mk.isSome, ab := ab, a := oa.enc, b := ob.enc, str := st.str, pm := st.pm, scp := st.scp.enc }) _
    ((SlotF.unpack_pack_mu _).trans rfl) rfl rfl ?_ rfl ?_ rfl ?_ ?_ ?_
  · exact Bool.and_false h
  · exact mask_zero mk
  · simp [row, selRangeOk, sel64, hw]
  · exact Nat.zero_lt_succ 63
  · simp [row, SlotF.mask, SlotF.strm, mask_eq, hw]

theorem muGths (mk : Mask) (df : RFile) (md : BitVec 6) (ab : BitVec 5) (ob : Sel) (st : Strm) : Statement (.muGths mk df md ab ob st) := by
  intro hw k h hk hh
  cases hk
  simp only [Instr.wf, Bool.and_eq_true, Bool.or_eq_true, beq_iff_eq, decide_eq_true_eq] at hw
  refine ok_of _ _ _ { op := 0x03, mb := mk.getD 0, me := mk.isSome, df := df.enc, d := md, ab := ab, b := ob.enc, str := st.str, pm := st.pm, scp := st.scp.enc } ((fun f : SlotF => row true [.mb, .me, .df, .d, .ab, .b, .str, .pm, .scp] [(f.b, 16, true)] (dfSize f.df) <| (RFile.dec f.df).bind fun df => (Sel.dec f.b).bind fun ob => if (df = .va ∨ df = .vb ∨ df = .vm) then some (.muGths f.mask df f.d f.ab ob f.strm) else none) { op := 0x03, mb := mk.getD 0, me := mk.isSome, df := df.enc, d := md, ab := ab, b := ob.enc, str := st.str, pm := st.pm, scp := st.scp.enc }) _
    ((SlotF.unpack_pack_mu _).trans rfl) rfl rfl ?_ rfl ?_ rfl ?_ ?_ ?_
  · exact Bool.and_false h
  · exact mask_zero mk
  · simp [row, selRangeOk, sel64, hw]
  · simp [row]; omega
  · simp [row, SlotF.mask, SlotF.strm, mask_eq, hw]; revert hw; cases df <;> simp

theorem muScts (mk : Mask) (ab : BitVec 5) (oa : Sel) (ob : Sel) (st : Strm) : Statement (.muScts mk ab oa ob st) := by
  intro hw k h hk hh
  cases hk
  simp only [Instr.wf, Bool.and_eq_true, Bool.or_eq_true, beq_iff_eq, decide_eq_true_eq] at hw
  refine ok_of _ _ _ { op := 0x04, mb := mk.getD 0, me := mk.isSome, ab := ab, a := oa.enc, b := ob.enc, str := st.str, pm := st.pm, scp := st.scp.enc } ((fun f : SlotF => row true [.mb, .me, .ab, .a, .b, .str, .pm, .scp] [(f.a, 16, true), (f.b, 16, true)] (64) <| (Sel.dec f.a).bind fun oa => (Sel.dec f.b).bind fun ob => some (.muScts f.mask f.ab oa ob f.strm)) { op := 0x04, mb := mk.getD 0, me := mk.isSome, ab := ab, a := oa.enc, b := ob.enc, str := st.str, pm := st.pm, scp := st.scp.enc }) _
    ((SlotF.unpack_pack_mu _).trans rfl) rfl rfl ?_ rfl ?_ rfl ?_ ?_ ?_
  · exact Bool.and_false h
  · exact mask_zero mk
  · simp [row, selRangeOk, sel64, hw]
  · exact Nat.zero_lt_succ 63
  · simp [row, SlotF.mask, SlotF.strm, mask_eq, hw]

theorem muLdsa (md : BitVec 6) (ab : BitVec 5) (oa : Sel) (st : Strm) : Statement (.muLdsa md ab oa st) := by
  intro hw k h hk hh
  cases hk
  simp only [Instr.wf, Bool.and_eq_true, Bool.or_eq_true, beq_iff_eq, decide_eq_true_eq] at hw
  refine ok_of _ _ _ { op := 0x05, d := md, ab := ab, a := oa.enc, str := st.str, pm := st.pm, scp := st.scp.enc, df := 1 } ((fun f : SlotF => row true [.d, .ab, .a, .str, .pm, .scp, .df] [(f.a, 32, true)] (32) <| (Sel.dec f.a).bind fun oa => if f.df = 1 then some (.muLdsa f.d f.ab oa f.strm) else none) { op := 0x05, d := md, ab := ab, a := oa.enc, str := st.str, pm := st.pm, scp := st.scp.enc, df := 1 }) _
    ((SlotF.unpack_pack_mu _).trans rfl) rfl rfl ?_ rfl ?_ rfl ?_ ?_ ?_
  · exact Bool.and_false h
  · rfl
  · simp [row, selRangeOk, sel64, hw]
  · simp [row]; omega
  · simp [row, SlotF.mask, SlotF.strm, mask_eq, hw]

theorem muStsa (md : BitVec 6) (ab : BitVec 5) (oa : Sel) (st : Strm) : Statement (.muStsa md ab oa st) := by
  intro hw k h hk hh
  cases hk
  simp only [Instr.wf, Bool.and_eq_true, Bool.or_eq_true, beq_iff_eq, decide_eq_true_eq] at hw
  refine ok_of _ _ _ { op := 0x06, d := md, ab := ab, a := oa.enc, str := st.str, pm := st.pm, scp := st.scp.enc } ((fun f : SlotF => row false [.d, .ab, .a, .str, .pm, .scp] [(f.a, 32, true)] (32) <| (Sel.dec f.a).bind fun oa => some (.muStsa f.d f.ab oa f.strm)) { op := 0x06, d := md, ab := ab, a := oa.enc, str := st.str, pm := st.pm, scp := st.scp.enc }) _
    ((SlotF.unpack_pack_mu _).trans rfl) rfl rfl ?_ rfl ?_ rfl ?_ ?_ ?_
  · simpa [row, Instr.holdable] using hh
  · rfl
  · simp [row, selRangeOk, sel64, hw]
  · simp [row]; omega
  · simp [row, SlotF.mask, SlotF.strm, mask_eq, hw]

theorem muLdr (mk : Mask) (df : RFile) (md : BitVec 6) (ab : BitVec 5) (oa : Sel) (ob : Sel) (st : Strm) : Statement (.muLdr mk df md ab oa ob st) := by
  intro hw k h hk hh
  cases hk
  simp only [Instr.wf, Bool.and_eq_true, Bool.or_eq_true, beq_iff_eq, decide_eq_true_eq] at hw
  refine ok_of _ _ _ { op := 0x08, mb := mk.getD 0, me := mk.isSome, df := df.enc, d := md, ab := ab, a := oa.enc, b := ob.enc, str := st.str, pm := st.pm, scp := st.scp.enc } ((fun f : SlotF => row false [.mb, .me, .df, .d, .ab, .a, .b, .str, .pm, .scp] [(f.a, 16, false), (f.b, 16, true)] (dfSize f.df) <| (RFile.dec f.df).bind fun df => (Sel.dec f.a).bind fun oa => (Sel.dec f.b).bind fun ob => if (df = .va ∨ df = .vb ∨ df = .vm) then some (.muLdr f.mask df f.d f.ab oa ob f.strm) else none) { op := 0x08, mb := mk.getD 0, me := mk.isSome, df := df.enc, d := md, ab := ab, a := oa.enc, b := ob.enc, str := st.str, pm := st.pm, scp := st.scp.enc }) _
    ((SlotF.unpack_pack_mu _).trans rfl) rfl rfl ?_ rfl ?_ rfl ?_ ?_ ?_
  · simpa [row, Instr.holdable] using hh
  · exact mask_zero mk
  · simp [row, selRangeOk, sel64, hw]
  · simp [row]; omega
  · simp [row, SlotF.mask, SlotF.strm, mask_eq, hw]; revert hw; cases df <;> simp

theorem muStr (mk : Mask) (ab : BitVec 5) (oa : Sel) (ob : Sel) (st : Strm) : Statement (.muStr mk ab oa ob st) := by
  intro hw k h hk hh
  cases hk
  simp only [Instr.wf, Bool.and_eq_true, Bool.or_eq_true, beq_iff_eq, decide_eq_true_eq] at hw
  refine ok_of _ _ _ { op := 0x09, mb := mk.getD 0, me := mk.isSome, ab := ab, a := oa.enc, b := ob.enc, str := st.str, pm := st.pm, scp := st.scp.enc } ((fun f : SlotF => row false [.mb, .me, .ab, .a, .b, .str, .pm, .scp] [(f.a, 16, false), (f.b, 16, true)] (64) <| (Sel.dec f.a).bind fun oa => (Sel.dec f.b).bind fun ob => some (.muStr f.mask f.ab oa ob f.strm)) { op := 0x09, mb := mk.getD 0, me := mk.isSome, ab := ab, a := oa.enc, b := ob.enc, str := st.str, pm := st.pm, scp := st.scp.enc }) _
    ((SlotF.unpack_pack_mu _).trans rfl) rfl rfl ?_ rfl ?_ rfl ?_ ?_ ?_
  · simpa [row, Instr.holdable] using hh
  · exact mask_zero mk
  · simp [row, selRangeOk, sel64, hw]
  · exact Nat.zero_lt_succ 63
  · simp [row, SlotF.mask, SlotF.strm, mask_eq, hw]

theorem muAtmr (mk : Mask) (af : AtomFn) (md : BitVec 6) (ab : BitVec 5) (oa : Sel) (ob : Sel) (st : Strm) : Statement (.muAtmr mk af md ab oa ob st) := by
  intro hw k h hk hh
  cases hk
  simp only [Instr.wf, Bool.and_eq_true, Bool.or_eq_true, beq_iff_eq, decide_eq_true_eq] at hw
  refine ok_of _ _ _ { op := 0x0A, mb := mk.getD 0, me := mk.isSome, code := af.enc, d := md, ab := ab, a := oa.enc, b := ob.enc, str := st.str, pm := st.pm, scp := st.scp.enc } ((fun f : SlotF => row false [.mb, .me, .code, .d, .ab, .a, .b, .str, .pm, .scp] [(f.a, 16, false), (f.b, 16, true)] (16) <| (AtomFn.dec f.code).bind fun af => (Sel.dec f.a).bind fun oa => (Sel.dec f.b).bind fun ob => some (.muAtmr f.mask af f.d f.ab oa ob f.strm)) { op := 0x0A, mb := mk.getD 0, me := mk.isSome, code := af.enc, d := md, ab := ab, a := oa.enc, b := ob.enc, str := st.str, pm := st.pm, scp := st.scp.enc }) _
    ((SlotF.unpack_pack_mu _).trans rfl) rfl rfl ?_ rfl ?_ rfl ?_ ?_ ?_
  · simpa [row, Instr.holdable] using hh
  · exact mask_zero mk
  · simp [row, selRangeOk, sel64, hw]
  · simp [row]; omega
  · simp [row, SlotF.mask, SlotF.strm, mask_eq, hw]

theorem muLdg (mk : Mask) (df : RFile) (md : BitVec 6) (ab : BitVec 5) (oa : Sel) (st : Strm) : Statement (.muLdg mk df md ab oa st) := by
  intro hw k h hk hh
  cases hk
  simp only [Instr.wf, Bool.and_eq_true, Bool.or_eq_true, beq_iff_eq, decide_eq_true_eq] at hw
  refine ok_of _ _ _ { op := 0x10, mb := mk.getD 0, me := mk.isSome, df := df.enc, d := md, ab := ab, a := oa.enc, str := st.str, pm := st.pm, scp := st.scp.enc } ((fun f : SlotF => row true [.mb, .me, .df, .d, .ab, .a, .str, .pm, .scp] [(f.a, 0, false)] (dfSize f.df) <| (RFile.dec f.df).bind fun df => (Sel.dec f.a).bind fun oa => if (df = .va ∨ df = .vb ∨ df = .vm) then some (.muLdg f.mask df f.d f.ab oa f.strm) else none) { op := 0x10, mb := mk.getD 0, me := mk.isSome, df := df.enc, d := md, ab := ab, a := oa.enc, str := st.str, pm := st.pm, scp := st.scp.enc }) _
    ((SlotF.unpack_pack_mu _).trans rfl) rfl rfl ?_ rfl ?_ rfl ?_ ?_ ?_
  · exact Bool.and_false h
  · exact mask_zero mk
  · simp [row, selRangeOk, sel64, hw]
  · simp [row]; omega
  · simp [row, SlotF.mask, SlotF.strm, mask_eq, hw]; revert hw; cases df <;> simp

theorem muStg (mk : Mask) (ab : BitVec 5) (oa : Sel) (ob : Sel) (st : Strm) : Statement (.muStg mk ab oa ob st) := by
  intro hw k h hk hh
  cases hk
  simp only [Instr.wf, Bool.and_eq_true, Bool.or_eq_true, beq_iff_eq, decide_eq_true_eq] at hw
  refine ok_of _ _ _ { op := 0x11, mb := mk.getD 0, me := mk.isSome, ab := ab, a := oa.enc, b := ob.enc, str := st.str, pm := st.pm, scp := st.scp.enc } ((fun f : SlotF => row true [.mb, .me, .ab, .a, .b, .str, .pm, .scp] [(f.a, 0, false), (f.b, 16, true)] (64) <| (Sel.dec f.a).bind fun oa => (Sel.dec f.b).bind fun ob => some (.muStg f.mask f.ab oa ob f.strm)) { op := 0x11, mb := mk.getD 0, me := mk.isSome, ab := ab, a := oa.enc, b := ob.enc, str := st.str, pm := st.pm, scp := st.scp.enc }) _
    ((SlotF.unpack_pack_mu _).trans rfl) rfl rfl ?_ rfl ?_ rfl ?_ ?_ ?_
  · exact Bool.and_false h
  · exact mask_zero mk
  · simp [row, selRangeOk, sel64, hw]
  · exact Nat.zero_lt_succ 63
  · simp [row, SlotF.mask, SlotF.strm, mask_eq, hw]

theorem muGthg (mk : Mask) (df : RFile) (md : BitVec 6) (ab : BitVec 5) (ob : Sel) (st : Strm) : Statement (.muGthg mk df md ab ob st) := by
  intro hw k h hk hh
  cases hk
  simp only [Instr.wf, Bool.and_eq_true, Bool.or_eq_true, beq_iff_eq, decide_eq_true_eq] at hw
  refine ok_of _ _ _ { op := 0x12, mb := mk.getD 0, me := mk.isSome, df := df.enc, d := md, ab := ab, b := ob.enc, str := st.str, pm := st.pm, scp := st.scp.enc } ((fun f : SlotF => row true [.mb, .me, .df, .d, .ab, .b, .str, .pm, .scp] [(f.b, 16, false)] (dfSize f.df) <| (RFile.dec f.df).bind fun df => (Sel.dec f.b).bind fun ob => if (df = .va ∨ df = .vb ∨ df = .vm) then some (.muGthg f.mask df f.d f.ab ob f.strm) else none) { op := 0x12, mb := mk.getD 0, me := mk.isSome, df := df.enc, d := md, ab := ab, b := ob.enc, str := st.str, pm := st.pm, scp := st.scp.enc }) _
    ((SlotF.unpack_pack_mu _).trans rfl) rfl rfl ?_ rfl ?_ rfl ?_ ?_ ?_
  · exact Bool.and_false h
  · exact mask_zero mk
  · simp [row, selRangeOk, sel64, hw]
  · simp [row]; omega
  · simp [row, SlotF.mask, SlotF.strm, mask_eq, hw]; revert hw; cases df <;> simp

theorem muSctg (mk : Mask) (ab : BitVec 5) (oa : Sel) (ob : Sel) (st : Strm) : Statement (.muSctg mk ab oa ob st) := by
  intro hw k h hk hh
  cases hk
  simp only [Instr.wf, Bool.and_eq_true, Bool.or_eq_true, beq_iff_eq, decide_eq_true_eq] at hw
  refine ok_of _ _ _ { op := 0x13, mb := mk.getD 0, me := mk.isSome, ab := ab, a := oa.enc, b := ob.enc, str := st.str, pm := st.pm, scp := st.scp.enc } ((fun f : SlotF => row true [.mb, .me, .ab, .a, .b, .str, .pm, .scp] [(f.a, 16, true), (f.b, 16, false)] (64) <| (Sel.dec f.a).bind fun oa => (Sel.dec f.b).bind fun ob => some (.muSctg f.mask f.ab oa ob f.strm)) { op := 0x13, mb := mk.getD 0, me := mk.isSome, ab := ab, a := oa.enc, b := ob.enc, str := st.str, pm := st.pm, scp := st.scp.enc }) _
    ((SlotF.unpack_pack_mu _).trans rfl) rfl rfl ?_ rfl ?_ rfl ?_ ?_ ?_
  · exact Bool.and_false h
  · exact mask_zero mk
  · simp [row, selRangeOk, sel64, hw]
  · exact Nat.zero_lt_succ 63
  · simp [row, SlotF.mask, SlotF.strm, mask_eq, hw]

theorem muLdga (md : BitVec 6) (ab : BitVec 5) (oa : Sel) (st : Strm) : Statement (.muLdga md ab oa st) := by
  intro hw k h hk hh
  cases hk
  simp only [Instr.wf, Bool.and_eq_true, Bool.or_eq_true, beq_iff_eq, decide_eq_true_eq] at hw
  refine ok_of _ _ _ { op := 0x14, d := md, ab := ab, a := oa.enc, str := st.str, pm := st.pm, scp := st.scp.enc, df := 1 } ((fun f : SlotF => row true [.d, .ab, .a, .str, .pm, .scp, .df] [(f.a, 32, false)] (32) <| (Sel.dec f.a).bind fun oa => if f.df = 1 then some (.muLdga f.d f.ab oa f.strm) else none) { op := 0x14, d := md, ab := ab, a := oa.enc, str := st.str, pm := st.pm, scp := st.scp.enc, df := 1 }) _
    ((SlotF.unpack_pack_mu _).trans rfl) rfl rfl ?_ rfl ?_ rfl ?_ ?_ ?_
  · exact Bool.and_false h
  · rfl
  · simp [row, selRangeOk, sel64, hw]
  · simp [row]; omega
  · simp [row, SlotF.mask, SlotF.strm, mask_eq, hw]

theorem muStga (md : BitVec 6) (ab : BitVec 5) (oa : Sel) (st : Strm) : Statement (.muStga md ab oa st) := by
  intro hw k h hk hh
  cases hk
  simp only [Instr.wf, Bool.and_eq_true, Bool.or_eq_true, beq_iff_eq, decide_eq_true_eq] at hw
  refine ok_of _ _ _ { op := 0x15, d := md, ab := ab, a := oa.enc, str := st.str, pm := st.pm, scp := st.scp.enc } ((fun f : SlotF => row false [.d, .ab, .a, .str, .pm, .scp] [(f.a, 32, false)] (32) <| (Sel.dec f.a).bind fun oa => some (.muStga f.d f.ab oa f.strm)) { op := 0x15, d := md, ab := ab, a := oa.enc, str := st.str, pm := st.pm, scp := st.scp.enc }) _
    ((SlotF.unpack_pack_mu _).trans rfl) rfl rfl ?_ rfl ?_ rfl ?_ ?_ ?_
  · simpa [row, Instr.holdable] using hh
  · rfl
  · simp [row, selRangeOk, sel64, hw]
  · simp [row]; omega
  · simp [row, SlotF.mask, SlotF.strm, mask_eq, hw]

theorem muPfg (ab : BitVec 5) (oa : Sel) (st : Strm) : Statement (.muPfg ab oa st) := by
  intro hw k h hk hh
  cases hk
  simp only [Instr.wf, Bool.and_eq_true, Bool.or_eq_true, beq_iff_eq, decide_eq_true_eq] at hw
  refine ok_of _ _ _ { op := 0x16, ab := ab, a := oa.enc, str := st.str, pm := st.pm, scp := st.scp.enc } ((fun f : SlotF => row true [.ab, .a, .str, .pm, .scp] [(f.a, 32, false)] (64) <| (Sel.dec f.a).bind fun oa => some (.muPfg f.ab oa f.strm)) { op := 0x16, ab := ab, a := oa.enc, str := st.str, pm := st.pm, scp := st.scp.enc }) _
    ((SlotF.unpack_pack_mu _).trans rfl) rfl rfl ?_ rfl ?_ rfl ?_ ?_ ?_
  · exact Bool.and_false h
  · rfl
  · simp [row, selRangeOk, sel64, hw]
  · exact Nat.zero_lt_succ 63
  · simp [row, SlotF.mask, SlotF.strm, mask_eq, hw]

theorem muAtms (mk : Mask) (af : AtomFn) (md : BitVec 6) (ab : BitVec 5) (oa : Sel) (ob : Sel) (st : Strm) : Statement (.muAtms mk af md ab oa ob st) := by
  intro hw k h hk hh
  cases hk
  simp only [Instr.wf, Bool.and_eq_true, Bool.or_eq_true, beq_iff_eq, decide_eq_true_eq] at hw
  refine ok_of _ _ _ { op := 0x18, mb := mk.getD 0, me := mk.isSome, code := af.enc, d := md, ab := ab, a := oa.enc, b := ob.enc, str := st.str, pm := st.pm, scp := st.scp.enc } ((fun f : SlotF => row true [.mb, .me, .code, .d, .ab, .a, .b, .str, .pm, .scp] [(f.a, 16, true), (f.b, 16, true)] (16) <| (AtomFn.dec f.code).bind fun af => (Sel.dec f.a).bind fun oa => (Sel.dec f.b).bind fun ob => some (.muAtms f.mask af f.d f.ab oa ob f.strm)) { op := 0x18, mb := mk.getD 0, me := mk.isSome, code := af.enc, d := md, ab := ab, a := oa.enc, b := ob.enc, str := st.str, pm := st.pm, scp := st.scp.enc }) _
    ((SlotF.unpack_pack_mu _).trans rfl) rfl rfl ?_ rfl ?_ rfl ?_ ?_ ?_
  · exact Bool.and_false h
  · exact mask_zero mk
  · simp [row, selRangeOk, sel64, hw]
  · simp [row]; omega
  · simp [row, SlotF.mask, SlotF.strm, mask_eq, hw]

theorem muAtmg (mk : Mask) (af : AtomFn) (md : BitVec 6) (ab : BitVec 5) (oa : Sel) (ob : Sel) (st : Strm) : Statement (.muAtmg mk af md ab oa ob st) := by
  intro hw k h hk hh
  cases hk
  simp only [Instr.wf, Bool.and_eq_true, Bool.or_eq_true, beq_iff_eq, decide_eq_true_eq] at hw
  refine ok_of _ _ _ { op := 0x19, mb := mk.getD 0, me := mk.isSome, code := af.enc, d := md, ab := ab, a := oa.enc, b := ob.enc, str := st.str, pm := st.pm, scp := st.scp.enc } ((fun f : SlotF => row true [.mb, .me, .code, .d, .ab, .a, .b, .str, .pm, .scp] [(f.a, 16, false), (f.b, 16, true)] (16) <| (AtomFn.dec f.code).bind fun af => (Sel.dec f.a).bind fun oa => (Sel.dec f.b).bind fun ob => some (.muAtmg f.mask af f.d f.ab oa ob f.strm)) { op := 0x19, mb := mk.getD 0, me := mk.isSome, code := af.enc, d := md, ab := ab, a := oa.enc, b := ob.enc, str := st.str, pm := st.pm, scp := st.scp.enc }) _
    ((SlotF.unpack_pack_mu _).trans rfl) rfl rfl ?_ rfl ?_ rfl ?_ ?_ ?_
  · exact Bool.and_false h
  · exact mask_zero mk
  · simp [row, selRangeOk, sel64, hw]
  · simp [row]; omega
  · simp [row, SlotF.mask, SlotF.strm, mask_eq, hw]

theorem muQbind (qh : BitVec 3) (md : BitVec 6) : Statement (.muQbind qh md) := by
  intro hw k h hk hh
  cases hk
  simp only [Instr.wf, Bool.and_eq_true, Bool.or_eq_true, beq_iff_eq, decide_eq_true_eq] at hw
  refine ok_of _ _ _ { op := 0x20, qh := qh, d := md } ((fun f : SlotF => row false [.qh, .d] [] (32) <| some (.muQbind f.qh f.d)) { op := 0x20, qh := qh, d := md }) _
    ((SlotF.unpack_pack_mu _).trans rfl) rfl rfl ?_ rfl ?_ rfl ?_ ?_ ?_
  · simpa [row, Instr.holdable] using hh
  · rfl
  · rfl
  · simp [row]; omega
  · simp [row, SlotF.mask, SlotF.strm, mask_eq, hw]

theorem muQwait (qs : QSide) (qh : BitVec 3) (oa : Sel) : Statement (.muQwait qs qh oa) := by
  intro hw k h hk hh
  cases hk
  simp only [Instr.wf, Bool.and_eq_true, Bool.or_eq_true, beq_iff_eq, decide_eq_true_eq] at hw
  refine ok_of _ _ _ { op := 0x21, code := qs.enc, qh := qh, a := oa.enc } ((fun f : SlotF => row false [.code, .qh, .a] [(f.a, 32, true)] (64) <| (QSide.dec f.code).bind fun qs => (Sel.dec f.a).bind fun oa => some (.muQwait qs f.qh oa)) { op := 0x21, code := qs.enc, qh := qh, a := oa.enc }) _
    ((SlotF.unpack_pack_mu _).trans rfl) rfl rfl ?_ rfl ?_ rfl ?_ ?_ ?_
  · simpa [row, Instr.holdable] using hh
  · rfl
  · simp [row, selRangeOk, sel64, hw]
  · exact Nat.zero_lt_succ 63
  · simp [row, SlotF.mask, SlotF.strm, mask_eq, hw]

theorem muQadv (qs : QSide) (qh : BitVec 3) (oa : Sel) : Statement (.muQadv qs qh oa) := by
  intro hw k h hk hh
  cases hk
  simp only [Instr.wf, Bool.and_eq_true, Bool.or_eq_true, beq_iff_eq, decide_eq_true_eq] at hw
  refine ok_of _ _ _ { op := 0x22, code := qs.enc, qh := qh, a := oa.enc } ((fun f : SlotF => row true [.code, .qh, .a] [(f.a, 32, true)] (64) <| (QSide.dec f.code).bind fun qs => (Sel.dec f.a).bind fun oa => some (.muQadv qs f.qh oa)) { op := 0x22, code := qs.enc, qh := qh, a := oa.enc }) _
    ((SlotF.unpack_pack_mu _).trans rfl) rfl rfl ?_ rfl ?_ rfl ?_ ?_ ?_
  · exact Bool.and_false h
  · rfl
  · simp [row, selRangeOk, sel64, hw]
  · exact Nat.zero_lt_succ 63
  · simp [row, SlotF.mask, SlotF.strm, mask_eq, hw]

theorem muTfull (oa : Sel) : Statement (.muTfull oa) := by
  intro hw k h hk hh
  cases hk
  simp only [Instr.wf, Bool.and_eq_true, Bool.or_eq_true, beq_iff_eq, decide_eq_true_eq] at hw
  refine ok_of _ _ _ { op := 0x28, a := oa.enc } ((fun f : SlotF => row false [.a] [(f.a, 32, true)] (64) <| (Sel.dec f.a).bind fun oa => some (.muTfull oa)) { op := 0x28, a := oa.enc }) _
    ((SlotF.unpack_pack_mu _).trans rfl) rfl rfl ?_ rfl ?_ rfl ?_ ?_ ?_
  · simpa [row, Instr.holdable] using hh
  · rfl
  · simp [row, selRangeOk, sel64, hw]
  · exact Nat.zero_lt_succ 63
  · simp [row, SlotF.mask, SlotF.strm, mask_eq, hw]

theorem muTgate (gate : Bool) (oa : Sel) : Statement (.muTgate gate oa) := by
  intro hw k h hk hh
  cases hk
  simp only [Instr.wf, Bool.and_eq_true, Bool.or_eq_true, beq_iff_eq, decide_eq_true_eq] at hw
  refine ok_of _ _ _ { op := 0x29, code := if gate then 1 else 0, a := oa.enc } ((fun f : SlotF => row false [.code, .a] [(f.a, 32, true)] (64) <| (gateDec f.code).bind fun gate => (Sel.dec f.a).bind fun oa => some (.muTgate gate oa)) { op := 0x29, code := if gate then 1 else 0, a := oa.enc }) _
    ((SlotF.unpack_pack_mu _).trans rfl) rfl rfl ?_ rfl ?_ rfl ?_ ?_ ?_
  · simpa [row, Instr.holdable] using hh
  · rfl
  · simp [row, selRangeOk, sel64, hw]
  · exact Nat.zero_lt_succ 63
  · cases gate <;> simp [row, gateDec]

theorem muTclr (oa : Sel) : Statement (.muTclr oa) := by
  intro hw k h hk hh
  cases hk
  simp only [Instr.wf, Bool.and_eq_true, Bool.or_eq_true, beq_iff_eq, decide_eq_true_eq] at hw
  refine ok_of _ _ _ { op := 0x2A, a := oa.enc } ((fun f : SlotF => row false [.a] [(f.a, 32, true)] (64) <| (Sel.dec f.a).bind fun oa => some (.muTclr oa)) { op := 0x2A, a := oa.enc }) _
    ((SlotF.unpack_pack_mu _).trans rfl) rfl rfl ?_ rfl ?_ rfl ?_ ?_ ?_
  · simpa [row, Instr.holdable] using hh
  · rfl
  · simp [row, selRangeOk, sel64, hw]
  · exact Nat.zero_lt_succ 63
  · simp [row, SlotF.mask, SlotF.strm, mask_eq, hw]

theorem muCwait (oa : Sel) (ob : Sel) : Statement (.muCwait oa ob) := by
  intro hw k h hk hh
  cases hk
  simp only [Instr.wf, Bool.and_eq_true, Bool.or_eq_true, beq_iff_eq, decide_eq_true_eq] at hw
  refine ok_of _ _ _ { op := 0x2B, a := oa.enc, b := ob.enc } ((fun f : SlotF => row false [.a, .b] [(f.a, 32, true), (f.b, 32, true)] (64) <| (Sel.dec f.a).bind fun oa => (Sel.dec f.b).bind fun ob => some (.muCwait oa ob)) { op := 0x2B, a := oa.enc, b := ob.enc }) _
    ((SlotF.unpack_pack_mu _).trans rfl) rfl rfl ?_ rfl ?_ rfl ?_ ?_ ?_
  · simpa [row, Instr.holdable] using hh
  · rfl
  · simp [row, selRangeOk, sel64, hw]
  · exact Nat.zero_lt_succ 63
  · simp [row, SlotF.mask, SlotF.strm, mask_eq, hw]

theorem muTstat (md : BitVec 6) (oa : Sel) : Statement (.muTstat md oa) := by
  intro hw k h hk hh
  cases hk
  simp only [Instr.wf, Bool.and_eq_true, Bool.or_eq_true, beq_iff_eq, decide_eq_true_eq] at hw
  refine ok_of _ _ _ { op := 0x2C, d := md, a := oa.enc } ((fun f : SlotF => row false [.d, .a] [(f.a, 32, true)] (32) <| (Sel.dec f.a).bind fun oa => some (.muTstat f.d oa)) { op := 0x2C, d := md, a := oa.enc }) _
    ((SlotF.unpack_pack_mu _).trans rfl) rfl rfl ?_ rfl ?_ rfl ?_ ?_ ?_
  · simpa [row, Instr.holdable] using hh
  · rfl
  · simp [row, selRangeOk, sel64, hw]
  · simp [row]; omega
  · simp [row, SlotF.mask, SlotF.strm, mask_eq, hw]

theorem muCprog (cp : BitVec 4) (ab : BitVec 5) (oa : Sel) (st : Strm) : Statement (.muCprog cp ab oa st) := by
  intro hw k h hk hh
  cases hk
  simp only [Instr.wf, Bool.and_eq_true, Bool.or_eq_true, beq_iff_eq, decide_eq_true_eq] at hw
  refine ok_of _ _ _ { op := 0x30, code := cp, ab := ab, a := oa.enc, str := st.str, pm := st.pm, scp := st.scp.enc } ((fun f : SlotF => row false [.code, .ab, .a, .str, .pm, .scp] [(f.a, 32, true)] (64) <| (Sel.dec f.a).bind fun oa => some (.muCprog f.code f.ab oa f.strm)) { op := 0x30, code := cp, ab := ab, a := oa.enc, str := st.str, pm := st.pm, scp := st.scp.enc }) _
    ((SlotF.unpack_pack_mu _).trans rfl) rfl rfl ?_ rfl ?_ rfl ?_ ?_ ?_
  · simpa [row, Instr.holdable] using hh
  · rfl
  · simp [row, selRangeOk, sel64, hw]
  · exact Nat.zero_lt_succ 63
  · simp [row, SlotF.mask, SlotF.strm, mask_eq, hw]

theorem muCopy (cp : BitVec 4) (oa : Sel) (ob : Sel) (st : Strm) : Statement (.muCopy cp oa ob st) := by
  intro hw k h hk hh
  cases hk
  simp only [Instr.wf, Bool.and_eq_true, Bool.or_eq_true, beq_iff_eq, decide_eq_true_eq] at hw
  refine ok_of _ _ _ { op := 0x31, code := cp, a := oa.enc, b := ob.enc, str := st.str, pm := st.pm, scp := st.scp.enc } ((fun f : SlotF => row false [.code, .a, .b, .str, .pm, .scp] [(f.a, 32, true), (f.b, 32, true)] (64) <| (Sel.dec f.a).bind fun oa => (Sel.dec f.b).bind fun ob => some (.muCopy f.code oa ob f.strm)) { op := 0x31, code := cp, a := oa.enc, b := ob.enc, str := st.str, pm := st.pm, scp := st.scp.enc }) _
    ((SlotF.unpack_pack_mu _).trans rfl) rfl rfl ?_ rfl ?_ rfl ?_ ?_ ?_
  · simpa [row, Instr.holdable] using hh
  · rfl
  · simp [row, selRangeOk, sel64, hw]
  · exact Nat.zero_lt_succ 63
  · simp [row, SlotF.mask, SlotF.strm, mask_eq, hw]

theorem muMsend (ab : BitVec 5) (oa : Sel) (ob : Sel) (st : Strm) : Statement (.muMsend ab oa ob st) := by
  intro hw k h hk hh
  cases hk
  simp only [Instr.wf, Bool.and_eq_true, Bool.or_eq_true, beq_iff_eq, decide_eq_true_eq] at hw
  refine ok_of _ _ _ { op := 0x38, ab := ab, a := oa.enc, b := ob.enc, str := st.str, pm := st.pm, scp := st.scp.enc } ((fun f : SlotF => row false [.ab, .a, .b, .str, .pm, .scp] [(f.a, 32, true), (f.b, 32, true)] (64) <| (Sel.dec f.a).bind fun oa => (Sel.dec f.b).bind fun ob => some (.muMsend f.ab oa ob f.strm)) { op := 0x38, ab := ab, a := oa.enc, b := ob.enc, str := st.str, pm := st.pm, scp := st.scp.enc }) _
    ((SlotF.unpack_pack_mu _).trans rfl) rfl rfl ?_ rfl ?_ rfl ?_ ?_ ?_
  · simpa [row, Instr.holdable] using hh
  · rfl
  · simp [row, selRangeOk, sel64, hw]
  · exact Nat.zero_lt_succ 63
  · simp [row, SlotF.mask, SlotF.strm, mask_eq, hw]

theorem muMpost (ab : BitVec 5) (oa : Sel) (ob : Sel) (st : Strm) : Statement (.muMpost ab oa ob st) := by
  intro hw k h hk hh
  cases hk
  simp only [Instr.wf, Bool.and_eq_true, Bool.or_eq_true, beq_iff_eq, decide_eq_true_eq] at hw
  refine ok_of _ _ _ { op := 0x39, ab := ab, a := oa.enc, b := ob.enc, str := st.str, pm := st.pm, scp := st.scp.enc } ((fun f : SlotF => row false [.ab, .a, .b, .str, .pm, .scp] [(f.a, 32, true), (f.b, 32, true)] (64) <| (Sel.dec f.a).bind fun oa => (Sel.dec f.b).bind fun ob => some (.muMpost f.ab oa ob f.strm)) { op := 0x39, ab := ab, a := oa.enc, b := ob.enc, str := st.str, pm := st.pm, scp := st.scp.enc }) _
    ((SlotF.unpack_pack_mu _).trans rfl) rfl rfl ?_ rfl ?_ rfl ?_ ?_ ?_
  · simpa [row, Instr.holdable] using hh
  · rfl
  · simp [row, selRangeOk, sel64, hw]
  · exact Nat.zero_lt_succ 63
  · simp [row, SlotF.mask, SlotF.strm, mask_eq, hw]

theorem muMprobe (md : BitVec 6) (oa : Sel) : Statement (.muMprobe md oa) := by
  intro hw k h hk hh
  cases hk
  simp only [Instr.wf, Bool.and_eq_true, Bool.or_eq_true, beq_iff_eq, decide_eq_true_eq] at hw
  refine ok_of _ _ _ { op := 0x3A, d := md, a := oa.enc } ((fun f : SlotF => row false [.d, .a] [(f.a, 32, true)] (32) <| (Sel.dec f.a).bind fun oa => some (.muMprobe f.d oa)) { op := 0x3A, d := md, a := oa.enc }) _
    ((SlotF.unpack_pack_mu _).trans rfl) rfl rfl ?_ rfl ?_ rfl ?_ ?_ ?_
  · simpa [row, Instr.holdable] using hh
  · rfl
  · simp [row, selRangeOk, sel64, hw]
  · simp [row]; omega
  · simp [row, SlotF.mask, SlotF.strm, mask_eq, hw]

theorem muCpost (ab : BitVec 5) (oa : Sel) (st : Strm) : Statement (.muCpost ab oa st) := by
  intro hw k h hk hh
  cases hk
  simp only [Instr.wf, Bool.and_eq_true, Bool.or_eq_true, beq_iff_eq, decide_eq_true_eq] at hw
  refine ok_of _ _ _ { op := 0x3B, ab := ab, a := oa.enc, str := st.str, pm := st.pm, scp := st.scp.enc } ((fun f : SlotF => row false [.ab, .a, .str, .pm, .scp] [(f.a, 32, true)] (64) <| (Sel.dec f.a).bind fun oa => some (.muCpost f.ab oa f.strm)) { op := 0x3B, ab := ab, a := oa.enc, str := st.str, pm := st.pm, scp := st.scp.enc }) _
    ((SlotF.unpack_pack_mu _).trans rfl) rfl rfl ?_ rfl ?_ rfl ?_ ?_ ?_
  · simpa [row, Instr.holdable] using hh
  · rfl
  · simp [row, selRangeOk, sel64, hw]
  · exact Nat.zero_lt_succ 63
  · simp [row, SlotF.mask, SlotF.strm, mask_eq, hw]

theorem muTget (md : BitVec 6) (ab : BitVec 5) (oa : Sel) (st : Strm) : Statement (.muTget md ab oa st) := by
  intro hw k h hk hh
  cases hk
  simp only [Instr.wf, Bool.and_eq_true, Bool.or_eq_true, beq_iff_eq, decide_eq_true_eq] at hw
  refine ok_of _ _ _ { op := 0x3C, d := md, ab := ab, a := oa.enc, str := st.str, pm := st.pm, scp := st.scp.enc } ((fun f : SlotF => row false [.d, .ab, .a, .str, .pm, .scp] [(f.a, 32, true)] (32) <| (Sel.dec f.a).bind fun oa => some (.muTget f.d f.ab oa f.strm)) { op := 0x3C, d := md, ab := ab, a := oa.enc, str := st.str, pm := st.pm, scp := st.scp.enc }) _
    ((SlotF.unpack_pack_mu _).trans rfl) rfl rfl ?_ rfl ?_ rfl ?_ ?_ ?_
  · simpa [row, Instr.holdable] using hh
  · rfl
  · simp [row, selRangeOk, sel64, hw]
  · simp [row]; omega
  · simp [row, SlotF.mask, SlotF.strm, mask_eq, hw]

theorem muAdda (md : BitVec 6) (ab : BitVec 5) (oa : Sel) : Statement (.muAdda md ab oa) := by
  intro hw k h hk hh
  cases hk
  simp only [Instr.wf, Bool.and_eq_true, Bool.or_eq_true, beq_iff_eq, decide_eq_true_eq] at hw
  refine ok_of _ _ _ { op := 0x40, d := md, ab := ab, a := oa.enc } ((fun f : SlotF => row true [.d, .ab, .a] [(f.a, 32, true)] (32) <| (Sel.dec f.a).bind fun oa => some (.muAdda f.d f.ab oa)) { op := 0x40, d := md, ab := ab, a := oa.enc }) _
    ((SlotF.unpack_pack_mu _).trans rfl) rfl rfl ?_ rfl ?_ rfl ?_ ?_ ?_
  · exact Bool.and_false h
  · rfl
  · simp [row, selRangeOk, sel64, hw]
  · simp [row]; omega
  · simp [row, SlotF.mask, SlotF.strm, mask_eq, hw]

theorem muMova (md : BitVec 6) (oa : Sel) : Statement (.muMova md oa) := by
  intro hw k h hk hh
  cases hk
  simp only [Instr.wf, Bool.and_eq_true, Bool.or_eq_true, beq_iff_eq, decide_eq_true_eq] at hw
  refine ok_of _ _ _ { op := 0x41, d := md, a := oa.enc } ((fun f : SlotF => row false [.d, .a] [(f.a, 32, true)] (32) <| (Sel.dec f.a).bind fun oa => some (.muMova f.d oa)) { op := 0x41, d := md, a := oa.enc }) _
    ((SlotF.unpack_pack_mu _).trans rfl) rfl rfl ?_ rfl ?_ rfl ?_ ?_ ?_
  · simpa [row, Instr.holdable] using hh
  · rfl
  · simp [row, selRangeOk, sel64, hw]
  · simp [row]; omega
  · simp [row, SlotF.mask, SlotF.strm, mask_eq, hw]

theorem muXfer (md : BitVec 6) (oa : Sel) : Statement (.muXfer md oa) := by
  intro hw k h hk hh
  cases hk
  simp only [Instr.wf] at hw
  refine ok_of _ _ _ { op := 0x48, d := md, a := oa.enc } (row true [.d, .a, .df] [(oa.enc, 32, true)] (64)
      ((Sel.dec oa.enc).bind fun oa => some (.muXfer md oa))) _ ((SlotF.unpack_pack_mu _).trans rfl) rfl rfl ?_ rfl rfl rfl ?_ ?_ ?_
  · exact Bool.and_false h
  · simp [row, selRangeOk, hw]
  · exact md.isLt
  · simp [row]

theorem muXferPerLane (mk : Mask) (df : RFile) (md : BitVec 6) (oa : Sel) : Statement (.muXferPerLane mk df md oa) := by
  intro hw k h hk hh
  cases hk
  simp only [Instr.wf, Bool.and_eq_true, Bool.or_eq_true, beq_iff_eq, decide_eq_true_eq] at hw
  have hd : df.enc ≠ 0 := by rcases hw.1.2 with h | h <;> subst h <;> decide
  refine ok_of _ _ _ { op := 0x48, mb := mk.getD 0, me := mk.isSome, df := df.enc, d := md, a := oa.enc }
    (row true [.mb, .me, .df, .d, .a] [(oa.enc, 16, true)] (dfSize df.enc) ((RFile.dec df.enc).bind fun df =>
      (Sel.dec oa.enc).bind fun oa => if df = .va ∨ df = .vb then
        some (.muXferPerLane (if mk.isSome then some (mk.getD 0) else none) df md oa) else none)) _
    ((SlotF.unpack_pack_mu _).trans rfl) ?_ rfl ?_ rfl ?_ rfl ?_ ?_ ?_
  · exact if_neg hd
  · exact Bool.and_false h
  · exact mask_zero mk
  · simp [row, selRangeOk, hw]
  · simpa [row] using hw.2
  · rcases hw.1.2 with h | h <;> subst h <;> simp [row, mask_eq]

theorem xuFmt (fa : BitVec 3) (oa : Sel) (st : Strm) : Statement (.xuFmt fa oa st) := by
  intro hw k h hk hh
  cases hk
  simp only [Instr.wf, Bool.and_eq_true, Bool.or_eq_true, beq_iff_eq, decide_eq_true_eq] at hw
  refine ok_of _ _ _ { op := 0x01, fa := fa, a := oa.enc, str := st.str, pm := st.pm, scp := st.scp.enc } ((fun f : SlotF => row false [.fa, .a, .str, .pm, .scp] [(f.a, 0, true)] (64) <| (Sel.dec f.a).bind fun oa => some (.xuFmt f.fa oa f.strm)) { op := 0x01, fa := fa, a := oa.enc, str := st.str, pm := st.pm, scp := st.scp.enc }) _
    ((SlotF.unpack_pack_xu _).trans rfl) rfl rfl ?_ rfl ?_ rfl ?_ ?_ ?_
  · simpa [row, Instr.holdable] using hh
  · rfl
  · simp [row, selRangeOk, sel64, hw]
  · exact Nat.zero_lt_succ 63
  · simp [row, SlotF.mask, SlotF.strm, mask_eq, hw]

theorem xuMma (acc : BitVec 3) (fa : BitVec 3) (fb : BitVec 3) (oa : Sel) (ob : Sel) (oc : Sel) (st : Strm) : Statement (.xuMma acc fa fb oa ob oc st) := by
  intro hw k h hk hh
  cases hk
  simp only [Instr.wf, Bool.and_eq_true, Bool.or_eq_true, beq_iff_eq, decide_eq_true_eq] at hw
  refine ok_of _ _ _ { op := 0x02, acc := acc, fa := fa, fb := fb, a := oa.enc, b := ob.enc, c := oc.enc, str := st.str, pm := st.pm, scp := st.scp.enc } ((fun f : SlotF => row false [.acc, .fa, .fb, .a, .b, .c, .str, .pm, .scp] [(f.a, 0, true), (f.b, 0, true), (f.c, 0, true)] (64) <| (Sel.dec f.a).bind fun oa => (Sel.dec f.b).bind fun ob => (Sel.dec f.c).bind fun oc => some (.xuMma f.acc f.fa f.fb oa ob oc f.strm)) { op := 0x02, acc := acc, fa := fa, fb := fb, a := oa.enc, b := ob.enc, c := oc.enc, str := st.str, pm := st.pm, scp := st.scp.enc }) _
    ((SlotF.unpack_pack_xu _).trans rfl) rfl rfl ?_ rfl ?_ rfl ?_ ?_ ?_
  · simpa [row, Instr.holdable] using hh
  · rfl
  · simp [row, selRangeOk, sel64, hw]
  · exact Nat.zero_lt_succ 63
  · simp [row, SlotF.mask, SlotF.strm, mask_eq, hw]

theorem xuMmat (acc : BitVec 3) (fa : BitVec 3) (fb : BitVec 3) (oa : Sel) (ob : Sel) (oc : Sel) (st : Strm) : Statement (.xuMmat acc fa fb oa ob oc st) := by
  intro hw k h hk hh
  cases hk
  simp only [Instr.wf, Bool.and_eq_true, Bool.or_eq_true, beq_iff_eq, decide_eq_true_eq] at hw
  refine ok_of _ _ _ { op := 0x03, acc := acc, fa := fa, fb := fb, a := oa.enc, b := ob.enc, c := oc.enc, str := st.str, pm := st.pm, scp := st.scp.enc } ((fun f : SlotF => row false [.acc, .fa, .fb, .a, .b, .c, .str, .pm, .scp] [(f.a, 0, true), (f.b, 0, true), (f.c, 0, true)] (64) <| (Sel.dec f.a).bind fun oa => (Sel.dec f.b).bind fun ob => (Sel.dec f.c).bind fun oc => some (.xuMmat f.acc f.fa f.fb oa ob oc f.strm)) { op := 0x03, acc := acc, fa := fa, fb := fb, a := oa.enc, b := ob.enc, c := oc.enc, str := st.str, pm := st.pm, scp := st.scp.enc }) _
    ((SlotF.unpack_pack_xu _).trans rfl) rfl rfl ?_ rfl ?_ rfl ?_ ?_ ?_
  · simpa [row, Instr.holdable] using hh
  · rfl
  · simp [row, selRangeOk, sel64, hw]
  · exact Nat.zero_lt_succ 63
  · simp [row, SlotF.mask, SlotF.strm, mask_eq, hw]

theorem xuDist (acc : BitVec 3) (fa : BitVec 3) (fb : BitVec 3) (oa : Sel) (ob : Sel) (oc : Sel) (st : Strm) : Statement (.xuDist acc fa fb oa ob oc st) := by
  intro hw k h hk hh
  cases hk
  simp only [Instr.wf, Bool.and_eq_true, Bool.or_eq_true, beq_iff_eq, decide_eq_true_eq] at hw
  refine ok_of _ _ _ { op := 0x04, acc := acc, fa := fa, fb := fb, a := oa.enc, b := ob.enc, c := oc.enc, str := st.str, pm := st.pm, scp := st.scp.enc } ((fun f : SlotF => row false [.acc, .fa, .fb, .a, .b, .c, .str, .pm, .scp] [(f.a, 0, true), (f.b, 0, true), (f.c, 0, true)] (64) <| (Sel.dec f.a).bind fun oa => (Sel.dec f.b).bind fun ob => (Sel.dec f.c).bind fun oc => some (.xuDist f.acc f.fa f.fb oa ob oc f.strm)) { op := 0x04, acc := acc, fa := fa, fb := fb, a := oa.enc, b := ob.enc, c := oc.enc, str := st.str, pm := st.pm, scp := st.scp.enc }) _
    ((SlotF.unpack_pack_xu _).trans rfl) rfl rfl ?_ rfl ?_ rfl ?_ ?_ ?_
  · simpa [row, Instr.holdable] using hh
  · rfl
  · simp [row, selRangeOk, sel64, hw]
  · exact Nat.zero_lt_succ 63
  · simp [row, SlotF.mask, SlotF.strm, mask_eq, hw]

theorem xuTopk (largest : Bool) (i32 : Bool) (acc : BitVec 3) (oa : Sel) (ob : Sel) (st : Strm) : Statement (.xuTopk largest i32 acc oa ob st) := by
  intro hw k h hk hh
  cases hk
  simp only [Instr.wf, Bool.and_eq_true, Bool.or_eq_true, beq_iff_eq, decide_eq_true_eq] at hw
  refine ok_of _ _ _ { op := 0x05, code := (if largest then 1 else 0) ||| (if i32 then 2 else 0), acc := acc, a := oa.enc, b := ob.enc, str := st.str, pm := st.pm, scp := st.scp.enc } ((fun f : SlotF => row false [.code, .acc, .a, .b, .str, .pm, .scp] [(f.a, 0, true), (f.b, 0, true)] (64) <| (topkDec f.code).bind fun lg => (Sel.dec f.a).bind fun oa => (Sel.dec f.b).bind fun ob => some (.xuTopk lg.1 lg.2 f.acc oa ob f.strm)) { op := 0x05, code := (if largest then 1 else 0) ||| (if i32 then 2 else 0), acc := acc, a := oa.enc, b := ob.enc, str := st.str, pm := st.pm, scp := st.scp.enc }) _
    ((SlotF.unpack_pack_xu _).trans rfl) rfl rfl ?_ rfl ?_ rfl ?_ ?_ ?_
  · simpa [row, Instr.holdable] using hh
  · rfl
  · simp [row, selRangeOk, sel64, hw]
  · exact Nat.zero_lt_succ 63
  · cases largest <;> cases i32 <;> simp [row, topkDec, SlotF.strm]

theorem xuAccst (i32 : Bool) (rm : Rm) (acc : BitVec 3) (fa : BitVec 3) (oa : Sel) (st : Strm) : Statement (.xuAccst i32 rm acc fa oa st) := by
  intro hw k h hk hh
  cases hk
  simp only [Instr.wf, Bool.and_eq_true, Bool.or_eq_true, beq_iff_eq, decide_eq_true_eq] at hw
  refine ok_of _ _ _ { op := 0x08, code := rm.enc.setWidth 4 ||| (if i32 then 8 else 0), acc := acc, fa := fa, a := oa.enc, str := st.str, pm := st.pm, scp := st.scp.enc } ((fun f : SlotF => row false [.code, .acc, .fa, .a, .str, .pm, .scp] [(f.a, 0, true)] (64) <| (Rm.dec (f.code.extractLsb' 0 3)).bind fun rm => (Sel.dec f.a).bind fun oa => some (.xuAccst (f.code.getLsbD 3) rm f.acc f.fa oa f.strm)) { op := 0x08, code := rm.enc.setWidth 4 ||| (if i32 then 8 else 0), acc := acc, fa := fa, a := oa.enc, str := st.str, pm := st.pm, scp := st.scp.enc }) _
    ((SlotF.unpack_pack_xu _).trans rfl) rfl rfl ?_ rfl ?_ rfl ?_ ?_ ?_
  · simpa [row, Instr.holdable] using hh
  · rfl
  · simp [row, selRangeOk, sel64, hw]
  · exact Nat.zero_lt_succ 63
  · cases i32 <;> cases rm <;> simp [row, SlotF.strm, Rm.enc, Rm.dec]

theorem xuAccld (acc : BitVec 3) (fa : BitVec 3) (oa : Sel) (st : Strm) : Statement (.xuAccld acc fa oa st) := by
  intro hw k h hk hh
  cases hk
  simp only [Instr.wf, Bool.and_eq_true, Bool.or_eq_true, beq_iff_eq, decide_eq_true_eq] at hw
  refine ok_of _ _ _ { op := 0x09, acc := acc, fa := fa, a := oa.enc, str := st.str, pm := st.pm, scp := st.scp.enc } ((fun f : SlotF => row false [.acc, .fa, .a, .str, .pm, .scp] [(f.a, 0, true)] (64) <| (Sel.dec f.a).bind fun oa => some (.xuAccld f.acc f.fa oa f.strm)) { op := 0x09, acc := acc, fa := fa, a := oa.enc, str := st.str, pm := st.pm, scp := st.scp.enc }) _
    ((SlotF.unpack_pack_xu _).trans rfl) rfl rfl ?_ rfl ?_ rfl ?_ ?_ ?_
  · simpa [row, Instr.holdable] using hh
  · rfl
  · simp [row, selRangeOk, sel64, hw]
  · exact Nat.zero_lt_succ 63
  · simp [row, SlotF.mask, SlotF.strm, mask_eq, hw]

theorem xuAcczr (acc : BitVec 3) (st : Strm) : Statement (.xuAcczr acc st) := by
  intro hw k h hk hh
  cases hk
  refine ok_of _ _ _ { op := 0x0A, acc := acc, str := st.str, pm := st.pm, scp := st.scp.enc } ((fun f : SlotF => row false [.acc, .str, .pm, .scp] [] (64) <| some (.xuAcczr f.acc f.strm)) { op := 0x0A, acc := acc, str := st.str, pm := st.pm, scp := st.scp.enc }) _
    ((SlotF.unpack_pack_xu _).trans rfl) rfl rfl ?_ rfl ?_ rfl ?_ ?_ ?_
  · simpa [row, Instr.holdable] using hh
  · rfl
  · rfl
  · exact Nat.zero_lt_succ 63
  · simp [row, SlotF.mask, SlotF.strm, mask_eq, hw]

theorem xuAccadd (acc : BitVec 3) (acb : BitVec 3) (st : Strm) : Statement (.xuAccadd acc acb st) := by
  intro hw k h hk hh
  cases hk
  refine ok_of _ _ _ { op := 0x0B, acc := acc, acb := acb, str := st.str, pm := st.pm, scp := st.scp.enc } ((fun f : SlotF => row false [.acc, .acb, .str, .pm, .scp] [] (64) <| some (.xuAccadd f.acc f.acb f.strm)) { op := 0x0B, acc := acc, acb := acb, str := st.str, pm := st.pm, scp := st.scp.enc }) _
    ((SlotF.unpack_pack_xu _).trans rfl) rfl rfl ?_ rfl ?_ rfl ?_ ?_ ?_
  · simpa [row, Instr.holdable] using hh
  · rfl
  · rfl
  · exact Nat.zero_lt_succ 63
  · simp [row, SlotF.mask, SlotF.strm, mask_eq, hw]

theorem xuAccscl (acc : BitVec 3) (oc : Sel) (st : Strm) : Statement (.xuAccscl acc oc st) := by
  intro hw k h hk hh
  cases hk
  simp only [Instr.wf, Bool.and_eq_true, Bool.or_eq_true, beq_iff_eq, decide_eq_true_eq] at hw
  refine ok_of _ _ _ { op := 0x0C, acc := acc, c := oc.enc, str := st.str, pm := st.pm, scp := st.scp.enc } ((fun f : SlotF => row false [.acc, .c, .str, .pm, .scp] [(f.c, 0, true)] (64) <| (Sel.dec f.c).bind fun oc => some (.xuAccscl f.acc oc f.strm)) { op := 0x0C, acc := acc, c := oc.enc, str := st.str, pm := st.pm, scp := st.scp.enc }) _
    ((SlotF.unpack_pack_xu _).trans rfl) rfl rfl ?_ rfl ?_ rfl ?_ ?_ ?_
  · simpa [row, Instr.holdable] using hh
  · rfl
  · simp [row, selRangeOk, sel64, hw]
  · exact Nat.zero_lt_succ 63
  · simp [row, SlotF.mask, SlotF.strm, mask_eq, hw]

theorem xuAccmv (acc : BitVec 3) (acb : BitVec 3) (st : Strm) : Statement (.xuAccmv acc acb st) := by
  intro hw k h hk hh
  cases hk
  refine ok_of _ _ _ { op := 0x0D, acc := acc, acb := acb, str := st.str, pm := st.pm, scp := st.scp.enc } ((fun f : SlotF => row false [.acc, .acb, .str, .pm, .scp] [] (64) <| some (.xuAccmv f.acc f.acb f.strm)) { op := 0x0D, acc := acc, acb := acb, str := st.str, pm := st.pm, scp := st.scp.enc }) _
    ((SlotF.unpack_pack_xu _).trans rfl) rfl rfl ?_ rfl ?_ rfl ?_ ?_ ?_
  · simpa [row, Instr.holdable] using hh
  · rfl
  · rfl
  · exact Nat.zero_lt_succ 63
  · simp [row, SlotF.mask, SlotF.strm, mask_eq, hw]

theorem xuAcctr (acc : BitVec 3) (acb : BitVec 3) (st : Strm) : Statement (.xuAcctr acc acb st) := by
  intro hw k h hk hh
  cases hk
  refine ok_of _ _ _ { op := 0x0E, acc := acc, acb := acb, str := st.str, pm := st.pm, scp := st.scp.enc } ((fun f : SlotF => row false [.acc, .acb, .str, .pm, .scp] [] (64) <| some (.xuAcctr f.acc f.acb f.strm)) { op := 0x0E, acc := acc, acb := acb, str := st.str, pm := st.pm, scp := st.scp.enc }) _
    ((SlotF.unpack_pack_xu _).trans rfl) rfl rfl ?_ rfl ?_ rfl ?_ ?_ ?_
  · simpa [row, Instr.holdable] using hh
  · rfl
  · rfl
  · exact Nat.zero_lt_succ 63
  · simp [row, SlotF.mask, SlotF.strm, mask_eq, hw]

theorem wordFetch (z : Nat) : Statement (.wordFetch z) := by
  intro _ k _ hk
  cases hk

theorem dictRefill (part : Nat) (k : Nat) : Statement (.dictRefill part k) := by
  intro _ k _ hk
  cases hk

theorem teamSelection (part : Nat) : Statement (.teamSelection part) := by
  intro _ k _ hk
  cases hk

theorem landing (z : Nat) : Statement (.landing z) := by
  intro _ k _ hk
  cases hk

theorem blockedSlotCommit (z : Nat) (k : Nat) : Statement (.blockedSlotCommit z k) := by
  intro _ k _ hk
  cases hk

theorem eretResume (z : Nat) : Statement (.eretResume z) := by
  intro _ k _ hk
  cases hk

theorem loadReply (id : Nat) : Statement (.loadReply id) := by
  intro _ k _ hk
  cases hk

theorem missStatusRelease (core : Nat) (n : Nat) : Statement (.missStatusRelease core n) := by
  intro _ k _ hk
  cases hk

theorem translationWalk (core : Nat) (asid : BitVec 16) (va : BitVec 64) (acc : AccKind) : Statement (.translationWalk core asid va acc) := by
  intro _ k _ hk
  cases hk

theorem operationCompletion (id : Nat) : Statement (.operationCompletion id) := by
  intro _ k _ hk
  cases hk

theorem queueHandleUpdate (core : Nat) : Statement (.queueHandleUpdate core) := by
  intro _ k _ hk
  cases hk

theorem copyChunkComplete (id : Nat) : Statement (.copyChunkComplete id) := by
  intro _ k _ hk
  cases hk

theorem copyCompletion (id : Nat) : Statement (.copyCompletion id) := by
  intro _ k _ hk
  cases hk

theorem copyFaultSuspend (id : Nat) : Statement (.copyFaultSuspend id) := by
  intro _ k _ hk
  cases hk

theorem ownershipRecall (line : Nat) : Statement (.ownershipRecall line) := by
  intro _ k _ hk
  cases hk

theorem xuAcceptance (core : Nat) : Statement (.xuAcceptance core) := by
  intro _ k _ hk
  cases hk

theorem matrixCommandBegin (core : Nat) : Statement (.matrixCommandBegin core) := by
  intro _ k _ hk
  cases hk

theorem matrixCommandCompletion (core : Nat) : Statement (.matrixCommandCompletion core) := by
  intro _ k _ hk
  cases hk

theorem trapEntry (z : Nat) : Statement (.trapEntry z) := by
  intro _ k _ hk
  cases hk

theorem blockEnd (blk : Nat) : Statement (.blockEnd blk) := by
  intro _ k _ hk
  cases hk

theorem launchCompletion (launch : Nat) : Statement (.launchCompletion launch) := by
  intro _ k _ hk
  cases hk

theorem messageDelivery (k : Nat) : Statement (.messageDelivery k) := by
  intro _ k _ hk
  cases hk

theorem multicastFork (router : Nat) (k : Nat) (room : Nat) : Statement (.multicastFork router k room) := by
  intro _ k _ hk
  cases hk

theorem taskPostAccept (id : Nat) : Statement (.taskPostAccept id) := by
  intro _ k _ hk
  cases hk

theorem notifyWptr (q : Nat) (wptr : BitVec 16) : Statement (.notifyWptr q wptr) := by
  intro _ k _ hk
  cases hk

theorem qdisGo (value : BitVec 64) : Statement (.qdisGo value) := by
  intro _ k _ hk
  cases hk

theorem queueMapping (slot : Nat) : Statement (.queueMapping slot) := by
  intro _ k _ hk
  cases hk

theorem launchStart (slot : Nat) : Statement (.launchStart slot) := by
  intro _ k _ hk
  cases hk

theorem dependenceRead (slot : Nat) : Statement (.dependenceRead slot) := by
  intro _ k _ hk
  cases hk

theorem blockPlacement (leaf : Nat) : Statement (.blockPlacement leaf) := by
  intro _ k _ hk
  cases hk

theorem drainHold (part : Nat) : Statement (.drainHold part) := by
  intro _ k _ hk
  cases hk

theorem starvationHold (leaf : Nat) : Statement (.starvationHold leaf) := by
  intro _ k _ hk
  cases hk

theorem switchFlag (leaf : Nat) : Statement (.switchFlag leaf) := by
  intro _ k _ hk
  cases hk

theorem fusionChange (bench : Nat) : Statement (.fusionChange bench) := by
  intro _ k _ hk
  cases hk

theorem save (master : Master) (value : BitVec 64) : Statement (.save master value) := by
  intro _ k _ hk
  cases hk

theorem restore (master : Master) (value : BitVec 64) : Statement (.restore master value) := by
  intro _ k _ hk
  cases hk

theorem teamHalt (core : Nat) : Statement (.teamHalt core) := by
  intro _ k _ hk
  cases hk

theorem blockSettle (blk : Nat) : Statement (.blockSettle blk) := by
  intro _ k _ hk
  cases hk

theorem restorePlacement (leaf : Nat) : Statement (.restorePlacement leaf) := by
  intro _ k _ hk
  cases hk

theorem contextEvent  : Statement (.contextEvent) := by
  intro _ k _ hk
  cases hk

theorem debugHalt (z : Nat) : Statement (.debugHalt z) := by
  intro _ k _ hk
  cases hk

theorem benchStop (bench : Nat) : Statement (.benchStop bench) := by
  intro _ k _ hk
  cases hk

theorem stepTimeout (z : Nat) : Statement (.stepTimeout z) := by
  intro _ k _ hk
  cases hk

theorem traceSample (part : Nat) : Statement (.traceSample part) := by
  intro _ k _ hk
  cases hk

theorem bankArbitration (core : Nat) (bank : Nat) : Statement (.bankArbitration core bank) := by
  intro _ k _ hk
  cases hk

theorem portSlotService (core : Nat) (bank : Nat) : Statement (.portSlotService core bank) := by
  intro _ k _ hk
  cases hk

theorem artctlGo (value : BitVec 64) : Statement (.artctlGo value) := by
  intro _ k _ hk
  cases hk

theorem artCommitComplete  : Statement (.artCommitComplete) := by
  intro _ k _ hk
  cases hk

theorem wmaskWrite (slice : Nat) (value : BitVec 64) : Statement (.wmaskWrite slice value) := by
  intro _ k _ hk
  cases hk

theorem wayConversionComplete (slice : Nat) (way : Nat) : Statement (.wayConversionComplete slice way) := by
  intro _ k _ hk
  cases hk

theorem invctlGo (value : BitVec 64) : Statement (.invctlGo value) := by
  intro _ k _ hk
  cases hk

theorem invalidationComplete  : Statement (.invalidationComplete) := by
  intro _ k _ hk
  cases hk

theorem dtctlGo  : Statement (.dtctlGo) := by
  intro _ k _ hk
  cases hk

theorem filterEmptied  : Statement (.filterEmptied) := by
  intro _ k _ hk
  cases hk

theorem scrubRead (store : Store) (addr : Nat) (err : SoftErr) : Statement (.scrubRead store addr err) := by
  intro _ k _ hk
  cases hk

theorem flitReceive (port : Nat) (flit : BitVec 512) : Statement (.flitReceive port flit) := by
  intro _ k _ hk
  cases hk

theorem translationProbe (set : BitVec 16) (va : BitVec 64) (acc : AccKind) : Statement (.translationProbe set va acc) := by
  intro _ k _ hk
  cases hk

theorem level4Arrival (e : Nat) : Statement (.level4Arrival e) := by
  intro _ k _ hk
  cases hk

theorem level4Release (e : Nat) : Statement (.level4Release e) := by
  intro _ k _ hk
  cases hk

theorem write (p : Packet) : Statement (.write p) := by
  intro _ k _ hk
  cases hk

theorem read (p : Packet) : Statement (.read p) := by
  intro _ k _ hk
  cases hk

theorem notify (p : Packet) : Statement (.notify p) := by
  intro _ k _ hk
  cases hk

theorem ack (p : Packet) : Statement (.ack p) := by
  intro _ k _ hk
  cases hk

theorem ctrlRead (p : Packet) : Statement (.ctrlRead p) := by
  intro _ k _ hk
  cases hk

theorem ctrlWrite (p : Packet) : Statement (.ctrlWrite p) := by
  intro _ k _ hk
  cases hk

theorem retransmissionTimeout (sess : Nat) : Statement (.retransmissionTimeout sess) := by
  intro _ k _ hk
  cases hk

theorem ackTimer (sess : Nat) : Statement (.ackTimer sess) := by
  intro _ k _ hk
  cases hk

theorem arpRequest (ip : BitVec 32) : Statement (.arpRequest ip) := by
  intro _ k _ hk
  cases hk

theorem neighborSolicitation (ip6 : BitVec 128) : Statement (.neighborSolicitation ip6) := by
  intro _ k _ hk
  cases hk

theorem netcfgWrite (master : Master) (off : Nat) (value : BitVec 64) : Statement (.netcfgWrite master off value) := by
  intro _ k _ hk
  cases hk

theorem deviceReset  : Statement (.deviceReset) := by
  intro _ k _ hk
  cases hk

theorem registerRead (off : Nat) : Statement (.registerRead off) := by
  intro _ k _ hk
  cases hk

theorem registerWrite (off : Nat) (value : BitVec 64) : Statement (.registerWrite off value) := by
  intro _ k _ hk
  cases hk

theorem installSession (sess : Nat) (key : BitVec 256) (words : List (BitVec 64)) : Statement (.installSession sess key words) := by
  intro _ k _ hk
  cases hk

theorem writeFirmwareImageChunk (off : Nat) (bytes : List (BitVec 8)) : Statement (.writeFirmwareImageChunk off bytes) := by
  intro _ k _ hk
  cases hk

theorem commitImage  : Statement (.commitImage) := by
  intro _ k _ hk
  cases hk

theorem raiseSvnMinimum  : Statement (.raiseSvnMinimum) := by
  intro _ k _ hk
  cases hk

theorem resetDevice  : Statement (.resetDevice) := by
  intro _ k _ hk
  cases hk

theorem readPlatformEventLog  : Statement (.readPlatformEventLog) := by
  intro _ k _ hk
  cases hk

theorem getDigests (via : Via) : Statement (.getDigests via) := by
  intro _ k _ hk
  cases hk

theorem getCertificate (via : Via) (slot : Nat) (off : Nat) (len : Nat) : Statement (.getCertificate via slot off len) := by
  intro _ k _ hk
  cases hk

theorem challenge (via : Via) (slot : Nat) (nonce : BitVec 256) : Statement (.challenge via slot nonce) := by
  intro _ k _ hk
  cases hk

theorem getMeasurements (via : Via) (index : Nat) (nonce : Option (BitVec 256)) : Statement (.getMeasurements via index nonce) := by
  intro _ k _ hk
  cases hk

theorem pcapWrite (value : BitVec 64) : Statement (.pcapWrite value) := by
  intro _ k _ hk
  cases hk

theorem powerCapStep (leaf : Nat) (watts : Nat) : Statement (.powerCapStep leaf watts) := by
  intro _ k _ hk
  cases hk

theorem thermalThrottling (leaf : Nat) : Statement (.thermalThrottling leaf) := by
  intro _ k _ hk
  cases hk

theorem thermalShutdown  : Statement (.thermalShutdown) := by
  intro _ k _ hk
  cases hk

theorem coolantLimit  : Statement (.coolantLimit) := by
  intro _ k _ hk
  cases hk

theorem systemRegisterWrite (master : Master) (off : Nat) (value : BitVec 64) : Statement (.systemRegisterWrite master off value) := by
  intro _ k _ hk
  cases hk

theorem queueDisableComplete  : Statement (.queueDisableComplete) := by
  intro _ k _ hk
  cases hk

theorem ethernetLinkChange (up : Bool) : Statement (.ethernetLinkChange up) := by
  intro _ k _ hk
  cases hk

theorem coolantRecovery  : Statement (.coolantRecovery) := by
  intro _ k _ hk
  cases hk

theorem eventCounterIncrement  : Statement (.eventCounterIncrement) := by
  intro _ k _ hk
  cases hk

theorem priorityFlowControlFrame (paused : BitVec 8) : Statement (.priorityFlowControlFrame paused) := by
  intro _ k _ hk
  cases hk

theorem tdbgStop (z : Nat) : Statement (.tdbgStop z) := by
  intro _ k _ hk
  cases hk

theorem tdbgResume (z : Nat) : Statement (.tdbgResume z) := by
  intro _ k _ hk
  cases hk

theorem tdbgStepgo (z : Nat) : Statement (.tdbgStepgo z) := by
  intro _ k _ hk
  cases hk

theorem benchcmdStop (bench : Nat) : Statement (.benchcmdStop bench) := by
  intro _ k _ hk
  cases hk

theorem benchcmdResume (bench : Nat) : Statement (.benchcmdResume bench) := by
  intro _ k _ hk
  cases hk

theorem dump (core : Nat) (slot : Nat) : Statement (.dump core slot) := by
  intro _ k _ hk
  cases hk

theorem load (core : Nat) (slot : Nat) : Statement (.load core slot) := by
  intro _ k _ hk
  cases hk

theorem trbaseWrite (core : Nat) (value : BitVec 64) : Statement (.trbaseWrite core value) := by
  intro _ k _ hk
  cases hk

theorem cntWrite (core : Nat) (k : Nat) (sel : Bool) (value : BitVec 64) : Statement (.cntWrite core k sel value) := by
  intro _ k _ hk
  cases hk

theorem rplBegin  : Statement (.rplBegin) := by
  intro _ k _ hk
  cases hk

theorem rplRestore  : Statement (.rplRestore) := by
  intro _ k _ hk
  cases hk

theorem rplReset  : Statement (.rplReset) := by
  intro _ k _ hk
  cases hk

theorem rplEnd  : Statement (.rplEnd) := by
  intro _ k _ hk
  cases hk

end Sys2Proof.Laws.RoundTrip
end

