-- ==== Sys2Proof/Laws/Slot.lean ====
section
/-!
SUPPORT. What each shared form of a slot operation can do: it has no word (a fault), a check stops it, or it acts; a scalar operation then
commits or blocks; a per-lane operation runs the pass of its clock.
-/
namespace Sys2Proof.Machine

/-! ## The slot an instruction executes in -/

/-- What the slot of an instruction holds. -/
theorem State.slotOf_spec {s : State} {i : Instr} {x : Slot} (h : s.slotOf i = some x) :
    s.cur = some x.e.z ∧ x.e.s = s ∧ s.teams.get? x.e.z = some x.e.t ∧ s.blocks.get? x.e.t.blk = some x.e.b ∧
      x.e.t.ctx = some x.e.c ∧ x.e.c.opOf i = some (x.k, x.o) := by
  unfold State.slotOf at h
  split at h
  · cases h
  · rename_i z hz
    split at h
    · cases h
    · rename_i e he
      split at h
      · cases h
      · rename_i k o ho
        cases h
        unfold State.envOf at he
        split at he
        · cases he
        · rename_i t ht
          split at he
          · rename_i b c hb hc
            cases he
            exact ⟨hz, rfl, ht, hb, hc, ho⟩
          · cases he

/-! ## runSlot -/

theorem runSlot_noWord {i : Instr} {s : State} (act : Slot → State) (h : s.slotOf i = none) :
    runSlot i s act = .fault .noWordIssuing := by
  simp only [runSlot, h]

theorem runSlot_stopped {i : Instr} {s : State} {x : Slot} {st : Stop} (act : Slot → State)
    (h : s.stoppingSlot i = some (x, st)) : runSlot i s act = .next (s.stopWord x.e.z x.o.slot st) := by
  unfold State.stoppingSlot at h
  cases hy : s.slotOf i with
  | none => simp [hy] at h
  | some y =>
    simp only [hy] at h
    split at h
    · cases h
    · rename_i hc
      cases hst : y.e.slotStop y.o [] with
      | none => simp [hst] at h
      | some w =>
        simp only [hst, Option.map_some, Option.some.injEq, Prod.mk.injEq] at h
        obtain ⟨rfl, rfl⟩ := h
        simp only [runSlot, hy, hst]
        rw [if_neg hc]

theorem runSlot_checked {i : Instr} {s : State} {x : Slot} (act : Slot → State) (h : s.checkedSlot i = some x) :
    runSlot i s act = .next (x.inTurn i act) := by
  unfold State.checkedSlot at h
  cases hy : s.slotOf i with
  | none => simp [hy] at h
  | some y =>
    simp only [hy] at h
    simp only [runSlot, hy]
    split at h
    · rename_i hc
      cases h
      rw [if_pos hc]
    · rename_i hc
      rw [if_neg hc]
      cases hst : y.e.slotStop y.o [] with
      | none => simp only [hst] at h; simp only [h]
      | some w => simp only [hst] at h; cases h

/-- An operation whose turn has come acts. -/
theorem Slot.inTurn_acts {x : Slot} {i : Instr} (act : Slot → State)
    (h : (!x.e.c.heldUp x.o && (i.perLane || x.e.c.free x.o)) = true) : x.inTurn i act = act x := by
  obtain ⟨hh, hf⟩ := (Bool.and_eq_true _ _).mp h
  have hh : x.e.c.heldUp x.o = false := by simpa using hh
  have hn : (!i.perLane && !x.e.c.free x.o) = false := by
    rcases (Bool.or_eq_true _ _).mp hf with hp | hp <;> simp [hp]
  simp [Slot.inTurn, hh, hn]

/-- What a running slot holds. -/
theorem State.runningSlot_spec {s : State} {i : Instr} {x : Slot} (h : s.runningSlot i = some x) :
    s.checkedSlot i = some x ∧ (!x.e.c.heldUp x.o && (i.perLane || x.e.c.free x.o)) = true := by
  unfold State.runningSlot at h
  exact ⟨(Option.filter_eq_some_iff.mp h).1, (Option.filter_eq_some_iff.mp h).2⟩

theorem runSlot_runs {i : Instr} {s : State} {x : Slot} (act : Slot → State) (h : s.runningSlot i = some x) :
    runSlot i s act = .next (act x) := by
  obtain ⟨hc, ht⟩ := State.runningSlot_spec h
  rw [runSlot_checked act hc, Slot.inTurn_acts act ht]

/-- A slot operation never refuses, and stops only for want of a word. -/
theorem runSlot_answers {i : Instr} {s : State} (act : Slot → State) :
    runSlot i s act = .fault .noWordIssuing ∨ ∃ t, runSlot i s act = .next t := by
  unfold runSlot
  split
  · exact .inl rfl
  · split
    · exact .inr ⟨_, rfl⟩
    · split
      · exact .inr ⟨_, rfl⟩
      · split
        · exact .inr ⟨_, rfl⟩
        · exact .inr ⟨_, rfl⟩

/-! ## runScalar -/

theorem runScalar_done {i : Instr} {s : State} {x : Slot} {ready : Env → Bool} {eff : Env → State → State}
    (h : s.runningSlot i = some x) (hq : x.e.queueReady i = true) (hr : ready x.e = true) :
    runScalar i s ready eff = .next (x.doneIn (eff x.e x.e.s)) := by
  unfold runScalar
  rw [runSlot_runs _ h]
  simp [hq, hr, Slot.doneIn]

theorem runScalar_blocks {i : Instr} {s : State} {x : Slot} {ready : Env → Bool} {eff : Env → State → State}
    (h : s.runningSlot i = some x) (hq : (x.e.queueReady i && ready x.e) = false) :
    runScalar i s ready eff = .next x.blocked := by
  unfold runScalar
  rw [runSlot_runs _ h]
  simp only [hq, Slot.blocked]
  rfl

/-! ## runLanes -/

/-- A clock of a per-lane operation whose pass p it is. -/
theorem Slot.laneClock_pass {x : Slot} {i : Instr} {p : Nat} {eff : Env → Nat → State → State} {fin : Env → State → State}
    (hh : x.e.c.passes.head? = some p) (hm : p ∈ x.e.runPasses i) :
    x.laneClock i eff fin = if x.last i p then (fin x.e (eff x.e p x.e.s)).setSt x.e.z x.k .done
      else (eff x.e p x.e.s).setSt x.e.z x.k .running := by
  cases hl : x.e.c.passes with
  | nil => simp [hl] at hh
  | cons q r =>
    have hq : q = p := by simpa [hl] using hh
    subst hq
    have hc : (x.e.runPasses i).contains q = true := by simpa using hm
    simp only [Slot.laneClock, Slot.commits, Slot.last, hl, hc, if_true, List.head?_cons, Option.any_some, List.tail_cons]

/-- The pass of this clock. -/
theorem runLanes_pass {i : Instr} {s : State} {x : Slot} {p : Nat} {ready : Env → Bool} {eff : Env → Nat → State → State}
    {fin : Env → State → State} (h : s.runningSlot i = some x) (hp : x.inPass i p) (hr : x.o.st = .pending → ready x.e = true) :
    runLanes i s ready eff fin =
      .next (if x.last i p then x.doneIn (fin x.e (eff x.e p x.e.s)) else (eff x.e p x.e.s).setSt x.e.z x.k .running) := by
  obtain ⟨hh, hm, hst⟩ := hp
  unfold runLanes
  rw [runSlot_runs _ h]
  rcases hst with hs | ⟨hs, hqr⟩
  · simp only [hs, Slot.laneClock_pass hh hm, Slot.doneIn]
  · simp only [hs, hqr, hr hs, Bool.and_self, if_true, Slot.laneClock_pass hh hm, Slot.doneIn]

/-- The clock of its last pass, or a later one, commits an operation whose passes do nothing of their own. -/
theorem runLanes_last {i : Instr} {s : State} {x : Slot} {ready : Env → Bool} {fin : Env → State → State}
    (h : s.runningSlot i = some x) (hl : x.lastClock i) (hr : x.o.st = .pending → ready x.e = true) :
    runLanes i s ready (fun _ _ s => s) fin = .next (x.doneIn (fin x.e x.e.s)) := by
  obtain ⟨hst, hf, hq, hw⟩ := hl
  have hc : x.commits i = true := by
    have ha : ((x.e.runPasses i).all fun q => (x.e.c.passes.head?).any fun p => decide (q ≤ p)) = true := by
      rw [List.all_eq_true]
      intro q hm
      obtain ⟨p, hp, hle⟩ := hq q hm
      simp [hp, hle]
    have hb : (!commitsWhole i || x.e.c.passes.tail.isEmpty) = true := by
      cases hcw : commitsWhole i with
      | false => rfl
      | true => simp [hw hcw]
    simp only [Slot.commits, ha, hf, hb, Bool.and_self]
  have hs : x.laneClock i (fun _ _ s => s) fin = x.doneIn (fin x.e x.e.s) := by
    unfold Slot.laneClock
    rw [if_pos hc]
    cases x.e.c.passes with
    | nil => rfl
    | cons p r => simp [Slot.doneIn]
  unfold runLanes
  rw [runSlot_runs _ h]
  rcases hst with hp | ⟨hp, hqr⟩
  · simp only [hp, hs]
  · simp only [hp, hqr, hr hp, Bool.and_self, if_true, hs]

/-- An operation that executes no pass commits at once. -/
theorem runLanes_empty {i : Instr} {s : State} {x : Slot} {ready : Env → Bool} {eff : Env → Nat → State → State}
    {fin : Env → State → State} (h : s.runningSlot i = some x) (hn : x.noPass i) (hr : ready x.e = true) :
    runLanes i s ready eff fin = .next (x.doneIn (fin x.e x.e.s)) := by
  obtain ⟨hs, hq, he, hf, hw⟩ := hn
  unfold runLanes
  rw [runSlot_runs _ h]
  have hb : (!commitsWhole i || x.e.c.passes.tail.isEmpty) = true := by
    cases hcw : commitsWhole i with
    | false => rfl
    | true => simp [hw hcw]
  simp only [hs, hq, hr, Bool.and_self, if_true, Slot.laneClock, Slot.commits, he, hf, hb, List.all_nil, Slot.doneIn]
  cases x.e.c.passes with
  | nil => rfl
  | cons p r => simp

/-- An operation that is not ready blocks. -/
theorem runLanes_blocks {i : Instr} {s : State} {x : Slot} {ready : Env → Bool} {eff : Env → Nat → State → State}
    {fin : Env → State → State} (h : s.runningSlot i = some x) (hs : x.o.st = .pending)
    (hq : (x.e.queueReady i && ready x.e) = false) : runLanes i s ready eff fin = .next x.blocked := by
  unfold runLanes
  rw [runSlot_runs _ h]
  simp only [hs, hq, Bool.false_eq_true, if_false, Slot.blocked]

/-! ## Results -/

theorem State.landScalar_eq {x : Slot} {i : Instr} {k : Kind} {fl : RFile} {reg lat : Nat} {v : BitVec 128} {p : Bool}
    (hr : i.result = some (fl, lat)) (hp : i.pairDest = false) (hb : i.isBallot = false) :
    x.e.s.landScalar x.e i k reg v p = x.lands i k fl reg lat v p := by
  simp [State.landScalar, hr, State.land, Env.landing, Slot.lands, Instr.qx, hp, hb]

end Sys2Proof.Machine
end

