-- ==== Sys2Proof/Tests/Slice0.lean ====
section
/-!
SUPPORT. Small tests of the model, each by evaluation: ill-formed terms, words written out from the encoding tables of the spec, single
steps whose results the spec gives, and for every statement a state and operands that meet its hypotheses.
-/
set_option Elab.async false

namespace Sys2Proof.Tests
open Sys2Proof Sys2Proof.Machine

/-! ## Well-formedness -/

/-- Every SU term here breaks one check: a register out of range, a queue read or a destination file where the rule allows none. -/
theorem test_illformed_su : ([
  .suLoop 2 (.reg 1) (.const 26),
  .suLbrk 2,
  .suLrd 5 2 .le,
  .suLwr 2 .le (.reg 1),
  .suBar 5,
  .suBcast .vb 32 (.reg 1),
  .suBcast .s 5 (.reg 1),
  .suXfer 32 (.reg 1)] : List Instr).all (fun i => !i.wf) = true := by decide

/-- Every VA term here breaks one check: a register out of range, a queue read or a destination file where the rule allows none. -/
theorem test_illformed_va : ([
  .vaAdd64 (some 20) 6 (.queue 0 0) (.reg 4),
  .vaAdd64 (some 20) 6 (.reg 2) (.queue 0 0),
  .vaSub64 (some 20) 6 (.queue 0 0) (.reg 4),
  .vaSub64 (some 20) 6 (.reg 2) (.queue 0 0),
  .vaShl64 (some 20) 6 (.queue 0 0) (.reg 4),
  .vaShr64 (some 20) 6 (.queue 0 0) (.reg 4),
  .vaSar64 (some 20) 6 (.queue 0 0) (.reg 4),
  .vaCmp64 (some 20) .gtu 6 (.queue 0 0) (.reg 4),
  .vaCmp64 (some 20) .gtu 6 (.reg 2) (.queue 0 0),
  .vaXfer (some 20) .first64 .s 6 (.queue 0 0),
  .vaXfer (some 20) .copy .vb 32 (.reg 2),
  .vaXfer (some 20) .copy .s 6 (.reg 2),
  .vaXfer (some 20) .copy .va 6 (.reg 2),
  .vaXfer (some 20) .first .vm 6 (.reg 2),
  .vaXfer (some 20) .ballot .a 6 (.reg 2),
  .vaXfer (some 20) .first64 .vm 6 (.reg 2)] : List Instr).all (fun i => !i.wf) = true := by decide

/-- Every VB term here breaks one check: a register out of range, a queue read or a destination file where the rule allows none. -/
theorem test_illformed_vb : ([
  .vbAdd (some 20) 6 (.reg 32) (.reg 4),
  .vbAdd (some 20) 6 (.reg 2) (.reg 32),
  .vbAdd (some 20) 32 (.reg 2) (.reg 4),
  .vbSub (some 20) 6 (.reg 32) (.reg 4),
  .vbSub (some 20) 6 (.reg 2) (.reg 32),
  .vbSub (some 20) 32 (.reg 2) (.reg 4),
  .vbAnd (some 20) 6 (.reg 32) (.reg 4),
  .vbAnd (some 20) 6 (.reg 2) (.reg 32),
  .vbAnd (some 20) 32 (.reg 2) (.reg 4),
  .vbOr (some 20) 6 (.reg 32) (.reg 4),
  .vbOr (some 20) 6 (.reg 2) (.reg 32),
  .vbOr (some 20) 32 (.reg 2) (.reg 4),
  .vbXor (some 20) 6 (.reg 32) (.reg 4),
  .vbXor (some 20) 6 (.reg 2) (.reg 32),
  .vbXor (some 20) 32 (.reg 2) (.reg 4),
  .vbShl (some 20) 6 (.reg 32) (.reg 4),
  .vbShl (some 20) 6 (.reg 2) (.reg 32),
  .vbShl (some 20) 32 (.reg 2) (.reg 4),
  .vbShr (some 20) 6 (.reg 32) (.reg 4),
  .vbShr (some 20) 6 (.reg 2) (.reg 32),
  .vbShr (some 20) 32 (.reg 2) (.reg 4),
  .vbMin (some 20) 6 (.reg 32) (.reg 4),
  .vbMin (some 20) 6 (.reg 2) (.reg 32),
  .vbMin (some 20) 32 (.reg 2) (.reg 4),
  .vbMax (some 20) 6 (.reg 32) (.reg 4),
  .vbMax (some 20) 6 (.reg 2) (.reg 32),
  .vbMax (some 20) 32 (.reg 2) (.reg 4),
  .vbCmp (some 20) .gtu 6 (.reg 32) (.reg 4),
  .vbCmp (some 20) .gtu 6 (.reg 2) (.reg 32),
  .vbCmp (some 20) .gtu 32 (.reg 2) (.reg 4),
  .vbSel (some 20) 6 (.reg 32) (.reg 4) (.queue 2 1),
  .vbSel (some 20) 6 (.reg 2) (.reg 32) (.queue 2 1),
  .vbSel (some 20) 6 (.reg 2) (.reg 4) (.reg 32),
  .vbSel (some 20) 32 (.reg 2) (.reg 4) (.queue 2 1),
  .vbMov (some 20) 6 (.reg 32),
  .vbMov (some 20) 32 (.reg 2),
  .vbPopc (some 20) 6 (.reg 32),
  .vbPopc (some 20) 32 (.reg 2),
  .vbClz (some 20) 6 (.reg 32),
  .vbClz (some 20) 32 (.reg 2),
  .vbFadd (some 20) .ru 6 (.reg 32) (.reg 4),
  .vbFadd (some 20) .ru 6 (.reg 2) (.reg 32),
  .vbFadd (some 20) .ru 32 (.reg 2) (.reg 4),
  .vbFmul (some 20) .ru 6 (.reg 32) (.reg 4),
  .vbFmul (some 20) .ru 6 (.reg 2) (.reg 32),
  .vbFmul (some 20) .ru 32 (.reg 2) (.reg 4),
  .vbFma (some 20) .ru 6 (.reg 32) (.reg 4) (.queue 2 1),
  .vbFma (some 20) .ru 6 (.reg 2) (.reg 32) (.queue 2 1),
  .vbFma (some 20) .ru 6 (.reg 2) (.reg 4) (.reg 32),
  .vbFma (some 20) .ru 32 (.reg 2) (.reg 4) (.queue 2 1),
  .vbRcp (some 20) 6 (.reg 32),
  .vbRcp (some 20) 32 (.reg 2),
  .vbRsqrt (some 20) 6 (.reg 32),
  .vbRsqrt (some 20) 32 (.reg 2),
  .vbSqrt (some 20) 6 (.reg 32),
  .vbSqrt (some 20) 32 (.reg 2),
  .vbExp2 (some 20) 6 (.reg 32),
  .vbExp2 (some 20) 32 (.reg 2),
  .vbLog2 (some 20) 6 (.reg 32),
  .vbLog2 (some 20) 32 (.reg 2),
  .vbSin (some 20) 6 (.reg 32),
  .vbSin (some 20) 32 (.reg 2),
  .vbCos (some 20) 6 (.reg 32),
  .vbCos (some 20) 32 (.reg 2),
  .vbTanh (some 20) 6 (.reg 32),
  .vbTanh (some 20) 32 (.reg 2),
  .vbPerm (some 20) 6 (.reg 32) (.reg 4),
  .vbPerm (some 20) 6 (.reg 2) (.reg 32),
  .vbPerm (some 20) 32 (.reg 2) (.reg 4),
  .vbShfl (some 20) 6 (.reg 32) (.reg 4),
  .vbShfl (some 20) 6 (.reg 2) (.reg 32),
  .vbShfl (some 20) 32 (.reg 2) (.reg 4),
  .vbRot (some 20) 6 (.reg 32) (.reg 4),
  .vbRot (some 20) 6 (.reg 2) (.reg 32),
  .vbRot (some 20) 32 (.reg 2) (.reg 4),
  .vbBcl (some 20) 6 (.reg 32) (.reg 4),
  .vbBcl (some 20) 6 (.reg 2) (.reg 32),
  .vbBcl (some 20) 32 (.reg 2) (.reg 4),
  .vbRed (some 20) .and 6 (.reg 32),
  .vbRed (some 20) .and 32 (.reg 2),
  .vbScan (some 20) .and 6 (.reg 32),
  .vbScan (some 20) .and 32 (.reg 2),
  .vbMatch (some 20) 6 (.reg 32),
  .vbMatch (some 20) 32 (.reg 2),
  .vbXfer (some 20) .copy .va 6 (.reg 32),
  .vbXfer (some 20) .copy .vm 16 (.reg 2),
  .vbXfer (some 20) .copy .s 6 (.reg 2),
  .vbXfer (some 20) .copy .vb 6 (.reg 2),
  .vbXfer (some 20) .first .vm 6 (.reg 2),
  .vbXfer (some 20) .ballot .a 6 (.reg 2),
  .vbXfer (some 20) .first64 .s 6 (.reg 2)] : List Instr).all (fun i => !i.wf) = true := by decide

/-- Every MU term here breaks one check: a register out of range, a queue read or a destination file where the rule allows none. -/
theorem test_illformed_mu : ([
  .muLds (some 20) .vb 9 13 (.reg 0) ⟨3, 0x85, .bench⟩,
  .muLds (some 20) .vb 32 13 (.const 7) ⟨3, 0x85, .bench⟩,
  .muLds (some 20) .s 9 13 (.const 7) ⟨3, 0x85, .bench⟩,
  .muSts (some 20) 13 (.reg 0) (.reg 7) ⟨3, 0x85, .bench⟩,
  .muSts (some 20) 13 (.const 7) (.reg 16) ⟨3, 0x85, .bench⟩,
  .muGths (some 20) .vb 9 13 (.reg 16) ⟨3, 0x85, .bench⟩,
  .muGths (some 20) .vb 32 13 (.reg 7) ⟨3, 0x85, .bench⟩,
  .muGths (some 20) .s 9 13 (.reg 7) ⟨3, 0x85, .bench⟩,
  .muScts (some 20) 13 (.reg 16) (.reg 7) ⟨3, 0x85, .bench⟩,
  .muScts (some 20) 13 (.reg 3) (.reg 16) ⟨3, 0x85, .bench⟩,
  .muLdsa 9 13 (.reg 32) ⟨3, 0x85, .bench⟩,
  .muLdsa 32 13 (.reg 3) ⟨3, 0x85, .bench⟩,
  .muStsa 9 13 (.reg 32) ⟨3, 0x85, .bench⟩,
  .muStsa 32 13 (.reg 3) ⟨3, 0x85, .bench⟩,
  .muLdr (some 20) .vb 9 13 (.reg 16) (.reg 7) ⟨3, 0x85, .bench⟩,
  .muLdr (some 20) .vb 9 13 (.queue 0 0) (.reg 7) ⟨3, 0x85, .bench⟩,
  .muLdr (some 20) .vb 9 13 (.reg 3) (.reg 16) ⟨3, 0x85, .bench⟩,
  .muLdr (some 20) .vb 32 13 (.reg 3) (.reg 7) ⟨3, 0x85, .bench⟩,
  .muLdr (some 20) .s 9 13 (.reg 3) (.reg 7) ⟨3, 0x85, .bench⟩,
  .muStr (some 20) 13 (.reg 16) (.reg 7) ⟨3, 0x85, .bench⟩,
  .muStr (some 20) 13 (.queue 0 0) (.reg 7) ⟨3, 0x85, .bench⟩,
  .muStr (some 20) 13 (.reg 3) (.reg 16) ⟨3, 0x85, .bench⟩,
  .muAtmr (some 20) .cas 9 13 (.reg 16) (.reg 7) ⟨3, 0x85, .bench⟩,
  .muAtmr (some 20) .cas 9 13 (.queue 0 0) (.reg 7) ⟨3, 0x85, .bench⟩,
  .muAtmr (some 20) .cas 9 13 (.reg 3) (.reg 16) ⟨3, 0x85, .bench⟩,
  .muAtmr (some 20) .cas 16 13 (.reg 3) (.reg 7) ⟨3, 0x85, .bench⟩,
  .muLdg (some 20) .vb 9 13 (.reg 0) ⟨3, 0x85, .bench⟩,
  .muLdg (some 20) .vb 9 13 (.queue 0 0) ⟨3, 0x85, .bench⟩,
  .muLdg (some 20) .vb 32 13 (.const 7) ⟨3, 0x85, .bench⟩,
  .muLdg (some 20) .s 9 13 (.const 7) ⟨3, 0x85, .bench⟩,
  .muStg (some 20) 13 (.reg 0) (.reg 7) ⟨3, 0x85, .bench⟩,
  .muStg (some 20) 13 (.queue 0 0) (.reg 7) ⟨3, 0x85, .bench⟩,
  .muStg (some 20) 13 (.const 7) (.reg 16) ⟨3, 0x85, .bench⟩,
  .muGthg (some 20) .vb 9 13 (.reg 16) ⟨3, 0x85, .bench⟩,
  .muGthg (some 20) .vb 9 13 (.queue 0 0) ⟨3, 0x85, .bench⟩,
  .muGthg (some 20) .vb 32 13 (.reg 7) ⟨3, 0x85, .bench⟩,
  .muGthg (some 20) .s 9 13 (.reg 7) ⟨3, 0x85, .bench⟩,
  .muSctg (some 20) 13 (.reg 16) (.reg 7) ⟨3, 0x85, .bench⟩,
  .muSctg (some 20) 13 (.reg 3) (.reg 16) ⟨3, 0x85, .bench⟩,
  .muSctg (some 20) 13 (.reg 3) (.queue 0 0) ⟨3, 0x85, .bench⟩,
  .muLdga 9 13 (.reg 32) ⟨3, 0x85, .bench⟩,
  .muLdga 9 13 (.queue 0 0) ⟨3, 0x85, .bench⟩,
  .muLdga 32 13 (.reg 3) ⟨3, 0x85, .bench⟩,
  .muStga 9 13 (.reg 32) ⟨3, 0x85, .bench⟩,
  .muStga 9 13 (.queue 0 0) ⟨3, 0x85, .bench⟩,
  .muStga 32 13 (.reg 3) ⟨3, 0x85, .bench⟩,
  .muPfg 13 (.reg 32) ⟨3, 0x85, .bench⟩,
  .muPfg 13 (.queue 0 0) ⟨3, 0x85, .bench⟩,
  .muAtms (some 20) .cas 9 13 (.reg 16) (.reg 7) ⟨3, 0x85, .bench⟩,
  .muAtms (some 20) .cas 9 13 (.reg 3) (.reg 16) ⟨3, 0x85, .bench⟩,
  .muAtms (some 20) .cas 16 13 (.reg 3) (.reg 7) ⟨3, 0x85, .bench⟩,
  .muAtmg (some 20) .cas 9 13 (.reg 16) (.reg 7) ⟨3, 0x85, .bench⟩,
  .muAtmg (some 20) .cas 9 13 (.queue 0 0) (.reg 7) ⟨3, 0x85, .bench⟩,
  .muAtmg (some 20) .cas 9 13 (.reg 3) (.reg 16) ⟨3, 0x85, .bench⟩,
  .muAtmg (some 20) .cas 16 13 (.reg 3) (.reg 7) ⟨3, 0x85, .bench⟩,
  .muQbind 6 32,
  .muQwait .p 6 (.reg 32),
  .muQadv .p 6 (.reg 32),
  .muTfull (.reg 32),
  .muTgate true (.reg 32),
  .muTclr (.reg 32),
  .muCwait (.reg 32) (.reg 7),
  .muCwait (.reg 3) (.reg 32),
  .muTstat 9 (.reg 32),
  .muTstat 32 (.reg 3),
  .muCprog 11 13 (.reg 32) ⟨3, 0x85, .bench⟩,
  .muCopy 11 (.reg 32) (.reg 7) ⟨3, 0x85, .bench⟩,
  .muCopy 11 (.reg 3) (.reg 32) ⟨3, 0x85, .bench⟩,
  .muMsend 13 (.reg 32) (.reg 7) ⟨3, 0x85, .bench⟩,
  .muMsend 13 (.reg 3) (.reg 32) ⟨3, 0x85, .bench⟩,
  .muMpost 13 (.reg 32) (.reg 7) ⟨3, 0x85, .bench⟩,
  .muMpost 13 (.reg 3) (.reg 32) ⟨3, 0x85, .bench⟩,
  .muMprobe 9 (.reg 32),
  .muMprobe 32 (.reg 3),
  .muCpost 13 (.reg 32) ⟨3, 0x85, .bench⟩,
  .muTget 9 13 (.reg 32) ⟨3, 0x85, .bench⟩,
  .muTget 32 13 (.reg 3) ⟨3, 0x85, .bench⟩,
  .muAdda 9 13 (.reg 32),
  .muAdda 32 13 (.reg 3),
  .muMova 9 (.reg 32),
  .muMova 32 (.reg 3),
  .muXfer 9 (.reg 32),
  .muXferPerLane (some 20) .vb 9 (.reg 16),
  .muXferPerLane (some 20) .vb 32 (.reg 3),
  .muXferPerLane (some 20) .s 9 (.reg 3)] : List Instr).all (fun i => !i.wf) = true := by decide

/-- Every XU term here breaks one check: a register out of range, a queue read or a destination file where the rule allows none. -/
theorem test_illformed_xu : ([
  .xuFmt 6 (.reg 0) ⟨3, 0x85, .bench⟩,
  .xuMma 5 6 3 (.reg 0) (.queue 1 0) (.const 16) ⟨3, 0x85, .bench⟩,
  .xuMma 5 6 3 (.const 7) (.reg 0) (.const 16) ⟨3, 0x85, .bench⟩,
  .xuMma 5 6 3 (.const 7) (.queue 1 0) (.reg 0) ⟨3, 0x85, .bench⟩,
  .xuMmat 5 6 3 (.reg 0) (.queue 1 0) (.const 16) ⟨3, 0x85, .bench⟩,
  .xuMmat 5 6 3 (.const 7) (.reg 0) (.const 16) ⟨3, 0x85, .bench⟩,
  .xuMmat 5 6 3 (.const 7) (.queue 1 0) (.reg 0) ⟨3, 0x85, .bench⟩,
  .xuDist 5 6 3 (.reg 0) (.queue 1 0) (.const 16) ⟨3, 0x85, .bench⟩,
  .xuDist 5 6 3 (.const 7) (.reg 0) (.const 16) ⟨3, 0x85, .bench⟩,
  .xuDist 5 6 3 (.const 7) (.queue 1 0) (.reg 0) ⟨3, 0x85, .bench⟩,
  .xuTopk true true 5 (.reg 0) (.queue 1 0) ⟨3, 0x85, .bench⟩,
  .xuTopk true true 5 (.const 7) (.reg 0) ⟨3, 0x85, .bench⟩,
  .xuAccst true .rz 5 6 (.reg 0) ⟨3, 0x85, .bench⟩,
  .xuAccld 5 6 (.reg 0) ⟨3, 0x85, .bench⟩,
  .xuAccscl 5 (.reg 0) ⟨3, 0x85, .bench⟩] : List Instr).all (fun i => !i.wf) = true := by decide

/-! ## Words written out from the encoding tables (R57 to R65 and the tables of the instructions) -/

/-- Each SU operation: its opcode and every field at its place in the slot field, at position 0, 1 or 2. -/
theorem test_words_su : ([
  (0x2000000000000000000000000000000000000000000000000000000000000000, .suNop),
  (0x0400000000000000000000000100000000000000000000000000000000000000, .suEnd),
  (0x0080000000000000000000000000000000000000000002140408000000000000, .suAdd 5 (.reg 1) (.reg 2)),
  (0x2000031404080000000000000000000000000000000000000000000000000000, .suSub 5 (.reg 1) (.reg 2)),
  (0x0400000000000000000000000414040800000000000000000000000000000000, .suMul 5 (.reg 1) (.reg 2)),
  (0x0080000000000000000000000000000000000000000005140408000000000000, .suMulh 5 (.reg 1) (.reg 2)),
  (0x2000061404080000000000000000000000000000000000000000000000000000, .suMulhu 5 (.reg 1) (.reg 2)),
  (0x0400000000000000000000000714040800000000000000000000000000000000, .suAnd 5 (.reg 1) (.reg 2)),
  (0x0080000000000000000000000000000000000000000008140408000000000000, .suOr 5 (.reg 1) (.reg 2)),
  (0x2000091404080000000000000000000000000000000000000000000000000000, .suXor 5 (.reg 1) (.reg 2)),
  (0x0400000000000000000000000A14040800000000000000000000000000000000, .suAndn 5 (.reg 1) (.reg 2)),
  (0x008000000000000000000000000000000000000000000B140408000000000000, .suShl 5 (.reg 1) (.reg 2)),
  (0x20000C1404080000000000000000000000000000000000000000000000000000, .suShr 5 (.reg 1) (.reg 2)),
  (0x0400000000000000000000000D14040800000000000000000000000000000000, .suSar 5 (.reg 1) (.reg 2)),
  (0x008000000000000000000000000000000000000000000E140408000000000000, .suMin 5 (.reg 1) (.reg 2)),
  (0x20000F1404080000000000000000000000000000000000000000000000000000, .suMax 5 (.reg 1) (.reg 2)),
  (0x0400000000000000000000001014040800000000000000000000000000000000, .suMinu 5 (.reg 1) (.reg 2)),
  (0x0080000000000000000000000000000000000000000011140408000000000000, .suMaxu 5 (.reg 1) (.reg 2)),
  (0x2000121404000000000000000000000000000000000000000000000000000000, .suPopc 5 (.reg 1)),
  (0x0400000000000000000000001314040000000000000000000000000000000000, .suClz 5 (.reg 1)),
  (0x0080000000000000000000000000000000000000000014140400000000000000, .suCtz 5 (.reg 1)),
  (0x20001514040800C0000000000000000000000000000000000000000000000000, .suCmp .lt 5 (.reg 1) (.reg 2)),
  (0x0400000000000000000000001614040BE8000000000000000000000000000000, .suSel 5 (.reg 1) (.reg 2) (.const 26)),
  (0x0080000000000000000000000000000000000000000017140400000000000000, .suMov 5 (.reg 1)),
  (0x20001814040BE800000000000000000000000000000000000000000000000000, .suBfx 5 (.reg 1) (.reg 2) (.const 26)),
  (0x0400000000000000000000001914040800000000000000000000000000000000, .suBmsk 5 (.reg 1) (.reg 2)),
  (0x008000000000000000000000000000000000000000002000040BE98000000000, .suBr (some .geu) (.reg 1) (.reg 2) (.const 26)),
  (0x200021140003E800000000000000000000000000000000000000000000000000, .suCall 5 (.const 26)),
  (0x0400000000000000000000002214040000000000000000000000000000000000, .suCalli 5 (.reg 1)),
  (0x0080000000000000000000000000000000000000000023000400000000000000, .suJmpi (.reg 1)),
  (0x200024000403E800001000000000000000000000000000000000000000000000, .suLoop 1 (.reg 1) (.const 26)),
  (0x0400000000000000000000002500000000000010000000000000000000000000, .suLbrk 1),
  (0x0080000000000000000000000000000000000000000026140000008000100000, .suLrd 5 1 .le),
  (0x2000270004000080001000000000000000000000000000000000000000000000, .suLwr 1 .le (.reg 1)),
  (0x0400000000000000000000002800000800000300000000000000000000000000, .suSwait 6 (.reg 2)),
  (0x0080000000000000000000000000000000000000000029140000004003000000, .suSrd 5 6 .completed),
  (0x20002A0000000000001000000000000000000000000000000000000000000000, .suBar 1),
  (0x0400000000000000000000002B00040000000000000000000000000000000000, .suSwpt (.reg 1)),
  (0x008000000000000000000000000000000000000000002C140400000000060000, .suBcast .vb 5 (.reg 1)),
  (0x20002D1404000000000200000000000000000000000000000000000000000000, .suXfer 5 (.reg 1)),
  (0x0400000000000000000000003014000000002400000000000000000000000000, .suCsrr 5 9),
  (0x0080000000000000000000000000000000000000000031000400000024000000, .suCsrw 9 (.reg 1)),
  (0x2000320004000000000000000000000000000000000000000000000000000000, .suTrap (.reg 1)),
  (0x0400000000000000000000003300000000000000000000000000000000000000, .suEret),
  (0x0080000000000000000000000000000000000000000034000408000000000000, .suDpf (.reg 1) (.reg 2)),
  (0x2000350000000000000000000000000000000000000000000000000000000000, .suDinv),
  (0x0400000000000000000000003600040000000000000000000000000000000000, .suHclr (.reg 1))] : List (Nat × Instr)).all (fun x => decodeTableWord 256 x.1 == some x.2) = true := by
  decide +kernel

/-- Those operations are well-formed, and the encoder puts them at position 0 as they stand there. -/
theorem test_encode_su : ([
  (0x2000000000000000000000000000000000000000000000000000000000000000, .suNop),
  (0x2000031404080000000000000000000000000000000000000000000000000000, .suSub 5 (.reg 1) (.reg 2)),
  (0x2000061404080000000000000000000000000000000000000000000000000000, .suMulhu 5 (.reg 1) (.reg 2)),
  (0x2000091404080000000000000000000000000000000000000000000000000000, .suXor 5 (.reg 1) (.reg 2)),
  (0x20000C1404080000000000000000000000000000000000000000000000000000, .suShr 5 (.reg 1) (.reg 2)),
  (0x20000F1404080000000000000000000000000000000000000000000000000000, .suMax 5 (.reg 1) (.reg 2)),
  (0x2000121404000000000000000000000000000000000000000000000000000000, .suPopc 5 (.reg 1)),
  (0x20001514040800C0000000000000000000000000000000000000000000000000, .suCmp .lt 5 (.reg 1) (.reg 2)),
  (0x20001814040BE800000000000000000000000000000000000000000000000000, .suBfx 5 (.reg 1) (.reg 2) (.const 26)),
  (0x200021140003E800000000000000000000000000000000000000000000000000, .suCall 5 (.const 26)),
  (0x200024000403E800001000000000000000000000000000000000000000000000, .suLoop 1 (.reg 1) (.const 26)),
  (0x2000270004000080001000000000000000000000000000000000000000000000, .suLwr 1 .le (.reg 1)),
  (0x20002A0000000000001000000000000000000000000000000000000000000000, .suBar 1),
  (0x20002D1404000000000200000000000000000000000000000000000000000000, .suXfer 5 (.reg 1)),
  (0x2000320004000000000000000000000000000000000000000000000000000000, .suTrap (.reg 1)),
  (0x2000350000000000000000000000000000000000000000000000000000000000, .suDinv)] : List (Nat × Instr)).all (fun x => x.2.wf && (encode x.2).map BitVec.toNat == some x.1) = true := by
  decide +kernel

/-- Each VA operation: its opcode and every field at its place in the slot field, at position 0, 1 or 2. -/
theorem test_words_va : ([
  (0x4000011808100148000000000000000000000000000000000000000000000000, .vaAdd (some 20) 6 (.reg 2) (.reg 4)),
  (0x0800000000000000000000000218081001480000000000000000000000000000, .vaSub (some 20) 6 (.reg 2) (.reg 4)),
  (0x0100000000000000000000000000000000000000000003180810014800000000, .vaMul (some 20) 6 (.reg 2) (.reg 4)),
  (0x4000041808100148000000000000000000000000000000000000000000000000, .vaMulh (some 20) 6 (.reg 2) (.reg 4)),
  (0x0800000000000000000000000518081001480000000000000000000000000000, .vaMulhu (some 20) 6 (.reg 2) (.reg 4)),
  (0x0100000000000000000000000000000000000000000006180810014800000000, .vaAnd (some 20) 6 (.reg 2) (.reg 4)),
  (0x4000071808100148000000000000000000000000000000000000000000000000, .vaOr (some 20) 6 (.reg 2) (.reg 4)),
  (0x0800000000000000000000000818081001480000000000000000000000000000, .vaXor (some 20) 6 (.reg 2) (.reg 4)),
  (0x0100000000000000000000000000000000000000000009180810014800000000, .vaAndn (some 20) 6 (.reg 2) (.reg 4)),
  (0x40000A1808100148000000000000000000000000000000000000000000000000, .vaShl (some 20) 6 (.reg 2) (.reg 4)),
  (0x0800000000000000000000000B18081001480000000000000000000000000000, .vaShr (some 20) 6 (.reg 2) (.reg 4)),
  (0x010000000000000000000000000000000000000000000C180810014800000000, .vaSar (some 20) 6 (.reg 2) (.reg 4)),
  (0x40000D1808100148000000000000000000000000000000000000000000000000, .vaMin (some 20) 6 (.reg 2) (.reg 4)),
  (0x0800000000000000000000000E18081001480000000000000000000000000000, .vaMax (some 20) 6 (.reg 2) (.reg 4)),
  (0x010000000000000000000000000000000000000000000F180810014800000000, .vaMinu (some 20) 6 (.reg 2) (.reg 4)),
  (0x4000101808100148000000000000000000000000000000000000000000000000, .vaMaxu (some 20) 6 (.reg 2) (.reg 4)),
  (0x0800000000000000000000001118081001489000000000000000000000000000, .vaCmp (some 20) .gtu 6 (.reg 2) (.reg 4)),
  (0x0100000000000000000000000000000000000000000012180812454800000000, .vaSel (some 20) 6 (.reg 2) (.reg 4) (.queue 2 1)),
  (0x4000131808000148000000000000000000000000000000000000000000000000, .vaMov (some 20) 6 (.reg 2)),
  (0x0800000000000000000000001418081001480000000000000000000000000000, .vaAdds (some 20) 6 (.reg 2) (.reg 4)),
  (0x0100000000000000000000000000000000000000000015180810014800000000, .vaSubs (some 20) 6 (.reg 2) (.reg 4)),
  (0x4000181808100148000000000000000000000000000000000000000000000000, .vaAdd64 (some 20) 6 (.reg 2) (.reg 4)),
  (0x0800000000000000000000001918081001480000000000000000000000000000, .vaSub64 (some 20) 6 (.reg 2) (.reg 4)),
  (0x010000000000000000000000000000000000000000001A180810014800000000, .vaShl64 (some 20) 6 (.reg 2) (.reg 4)),
  (0x40001B1808100148000000000000000000000000000000000000000000000000, .vaShr64 (some 20) 6 (.reg 2) (.reg 4)),
  (0x0800000000000000000000001C18081001480000000000000000000000000000, .vaSar64 (some 20) 6 (.reg 2) (.reg 4)),
  (0x010000000000000000000000000000000000000000001D180810014890000000, .vaCmp64 (some 20) .gtu 6 (.reg 2) (.reg 4)),
  (0x400020180810014B000000000000000000000000000000000000000000000000, .vaFadd (some 20) .ru 6 (.reg 2) (.reg 4)),
  (0x08000000000000000000000021180810014B0000000000000000000000000000, .vaFsub (some 20) .ru 6 (.reg 2) (.reg 4)),
  (0x0100000000000000000000000000000000000000000022180810014B00000000, .vaFmul (some 20) .ru 6 (.reg 2) (.reg 4)),
  (0x400023180812454B000000000000000000000000000000000000000000000000, .vaFma (some 20) .ru 6 (.reg 2) (.reg 4) (.queue 2 1)),
  (0x08000000000000000000000024180812454B0000000000000000000000000000, .vaFnma (some 20) .ru 6 (.reg 2) (.reg 4) (.queue 2 1)),
  (0x0100000000000000000000000000000000000000000025180810014800000000, .vaFmin (some 20) 6 (.reg 2) (.reg 4)),
  (0x4000261808100148000000000000000000000000000000000000000000000000, .vaFmax (some 20) 6 (.reg 2) (.reg 4)),
  (0x0800000000000000000000002718080001480000000000000000000000000000, .vaFabs (some 20) 6 (.reg 2)),
  (0x0100000000000000000000000000000000000000000028180800014800000000, .vaFneg (some 20) 6 (.reg 2)),
  (0x4000291808100148B00000000000000000000000000000000000000000000000, .vaFcmp (some 20) .un 6 (.reg 2) (.reg 4)),
  (0x0800000000000000000000002A18080001480000000000000000000000000000, .vaFcls (some 20) 6 (.reg 2)),
  (0x0100000000000000000000000000000000000000000030180800014BC0000000, .vaCvt (some 20) .int8ToF32 .ru 6 (.reg 2)),
  (0x400031180800014B200000000000000000000000000000000000000000000000, .vaTsq (some 20) .ts7 .ru 6 (.reg 2)),
  (0x0800000000000000000000003218081001482000000000000000000000000000, .vaTsdq (some 20) .ts7 6 (.reg 2) (.reg 4)),
  (0x0100000000000000000000000000000000000000000038180800014806000000, .vaXfer (some 20) .copy .vb 6 (.reg 2))] : List (Nat × Instr)).all (fun x => decodeTableWord 256 x.1 == some x.2) = true := by
  decide +kernel

/-- Those operations are well-formed, and the encoder puts them at position 0 as they stand there. -/
theorem test_encode_va : ([
  (0x4000011808100148000000000000000000000000000000000000000000000000, .vaAdd (some 20) 6 (.reg 2) (.reg 4)),
  (0x4000041808100148000000000000000000000000000000000000000000000000, .vaMulh (some 20) 6 (.reg 2) (.reg 4)),
  (0x4000071808100148000000000000000000000000000000000000000000000000, .vaOr (some 20) 6 (.reg 2) (.reg 4)),
  (0x40000A1808100148000000000000000000000000000000000000000000000000, .vaShl (some 20) 6 (.reg 2) (.reg 4)),
  (0x40000D1808100148000000000000000000000000000000000000000000000000, .vaMin (some 20) 6 (.reg 2) (.reg 4)),
  (0x4000101808100148000000000000000000000000000000000000000000000000, .vaMaxu (some 20) 6 (.reg 2) (.reg 4)),
  (0x4000131808000148000000000000000000000000000000000000000000000000, .vaMov (some 20) 6 (.reg 2)),
  (0x4000181808100148000000000000000000000000000000000000000000000000, .vaAdd64 (some 20) 6 (.reg 2) (.reg 4)),
  (0x40001B1808100148000000000000000000000000000000000000000000000000, .vaShr64 (some 20) 6 (.reg 2) (.reg 4)),
  (0x400020180810014B000000000000000000000000000000000000000000000000, .vaFadd (some 20) .ru 6 (.reg 2) (.reg 4)),
  (0x400023180812454B000000000000000000000000000000000000000000000000, .vaFma (some 20) .ru 6 (.reg 2) (.reg 4) (.queue 2 1)),
  (0x4000261808100148000000000000000000000000000000000000000000000000, .vaFmax (some 20) 6 (.reg 2) (.reg 4)),
  (0x4000291808100148B00000000000000000000000000000000000000000000000, .vaFcmp (some 20) .un 6 (.reg 2) (.reg 4)),
  (0x400031180800014B200000000000000000000000000000000000000000000000, .vaTsq (some 20) .ts7 .ru 6 (.reg 2))] : List (Nat × Instr)).all (fun x => x.2.wf && (encode x.2).map BitVec.toNat == some x.1) = true := by
  decide +kernel

/-- Each VB operation: its opcode and every field at its place in the slot field, at position 0, 1 or 2. -/
theorem test_words_vb : ([
  (0x6000011808100148000000000000000000000000000000000000000000000000, .vbAdd (some 20) 6 (.reg 2) (.reg 4)),
  (0x0C00000000000000000000000218081001480000000000000000000000000000, .vbSub (some 20) 6 (.reg 2) (.reg 4)),
  (0x0180000000000000000000000000000000000000000006180810014800000000, .vbAnd (some 20) 6 (.reg 2) (.reg 4)),
  (0x6000071808100148000000000000000000000000000000000000000000000000, .vbOr (some 20) 6 (.reg 2) (.reg 4)),
  (0x0C00000000000000000000000818081001480000000000000000000000000000, .vbXor (some 20) 6 (.reg 2) (.reg 4)),
  (0x018000000000000000000000000000000000000000000A180810014800000000, .vbShl (some 20) 6 (.reg 2) (.reg 4)),
  (0x60000B1808100148000000000000000000000000000000000000000000000000, .vbShr (some 20) 6 (.reg 2) (.reg 4)),
  (0x0C00000000000000000000000D18081001480000000000000000000000000000, .vbMin (some 20) 6 (.reg 2) (.reg 4)),
  (0x018000000000000000000000000000000000000000000E180810014800000000, .vbMax (some 20) 6 (.reg 2) (.reg 4)),
  (0x6000111808100148900000000000000000000000000000000000000000000000, .vbCmp (some 20) .gtu 6 (.reg 2) (.reg 4)),
  (0x0C00000000000000000000001218081245480000000000000000000000000000, .vbSel (some 20) 6 (.reg 2) (.reg 4) (.queue 2 1)),
  (0x0180000000000000000000000000000000000000000013180800014800000000, .vbMov (some 20) 6 (.reg 2)),
  (0x6000161808000148000000000000000000000000000000000000000000000000, .vbPopc (some 20) 6 (.reg 2)),
  (0x0C00000000000000000000001718080001480000000000000000000000000000, .vbClz (some 20) 6 (.reg 2)),
  (0x0180000000000000000000000000000000000000000020180810014B00000000, .vbFadd (some 20) .ru 6 (.reg 2) (.reg 4)),
  (0x600022180810014B000000000000000000000000000000000000000000000000, .vbFmul (some 20) .ru 6 (.reg 2) (.reg 4)),
  (0x0C000000000000000000000023180812454B0000000000000000000000000000, .vbFma (some 20) .ru 6 (.reg 2) (.reg 4) (.queue 2 1)),
  (0x0180000000000000000000000000000000000000000040180800014800000000, .vbRcp (some 20) 6 (.reg 2)),
  (0x6000411808000148000000000000000000000000000000000000000000000000, .vbRsqrt (some 20) 6 (.reg 2)),
  (0x0C00000000000000000000004218080001480000000000000000000000000000, .vbSqrt (some 20) 6 (.reg 2)),
  (0x0180000000000000000000000000000000000000000043180800014800000000, .vbExp2 (some 20) 6 (.reg 2)),
  (0x6000441808000148000000000000000000000000000000000000000000000000, .vbLog2 (some 20) 6 (.reg 2)),
  (0x0C00000000000000000000004518080001480000000000000000000000000000, .vbSin (some 20) 6 (.reg 2)),
  (0x0180000000000000000000000000000000000000000046180800014800000000, .vbCos (some 20) 6 (.reg 2)),
  (0x6000471808000148000000000000000000000000000000000000000000000000, .vbTanh (some 20) 6 (.reg 2)),
  (0x0C00000000000000000000005018081001480000000000000000000000000000, .vbPerm (some 20) 6 (.reg 2) (.reg 4)),
  (0x0180000000000000000000000000000000000000000051180810014800000000, .vbShfl (some 20) 6 (.reg 2) (.reg 4)),
  (0x6000521808100148000000000000000000000000000000000000000000000000, .vbRot (some 20) 6 (.reg 2) (.reg 4)),
  (0x0C00000000000000000000005318081001480000000000000000000000000000, .vbBcl (some 20) 6 (.reg 2) (.reg 4)),
  (0x0180000000000000000000000000000000000000000054180800014850000000, .vbRed (some 20) .and 6 (.reg 2)),
  (0x6000551808000148500000000000000000000000000000000000000000000000, .vbScan (some 20) .and 6 (.reg 2)),
  (0x0C00000000000000000000005618080001480000000000000000000000000000, .vbMatch (some 20) 6 (.reg 2)),
  (0x0180000000000000000000000000000000000000000038180800014804000000, .vbXfer (some 20) .copy .va 6 (.reg 2))] : List (Nat × Instr)).all (fun x => decodeTableWord 256 x.1 == some x.2) = true := by
  decide +kernel

/-- Those operations are well-formed, and the encoder puts them at position 0 as they stand there. -/
theorem test_encode_vb : ([
  (0x6000011808100148000000000000000000000000000000000000000000000000, .vbAdd (some 20) 6 (.reg 2) (.reg 4)),
  (0x6000071808100148000000000000000000000000000000000000000000000000, .vbOr (some 20) 6 (.reg 2) (.reg 4)),
  (0x60000B1808100148000000000000000000000000000000000000000000000000, .vbShr (some 20) 6 (.reg 2) (.reg 4)),
  (0x6000111808100148900000000000000000000000000000000000000000000000, .vbCmp (some 20) .gtu 6 (.reg 2) (.reg 4)),
  (0x6000161808000148000000000000000000000000000000000000000000000000, .vbPopc (some 20) 6 (.reg 2)),
  (0x600022180810014B000000000000000000000000000000000000000000000000, .vbFmul (some 20) .ru 6 (.reg 2) (.reg 4)),
  (0x6000411808000148000000000000000000000000000000000000000000000000, .vbRsqrt (some 20) 6 (.reg 2)),
  (0x6000441808000148000000000000000000000000000000000000000000000000, .vbLog2 (some 20) 6 (.reg 2)),
  (0x6000471808000148000000000000000000000000000000000000000000000000, .vbTanh (some 20) 6 (.reg 2)),
  (0x6000521808100148000000000000000000000000000000000000000000000000, .vbRot (some 20) 6 (.reg 2) (.reg 4)),
  (0x6000551808000148500000000000000000000000000000000000000000000000, .vbScan (some 20) .and 6 (.reg 2))] : List (Nat × Instr)).all (fun x => x.2.wf && (encode x.2).map BitVec.toNat == some x.1) = true := by
  decide +kernel

/-- Each MU operation: its opcode and every field at its place in the slot field, at position 0, 1 or 2. -/
theorem test_words_mu : ([
  (0x80000125B79C014B854000000000000000000000000000000000000000000000, .muLds (some 20) .vb 9 13 (.const 7) ⟨3, 0x85, .bench⟩),
  (0x1000000000000000000000000200379C1D4B8540000000000000000000000000, .muSts (some 20) 13 (.const 7) (.reg 7) ⟨3, 0x85, .bench⟩),
  (0x020000000000000000000000000000000000000000000325B4001D4B85400000, .muGths (some 20) .vb 9 13 (.reg 7) ⟨3, 0x85, .bench⟩),
  (0x80000400340C1D4B854000000000000000000000000000000000000000000000, .muScts (some 20) 13 (.reg 3) (.reg 7) ⟨3, 0x85, .bench⟩),
  (0x1000000000000000000000000524B40C00038540000000000000000000000000, .muLdsa 9 13 (.reg 3) ⟨3, 0x85, .bench⟩),
  (0x020000000000000000000000000000000000000000000624340C000385400000, .muStsa 9 13 (.reg 3) ⟨3, 0x85, .bench⟩),
  (0x80000825B40C1D4B854000000000000000000000000000000000000000000000, .muLdr (some 20) .vb 9 13 (.reg 3) (.reg 7) ⟨3, 0x85, .bench⟩),
  (0x1000000000000000000000000900340C1D4B8540000000000000000000000000, .muStr (some 20) 13 (.reg 3) (.reg 7) ⟨3, 0x85, .bench⟩),
  (0x020000000000000000000000000000000000000000000A24340C1D4B85640000, .muAtmr (some 20) .cas 9 13 (.reg 3) (.reg 7) ⟨3, 0x85, .bench⟩),
  (0x80001025B79C014B854000000000000000000000000000000000000000000000, .muLdg (some 20) .vb 9 13 (.const 7) ⟨3, 0x85, .bench⟩),
  (0x1000000000000000000000001100379C1D4B8540000000000000000000000000, .muStg (some 20) 13 (.const 7) (.reg 7) ⟨3, 0x85, .bench⟩),
  (0x020000000000000000000000000000000000000000001225B4001D4B85400000, .muGthg (some 20) .vb 9 13 (.reg 7) ⟨3, 0x85, .bench⟩),
  (0x80001300340C1D4B854000000000000000000000000000000000000000000000, .muSctg (some 20) 13 (.reg 3) (.reg 7) ⟨3, 0x85, .bench⟩),
  (0x1000000000000000000000001424B40C00038540000000000000000000000000, .muLdga 9 13 (.reg 3) ⟨3, 0x85, .bench⟩),
  (0x020000000000000000000000000000000000000000001524340C000385400000, .muStga 9 13 (.reg 3) ⟨3, 0x85, .bench⟩),
  (0x80001600340C0003854000000000000000000000000000000000000000000000, .muPfg 13 (.reg 3) ⟨3, 0x85, .bench⟩),
  (0x1000000000000000000000001824340C1D4B8564000000000000000000000000, .muAtms (some 20) .cas 9 13 (.reg 3) (.reg 7) ⟨3, 0x85, .bench⟩),
  (0x020000000000000000000000000000000000000000001924340C1D4B85640000, .muAtmg (some 20) .cas 9 13 (.reg 3) (.reg 7) ⟨3, 0x85, .bench⟩),
  (0x8000202400000000000300000000000000000000000000000000000000000000, .muQbind 6 9),
  (0x1000000000000000000000002100000C00000007000000000000000000000000, .muQwait .p 6 (.reg 3)),
  (0x020000000000000000000000000000000000000000002200000C000000070000, .muQadv .p 6 (.reg 3)),
  (0x80002800000C0000000000000000000000000000000000000000000000000000, .muTfull (.reg 3)),
  (0x1000000000000000000000002900000C00000004000000000000000000000000, .muTgate true (.reg 3)),
  (0x020000000000000000000000000000000000000000002A00000C000000000000, .muTclr (.reg 3)),
  (0x80002B00000C1C00000000000000000000000000000000000000000000000000, .muCwait (.reg 3) (.reg 7)),
  (0x1000000000000000000000002C24000C00000000000000000000000000000000, .muTstat 9 (.reg 3)),
  (0x020000000000000000000000000000000000000000003000340C0003856C0000, .muCprog 11 13 (.reg 3) ⟨3, 0x85, .bench⟩),
  (0x80003100000C1C03856C00000000000000000000000000000000000000000000, .muCopy 11 (.reg 3) (.reg 7) ⟨3, 0x85, .bench⟩),
  (0x1000000000000000000000003800340C1C038540000000000000000000000000, .muMsend 13 (.reg 3) (.reg 7) ⟨3, 0x85, .bench⟩),
  (0x020000000000000000000000000000000000000000003900340C1C0385400000, .muMpost 13 (.reg 3) (.reg 7) ⟨3, 0x85, .bench⟩),
  (0x80003A24000C0000000000000000000000000000000000000000000000000000, .muMprobe 9 (.reg 3)),
  (0x1000000000000000000000003B00340C00038540000000000000000000000000, .muCpost 13 (.reg 3) ⟨3, 0x85, .bench⟩),
  (0x020000000000000000000000000000000000000000003C24340C000385400000, .muTget 9 13 (.reg 3) ⟨3, 0x85, .bench⟩),
  (0x80004024340C0000000000000000000000000000000000000000000000000000, .muAdda 9 13 (.reg 3)),
  (0x1000000000000000000000004124000C00000000000000000000000000000000, .muMova 9 (.reg 3)),
  (0x020000000000000000000000000000000000000000004824000C000000000000, .muXfer 9 (.reg 3)),
  (0x80004825800C0148000000000000000000000000000000000000000000000000, .muXferPerLane (some 20) .vb 9 (.reg 3))] : List (Nat × Instr)).all (fun x => decodeTableWord 256 x.1 == some x.2) = true := by
  decide +kernel

/-- Those operations are well-formed, and the encoder puts them at position 0 as they stand there. -/
theorem test_encode_mu : ([
  (0x80000125B79C014B854000000000000000000000000000000000000000000000, .muLds (some 20) .vb 9 13 (.const 7) ⟨3, 0x85, .bench⟩),
  (0x80000400340C1D4B854000000000000000000000000000000000000000000000, .muScts (some 20) 13 (.reg 3) (.reg 7) ⟨3, 0x85, .bench⟩),
  (0x80000825B40C1D4B854000000000000000000000000000000000000000000000, .muLdr (some 20) .vb 9 13 (.reg 3) (.reg 7) ⟨3, 0x85, .bench⟩),
  (0x80001025B79C014B854000000000000000000000000000000000000000000000, .muLdg (some 20) .vb 9 13 (.const 7) ⟨3, 0x85, .bench⟩),
  (0x80001300340C1D4B854000000000000000000000000000000000000000000000, .muSctg (some 20) 13 (.reg 3) (.reg 7) ⟨3, 0x85, .bench⟩),
  (0x80001600340C0003854000000000000000000000000000000000000000000000, .muPfg 13 (.reg 3) ⟨3, 0x85, .bench⟩),
  (0x8000202400000000000300000000000000000000000000000000000000000000, .muQbind 6 9),
  (0x80002800000C0000000000000000000000000000000000000000000000000000, .muTfull (.reg 3)),
  (0x80002B00000C1C00000000000000000000000000000000000000000000000000, .muCwait (.reg 3) (.reg 7)),
  (0x80003100000C1C03856C00000000000000000000000000000000000000000000, .muCopy 11 (.reg 3) (.reg 7) ⟨3, 0x85, .bench⟩),
  (0x80003A24000C0000000000000000000000000000000000000000000000000000, .muMprobe 9 (.reg 3)),
  (0x80004024340C0000000000000000000000000000000000000000000000000000, .muAdda 9 13 (.reg 3)),
  (0x80004825800C0148000000000000000000000000000000000000000000000000, .muXferPerLane (some 20) .vb 9 (.reg 3))] : List (Nat × Instr)).all (fun x => x.2.wf && (encode x.2).map BitVec.toNat == some x.1) = true := by
  decide +kernel

/-- Each XU operation: its opcode and every field at its place in the slot field, at position 0, 1 or 2. -/
theorem test_words_xu : ([
  (0xA000011873800038540000000000000000000000000000000000000000000000, .xuFmt 6 (.const 7) ⟨3, 0x85, .bench⟩),
  (0x14000000000000000000000002B9F3C478385400000000000000000000000000, .xuMma 5 6 3 (.const 7) (.queue 1 0) (.const 16) ⟨3, 0x85, .bench⟩),
  (0x0280000000000000000000000000000000000000000003B9F3C4783854000000, .xuMmat 5 6 3 (.const 7) (.queue 1 0) (.const 16) ⟨3, 0x85, .bench⟩),
  (0xA00004B9F3C47838540000000000000000000000000000000000000000000000, .xuDist 5 6 3 (.const 7) (.queue 1 0) (.const 16) ⟨3, 0x85, .bench⟩),
  (0x14000000000000000000000005A073C4003854C0000000000000000000000000, .xuTopk true true 5 (.const 7) (.queue 1 0) ⟨3, 0x85, .bench⟩),
  (0x0280000000000000000000000000000000000000000008B87380003856800000, .xuAccst true .rz 5 6 (.const 7) ⟨3, 0x85, .bench⟩),
  (0xA00009B873800038540000000000000000000000000000000000000000000000, .xuAccld 5 6 (.const 7) ⟨3, 0x85, .bench⟩),
  (0x1400000000000000000000000AA0000000385400000000000000000000000000, .xuAcczr 5 ⟨3, 0x85, .bench⟩),
  (0x028000000000000000000000000000000000000000000BA00000003854100000, .xuAccadd 5 2 ⟨3, 0x85, .bench⟩),
  (0xA0000CA000007838540000000000000000000000000000000000000000000000, .xuAccscl 5 (.const 16) ⟨3, 0x85, .bench⟩),
  (0x1400000000000000000000000DA0000000385410000000000000000000000000, .xuAccmv 5 2 ⟨3, 0x85, .bench⟩),
  (0x028000000000000000000000000000000000000000000EA00000003854100000, .xuAcctr 5 2 ⟨3, 0x85, .bench⟩)] : List (Nat × Instr)).all (fun x => decodeTableWord 256 x.1 == some x.2) = true := by
  decide +kernel

/-- Those operations are well-formed, and the encoder puts them at position 0 as they stand there. -/
theorem test_encode_xu : ([
  (0xA000011873800038540000000000000000000000000000000000000000000000, .xuFmt 6 (.const 7) ⟨3, 0x85, .bench⟩),
  (0xA00004B9F3C47838540000000000000000000000000000000000000000000000, .xuDist 5 6 3 (.const 7) (.queue 1 0) (.const 16) ⟨3, 0x85, .bench⟩),
  (0xA00009B873800038540000000000000000000000000000000000000000000000, .xuAccld 5 6 (.const 7) ⟨3, 0x85, .bench⟩),
  (0xA0000CA000007838540000000000000000000000000000000000000000000000, .xuAccscl 5 (.const 16) ⟨3, 0x85, .bench⟩)] : List (Nat × Instr)).all (fun x => x.2.wf && (encode x.2).map BitVec.toNat == some x.1) = true := by
  decide +kernel

/-- Refused words: the check and the sub-check of R79, R80 that fails. -/
def refusal (b : ControlWord) : Option (Nat × Nat) :=
  match decodeWord b with
  | .ok _ => none
  | .error f => some (f.check, f.sub)

/-- Words the filter refuses, with the check that does: a kind twice; bit 240; a hold bit at an empty position; SU opcode 0x1A; su.br held;
NIMM 5 (R79). -/
theorem test_refused_words :
    ([0x2400000000000000000000000000000000000000000000000000000000000000, 0x2001000000000000000000000000000000000000000000000000000000000000,
      0x2020000000000000000000000000000000000000000000000000000000000000, 0x20001A0000000000000000000000000000000000000000000000000000000000,
      0x20402000040BE8C0000000000000000000000000000000000000000000000000, 0x200A000000000000000000000000000000000000000000000000000000000000]
      : List ControlWord).map (fun b => (refusal b).map Prod.fst) = [some 1, some 2, some 2, some 2, some 2, some 3] := by decide +kernel

/-! ## States for single steps -/

/-- A lone team with a word of one operation at its pc. -/
def place (i : Instr) : State := State.reset.withFetchWord 256 ((encode i).getD 0).toNat

/-- The first GiB of address space 1 is mapped to itself by tables at 0, 0x1000 and 0x2000 (R279, R280). -/
def paged (s : State) : State :=
  { s with mem := ((s.mem.setRange 0 (leBytes 8 0x1001#64)).setRange 0x1000 (leBytes 8 0x2001#64)).setRange 0x2000 (leBytes 8 0x4F#64) }

/-- The word of that team has begun: its checks have passed, and its operation is about to run. -/
def demoWith (g : Team → Team) (h : Block → Block) (u : State → State) (i : Instr) : State :=
  let s := u (((place i).updTeam 0 g).updBlock 0 fun b => (h b).newClock)
  match s.plan 0 with
  | some (e, none) => { s.beginWord 0 e with cur := some 0 }
  | _ => s

/-- Operands that let every operation run: f0 a BF16 descriptor, q0 a bound handle with two entries filled, cp0 a copy program, tables. -/
def demo (i : Instr) : State :=
  demoWith (fun t => { t with
      tmode := i == .suEret || i == .suDinv, s := t.s.set 1 0x123456789ABCDEF0,
      a := (t.a.set 3 0x4000).set 9 0x0020020001280000, f := t.f.set 0 0x800013,
      fetched := t.fetched.map fun x => { x with imm := 131088 } })
    (fun b => { b with
      q := b.q.set 0 0x0020020001280000,
      cp := b.cp.set 0 (4 * 2 ^ 256 + (16 + 4 * 2 ^ 32) * 2 ^ 192 + 0x420 * 2 ^ 128 + 8192 * 2 ^ 64) }) paged i

/-- The operation runs, and its slot satisfies q. -/
def runs (s : State) (i : Instr) (q : Slot → Bool := fun _ => true) : Bool := (s.runningSlot i).any q

/-- A step answers a next state that satisfies q. -/
def next (o : Host.Outcome State Fault Refusal) (q : State → Bool := fun _ => true) : Bool :=
  match o with
  | .next u => q u
  | .fault _ => false
  | .refused _ => false

/-- A team's part of a state. -/
def team (s : State) (q : Team → Bool) : Bool := (s.teams.get? 0).any q

/-- The landing that an operation has left. -/
def lands (s : State) (due : Nat) (file : RFile) (reg : Nat) (vals : List Nat) : Bool :=
  team s fun t => t.land.any fun l => l.due == due && l.file == file && l.reg == reg && l.vals.map (fun x => x.v.toNat) == vals

/-! ## Every operation runs and completes or goes on -/

/-- Every SU operation: operands with which it runs, and a next state. -/
theorem test_runs_su : ([
  .suNop,
  .suEnd,
  .suAdd 5 (.const 1) (.const 1),
  .suSub 5 (.const 1) (.const 1),
  .suMul 5 (.const 1) (.const 1),
  .suMulh 5 (.const 1) (.const 1),
  .suMulhu 5 (.const 1) (.const 1),
  .suAnd 5 (.const 1) (.const 1),
  .suOr 5 (.const 1) (.const 1),
  .suXor 5 (.const 1) (.const 1),
  .suAndn 5 (.const 1) (.const 1),
  .suShl 5 (.const 1) (.const 1),
  .suShr 5 (.const 1) (.const 1),
  .suSar 5 (.const 1) (.const 1),
  .suMin 5 (.const 1) (.const 1),
  .suMax 5 (.const 1) (.const 1),
  .suMinu 5 (.const 1) (.const 1),
  .suMaxu 5 (.const 1) (.const 1),
  .suPopc 5 (.const 1),
  .suClz 5 (.const 1),
  .suCtz 5 (.const 1),
  .suCmp .eq 5 (.const 1) (.const 1),
  .suSel 5 (.const 1) (.const 1) (.const 4),
  .suMov 5 (.const 1),
  .suBfx 5 (.const 1) (.const 1) (.const 4),
  .suBmsk 5 (.const 1) (.const 1),
  .suBr (some .eq) (.const 1) (.const 1) (.const 4),
  .suCall 5 (.const 4),
  .suCalli 5 (.const 0),
  .suJmpi (.const 0),
  .suLoop 0 (.const 1) (.const 4),
  .suLbrk 0,
  .suLrd 5 0 .lc,
  .suLwr 0 .lc (.const 1),
  .suSwait 0 (.const 0),
  .suSrd 5 0 .issued,
  .suBar 0,
  .suSwpt (.const 1),
  .suBcast .vm 5 (.const 1),
  .suXfer 5 (.const 1),
  .suCsrr 5 0,
  .suCsrw 0 (.const 1),
  .suTrap (.const 1),
  .suEret,
  .suDpf (.const 1) (.const 1),
  .suDinv,
  .suHclr (.const 1)] : List Instr).all (fun i => runs (demo i) i (fun x => x.e.queueReady i) && next (exec i (demo i))) = true := by
  decide +kernel

/-- Every VA operation: operands with which it runs, and a next state. -/
theorem test_runs_va : ([
  .vaAdd none 6 (.const 1) (.const 1),
  .vaSub none 6 (.const 1) (.const 1),
  .vaMul none 6 (.const 1) (.const 1),
  .vaMulh none 6 (.const 1) (.const 1),
  .vaMulhu none 6 (.const 1) (.const 1),
  .vaAnd none 6 (.const 1) (.const 1),
  .vaOr none 6 (.const 1) (.const 1),
  .vaXor none 6 (.const 1) (.const 1),
  .vaAndn none 6 (.const 1) (.const 1),
  .vaShl none 6 (.const 1) (.const 1),
  .vaShr none 6 (.const 1) (.const 1),
  .vaSar none 6 (.const 1) (.const 1),
  .vaMin none 6 (.const 1) (.const 1),
  .vaMax none 6 (.const 1) (.const 1),
  .vaMinu none 6 (.const 1) (.const 1),
  .vaMaxu none 6 (.const 1) (.const 1),
  .vaCmp none .eq 6 (.const 1) (.const 1),
  .vaSel none 6 (.const 1) (.const 1) (.const 1),
  .vaMov none 6 (.const 1),
  .vaAdds none 6 (.const 1) (.const 1),
  .vaSubs none 6 (.const 1) (.const 1),
  .vaAdd64 none 6 (.const 1) (.const 1),
  .vaSub64 none 6 (.const 1) (.const 1),
  .vaShl64 none 6 (.const 1) (.const 1),
  .vaShr64 none 6 (.const 1) (.const 1),
  .vaSar64 none 6 (.const 1) (.const 1),
  .vaCmp64 none .eq 6 (.const 1) (.const 1),
  .vaFadd none .rne 6 (.const 1) (.const 1),
  .vaFsub none .rne 6 (.const 1) (.const 1),
  .vaFmul none .rne 6 (.const 1) (.const 1),
  .vaFma none .rne 6 (.const 1) (.const 1) (.const 1),
  .vaFnma none .rne 6 (.const 1) (.const 1) (.const 1),
  .vaFmin none 6 (.const 1) (.const 1),
  .vaFmax none 6 (.const 1) (.const 1),
  .vaFabs none 6 (.const 1),
  .vaFneg none 6 (.const 1),
  .vaFcmp none .eq 6 (.const 1) (.const 1),
  .vaFcls none 6 (.const 1),
  .vaCvt none .f32ToInt32 .rne 6 (.const 1),
  .vaTsq none .ts4 .rne 6 (.const 1),
  .vaTsdq none .ts4 6 (.const 1) (.const 1),
  .vaXfer none .copy .vm 6 (.const 1)] : List Instr).all (fun i => runs (demo i) i (fun x => x.e.queueReady i) && next (exec i (demo i))) = true := by
  decide +kernel

/-- Every VB operation: operands with which it runs, and a next state. -/
theorem test_runs_vb : ([
  .vbAdd none 6 (.const 1) (.const 1),
  .vbSub none 6 (.const 1) (.const 1),
  .vbAnd none 6 (.const 1) (.const 1),
  .vbOr none 6 (.const 1) (.const 1),
  .vbXor none 6 (.const 1) (.const 1),
  .vbShl none 6 (.const 1) (.const 1),
  .vbShr none 6 (.const 1) (.const 1),
  .vbMin none 6 (.const 1) (.const 1),
  .vbMax none 6 (.const 1) (.const 1),
  .vbCmp none .eq 6 (.const 1) (.const 1),
  .vbSel none 6 (.const 1) (.const 1) (.const 1),
  .vbMov none 6 (.const 1),
  .vbPopc none 6 (.const 1),
  .vbClz none 6 (.const 1),
  .vbFadd none .rne 6 (.const 1) (.const 1),
  .vbFmul none .rne 6 (.const 1) (.const 1),
  .vbFma none .rne 6 (.const 1) (.const 1) (.const 1),
  .vbRcp none 6 (.const 1),
  .vbRsqrt none 6 (.const 1),
  .vbSqrt none 6 (.const 1),
  .vbExp2 none 6 (.const 1),
  .vbLog2 none 6 (.const 1),
  .vbSin none 6 (.const 1),
  .vbCos none 6 (.const 1),
  .vbTanh none 6 (.const 1),
  .vbPerm none 6 (.const 1) (.const 1),
  .vbShfl none 6 (.const 1) (.const 1),
  .vbRot none 6 (.const 1) (.const 1),
  .vbBcl none 6 (.const 1) (.const 1),
  .vbRed none .add 6 (.const 1),
  .vbScan none .add 6 (.const 1),
  .vbMatch none 6 (.const 1),
  .vbXfer none .copy .vm 6 (.const 1)] : List Instr).all (fun i => runs (demo i) i (fun x => x.e.queueReady i) && next (exec i (demo i))) = true := by
  decide +kernel

/-- Every MU operation: operands with which it runs, and a next state. -/
theorem test_runs_mu : ([
  .muLds none .va 9 0 (.const 0) ⟨0, 0, .core⟩,
  .muSts none 0 (.const 0) (.const 1) ⟨0, 0, .core⟩,
  .muGths none .va 9 0 (.reg 1) ⟨0, 0, .core⟩,
  .muScts none 0 (.const 0) (.reg 1) ⟨0, 0, .core⟩,
  .muLdsa 9 0 (.const 0) ⟨0, 0, .core⟩,
  .muStsa 9 0 (.const 0) ⟨0, 0, .core⟩,
  .muLdr none .va 9 0 (.const 0) (.const 0) ⟨0, 0, .core⟩,
  .muStr none 0 (.const 0) (.const 1) ⟨0, 0, .core⟩,
  .muAtmr none .add 9 0 (.const 0) (.const 1) ⟨0, 0, .core⟩,
  .muLdg none .va 9 3 (.const 0) ⟨0, 0, .core⟩,
  .muStg none 0 (.const 0) (.const 1) ⟨0, 0, .core⟩,
  .muGthg none .va 9 0 (.reg 1) ⟨0, 0, .core⟩,
  .muSctg none 0 (.const 0) (.reg 1) ⟨0, 0, .core⟩,
  .muLdga 9 3 (.const 0) ⟨0, 0, .core⟩,
  .muStga 9 0 (.const 0) ⟨0, 0, .core⟩,
  .muPfg 0 (.const 0) ⟨0, 0, .core⟩,
  .muAtms none .add 9 0 (.const 0) (.const 1) ⟨0, 0, .core⟩,
  .muAtmg none .add 9 0 (.const 0) (.const 1) ⟨0, 0, .core⟩,
  .muQbind 0 9,
  .muQwait .c 0 (.const 0),
  .muQadv .c 0 (.const 0),
  .muTfull (.const 0),
  .muTgate true (.const 0),
  .muTclr (.const 0),
  .muCwait (.const 0) (.const 1),
  .muTstat 9 (.const 0),
  .muCprog 0 0 (.const 0) ⟨0, 0, .core⟩,
  .muCopy 0 (.const 0) (.const 0) ⟨0, 0, .core⟩,
  .muMsend 0 (.const 0) (.const 1) ⟨0, 0, .core⟩,
  .muMpost 0 (.const 0) (.const 1) ⟨0, 0, .core⟩,
  .muMprobe 9 (.const 0),
  .muCpost 0 (.const 0) ⟨0, 0, .core⟩,
  .muTget 9 0 (.const 0) ⟨0, 0, .core⟩,
  .muAdda 9 0 (.const 0),
  .muMova 9 (.const 0),
  .muXfer 9 (.const 0),
  .muXferPerLane none .va 9 (.const 0)] : List Instr).all (fun i => runs (demo i) i (fun x => x.e.queueReady i) && next (exec i (demo i))) = true := by
  decide +kernel

/-- Every XU operation: operands with which it runs, and a next state. -/
theorem test_runs_xu : ([
  .xuFmt 0 (.const 0) ⟨0, 0, .core⟩,
  .xuMma 0 0 0 (.const 0) .whole (.imm 0) ⟨0, 0, .core⟩,
  .xuMmat 0 0 0 (.const 0) .whole (.imm 0) ⟨0, 0, .core⟩,
  .xuDist 0 0 0 (.const 0) .whole (.imm 0) ⟨0, 0, .core⟩,
  .xuTopk false false 0 (.const 0) (.const 1) ⟨0, 0, .core⟩,
  .xuAccst false .rne 0 0 (.const 0) ⟨0, 0, .core⟩,
  .xuAccld 0 0 (.const 0) ⟨0, 0, .core⟩,
  .xuAcczr 0 ⟨0, 0, .core⟩,
  .xuAccadd 0 0 ⟨0, 0, .core⟩,
  .xuAccscl 0 (.const 1) ⟨0, 0, .core⟩,
  .xuAccmv 0 0 ⟨0, 0, .core⟩,
  .xuAcctr 0 0 ⟨0, 0, .core⟩] : List Instr).all (fun i => runs (demo i) i (fun x => x.e.queueReady i) && next (exec i (demo i))) = true := by
  decide +kernel


/-! ## Witnesses: states and operands that meet the hypotheses of the statements -/

/-- The next state, or the same where there is none. -/
def after (i : Instr) (s : State) : State :=
  match exec i s with
  | .next u => u
  | .fault _ => s
  | .refused _ => s

/-- After the operation of demo has run. -/
def ran (i : Instr) : State := { after i (demo i) with cur := none }

/-- Queue 1's record at 0x10080: 8 records at 0x20000, priority 2, enabled, tenant 5, address space 1 (R291). -/
def queued (s : State) : State :=
  { s with
    regs := s.regs.set 0x200000 0x10000
    mem := (s.mem.setRange 0x10080 (leBytes 8 0x20000#64)).setRange 0x10088 (leBytes 8 0x10005A3#64) }

/-- The device runs with the link up, and session 3 belongs to tenant 5 and address space 1, a system session (R361, R411, R415). -/
def hosted (s : State) : State :=
  { s with
    regs := (((((s.regs.set 0 0x10001).set 0x100 2).set 0x108 (BitVec.ofNat 64 (4791 * 2 ^ 48 + 0x0A000001))).set 0x4030C0 (BitVec.ofNat 64 (3 + 2 ^ 16 * 5 + 2 ^ 32 * 1
      + 2 ^ 48 * 700))).set 0x4030C8 0xFFFF0A00004D) }

/-- A packet of session 3 from its peer, at the IPv4 address 10.0.0.77, before its tag is set. -/
def pkt (typ : BitVec 4) (addr : BitVec 64) (arg len : BitVec 32) (payload : List Byte) : Packet :=
  { ver := 1, typ := typ, sess := 3, seq := 0, ack := 0, len := len, addr := addr, arg := arg, payload := payload, peer := 0xFFFF0A00004D,
    port := 700, tag := 0, frag := false, opts := false, df := true, ttl := 64, vlans := 0, vid := 0, pcp := 0, own := 0xFFFF0A000001,
    ownPort := 4791, mac := 0, sum := 0 }

/-- A device with memory, a queue and a session. -/
def device : State := hosted (queued (paged (place .suNop)))

/-- A copy program: 16 elements of 4 bytes within the block's scratchpad. -/
def copyBits : BitVec 1024 := 4 * 2 ^ 256 + (16 + 4 * 2 ^ 32) * 2 ^ 192 + 0x420 * 2 ^ 128 + 8192 * 2 ^ 64

/-- A copy of the team in slot 0 that owns a line. -/
def owner (line : Nat) : Copy := ⟨900, 0, 0, 0, copyBits, 0, 0, .core, 0, [], 0, [], [], .running, [line], [], [], false, 0, [], []⟩

/-- Whether an access succeeds, and what it gives satisfies q. -/
def gives {e a : Type} (r : Except e a) (q : a → Bool) : Bool :=
  match r with
  | .ok x => q x
  | .error _ => false

theorem witness_StepOrder :
    (place .suNop).agenda = [.teamSelection 0] ∧ (place .suNop).hostWaits (.teamSelection 0) = false ∧
      ({ device with recalls := [⟨0x40, hostZ, 0, [900]⟩], copies := [owner 0x40] } : State).hostWaits (.read (pkt 2 0x4000 0 8 [])) = true ∧
      State.reset.agenda = [] := by
  refine ⟨by decide +kernel, by decide +kernel, ?_, by decide +kernel⟩
  unfold State.hostWaits
  exact Bool.or_eq_true_iff.mpr (Or.inr (by decide +kernel))

theorem witness_WordRunsDecodedInstruction :
    (team (demo .suNop) fun t => t.ctx.any fun c =>
      (c.ops[0]?).any fun o => o.op.ins.kind.isSome && next (exec o.op.ins { demo .suNop with cur := some 0 })) = true := by
  decide +kernel

/-- A team at 0x4000, where token 0 stands, with su.nop installed for that token. -/
def fetching : State :=
  (paged ((place .suNop).updTeam 0 fun t => { t with fetched := none, pc := 0x4000 })).updPart 0 fun p =>
    { p with table := [(0, ⟨0, 0, 1, false, 1 <<< 253, false⟩)] }

theorem witness_FetchGivesDecodedWord :
    (team fetching fun t => t.wantsFetch && !fetching.refilling 0 && !fetching.fetchHeld (coreOf 0) t.tmode t.asid t.root t.pc.toNat &&
      gives (fetching.parcel 0 t t.pc.toNat) fun r => r.2 == 0 && (r.1.parts.get? 0).any fun q =>
        decide (0 < (t.win q).len) && q.find (t.win q) t.asid 0 == some 0 && (q.table.get? 0).any fun x =>
          !x.bad && gives (decodeWord x.bits) fun w => gives (r.1.immParcels 0 t 0 w.nimm 0x4002) fun y => y.2 == []) = true := by
  decide +kernel

theorem witness_ImmediateValue : [0x7FFF, 0x7FFF, 0x7FFF, 0x7FFF] ≠ ([] : List (BitVec 15)) ∧ [0x7FFF, 0x7FFF, 0x7FFF, 0x7FFF].length ≤ 4 ∧
    wordImm [0x7FFF, 0x7FFF, 0x7FFF, 0x7FFF] = BitVec.allOnes 64 ∧ wordImm [0x3FFF] = 0x3FFF ∧
    (team (demo .suNop) fun t => t.ctx.isSome) = true := by decide +kernel

/-- A started refill of token k of the dictionary at 0x5000, whose entry 1 is refused and the others su.nop. -/
def refill (k : Nat) : State :=
  let s := (paged (place .suNop)).updPart 0 fun p => { p with refills := [⟨k, 0x5000, 1, false, 0, 0, 16, true, [0], none⟩] }
  { s with mem := (s.mem.setRange 0x5000 (leBytes 32 (1#256 <<< 253))).setRange 0x5020 (leBytes 32 (6#256 <<< 253)) }

theorem witness_RefillDecodesEntry :
    (refill 0).fetchHeld (0 / 4) false 1 0 0x5000 = false ∧ (refill 1).fetchHeld (0 / 4) false 1 0 0x5020 = false ∧
    (gives ((refill 0).fetchBytes 0 false 1 0 0x5000 32) fun r => r.2.length == 32 && (refusal (leWord 256 r.2)).isNone) = true ∧
    (gives ((refill 1).fetchBytes 0 false 1 0 0x5020 32) fun r => r.2.length == 32 && (refusal (leWord 256 r.2)).isSome) = true := by
  decide +kernel

/-- A word whose stream waits for more operations than were issued. -/
def waitsTooLong : State := place (.suSwait 0 (.const 5))

theorem witness_SelectionRunsWord :
    (place .suNop).rowsDue 0 = false ∧ (place .suNop).turn (0x1000 + 0) = 0 ∧ (place .suNop).turn (0 / 4) ≤ 0 % 4 ∧
    ((place .suNop).takeTurn (0x1000 + 0) 1).turn (0x1000 + 0) ≠ 0 ∧ 0 % 4 < ((place .suNop).takeTurn 0 1).turn (0 / 4) ∧
    (place .suNop).select 0 = some 0 ∧
    ((place .suNop).parts.get? 0).any (fun p => p.busy.isNone) = true ∧ (team (place .suNop) fun t => !t.drains) = true ∧
    ((place .suNop).plan 0).any (fun x => x.2.isNone) = true ∧ (waitsTooLong.plan 0).any (fun x => x.2.isSome) = true ∧
    ((place .suNop).updPart 0 fun p => { p with busy := some 0 }).rowsDue 0 = false := by decide +kernel

/-- Two operations with an immediate. -/
def twoOps : Word3 :=
  ⟨1, some ⟨.su, false, (Instr.suAdd 5 (.reg 5) (.imm 0)).fields.pack .su, .suAdd 5 (.reg 5) (.imm 0)⟩, none,
    some ⟨.va, true, (Instr.vaFadd (some 20) .fmode 4 (.reg 1) (.reg 2)).fields.pack .va, .vaFadd (some 20) .fmode 4 (.reg 1) (.reg 2)⟩⟩

theorem witness_DecodeOfEncodedWord : twoOps.Encoded := by
  simp only [Word3.Encoded, SlotOp.Encoded]
  decide +kernel

theorem witness_DecodedWordIsItsEntry : gives (decodeWord twoOps.entry) (fun w => w == twoOps) = true := by decide +kernel

theorem witness_ReservedWordsRefused :
    refusal 0x2400000000000000000000000000000000000000000000000000000000000000 = some (1, 0) ∧
    (refusal 0xC000000000000000000000000000000000000000000000000000000000000000).map Prod.fst = some 2 ∧
    (refusal 0x200A000000000000000000000000000000000000000000000000000000000000).map Prod.fst = some 3 := by decide +kernel

/-! ### Operands and arithmetic -/

theorem witness_OperandsAndMasks :
    31 < 32 ∧ (team (demo .suNop) fun t => enabled t (some 1) 31 == (t.s.get 1).getLsbD 31 && livePasses t (some 1) == [0] &&
      livePasses t (some 2) == [] && enabled t none 31) = true := by decide +kernel

theorem witness_RoundIntRule :
    (roundInt .rne false 1 (-1) = 0 ∧ roundInt .rne false 3 (-1) = 2 ∧ roundInt .rne true 5 (-1) = 2 ∧ roundInt .ru false 1 (-3) = 1 ∧
      roundInt .rd true 1 (-3) = 1 ∧ roundInt .rz true 7 (-2) = 1) ∧
    (List.range 4).map (fun n => (modesOf (BitVec.ofNat 64 (8 + n)) 0 .fmode).rnd) = [.rne, .rz, .ru, .rd] := by decide +kernel

theorem witness_SpecialSumsAndProducts :
    (2 ^ 31 - 2 ^ 23 < (0x7F800001 : Lane).toNat % 2 ^ 31 ∧ (0x7F800001 : Lane).getLsbD 22 = false) ∧
    (2 ^ 31 - 2 ^ 23 < (0xFFC00000 : Lane).toNat % 2 ^ 31 ∧ (0xFFC00000 : Lane).getLsbD 22 = true) ∧
    ((0x7F7FFFFF : Lane).toNat % 2 ^ 31 < 2 ^ 31 - 2 ^ 23 ∧ 2 ^ 23 ≤ (0x00800000 : Lane).toNat % 2 ^ 31) := by decide +kernel

/-! ### Slot operations -/

/-- The slot of an operation of demo runs with its queue bytes ready. -/
def ready (i : Instr) (q : Slot → Bool := fun _ => true) : Bool := runs (demo i) i fun x => x.e.queueReady i && q x

/-- The word of a lone team before its checks. -/
def unchecked (i : Instr) : State :=
  match (place i).plan 0 with
  | some (e, _) => { ((place i).updTeam 0 fun _ => e.t) with cur := some 0 }
  | none => place i

/-- The words of a gated tile are awaited. -/
def gated (i : Instr) (g : Team → Team := id) : State :=
  demoWith g (fun b => { b with q := b.q.set 0 0x0020020001280000, tiles := (List.range 64).foldl (fun m n => m.set n 0x20000) [] }) paged i

/-- A held repeat of su.mov that reads one has blocked before va.mov. -/
def behindRepeat : State :=
  after (.suMov 5 (.queue 0 0)) (gated (.vaMov none 5 (.const 1)) fun t => { t with held := [(1, (Instr.suMov 5 (.queue 0 0)).fields.pack .su)] })

theorem witness_SlotOperationStops :
    Instr.suNop.kind.isSome = true ∧ State.reset.slotOf .suNop = none ∧
    ((unchecked (.suSwait 0 (.const 5))).stoppingSlot (.suSwait 0 (.const 5))).any (fun x => match x.2 with
      | .fault f => f.cause == 0x0E
      | _ => false) = true ∧
    runs (gated (.suMov 5 (.queue 0 0))) (.suMov 5 (.queue 0 0)) (fun x => x.o.st == .pending && !x.e.queueReady (.suMov 5 (.queue 0 0))) = true ∧
    runs (gated (.xuAccscl 1 (.queue 0 0) ⟨1, 0, .core⟩)) (.xuAccscl 1 (.queue 0 0) ⟨1, 0, .core⟩)
      (fun x => x.o.st == .pending && !x.e.queueReady (.xuAccscl 1 (.queue 0 0) ⟨1, 0, .core⟩)) = true ∧
    (behindRepeat.checkedSlot (.vaMov none 5 (.const 1))).any (fun x => x.o.st == .pending && (x.e.c.repeatsDue x.o).any fun y => y.st == .blocked) = true := by
  decide +kernel

theorem witness_PrivilegeFaults :
    ([.suEret, .suDinv, .suCsrw 1 (.const 0), .suCsrw 3 (.const 0), .suCsrw 4 (.const 0), .suCsrw 8 (.const 0), .suCsrw 9 (.const 0),
        .suCsrw 10 (.const 0)] : List Instr).all (fun i =>
      ((unchecked i).slotOf i).any fun x => !x.e.t.tmode && match x.e.slotStop x.o [] with
        | some (.fault f) => f.cause == 0x19 && f.slot == x.e.slot
        | _ => false) = true := by decide +kernel

theorem runs_slot {s : State} {i : Instr} {q : Slot → Bool} (h : runs s i q = true) : ∃ x, s.runningSlot i = some x ∧ q x = true := by
  simpa [runs, Option.any_eq_true] using h

theorem witness_SuResults :
    (∃ x v, (demo (.suAdd 5 (.reg 1) (.const 1))).runningSlot (.suAdd 5 (.reg 1) (.const 1)) = some x ∧
      x.e.queueReady (.suAdd 5 (.reg 1) (.const 1)) = true ∧ SuRow x.e (.suAdd 5 (.reg 1) (.const 1)) 5 v) ∧
    ready (.suBcast .vb 5 (.reg 1)) = true ∧ (Instr.suBcast .vb 5 (.reg 1)).wf = true ∧ ready (.suXfer 5 (.reg 1)) = true := by
  refine ⟨?_, by decide +kernel, by decide +kernel, by decide +kernel⟩
  obtain ⟨x, hx, hq⟩ := runs_slot (show runs (demo (.suAdd 5 (.reg 1) (.const 1))) (.suAdd 5 (.reg 1) (.const 1))
    (fun x => x.e.queueReady (.suAdd 5 (.reg 1) (.const 1))) = true by decide +kernel)
  exact ⟨x, _, hx, hq, .add _ _ _⟩

/-- A condition holds of 1 and 2, and one does not. -/
theorem witness_SuTransfers :
    ready (.suBr none (.const 1) (.const 2) (.const 3)) = true ∧
    ready (.suBr (some .lt) (.const 1) (.const 2) (.const 3)) (fun x => decide ((x.e.su (.const 1)).toInt < (x.e.su (.const 2)).toInt)) = true ∧
    ready (.suBr (some .eq) (.const 1) (.const 2) (.const 3)) (fun x => x.e.su (.const 1) != x.e.su (.const 2)) = true ∧
    ready (.suCall 5 (.const 3)) = true ∧ ready (.suCalli 5 (.reg 1)) = true ∧ ready (.suJmpi (.reg 1)) = true := by decide +kernel

/-- A loop of no iteration, once the word at its end was looked up. -/
def zeroTrip : State := demoWith (fun t => { t with zeroTrip := some (6, 8) }) id paged (.suLoop 0 (.const 0) (.const 3))

theorem witness_SuLoops :
    ready (.suLoop 0 (.const 2) (.const 3)) (fun x => x.e.su (.const 2) != 0) = true ∧
    runs zeroTrip (.suLoop 0 (.const 0) (.const 3))
      (fun x => x.e.su (.const 0) == 0 && x.e.t.zeroTrip == some (6, 8)) = true ∧
    ready (.suLbrk 1) = true ∧ ready (.suLwr 1 .lc (.const 1)) = true ∧ ready (.suLwr 0 .ls (.const 1)) = true ∧
    ready (.suLwr 0 .le (.const 1)) = true ∧ ready (.suLrd 5 0 .le) = true := by decide +kernel

/-- A wait for count d, where 1 has completed and 256 are issued. -/
def streamAt (d : Nat) : State :=
  demoWith (fun t => { t with dc := t.dc.set 2 1, ic := t.ic.set 2 0x100, s := t.s.set 1 (BitVec.ofNat 64 d) }) id paged (.suSwait 2 (.reg 1))

theorem witness_SuStreams :
    ready (.suSrd 5 2 .issued) = true ∧ ready (.suSrd 5 2 .completed) = true ∧
    ([1, 2, 0x100, 0x8002] : List Nat).map (fun d => runs (streamAt d) (.suSwait 2 (.reg 1)) fun x =>
      x.e.queueReady (.suSwait 2 (.reg 1)) && ((x.e.su (.reg 1)).toNat + 2 ^ 16 - (x.e.t.dc.get 2).toNat) % 2 ^ 16 == d - 1) =
      [true, true, true, true] := by decide +kernel

/-- A lone team at a level-0 barrier; one that arrived and waits; one whose generation has inverted; one with an operation left. -/
def atBarrier (lv : BitVec 3) (g : Team → Team) (h : Block → Block) : State := demoWith g h paged (.suBar lv)

/-- An operation of a team's stream that is performed only at its core. -/
def slowOp : MemOp :=
  { (default : MemOp) with id := 800, kind := .store, str := 1, perf := 1, issued := true }

theorem witness_SuBarrier :
    runs (atBarrier 0 id id) (.suBar 0) (fun x => (x.e.t.bars.get? 0).isNone && x.e.t.allPerformed .dev) = true ∧
    runs (atBarrier 0 (fun t => { t with bars := [(0, ⟨true, false⟩)] }) id) (.suBar 0)
      (fun x => (x.e.t.bars.get? 0).any fun r => x.e.b.barGen == r.gen) = true ∧
    runs (atBarrier 0 (fun t => { t with bars := [(0, ⟨true, false⟩)] }) fun b => { b with barGen := true }) (.suBar 0)
      (fun x => (x.e.t.bars.get? 0).any fun r => x.e.b.barGen != r.gen) = true ∧
    runs (atBarrier 0 (fun t => { t with ops := [slowOp] }) id) (.suBar 0)
      (fun x => (x.e.t.bars.get? 0).isNone && !x.e.t.allPerformed .dev) = true ∧
    ((place .suNop).blocks.get? 0).any (fun b => ((place .suNop).launches.get? b.launch).isSome) = true := by decide +kernel

/-- A flagged block whose variant declares switch point 3, another team stopped where given. -/
def switchable (others : List (Nat × Word)) (teams : List Nat) (g : Team → Team := id) : State :=
  demoWith g (fun b => { b with flagged := true, switches := others, teams := teams })
    (fun s => { paged s with launches := s.launches.map fun x => (x.1, { x.2 with vars := x.2.vars.map fun v =>
      { v with sw := (List.range 64).map fun k => (k, 0xFFFFFFFFFFFFFFFF) } }) }) (.suSwpt (.const 3))

theorem witness_SuSwitchPoint :
    runs (demo (.suSwpt (.const 3))) (.suSwpt (.const 3)) (fun x => !x.e.b.flagged) = true ∧
    (let ok (x : Slot) : Bool := x.e.queueReady (.suSwpt (.const 3)) && x.e.b.flagged && !x.e.t.tmode && x.e.s.switchAt x.e.b 3
     runs (switchable [(1, 2)] [0, 1]) (.suSwpt (.const 3)) ok = true ∧
     runs (switchable [(1, 3)] [0, 1] fun t => { t with ops := [slowOp] }) (.suSwpt (.const 3)) (fun x => ok x && !x.e.t.allPerformed .dev) = true ∧
     runs (switchable [(1, 3)] [0, 1]) (.suSwpt (.const 3)) (fun x => ok x && x.e.t.allPerformed .dev && x.e.t.land.isEmpty) = true ∧
     runs (switchable [] [0, 1]) (.suSwpt (.const 3)) (fun x => ok x && x.e.t.allPerformed .dev && x.e.t.land.isEmpty) = true) := by decide +kernel

theorem witness_SuControlRegisters :
    (List.range 12).all (fun n => ready (.suCsrr 5 (BitVec.ofNat 12 n))) = true ∧
    ([0, 1, 3, 4, 8, 9, 10, 2, 5, 6, 7, 11] : List Nat).all (fun n =>
      runs (demoWith (fun t => { t with tmode := true, s := t.s.set 1 0x10000 }) id paged (.suCsrw (BitVec.ofNat 12 n) (.reg 1)))
        (.suCsrw (BitVec.ofNat 12 n) (.reg 1)) fun x => x.e.queueReady (.suCsrw (BitVec.ofNat 12 n) (.reg 1))) = true ∧
    12 ≤ (12 : BitVec 12).toNat := by decide +kernel

theorem witness_SuSystem :
    ready (.suTrap (.const 3)) = true ∧ ready .suEret = true ∧ ready .suDinv = true ∧ ready (.suHclr (.const 3)) = true ∧
    ready .suEnd = true ∧ ready (.suDpf (.const 3) (.const 2)) (fun x => (x.e.s.parts.get? (partOf x.e.z)).isSome) = true := by decide +kernel

theorem witness_SuNop :
    runs (demo .suNop) .suNop = true ∧
    (let w : Word3 := ⟨0, some ⟨.su, false, 0, .suNop⟩, none, none⟩
     (0, Kind.su) ∈ w.ops.map (fun x => (x.1, x.2.kind)) ∧ (∀ x ∈ w.ops, x.2.ins = .suNop ∨ x.2.kind ≠ .su) ∧ w.Encoded) ∧
    gives (decodeSlot .su false 0) (fun i => i == .suNop) = true := by
  simp only [Word3.Encoded, SlotOp.Encoded]
  decide +kernel

theorem witness_SuFrame :
    (Instr.suAdd 5 (.reg 1) (.const 1)).kind = some .su ∧ runs (demo (.suAdd 5 (.reg 1) (.const 1))) (.suAdd 5 (.reg 1) (.const 1)) = true ∧
    next (exec (.suAdd 5 (.reg 1) (.const 1)) (demo (.suAdd 5 (.reg 1) (.const 1)))) = true := by decide +kernel

/-- A word that has run, with its record and the team's loop registers as given. -/
def committing (r : LoopRegs) (g : Keep → Keep) : State :=
  (ran .suNop).updTeam 0 fun t => { t with loop := r, keep := t.keep.map fun k => g { k with snap := r } }

theorem witness_NextWord :
    (let ok (s : State) (q : Team → Ctx → Keep → Bool) : Bool := team s fun t => t.ctx.any fun c => t.keep.any fun k =>
       !k.fin && !k.eret && k.trap.isNone && !k.dinv && t.stepping.isNone && t.land.isEmpty && !(s.reg (tdbgOff 0)).getLsbD 1 && q t c k
     ok (committing ⟨0, 0, 0, 0, 0, 0⟩ fun k => { k with taken := some 0x40 }) (fun _ _ k => k.taken == some 0x40) = true ∧
     ok (committing ⟨0, 0, 0, 2, 0x80, 0⟩ id) (fun _ c k => c.pc == k.snap.le1 && k.snap.lc1 == 2 && k.taken.isNone && !k.lcw1) = true ∧
     ok (committing ⟨2, 0x80, 0, 1, 0x40, 0⟩ id) (fun _ c k => c.pc == k.snap.le1 && k.snap.lc1 == 1 && c.pc == k.snap.le0) = true ∧
     ok (committing ⟨1, 0x80, 0, 0, 0x40, 8⟩ id) (fun _ c k => c.pc != k.snap.le1 && c.pc == k.snap.le0 && k.snap.lc0 == 1) = true ∧
     ok (committing ⟨0, 0, 0, 0, 0, 0⟩ fun k => { k with lcw0 := true, lcw1 := true }) (fun _ _ k => k.lcw0 && k.lcw1) = true) := by
  decide +kernel

/-! ### Vector operations -/

/-- Whether pass p of an operation begins. -/
def begins (x : Slot) (i : Instr) (p : Nat) : Bool :=
  x.e.c.passes.head? == some p && (x.e.runPasses i).contains p && (x.o.st == .running || (x.o.st == .pending && x.e.queueReady i))

/-- Whether an operation has no pass to execute. -/
def idle (x : Slot) (i : Instr) : Bool :=
  x.o.st == .pending && x.e.queueReady i && (x.e.runPasses i).isEmpty && x.e.c.free x.o && (!commitsWhole i || x.e.c.passes.tail.isEmpty)

/-- Whether a per-lane operation may commit in its word's clock. -/
def lastClk (x : Slot) (i : Instr) : Bool :=
  (x.o.st == .running || (x.o.st == .pending && x.e.queueReady i)) && x.e.c.free x.o
    && ((x.e.runPasses i).all fun q => x.e.c.passes.head?.any fun p => decide (q ≤ p)) && (!commitsWhole i || x.e.c.passes.tail.isEmpty)

/-- Whether an operation may commit in this step. -/
def commitsNow (x : Slot) (i : Instr) (ready : Bool) : Bool := if i.perLane then lastClk x i && ready else x.e.queueReady i && ready

theorem begins_inPass {x : Slot} {i : Instr} {p : Nat} (h : begins x i p = true) : x.inPass i p := by
  simpa [begins, Slot.inPass, and_assoc] using h

theorem idle_noPass {x : Slot} {i : Instr} (h : idle x i = true) : x.noPass i := by
  simp [idle, Bool.or_eq_true] at h
  exact ⟨h.1.1.1.1, h.1.1.1.2, h.1.1.2, h.1.2, fun c => h.2.resolve_left (by simp [c])⟩

theorem commitsNow_mayCommit {x : Slot} {i : Instr} {r : Bool} (h : commitsNow x i r = true) : x.mayCommit i r := by
  unfold commitsNow at h
  unfold Slot.mayCommit
  split at h <;> rename_i hp <;> simp [hp, lastClk, Slot.lastClock, Option.any_eq_true] at h ⊢
  · obtain ⟨⟨⟨⟨a, b⟩, c⟩, d⟩, e⟩ := h
    exact ⟨⟨a, b, c, fun k => d.resolve_left (by simp [k])⟩, fun _ => e⟩
  · exact h

/-- A team of two passes, whose masks at s2 and s3 are those given. -/
def twoPass (a b : Word) (i : Instr) : State :=
  demoWith (fun t => { t with wlog := 1, s := (t.s.set 2 a).set 3 b }) id paged i

theorem witness_VectorIntegers :
    (∃ x f, (demo (.vaAdd none 5 (.reg 1) (.const 2))).runningSlot (.vaAdd none 5 (.reg 1) (.const 2)) = some x ∧
      IntRow x.e (.vaAdd none 5 (.reg 1) (.const 2)) .va .va 5 f ∧ x.inPass (.vaAdd none 5 (.reg 1) (.const 2)) 0) ∧
    (∃ x f, (twoPass 0 0 (.vbMov (some 2) 5 (.reg 1))).runningSlot (.vbMov (some 2) 5 (.reg 1)) = some x ∧
      IntRow x.e (.vbMov (some 2) 5 (.reg 1)) .vb .vb 5 f ∧ x.noPass (.vbMov (some 2) 5 (.reg 1))) ∧
    (∃ x, ∃ f : Nat → Lane, (demo (.vaCmp64 none .eq 5 (.reg 2) (.reg 4))).runningSlot (.vaCmp64 none .eq 5 (.reg 2) (.reg 4)) = some x ∧
      (∀ l, Rule.Truth (Rule.holds .eq (x.e.pair (.reg 2) l) (x.e.pair (.reg 4) l)) (f l)) ∧
      x.inPass (.vaCmp64 none .eq 5 (.reg 2) (.reg 4)) 0) := by
  refine ⟨?_, ?_, ?_⟩
  · obtain ⟨x, hx, h⟩ := runs_slot (show runs (demo (.vaAdd none 5 (.reg 1) (.const 2))) (.vaAdd none 5 (.reg 1) (.const 2))
      (fun x => begins x (.vaAdd none 5 (.reg 1) (.const 2)) 0) = true by decide +kernel)
    exact ⟨x, _, hx, .vaAdd _ _ _ _, begins_inPass h⟩
  · obtain ⟨x, hx, h⟩ := runs_slot (show runs (twoPass 0 0 (.vbMov (some 2) 5 (.reg 1))) (.vbMov (some 2) 5 (.reg 1))
      (fun x => idle x (.vbMov (some 2) 5 (.reg 1))) = true by decide +kernel)
    exact ⟨x, _, hx, .vbMov _ _ _, idle_noPass h⟩
  · obtain ⟨x, hx, h⟩ := runs_slot (show runs (demo (.vaCmp64 none .eq 5 (.reg 2) (.reg 4))) (.vaCmp64 none .eq 5 (.reg 2) (.reg 4))
      (fun x => begins x (.vaCmp64 none .eq 5 (.reg 2) (.reg 4)) 0) = true by decide +kernel)
    exact ⟨x, fun l => if (x.e.pair (.reg 2) l).toNat = (x.e.pair (.reg 4) l).toNat then 1 else 0, hx,
      fun l => ⟨fun h => if_pos h, fun h => if_neg h⟩, begins_inPass h⟩

theorem witness_VectorPairs :
    ∃ x f, (demo (.vaAdd64 none 6 (.reg 2) (.reg 4))).runningSlot (.vaAdd64 none 6 (.reg 2) (.reg 4)) = some x ∧
      PairRow x.e (.vaAdd64 none 6 (.reg 2) (.reg 4)) 6 f ∧ x.inPass (.vaAdd64 none 6 (.reg 2) (.reg 4)) 0 := by
  obtain ⟨x, hx, h⟩ := runs_slot (show runs (demo (.vaAdd64 none 6 (.reg 2) (.reg 4))) (.vaAdd64 none 6 (.reg 2) (.reg 4))
    (fun x => begins x (.vaAdd64 none 6 (.reg 2) (.reg 4)) 0) = true by decide +kernel)
  exact ⟨x, _, hx, .add64 _ _ _ _, begins_inPass h⟩

theorem witness_VectorFloats :
    (∃ x f, (demo (.vaFma none .rz 5 (.reg 1) (.reg 2) (.reg 3))).runningSlot (.vaFma none .rz 5 (.reg 1) (.reg 2) (.reg 3)) = some x ∧
      FpRow x.e (.vaFma none .rz 5 (.reg 1) (.reg 2) (.reg 3)) .va .va 5 f ∧ x.inPass (.vaFma none .rz 5 (.reg 1) (.reg 2) (.reg 3)) 0) ∧
    (∃ x, (demo (.vbRcp none 5 (.reg 1))).runningSlot (.vbRcp none 5 (.reg 1)) = some x ∧ SpecialRow (.vbRcp none 5 (.reg 1)) .rcp 5 (.reg 1) ∧
      x.inPass (.vbRcp none 5 (.reg 1)) 0) ∧
    (∃ x, (twoPass 0xFFFF 0 (.vaTsq (some 2) .ts7 .rne 5 (.reg 1))).runningSlot (.vaTsq (some 2) .ts7 .rne 5 (.reg 1)) = some x ∧
      x.inPass (.vaTsq (some 2) .ts7 .rne 5 (.reg 1)) 0) := by
  refine ⟨?_, ?_, ?_⟩
  · obtain ⟨x, hx, h⟩ := runs_slot (show runs (demo (.vaFma none .rz 5 (.reg 1) (.reg 2) (.reg 3))) (.vaFma none .rz 5 (.reg 1) (.reg 2) (.reg 3))
      (fun x => begins x (.vaFma none .rz 5 (.reg 1) (.reg 2) (.reg 3)) 0) = true by decide +kernel)
    exact ⟨x, _, hx, .vaFma _ _ _ _ _ _, begins_inPass h⟩
  · obtain ⟨x, hx, h⟩ := runs_slot (show runs (demo (.vbRcp none 5 (.reg 1))) (.vbRcp none 5 (.reg 1))
      (fun x => begins x (.vbRcp none 5 (.reg 1)) 0) = true by decide +kernel)
    exact ⟨x, hx, .rcp _ _ _, begins_inPass h⟩
  · obtain ⟨x, hx, h⟩ := runs_slot (show runs (twoPass 0xFFFF 0 (.vaTsq (some 2) .ts7 .rne 5 (.reg 1))) (.vaTsq (some 2) .ts7 .rne 5 (.reg 1))
      (fun x => begins x (.vaTsq (some 2) .ts7 .rne 5 (.reg 1)) 0) = true by decide +kernel)
    exact ⟨x, hx, begins_inPass h⟩

theorem witness_VectorGathers :
    ∃ x f q, (demo (.vbRed none .max 5 (.reg 1))).runningSlot (.vbRed none .max 5 (.reg 1)) = some x ∧
      GatherRow x.e (.vbRed none .max 5 (.reg 1)) 5 f q ∧ x.inPass (.vbRed none .max 5 (.reg 1)) 0 := by
  obtain ⟨x, hx, h⟩ := runs_slot (show runs (demo (.vbRed none .max 5 (.reg 1))) (.vbRed none .max 5 (.reg 1))
    (fun x => begins x (.vbRed none .max 5 (.reg 1)) 0) = true by decide +kernel)
  exact ⟨x, _, _, hx, .red _ _ _ _, begins_inPass h⟩

theorem witness_VectorTransfers :
    runs (demo (.vaXfer none .copy .vb 5 (.reg 1))) (.vaXfer none .copy .vb 5 (.reg 1)) (fun x => begins x (.vaXfer none .copy .vb 5 (.reg 1)) 0) = true ∧
    (Instr.vaXfer none .copy .vb 5 (.reg 1)).wf = true ∧
    runs (twoPass 1 0 (.vbXfer none .first .s 5 (.reg 1))) (.vbXfer none .first .s 5 (.reg 1))
      (fun x => begins x (.vbXfer none .first .s 5 (.reg 1)) 0 && !x.last (.vbXfer none .first .s 5 (.reg 1)) 0) = true ∧
    runs (demo (.vbXfer none .first .s 5 (.reg 1))) (.vbXfer none .first .s 5 (.reg 1)) (fun x => lastClk x (.vbXfer none .first .s 5 (.reg 1))) = true ∧
    runs (demo (.vaXfer none .first64 .s 5 (.reg 2))) (.vaXfer none .first64 .s 5 (.reg 2)) (fun x =>
      lastClk x (.vaXfer none .first64 .s 5 (.reg 2))) = true ∧
    runs (twoPass 0 0 (.vaXfer (some 2) .ballot .s 5 (.reg 1))) (.vaXfer (some 2) .ballot .s 5 (.reg 1))
      (fun x => lastClk x (.vaXfer (some 2) .ballot .s 5 (.reg 1))) = true ∧
    runs (twoPass 0 0 (.vaXfer (some 2) .copy .vb 5 (.reg 1))) (.vaXfer (some 2) .copy .vb 5 (.reg 1))
      (fun x => idle x (.vaXfer (some 2) .copy .vb 5 (.reg 1))) = true := by decide +kernel

theorem witness_VectorFrame :
    (Instr.vbPopc none 5 (.reg 1)).kind = some .vb ∧ runs (demo (.vbPopc none 5 (.reg 1))) (.vbPopc none 5 (.reg 1)) (fun x => x.o.st != .blocked) = true ∧
    next (exec (.vbPopc none 5 (.reg 1)) (demo (.vbPopc none 5 (.reg 1)))) = true := by decide +kernel

/-- A lone team with one landing that is due. -/
def landingDue (l : Landing) : State := (place .suNop).updTeam 0 fun t => { t with land := [l] }

theorem witness_LandingWrites :
    ([⟨0, .va, 5, false, false, [⟨0, 7, false⟩, ⟨1023, 8, true⟩], 1, none, [], none⟩, ⟨0, .va, 6, true, false, [⟨31, 2 ^ 40, false⟩], 0, none, [], none⟩,
        ⟨0, .s, 5, false, false, [⟨0, 9, false⟩], 0, none, [], none⟩, ⟨0, .s, 5, false, true, [⟨0, 9, false⟩, ⟨1, 3, false⟩], 0, none, [], none⟩]
        : List Landing).all (fun l => team (landingDue l) fun t => t.land == [l] && decide (l.due ≤ t.tc) && l.pend.isNone && SMap.wf t.s && SMap.wf t.a
          && SMap.wf t.va && SMap.wf t.vb && SMap.wf t.vm && decide ((l.vals.map LaneVal.lane).Nodup) && l.vals.all fun x => decide (x.lane < 1024)) = true := by
  decide +kernel

/-! ### Floating point -/

/-- A tiny number under output flush, a number above MaxFin, and one that is exact. -/
theorem witness_RoundToRule :
    fp32.flushOut (modesOf 0x20 0 .rne) = true ∧ ((Nat.log2 1 : Nat) : Int) + (-130) < 1 - (fp32.bias : Int) ∧
    dyLt (2 ^ fp16.p - 1) ((fp16.bias : Int) - (fp16.p : Int) + 1) (roundInt .ru false 65505 0) 0 = true ∧
    dyLt (2 ^ bf16.p - 1) ((bf16.bias : Int) - (bf16.p : Int) + 1) (roundInt .rne true 3 0) 0 = false := by decide +kernel

/-- A signalling and a quiet NaN, equal zeros of both signs, and the ends of a class. -/
theorem witness_FloatComparisons :
    (2 ^ 31 - 2 ^ 23 < (0x7F800001 : Lane).toNat % 2 ^ 31 ∧ (0x7F800001 : Lane).getLsbD 22 = false ∧ (0x7FC00000 : Lane).getLsbD 22 = true) ∧
    ((0x80000000 : Lane).toNat % 2 ^ 31 = 0 ∧ (0x80000000 : Lane).getLsbD 31 = true ∧ (0x00000000 : Lane).getLsbD 31 = false) ∧
    (0x80800000 ≤ (0xFF7FFFFF : Lane).toNat ∧ (0xFF7FFFFF : Lane).toNat ≤ 0xFF7FFFFF) := by decide +kernel

/-- 2^31 and the largest number below it, −1, a NaN and an infinity, and the greatest integer that FP32 holds exactly. -/
theorem witness_FloatConversions :
    fp32.read (modesOf 0 0 .rz) 0x4F000000 = .fin false (2 ^ 23) 8 ∧ fp32.read (modesOf 0 0 .rz) 0x4EFFFFFF = .fin false (2 ^ 24 - 1) 7 ∧
    fp32.read (modesOf 0 0 .rz) 0xBF800000 = .fin true (2 ^ 23) (-23) ∧ fp32.read (modesOf 0 0 .rz) 0x7F800000 = .inf false ∧
    fp32.read (modesOf 0 0 .rz) 0x7FC00001 = .nan false true 1 ∧ ((0x01000000 : Lane).toInt).natAbs ≤ 2 ^ 24 := by decide +kernel

/-! ### Memory and matrix operations -/

/-- No watchpoint of the core of an operation's team is armed. -/
def unwatched (x : Slot) : Bool := (List.range 4).all fun w => x.e.s.regBits (coreDbg (coreOf x.e.z) + 0x108 + 32 * w) 10 1 == 0

/-- The ends of a block's allotment, of the bench space and of the global space, and a tile of the team's own block and of no block. -/
theorem witness_AddressForms :
    runs (demo .suNop) .suNop (fun x => x.e.b.nt == 64 && x.e.b.core == 0 && x.e.b.tile0 == 0 && !x.e.b.settled && x.e.b.asid == x.e.t.asid &&
      x.e.s.blocks == [(0, x.e.b)]) = true ∧
    ([2 ^ 19 - 4, 2 ^ 19, 2 ^ 22 - 4, 2 ^ 22, 2 ^ 57] : List Nat).all (fun a => a % 4 == 0 && a < 2 ^ 64) = true ∧
    (2 ^ 19 - 4 + 4 ≤ 8192 * 64 ∧ 8192 * 64 < 2 ^ 19 + 4) ∧ (0 + (2 ^ 19 - 4) / 2 ^ 19 = 0 ∧ (2 ^ 19 - 4) % 2 ^ 19 / 8192 < 64) ∧
    0 + 2 ^ 19 / 2 ^ 19 ≠ 0 := by decide +kernel

/-- Every form named runs in demo and may commit, ready as given. -/
def allCommit (l : List Instr) (ready : Slot → Instr → Bool) : Bool := l.all fun i => runs (demo i) i fun x => commitsNow x i (ready x i)

/-- The seven scratchpad forms and the ten far ones each run and may commit (R183). -/
theorem witness_MuCompletions :
    allCommit [.muLds none .va 9 0 (.const 0) ⟨0, 0, .core⟩, .muGths none .va 9 0 (.reg 2) ⟨0, 0, .core⟩, .muLdsa 9 0 (.const 0) ⟨0, 0, .core⟩,
      .muSts none 0 (.const 0) (.const 1) ⟨0, 0, .core⟩, .muScts none 0 (.const 1) (.reg 2) ⟨0, 0, .core⟩, .muStsa 9 0 (.const 0) ⟨0, 0, .core⟩,
      .muAtms none .cas 9 0 (.reg 2) (.const 1) ⟨0, 0, .core⟩] (fun x i => x.e.spadReady i) = true ∧
    allCommit [.muLdg none .va 9 3 (.const 0) ⟨1, 0, .dev⟩, .muGthg none .vb 9 3 (.reg 2) ⟨1, 0, .core⟩, .muLdga 9 3 (.const 0) ⟨1, 0, .core⟩,
      .muStg none 3 (.const 0) (.const 1) ⟨1, 0, .core⟩, .muSctg none 3 (.const 1) (.reg 2) ⟨1, 0, .core⟩, .muStga 9 3 (.const 0) ⟨1, 0, .core⟩,
      .muAtmg none .add 9 3 (.const 0) (.const 1) ⟨1, 0, .core⟩, .muLdr none .vm 9 0 (.const 0) (.const 0) ⟨1, 0, .core⟩,
      .muStr none 0 (.const 0) (.const 1) ⟨1, 0, .core⟩, .muAtmr none .cas 9 0 (.const 0) (.const 1) ⟨1, 0, .core⟩] (fun _ _ => true) = true := by
  decide +kernel

theorem witness_MuScratchpadLoads :
    (let i : Instr := .muLds none .va 9 0 (.const 0) ⟨0, 0, .core⟩
     i.wf = true ∧ runs (demo i) i (fun x => unwatched x && begins x i 0 && x.e.spadReady i && x.last i 0) = true ∧
       runs (twoPass 0 0 i) i (fun x => unwatched x && begins x i 0 && x.e.spadReady i && !x.last i 0) = true) ∧
    (let i : Instr := .muLdsa 9 0 (.const 0) ⟨0, 0, .core⟩
     runs (demo i) i (fun x => unwatched x && x.e.queueReady i && x.e.spadReady i && (x.e.spadAt i 0).isSome) = true) := by decide +kernel

theorem witness_MuScratchpadStores :
    (let i : Instr := .muSts none 0 (.const 0) (.const 1) ⟨0, 0, .core⟩
     runs (demo i) i (fun x => unwatched x && Memory.wf x.e.s.spad && begins x i 0 && x.e.spadReady i) = true) ∧
    (let i : Instr := .muScts none 0 (.const 1) (.reg 2) ⟨0, 0, .core⟩
     runs (demo i) i (fun x => unwatched x && Memory.wf x.e.s.spad && begins x i 0 && x.e.spadReady i) = true) ∧
    (let i : Instr := .muStsa 9 0 (.const 0) ⟨0, 0, .core⟩
     runs (demo i) i (fun x => unwatched x && Memory.wf x.e.s.spad && x.e.queueReady i && x.e.spadReady i && (x.e.spadAt i 0).isSome) = true) := by
  decide +kernel

theorem witness_MuScratchpadAtomics :
    (let i : Instr := .muAtms none .cas 9 0 (.reg 2) (.const 1) ⟨0, 0, .core⟩
     runs (demo i) i (fun x => unwatched x && Memory.wf x.e.s.spad && begins x i 0 && x.e.spadReady i) = true) := by decide +kernel

/-- The addresses of a global, a bench-remote and an atomic operation are in a mapped page and in the block's own tiles. -/
theorem witness_MuFarOperations :
    ([.muLdg (some 2) .va 9 3 (.const 0) ⟨1, 0, .dev⟩, .muGthg (some 2) .vb 9 3 (.reg 2) ⟨1, 0, .core⟩, .muLdr (some 2) .vm 9 0 (.const 0) (.const 0) ⟨1, 0, .core⟩,
        .muStg (some 2) 3 (.const 0) (.const 1) ⟨1, 0, .core⟩, .muSctg (some 2) 3 (.const 1) (.reg 2) ⟨1, 0, .core⟩,
        .muStr (some 2) 0 (.const 0) (.const 1) ⟨1, 0, .core⟩, .muAtmg (some 2) .add 9 3 (.const 0) (.const 1) ⟨1, 0, .core⟩,
        .muAtmr (some 2) .cas 9 0 (.const 0) (.const 1) ⟨1, 0, .core⟩] : List Instr).all (fun i =>
      i.wf && runs (twoPass 3 0 i) i (fun x => begins x i 0 && x.last i 0)) = true ∧
    (let i : Instr := .muLdg (some 2) .va 9 3 (.const 0) ⟨1, 0, .dev⟩
     runs (twoPass 0x100000001 0 i) i (fun x => begins x i 0 && !x.last i 0) = true) ∧
    (let i : Instr := .muLdga 9 3 (.const 0) ⟨1, 0, .core⟩
     runs (demo i) i (fun x => x.e.queueReady i && (x.e.access i 0 8 0 false 0).isSome) = true) ∧
    (let i : Instr := .muStga 9 3 (.const 0) ⟨1, 0, .core⟩
     runs (demo i) i (fun x => x.e.queueReady i && (x.e.access i 0 8 (x.e.t.a.get 9) false 0).isSome) = true) ∧
    (let i : Instr := .muPfg 3 (.const 0) ⟨1, 0, .core⟩
     runs (demo i) i (fun x => x.e.queueReady i && decide (x.e.s.missUsed (coreOf x.e.z) < 3072) && (x.e.s.remoteNode x.e.t 0x4000).isNone &&
       gives (x.e.s.translate (coreOf x.e.z) x.e.t.asid x.e.t.root 0x4000 .read) fun _ => true) = true ∧
     runs (demoWith (fun t => { t with a := t.a.set 3 0x0200000000000000 }) id paged i) i (fun x => x.e.queueReady i) = true) := by decide +kernel

theorem witness_MuRegisters :
    ready (.muAdda 9 3 (.const 1)) = true ∧ ready (.muMova 9 (.const 1)) = true ∧ ready (.muXfer 9 (.reg 3)) = true ∧
    (let i : Instr := .muXferPerLane none .va 9 (.reg 2)
     i.wf = true ∧ runs (demo i) i (fun x => begins x i 0) = true) ∧
    (let i : Instr := .muXferPerLane (some 2) .va 9 (.reg 2)
     runs (demo i) i (fun x => idle x i) = true) := by decide +kernel

/-- Handle q0 with HEAD 0 and the TAIL given, of 16 entries. -/
def handle (tail : Nat) (i : Instr) : State :=
  demoWith id (fun b => { b with q := b.q.set 0 (BitVec.ofNat 64 (2 ^ 53 + tail * 2 ^ 40 + 4 * 2 ^ 23 + 0x80000)) }) paged i

theorem witness_MuQueueHandles :
    ready (.muQbind 0 9) = true ∧ ready (.muQbind 0 3) = true ∧
    ([(.muQwait .c 0 (.const 2), 2), (.muQwait .c 0 (.const 3), 2), (.muQwait .p 0 (.const 14), 2), (.muQwait .p 0 (.const 15), 2),
        (.muQadv .c 0 (.const 2), 2), (.muQadv .p 0 (.const 14), 2), (.muQadv .c 0 (.const 3), 2), (.muQadv .p 0 (.const 15), 2)]
        : List (Instr × Nat)).all (fun x => runs (handle x.2 x.1) x.1 fun y => y.e.queueReady x.1 && match x.1 with
      | .muQadv qs _ _ => y.e.advReady y.k qs
      | _ => true) = true := by decide +kernel

/-- A tile that an engine writes. -/
def busyTile (i : Instr) : State := demoWith id (fun b => { b with tiles := b.tiles.set 0 0x40000 }) paged i

theorem witness_MuTileState :
    ([.muTfull (.const 0), .muTgate true (.const 0), .muTgate false (.const 0), .muTclr (.const 0), .muCwait (.const 0) (.const 0),
        .muCwait (.const 0) (.const 1), .muTstat 9 (.const 0)] : List Instr).all (fun i => ready i) = true ∧
    ([.muTfull (.const 0), .muTgate true (.const 0), .muTclr (.const 0)] : List Instr).all (fun i =>
      runs (busyTile i) i fun x => x.e.queueReady i && (x.e.b.tiles0.get 0).getLsbD 18) = true := by decide +kernel

/-- A core with the most copies it holds, and a team with the most receives. -/
def crowded (i : Instr) : State :=
  let s := demoWith (fun t => { t with recv := List.replicate 8 default }) (fun b => { b with cp := b.cp.set 0 copyBits }) paged i
  { s with copies := List.replicate 16 (owner 0x40) }

theorem witness_MuUnits :
    (let i : Instr := .muCprog 0 0 (.const 0) ⟨1, 0, .core⟩
     runs (demo i) i (fun x => unwatched x && x.e.queueReady i && x.e.predsReady i && x.e.b.readReady 0 128 &&
       x.e.t.locFree (x.e.opId i) (.spad 0) 128) = true) ∧
    (let i : Instr := .muCopy 0 (.const 0) (.const 0) ⟨1, 0, .core⟩
     let prog (x : Slot) : CpProg := cpProg x.e.c.cpv (x.e.scalar .a (.const 0)) (x.e.scalar .a (.const 0))
     let late (x : Slot) : Bool := ((prog x).srcTiles ++ (prog x).dstTiles).any fun n => x.e.b.tileP.get n != 0
     runs (demo i) i (fun x => unwatched x && x.e.queueReady i && x.e.s.copies.isEmpty && x.e.b.copyReady (prog x) && !x.e.c.cpvP && !late x) = true ∧
     runs (demoWith id (fun b => { b with cpP := b.cpP.set 0 1, cp := b.cp.set 0 copyBits })
       paged i) i (fun x => unwatched x && x.e.queueReady i && x.e.s.copies.isEmpty && x.e.b.copyReady (prog x) && x.e.c.cpvP) = true ∧
     runs (demoWith id (fun b => { b with tileP := b.tileP.set 0 1, cp := b.cp.set 0 copyBits })
       paged i) i (fun x => unwatched x && x.e.queueReady i && x.e.s.copies.isEmpty && x.e.b.copyReady (prog x) && !x.e.c.cpvP && late x) = true ∧
     runs (crowded i) i (fun x => unwatched x && x.e.queueReady i && x.e.s.copies.length == 16) = true) ∧
    (let i : Instr := .muMsend 0 (.const 0) (.const 1) ⟨1, 0, .core⟩
     runs (demo i) i (fun x => unwatched x && x.e.queueReady i && x.e.b.readReady 0 8 && x.e.t.locFree (x.e.opId i) (.spad 0) 8) = true) ∧
    (let i : Instr := .muMpost 0 (.const 0) (.const 1) ⟨1, 0, .core⟩
     runs (demo i) i (fun x => unwatched x && x.e.queueReady i && x.e.predsReady i && x.e.t.recv.isEmpty) = true ∧
     runs (crowded i) i (fun x => unwatched x && x.e.queueReady i && x.e.t.recv.length == 8) = true) ∧
    (let i : Instr := .muMprobe 9 (.const 0)
     runs (demo i) i (fun x => unwatched x && x.e.queueReady i) = true) ∧
    (let i : Instr := .muCpost 0 (.const 0) ⟨1, 0, .core⟩
     runs (demo i) i (fun x => unwatched x && x.e.queueReady i && x.e.b.readReady 0 64 && x.e.t.locFree (x.e.opId i) (.spad 0) 64) = true) ∧
    (let i : Instr := .muTget 9 0 (.const 0) ⟨1, 0, .core⟩
     runs (demo i) i (fun x => unwatched x && x.e.queueReady i) = true) := by decide +kernel

/-- A core whose engine holds the most commands. -/
def fullEngine (i : Instr) : State :=
  { demo i with cores := (demo i).cores.map fun x => (x.1, { x.2 with mq := List.replicate 8 ⟨700, 0, 0, .xuAcczr 1 ⟨0, 0, .core⟩, default, [], 0, none, []⟩ }) }

theorem witness_XuCommands :
    (let i : Instr := .xuFmt 1 (.const 0) ⟨1, 0, .core⟩
     runs (demo i) i (fun x => unwatched x && x.e.queueReady i && x.e.predsReady i && x.e.b.readReady 0 16 &&
       x.e.t.locFree (x.e.opId i) (.spad 0) 16) = true) ∧
    (let i : Instr := .xuAcctr 1 0 ⟨1, 0, .core⟩
     let bad (x : Slot) : Bool := (spanTiles ((xuUse i (x.e.xuArgs i)).rd ++ (xuUse i (x.e.xuArgs i)).wr)).any fun n => x.e.b.tileP.get n != 0
     let free (x : Slot) : Bool := x.e.queueReady i && x.e.b.xuReady (xuUse i (x.e.xuArgs i)) && decide (partOf x.e.z % 4 < x.e.s.turn (turnXu (coreOf x.e.z))) &&
       (x.e.s.cores.get? 0).any fun c => decide (c.mq.length < 8) && c.xacc != x.e.s.clock + 1
     i.kind = some .xu ∧ runs (demo i) i (fun x => free x && !bad x) = true ∧
     (let j : Instr := .xuAccld 1 0 (.const 0) ⟨1, 0, .core⟩
      runs (demoWith (fun t => { t with f := t.f.set 0 0x800013 }) (fun b => { b with tileP := b.tileP.set 0 1 }) paged j) j (fun x => x.e.queueReady j && x.e.b.xuReady (xuUse j (x.e.xuArgs j)) &&
        (spanTiles ((xuUse j (x.e.xuArgs j)).rd ++ (xuUse j (x.e.xuArgs j)).wr)).any fun n => x.e.b.tileP.get n != 0) = true) ∧
     runs (fullEngine i) i (fun x => (x.e.s.cores.get? 0).any fun c => c.mq.length == 8) = true) := by decide +kernel

theorem witness_MatrixAccumulators :
    SMap.wf (demo .suNop).acc = true ∧ (⟨700, 0, 0, .xuAccmv 1 2 ⟨0, 0, .core⟩, default, [], 0, none, []⟩ : MCmd).ins = .xuAccmv 1 2 ⟨0, 0, .core⟩ ∧
    2 ^ 31 - 2 ^ 23 < (0x7F800001 : Lane).toNat % 2 ^ 31 := by decide +kernel

/-! ### Traps and engines -/

/-- A team with its trap frame at 0x10000, on a core that caches no translation. -/
def framed (g : Team → Team) : State :=
  { paged ((place .suNop).updTeam 0 fun t => g { t with ctxptr := 0x10000, ctxlog := 4, trapvec := 0x4000 }) with cores := [] }

/-- The trap of the statement: su.trap 3. -/
def trap3 : Flt := ⟨0x1B, 3, 0, 0, 0, 0⟩

/-- A landing of two lanes that has not come. -/
def late : Landing := ⟨9, .va, 5, false, false, [⟨0, 7, false⟩, ⟨31, 8, true⟩], 1, none, [], none⟩

theorem witness_TrapsAndReturns :
    (let s := framed fun t => { t with land := [late] }
     team s (fun t =>
       let u := t.landStop
       let l := frameBytes u (u.frameHead trap3) u.held u.replayList
       !u.tmode && u.stepping.isNone && u.land.length == 1 && l.all (fun x => decide (x.1 + x.2.1.length ≤ 2 ^ (12 + u.ctxlog))) &&
       gives (l.foldl (fun (r : Except XErr State) x => match r with
         | .ok s => s.writeFrame (coreOf 0) u.asid u.root (u.ctxptr.toNat + x.1) x.2.1 x.2.2
         | .error e => .error e) (.ok ((s.updTeam 0 fun _ => u).abandonRefill 0))) fun _ => true) = true) ∧
    team (framed fun t => { t with tmode := true }) (fun t => t.landStop.tmode && t.landStop.stepping.isNone) = true ∧
    team (framed fun t => { t with async := [.singleStep, .copyFault 8 1 0 0, .copyFault 7 1 0 0, .copyFault 9 1 0 0] }) (fun t => t.asyncReady &&
      [Async.singleStep, .copyFault 8 1 0 0].all (fun x => decide (3 < x.rank) || (x.rank == 3 && decide (7 < x.age))) &&
      decide ((Async.copyFault 7 1 0 0).age ≤ (Async.copyFault 9 1 0 0).age)) = true ∧
    (let s := framed fun t => { t with tmode := true, fetched := none, eretWait := some (0, 0x4002, 0) }
     team s (fun t => t.eretReady && gives (s.readFrame 0 t) fun r => r.2.land.isEmpty) = true) := by decide +kernel

/-- A wait for count 2 that has blocked, and has completed or not. -/
def retried (d : BitVec 16) : State :=
  ({ (after (.suSwait 2 (.reg 1)) (streamAt 2)) with cur := none } : State).updTeam 0 fun t => { t with dc := t.dc.set 2 d }

/-- An advance whose tile a copy of the team still reads, and a command whose accumulator is busy; each blocks. -/
def heldAdvance : State :=
  after (.muQadv .c 0 (.const 1)) (demoWith (fun t => { t with ops := [{ slowOp with kind := .copy, readsSpad := true, writesSpad := true }] })
    (fun b => { b with q := b.q.set 0 0x0020020001280000 }) paged (.muQadv .c 0 (.const 1)))

/-- A command whose accumulator is busy blocks. -/
def heldCommand : State :=
  after (.xuAcczr 1 ⟨1, 0, .core⟩) (demoWith id (fun b => { b with accBusy := b.accBusy.set 1 1 }) paged (.xuAcczr 1 ⟨1, 0, .core⟩))

/-- What blocked them is over. -/
def released (s : State) : State :=
  (s.updTeam 0 fun t => { t with ops := t.ops.map fun o => { o with done := true } }).updBlock 0 fun b => { b with accBusy := [] }.newClock

/-- Whether the retry of a blocked slot lets it go. -/
def goes (s : State) : Bool := s.mayRetry 0 0 && decide (s.turn 0 ≤ 0) && !(s.retrySlot 0 0).stillBlocked 0 0

/-- A command has been accepted, and its clock is over. -/
def accepted : State := { ran (.xuAcczr 1 ⟨1, 0, .core⟩) with clock := 40 }

/-- The engine runs that command, to its last clock. -/
def executed : State :=
  match exec (.matrixCommandBegin 0) accepted with
  | .next u => { u with clock := 4000 }
  | .fault _ => accepted
  | .refused _ => accepted

/-- A copy that has issued, at the cursor given. -/
def copying (cursor : Nat) : State :=
  let s := ran (.muCopy 0 (.const 0) (.const 0) ⟨1, 0, .core⟩)
  { s with copies := s.copies.map fun c => { c with cursor := cursor } }

/-- A copy to the global address 0x40000000, which is not mapped. -/
def copyAway : State :=
  let s := copying 15
  { s with copies := s.copies.map fun c => { c with bits := 4 * 2 ^ 256 + (16 + 4 * 2 ^ 32) * 2 ^ 192 + 0x424 * 2 ^ 128 + 0x40000000 * 2 ^ 64 } }

/-- Where a core's only copy stops. -/
def copyStops (s : State) (q : CopyStop → Bool) : Bool :=
  match s.copies with
  | [c] => (s.copyReady c).any fun x => q (s.copyStep c x.1 x.2).2.2
  | _ => false

theorem witness_EngineSteps :
    (goes (retried 2) = true ∧ (retried 1).mayRetry 0 0 = true ∧ goes (retried 1) = false) ∧
    (heldAdvance.blockedSlots 0 isAdvance = [(0, 0)] ∧ goes heldAdvance = false ∧ (released heldAdvance).blockedSlots 0 isAdvance = [(0, 0)] ∧
      goes (released heldAdvance) = true) ∧
    (heldCommand.blockedSlots 0 isCommand = [(0, 0)] ∧ goes heldCommand = false ∧ (released heldCommand).blockedSlots 0 isCommand = [(0, 0)] ∧
      goes (released heldCommand) = true) ∧
    ((accepted.headCmd 0).any fun x => accepted.cmdReady 0 x.1 x.2.1 x.2.2) = true ∧ ((executed.headCmd 0).any fun x => executed.cmdDone 0 x.1) = true ∧
    ((({ executed with clock := 40 } : State).headCmd 0).any fun x => !({ executed with clock := 40 } : State).cmdDone 0 x.1 && x.1.due.isSome) = true ∧
    copyStops (copying 15) (fun | .unit _ => true | _ => false) = true ∧ ((copying 16).copies.all fun c => !c.left && !(copying 16).farOfCopy c.id && ((copying 16).copyReady c).isSome) = true ∧
    (copyStops copyAway (fun | .fault c _ _ => c != 0x1A | _ => false) && team copyAway fun t => !t.ended) = true ∧
    (let s : State := { ran .suNop with teams := (ran .suNop).teams.map fun x => (x.1, { x.2 with ended := true }) }
     s.blocks.any (fun x => !x.2.stop && s.blockDone x.1 x.2) = true) := by decide +kernel

/-- A far load of the team in slot 0 has issued, and its request has reached its port in a clock that is core 0's slot at bank 8. -/
def farLoad : State := { ran (.muLdg none .va 9 3 (.const 0) ⟨1, 0, .dev⟩) with clock := 328 }

/-- A lone operation of the team in slot 0 waits for line 64 at bank 8, and q holds of its number. -/
def lone (s : State) (q : Nat → Bool) : Bool :=
  match s.teams with
  | [(0, t)] => match t.ops with
    | [o] => o.lines == [64] && s.bankOfLine (coreOf 0) o 64 == 8 && decide (o.sentAt + 22 ≤ s.clock) && !s.recalled o.id 64 &&
        s.lineReady 0 t o 64 && q o.id
    | _ => false
  | _ => false

/-- A latency is at most 22 clocks. -/
theorem latency_le (s : State) (leaf core bank : Nat) : s.latency leaf core bank ≤ 22 := by
  unfold State.latency
  omega

/-- Its request is the next of its port. -/
theorem lone_portNext {s : State} {q : Nat → Bool} (h : lone s q = true) :
    ∃ t o, s.portNext 0 8 = some (0, t, o, 64) ∧ q o.id = true := by
  unfold lone at h
  split at h <;> try exact absurd h Bool.false_ne_true
  rename_i t ht
  split at h <;> try exact absurd h Bool.false_ne_true
  rename_i o ho
  simp only [Bool.and_eq_true, beq_iff_eq, decide_eq_true_eq, Bool.not_eq_true'] at h
  obtain ⟨⟨⟨⟨⟨hl, hb⟩, ha⟩, hr⟩, hd⟩, hq⟩ := h
  have hw : s.arrivesAt (coreOf 0) o 64 ≤ s.clock := by
    have := latency_le s (8 / 128) (coreOf 0 % 128) (8 % 128)
    have e : coreOf 0 / 128 = 8 / 128 := by decide
    unfold State.arrivesAt State.wire
    rw [hb, if_pos e]
    omega
  have hc : (coreOf 0 % 128 == 0 % 128) = true := by decide
  exact ⟨t, o, by
    simp only [State.portNext, ht, List.filter_cons, hc, if_true, List.filter_nil, List.flatMap_cons, List.flatMap_nil, ho, hl, hb, hd,
      decide_eq_true hw, hr, beq_self_eq_true, Bool.and_true, Bool.not_false, List.map_cons, List.map_nil, List.append_nil,
      List.foldl_cons, List.foldl_nil], hq⟩

/-- The only operation of that team, changed. -/
def oneOp (s : State) (f : MemOp → MemOp) : State := s.updTeam 0 fun t => { t with ops := t.ops.map f }

/-- The operation satisfies q. -/
def opIs (s : State) (q : Team → MemOp → Bool) : Bool := (s.findOp 0).any fun x => x.1 == 0 && q x.2.1 x.2.2

theorem witness_PortSlots :
    farLoad.clock % 32 = (0 % 128 + 8 % 128) % 32 ∧ (farLoad.portAt.get (portNo 0 8)).toNat ≤ farLoad.clock ∧
    lone farLoad (fun id => (farLoad.ownersFor 0 id 64).isEmpty) = true ∧
    (let s := { farLoad with copies := [{ owner 64 with z := 1 }] }
     lone s (fun id => !(s.ownersFor 0 id 64).isEmpty) = true) := by decide +kernel

theorem witness_MemorySystemSteps :
    ((0 : Nat) < hostZ ∧ opIs { farLoad with recalls := [⟨64, 0, 0, [900]⟩] } (fun _ _ => true) = true ∧ farLoad.ownedLine 64 = []) ∧
    opIs (oneOp farLoad fun o => { o with accs := [], got := [⟨0, 7, false⟩] }) (fun _ o => o.kind == .load && !o.arrived && !o.done && o.issued && decide (o.readyAt ≤ farLoad.clock)) = true ∧
    (opIs (oneOp farLoad fun o => { o with kind := .store, accs := [] }) (fun _ o => o.kind == .store && !o.done && o.issued && decide (o.readyAt ≤ farLoad.clock)) = true ∧ farLoad.views = []) ∧
    (let s : State := oneOp { farLoad with cores := [] } fun o => { o with kind := .cpost, data := List.replicate 64 0 }
     opIs s (fun t o => o.kind == .cpost && !o.done && o.issued && t.predsDone o.preds o.scp && (s.taskPost t.launch o.data o.dataP).isSome) = true) ∧
    ((farLoad.teams.find? fun x => coreOf x.1 == 0 && x.2.asid == 1).any fun x => gives (farLoad.walk 0 1 0x4000 4 x.2.root) fun w =>
      (w.e.allow .read).isNone) = true ∧
    (let s : State := { farLoad with cores := farLoad.cores.map fun x => (x.1, { x.2 with breq := [(9, 1, 5)] }) }
     (s.cores.get? 0).any (fun c => s.pendingAt 0 9 c == [1] && (c.breq.any fun x => x.1 == 9 && x.2.1 == 1) && c.bankAt.get 9 != BitVec.ofNat 64 (s.clock + 1) && s.bankChoice 0 9 c [1] == some 1 &&
       s.wholeAt 0 9 c 1) = true) := by decide +kernel

/-! ### Memory configuration and scheduling -/

theorem witness_MemoryConfigurationSteps :
    ((0x100 : Word).getLsbD 8 = true ∧ (0x100 : Word).getLsbD 10 = false ∧ ((device.putReg artctlOff 0 6 0x100).reg artctlOff).getLsbD 9 = false ∧
      artValid ((device.putReg artctlOff 0 6 0x100).reg (memBase + 0x20000)) ((device.putReg artctlOff 0 6 0x100).reg (memBase + 0x20008)) = true ∧
      ((device.putReg artctlOff 9 1 1).reg artctlOff).getLsbD 9 = true) ∧
    ((device.reg (wmaskOff 3)).getLsbD 32 = false ∧ (0x3 : Word).getLsbD 33 = false ∧ 2 ≤ (bitList 16 ((0x3 : Word).toNat % 2 ^ 16)).length ∧
      ((device.putReg (wmaskOff 3) 16 16 0xFFFC).reg (wmaskOff 3)).getLsbD (16 + 15) = true ∧ device.wayInUse 3 15 = false) ∧
    ((0x1000000 : Word).getLsbD 24 = true ∧ (0x1000000 : Word).getLsbD 26 = false ∧ ((device.putReg invctlOff 0 24 0x1000000).reg invctlOff).getLsbD 25 = false ∧
      (45 * 2 ^ 16 + 0x1000000) / 2 ^ 16 % 64 ≤ 45 ∧ ((device.putReg invctlOff 25 1 1).reg invctlOff).getLsbD 25 = true ∧
      (device.putReg invctlOff 25 1 1).invBusy = false) ∧
    ((device.putReg dtctlOff 1 1 1).reg dtctlOff).getLsbD 1 = true ∧
    (AL.get? (({ device with fusing := [(0, true)] } : State).fusing) 0 = some true ∧ ({ device with fusing := [(0, true)] } : State).benchLoads 0 = false) ∧
    ((regRule 0xF8).isSome = false ∧ (regRule 0x100).isSome = true ∧ (regRule 0x120).isSome = true ∧ (regRule 0x200).isSome = true) := by decide +kernel

/-- Queue 1's slot, with one record to start; the image at 0x30000 has one variant of one tile and one team. -/
def launching : State :=
  let s := queued (paged State.reset.withCore)
  { s with
    clock := 100
    mem := (((s.mem.setRange 0x30000 (leBytes 8 0x31494B45#64)).setRange 0x30040 (leBytes 8 0x0001010101010100#64)).setRange 0x30048
      (leBytes 8 0x5000#64)).setRange 0x30058 (leBytes 8 0x4000#64)
    qslots := [(0, ⟨1, (s.qRec 1).take 6, 1, 0, some ([0x30000] ++ List.replicate 15 0), [true, true], 0, 0, false, 0, none, false⟩)] }

/-- Its launch has started. -/
def launched : State :=
  match exec (.launchStart 0) launching with
  | .next u => u
  | .fault _ => launching
  | .refused _ => launching

/-- Another launch waits for a core that one tile in the middle divides, in a partition long fragmented. -/
def divided : State :=
  let s := place .suNop
  { s with
    blocks := s.blocks.map fun x => (x.1, { x.2 with nt := 1, tile0 := 32 })
    parts := s.parts.map fun x => (x.1, { x.2 with frag := 50000 })
    launches := s.launches ++ launched.launches.map fun x => (x.1, { x.2 with vars := x.2.vars.map fun v => { v with shape := v.shape + 0x2700000000 } }) }

/-- The lone block as the second of two variants, both with a switch point, on a leaf that has waited for nothing. -/
def growing : State :=
  let s := place .suNop
  { s with
    clock := 70000
    blocks := s.blocks.map fun x => (x.1, { x.2 with variant := 1 })
    launches := s.launches.map fun x => (x.1, { x.2 with lr := x.2.lr.set 3 0x104, vars := (x.2.vars ++ x.2.vars).map fun v => { v with sw := [(3, 8)] } }) }

theorem witness_SchedulerSteps :
    (launching.slotOfQueue 1).any (fun x => decide ((5 % ringMod x.2.qr + ringMod x.2.qr - x.2.rptr) % ringMod x.2.qr ≤ ringMod x.2.qr / 2)) = true ∧
    (launching.slotOfQueue 1).any (fun x => decide (ringMod x.2.qr / 2 < (9 % ringMod x.2.qr + ringMod x.2.qr - x.2.rptr) % ringMod x.2.qr)) = true ∧
    ((device.slotOfQueue 1).isNone = true ∧ (8 % ringMod (device.qRec 1) + ringMod (device.qRec 1)
      - wBits (device.qRec 1) 5 16 16 % ringMod (device.qRec 1)) % ringMod (device.qRec 1) ≤ ringMod (device.qRec 1) / 2) ∧
    ((0x10001 : Word).getLsbD 16 = true ∧ ((device.putReg qdisOff 0 12 0x10001).reg qdisOff).getLsbD 17 = false) ∧
    (let s := (launching.putReg qdisOff 17 1 1).putReg qdisOff 32 12 1
     (s.reg qdisOff).getLsbD 17 = true ∧ (s.slotOfQueue (s.regBits qdisOff 32 12)).isSome = true) ∧
    (let s : State := { device.qPut 1 5 32 1 1 with pendq := [1] }
     s.candidate = some 1 ∧ (s.qslots.get? 0).isNone = true ∧ qrUsable (s.qRec 1) = true) ∧
    ((launching.qslots.get? 0).any fun x => x.rptr != x.wptr && x.met.all id && x.lr.any fun lr => launching.mayStart x.queue lr &&
      gives (launching.prepare launching.launchNo x lr) (fun _ => true) && (launching.readDeps x.qr lr x.met).isSome) = true ∧
    (let s : State := { launched with launches := launched.launches.map fun x => (x.1, { x.2 with ended := [(0, 1)] }) }
     s.launches.any (fun x => x.2.over && x.2.bits 0x30 0 57 == 0 && x.2.bits 0x18 16 1 == 0) = true) ∧
    ((List.range 4).all (fun y => (launched.dispOf y).lastAt.isNone) = true ∧ (launched.dispOf 0).gang = [] ∧ launched.restores = [] ∧ (launched.placeOne 0 fun _ => true).isSome = true) ∧
    ((divided.parts.get? 0).any (fun p => p.hold.isNone && decide (50000 ≤ p.frag)) = true ∧ divided.fragVariant 0 = some (1, 0) ∧
      divided.holdOver 0 (7, 0) = true) ∧
    (let s : State := { launched with clock := 1005000, disp := [(0, { launched.dispOf 0 with head := some (1, 0), waits := [(1, 0, 5000)] })] }
     (s.dispOf 0).head = some (1, 0) ∧ (s.dispOf 0).starve = none ∧ (s.dispOf 0).since (1, 0) = some 5000 ∧ 5000 + 1000000 ≤ s.clock) ∧
    ((growing.dispOf 0).flag = none ∧ growing.blocks.length = 1 ∧ (growing.blocks.all fun x => x.2.core / 128 == 0 && (growing.flagCause 0 x.1 x.2).isSome) = true) := by
  decide +kernel

/-! ### The context engine -/

/-- The context engine has two slots at 4 MiB, and a ring of 64 events. -/
def engined (s : State) : State :=
  { s with regs := (s.regs.set ctxBase 6).set (ctxBase + 0x10) 0x0020000000400000 }

/-- A lone team of a block of one tile and no accumulator. -/
def small : State :=
  let s := engined (place .suNop)
  { s with blocks := s.blocks.map fun x => (x.1, { x.2 with nt := 1, accs := [] }) }

/-- A SAVE of it runs. -/
def saving : State :=
  { small with
    teams := small.teams.map fun x => (x.1, { x.2 with halted := true })
    cx := some ⟨true, 1, 1, false, [0], [], []⟩ }

/-- The header of an image of block 0 of launch 1 of queue 1 is in slot 0, and a RESTORE of it waits. -/
def restoring : State :=
  let s := engined launched
  { s with
    restores := [⟨0, none, 1⟩]
    mem := ((s.mem.setRange 0x400000 (leBytes 8 0x149424358#64)).setRange 0x400008 (leBytes 8 0x100000001#64)).setRange 0x400028
      (leBytes 8 0x0001010101010100#64) }

theorem witness_ContextSteps :
    ((0x101 : Word).getLsbD 8 = true ∧ (0x101 : Word).getLsbD 10 = false ∧ (small.setReg cxcmdOff 0x101).cxRefused = false ∧
      (small.setReg cxcmdOff 0x102).cxRefused = false) ∧
    ((small.teams.get? 0).isSome = true ∧ small.blocks.length = 1 ∧ (small.blocks.all fun x => x.1 == 0 && x.2.teams == [0] && small.inTarget 1 0 x.1 x.2) = true) ∧
    (let s := small.updTeam 0 fun t => { t with stopReq := true }
     s.teams.length = 1 ∧ team s (fun t => t.stopReq && !t.halted && !t.ended) = true ∧ s.rowsDue (partOf 0) = false) ∧
    ((saving.blocks.get? 0).any fun b =>
      let s' := (saving.settleCopies 0).settleCommands b 0
      b.teams == [0] && team saving Team.halted && s'.opsSettled b && !(s'.updBlock 0 fun b => { b with settled := true }).remoteOnWay b) = true ∧
    (((saving.blocks.get? 0).any fun b => decide ((saving.blockImage 0 b false saving.cxDetail).2 ≤ saving.cxSize)) = true ∧ saving.freeSlot = some 0) := by decide +kernel

theorem witness_ContextRestores :
    (let s : State := { restoring with mem := [] }
     (match s.cxImage 0 with | .bad => true | .launch _ _ _ => false | .block _ _ _ _ _ => false) = true ∧ s.cx = none) ∧
    ((match restoring.cxImage 0 with | .bad => false | .launch _ _ _ => false | .block n lin vi _ _ => n == 1 && lin == 0 && vi == 0) = true ∧
      (List.range 4).all (fun y => (restoring.dispOf y).lastAt.isNone) = true ∧ (restoring.dispOf 0).starve = none ∧ (restoring.restoreFit 0).any (fun x => (restoring.placeOne 0 fun w => decide (x.2.2.2.2.1.prio < w.prio)).isNone) = true) ∧
    (let s : State := { small with cxq := [⟨7, 0, 0, 0, 0, 0⟩] }
     6 ≤ s.regBits ctxBase 0 4 ∧ (s.regBits (ctxBase + 8) 0 16 + 2 ^ 16 - s.regBits (ctxBase + 8) 16 16) % 2 ^ 16 < 2 ^ s.regBits ctxBase 0 4 ∧
       7 ∈ [3, 5, 6, 7, 8, 9, 12]) := by decide +kernel

/-! ### Debugging, the fabric, the host and the platform -/

/-- A lone team that has halted for debugging. -/
def halting : State := (place .suNop).putReg (tdbgOff 0) 2 1 1

theorem witness_DebugSteps :
    team (place .suNop) (fun t => !t.ended && t.skid.isNone && !t.halted) = true ∧ (halting.reg (tdbgOff 0)).getLsbD 2 = true ∧
    (let s : State := { ((place .suNop).updTeam 0 fun t => { t with skid := some (1, 2), stepping := some 1 }) with clock := 1025 }
     team s (fun t => t.skid == some (1, 2) && t.stepping == some 1 && !t.halted && !t.ended) = true ∧ 1 + 9 ≤ s.clock ∧ 1 + 1024 ≤ s.clock ∧
       s.rowsDue (partOf 0) = false) ∧
    ((place .suNop).bstop.get? 0 = none ∧ ((place .suNop).reg (bstatOff 0)).getLsbD 0 = false ∧
      AL.get? (({ place .suNop with bstop := [(0, (1, 1))], clock := 10 } : State).bstop) 0 = some (1, 1)) ∧
    (let s2 := halting.putReg (coreDbg 0) 0 10 1
     (s2.teams.get? 0).isSome = true ∧ (s2.reg (coreDbg 0)).getLsbD 11 = false ∧ (s2.reg (tdbgOff 0)).getLsbD 2 = true) ∧
    (let s2 := halting.putReg (coreDbg 0) 0 10 2
     team s2 (fun t => (s2.loadTeam 0 0 t).isSome) = true) ∧
    (0x1000000000005 : Word).getLsbD 48 = true ∧
    ([1, 2, 3, 4] : List Nat).all (fun op =>
      let s1 := (place .suNop).putReg rplBase 1 3 op
      !(s1.reg rplBase).getLsbD 5 && s1.regBits rplBase 16 8 == 0 &&
        (place .suNop).teams.all fun x => x.2.asid.toNat != ((place .suNop).putReg rplBase 1 3 op).regBits rplBase 24 16) = true := by decide +kernel

/-- A message of the team in slot 0 to itself, or to group 0, whose only member is its block. -/
def sent (mcast : Bool) : State :=
  { place .suNop with
    regs := ((place .suNop).regs.set (fabBase + 0x1000) 0x10001)
    msgs := [⟨0, mcast, 0, 0, 0, 0, [1, 2, 3, 4, 5, 6, 7, 8], [false, false], none, 0, none⟩] }

/-- The launch's set, 0, has two devices, from node 5 on; this one is the first. -/
def away : State :=
  { sent false with
    regs := ((sent false).regs.set (fabBase + 0x2000) (BitVec.ofNat 64 (1 + 2 ^ 32 + 2 ^ 49))).set (fabBase + 0x2008) 0x50000 }

/-- A whole flit of a type with a sequence number. -/
def flit (typ seq : Nat) : BitVec 512 :=
  let b : BitVec 512 := BitVec.ofNat 512 (typ * 2 ^ 58 + seq * 2 ^ 32)
  b ||| (flCrc b).setWidth 512

/-- Barrier entry 0 of set 9 for two devices, of which this one has the index given. -/
def ranked (index : Nat) : State :=
  let r := device.regs.set (fabBase + 0x2000) (BitVec.ofNat 64 (1 + 2 ^ 16 * 9 + 2 ^ 32 + 2 ^ 48 * 2))
  { device with regs := r.set (fabBase + 0x2008) (BitVec.ofNat 64 index) }

/-- Session 3 with a packet that has waited since the start, and an ACK that is due. -/
def waiting : State :=
  { device with
    tick := 277200000000
    sess := [(3, { device.sessSt 3 with unacked := [⟨pkt 2 0x4000 0 8 [], 0, 0⟩], ackDue := some 0 })] }

/-- What a packet must meet, but for its tag. -/
def framedPkt (s : State) (p : Packet) : Bool :=
  s.netUp && (s.frameOk p && p.sum == 0) && p.ver == 1 && decide (1 ≤ p.typ.toNat) && decide (p.typ.toNat < 10) && decide (p.sess.toNat < 256) &&
    s.sessValid p.sess.toNat && p.port.toNat == s.regBits (sessOff p.sess.toNat) 48 16 &&
    p.peer == (s.reg (sessOff p.sess.toNat + 16)).append (s.reg (sessOff p.sess.toNat + 8))

/-- A packet with the tag of its session's key. -/
def sealed (s : State) (p : Packet) : Packet := { p with tag := s.tagOf p }

theorem tagOf_tag (s : State) (p : Packet) (g : BitVec 128) : s.tagOf { p with tag := g } = s.tagOf p := by
  simp only [State.tagOf, Packet.header]

theorem frameOk_tag (s : State) (p : Packet) (g : BitVec 128) (h : p.sum = 0) : s.frameOk { p with tag := g } = s.frameOk p := by
  simp only [State.frameOk, h, if_true]

theorem fromPeer_tag {s : State} {p : Packet} (hf : p.sess.toNat < 256) (hg : s.sessValid p.sess.toNat = true)
    (hi : p.port.toNat = s.regBits (sessOff p.sess.toNat) 48 16)
    (hj : p.peer = (s.reg (sessOff p.sess.toNat + 16)).append (s.reg (sessOff p.sess.toNat + 8))) :
    s.fromPeer { p with tag := s.tagOf p } = true := by
  have ht := (tagOf_tag s p (s.tagOf p)).symm
  unfold State.fromPeer
  rw [Bool.and_eq_true, Bool.and_eq_true, Bool.and_eq_true, Bool.and_eq_true]
  exact ⟨⟨⟨⟨decide_eq_true hf, hg⟩, beq_iff_eq.mpr hi⟩, beq_iff_eq.mpr hj⟩, beq_iff_eq.mpr ht⟩

theorem sealed_fromPeer {s : State} {p : Packet} (h : framedPkt s p = true) : s.FromPeer (sealed s p) := by
  simp only [framedPkt, Bool.and_eq_true, beq_iff_eq, decide_eq_true_eq] at h
  obtain ⟨⟨⟨⟨⟨⟨⟨⟨a, b, k⟩, c⟩, d⟩, e⟩, f⟩, g⟩, i⟩, j⟩ := h
  have hb := (frameOk_tag s p (s.tagOf p) k).trans b
  have hp := fromPeer_tag f g i j
  unfold sealed State.FromPeer
  exact ⟨a, hb, c, d, e, hp⟩

theorem witness_PacketFromPeer : device.FromPeer (sealed device (pkt 2 0x4000 0 8 [])) := sealed_fromPeer (by decide +kernel)

theorem witness_FabricAndHostSteps :
    ((sent false).msgs[0]?.any fun m => (sent false).mayDeliver 0 m && ((sent false).messageNode m).isNone && !m.mcast) = true ∧
    ((sent true).msgs[0]?.any fun m => (sent true).mayDeliver 0 m && ((sent true).messageNode m).isNone && m.mcast && ((sent true).members m).any fun l =>
      (State.enterRouter { sent true with msgs := [] } m 5 m.source l).isSome) = true ∧
    ((sent true).msgs[0]?.any fun m => (State.copies_ { sent true with forks := [⟨0, m, [(68, [0])]⟩] } m [0]).forks == [⟨0, m, [(68, [0])]⟩]) = true ∧
    (((sent false).msgs[0]?.any fun m => let s : State := { sent false with msgs := [{ m with far := some (2, 7) }] }
        s.mayDeliver 0 { m with far := some (2, 7) } && (s.messageNode { m with far := some (2, 7) }).isNone) = true ∧
      ((sent false).msgs[0]?.any fun m => let x := { m with dest := 0x1000000000000 }
        State.mayDeliver { away with msgs := [x] } 0 x && State.messageNode { away with msgs := [x] } x == some 6) = true) ∧
    ([flit 0 0, flit 1 1, flit 2 0, flit 2 5, flit 3 0].all flGood = true ∧ flBits (flit 1 1) 58 2 = 1 ∧
      flBits (flit 1 1) 32 12 = ((device.portOf 0).rxGood + 1) % 4096 ∧ flBits (flit 2 0) 32 12 ≠ ((device.portOf 0).rxGood + 1) % 4096 ∧
      ((device.portOf 0).rxGood + 4096 - flBits (flit 2 0) 32 12) % 4096 < 2048 ∧ flBits (flit 2 5) 32 12 ≠ ((device.portOf 0).rxGood + 1) % 4096 ∧
      2048 ≤ ((device.portOf 0).rxGood + 4096 - flBits (flit 2 5) 32 12) % 4096 ∧
      flBits (flit 0 0) 58 2 = 0 ∧ flBits (flit 3 0) 58 2 = 3 ∧ flGood 1 = false) ∧
    (((ranked 0).reg (fabBase + 0x2000)).getLsbD 0 = true ∧ (ranked 0).regBits (fabBase + 0x2008) 0 16 = 0 ∧
      ((ranked 0).putReg (fabBase + 0x2018) 33 16 1).regBits (fabBase + 0x2000) 48 16 = 2 ∧
      (ranked 0).regBits (fabBase + 0x2018) 33 16 + 1 = 1 ∧ ((ranked 0).putReg (fabBase + 0x2018) 33 16 1).regBits (fabBase + 0x2018) 33 16 + 1 = 2) ∧
    ((ranked 1).regBits (fabBase + 0x2008) 0 16 ≠ 0 ∧ ({ ranked 1 with launches := [] } : State).regBits (fabBase + 0x2008) 0 16 ≠ 0) ∧
    (gives ((ranked 0).probeLook 9 0x4000 .read) (fun _ => true) = true ∧ (match (ranked 0).probeLook 8 0x4000 .read with
      | .ok _ => false
      | .error n => n == 2) = true) ∧
    (device.familyOn 0xFFFF0A00004D = true ∧ device.regBits 0x100 63 1 = 0 ∧ device.regBits 0x108 32 8 = 0 ∧
      (device.setReg 0x100 0x8000000000000000).regBits 0x100 63 1 = 1) ∧
    (framedPkt device (pkt 2 0x4000 0 8 []) = true ∧ (pkt 2 0x4000 0 8 []).seq.toNat = (device.sessSt 3).rxNext ∧ (device.sessSt 3).rxNext < 2 ^ 32 ∧
      (let u := State.passNumber { device with sess := device.sess.put 3 ((device.sessSt 3).acked 0) } (pkt 2 0x4000 0 8 [])
       gives (u.sessPieces 3 0x4000 8 .write) (fun _ => true) = true ∧
       gives (u.sessPieces 3 0x4000 8 .read) (fun l => l.all fun x => !u.memPoisoned x.2.1 x.2.2) = true ∧
       wBits (u.qRec ((5 * 2 ^ 16 + 1) % 2 ^ 12)) 1 8 16 = u.regBits (sessOff 3) 16 16 ∧ u.sessSys 3 = true ∧ (u.sysRead 0x200).isSome = true ∧
       (u.sysWrite .host 0x200 1500).isSome = true)) ∧
    (let ahead : Packet := { pkt 2 0x4000 0 8 [] with seq := 1 }
     let old : Packet := { pkt 2 0x4000 0 8 [] with seq := 0xFFFFFFFF }
     framedPkt device ahead = true ∧ framedPkt device old = true ∧ (ahead.seq.toNat + 2 ^ 32 - (device.sessSt 3).rxNext) % 2 ^ 32 = 1 ∧
       2 ^ 31 ≤ (old.seq.toNat + 2 ^ 32 - (device.sessSt 3).rxNext) % 2 ^ 32 ∧ (device.sessSt 3).ahead = []) ∧
    (waiting.sessValid 3 = true ∧ ((waiting.sessSt 3).unacked.any fun t => decide (t.at_ + waiting.rto 3 ≤ waiting.ns)) = true ∧
      ((waiting.sessSt 3).unacked.all fun t => decide (t.tries < 64)) = true ∧ (waiting.sessSt 3).ackDue = some 0 ∧ (waiting.sessSt 3).late = [] ∧
      (let s : State := { device with sess := [(3, { device.sessSt 3 with late := [pkt 1 0x4000 0 8 [1, 2, 3, 4, 5, 6, 7, 8]] })] }
       s.lateReady 3 = [0] ∧ (s.sessSt 3).ackDue = none ∧ ((s.sessSt 3).late.all s.linesFree) = true ∧ (s.sessSt 3).late ≠ [])) ∧
    ((device.reg 0).getLsbD 16 = true ∧ (({ device with regs := device.regs.set 0x108 (BitVec.ofNat 64 (4791 * 2 ^ 48 + 0x0A000001)) } : State).regBits
      0x108 0 32 = (0x0A000001 : BitVec 32).toNat)) := by decide +kernel

theorem witness_PlatformSteps :
    ((device.reg 0).getLsbD 1 = false ∧ (device.sysRead 0x200).isSome = true ∧ (device.sysWrite .mgmt 0x200 1500).isSome = true ∧ (device.reg 0).getLsbD 0 = true) ∧
    (device.spdmServed .mgmt = true ∧ device.spdmServed (.session 3) = true) ∧ (device.measurement 4).isSome = true ∧
    (capOf (device.regBits 0x200 0 13) < 3601 ∧ 3600 ≤ capOf (device.regBits 0x200 0 13)) ∧ capOf 1199 = 1200 := by decide +kernel

/-! ### Memory -/

theorem reset_canonical : State.reset.Canonical := by
  unfold State.Canonical
  decide +kernel

theorem witness_ResetState : (127 : Nat) < 128 ∧ (0x108 : Nat) ≠ 0x100 ∧ ∀ k, k < 128 → (0x108 : Nat) ≠ 0x110000 + 8 * k := by
  refine ⟨by decide, by decide, fun k _ => by omega⟩

theorem witness_MemoryWrites :
    State.reset.Canonical ∧ (∀ n, n < 32 → (State.reset.reg (memBase + 0x40000 + 32 * n)).getLsbD 0 = false) ∧ (0x4000 ≤ 8 * 0x800 ∧ 8 * 0x800 + 8 ≤ 0x4000 + 8) :=
  ⟨reset_canonical, by decide +kernel, by decide⟩

theorem witness_CanonicalKept : (demo .suNop).Canonical ∧ next (step { place .suNop with agenda := [.priorityFlowControlFrame 0] }) = true := by
  unfold State.Canonical
  decide +kernel

/-- R356: a copy's element of another device is what the answer's sector carries at its address, and the copy waits no longer for it. -/
theorem test_copy_element_of_peer :
    let s : State := { State.reset with
      copies := [owner 0], far := ⟨[⟨7, 1, .read, none, 900, 0x200, [farAccess 1 0x244 4]⟩], [], [], []⟩ }
    let s' := s.farAnswer 7 none (List.replicate 4 0 ++ [1, 2, 3, 4] ++ List.replicate 56 0) 0
    s'.copies.map Copy.got = [[(0x244, [1, 2, 3, 4], false)]] ∧ s.farOfCopy 900 = true ∧ s'.farOfCopy 900 = false := by decide

/-! ## Single steps, with results worked out in the spec -/

/-- From reset with the word of su.sub s20, 0, 1 at the fetch, one step runs it; all ones have landed at team-cycle 1 (R126). -/
theorem test_step_runs_fetched_word :
    next (step (place (.suSub 20 (.const 0) (.const 1)))) (fun u => team u fun t => t.tc == 1 && t.s.get 20 == 0xFFFFFFFFFFFFFFFF) = true := by decide +kernel

/-- su.bmsk s23, 8, 0 lands 0xFF (R126). -/
theorem test_bmsk : lands (ran (.suBmsk 23 (.const 8) (.const 0))) 1 .s 23 [0xFF] = true := by decide +kernel

/-- I[2] = 43 and D[2] = 39: a wait for 43 blocks, for 44 it is STREAM_WAIT_RANGE, for 38 it is satisfied (R135). -/
def wait43 (c : Nat) : Option (Env × Option (Nat × Stop)) :=
  ((place (.suSwait 2 (.reg 9))).updTeam 0 fun t => { t with dc := t.dc.set 2 39, ic := t.ic.set 2 43, s := t.s.set 9 (BitVec.ofNat 64 c) }).plan 0

theorem test_swait_range :
    ([43, 44, 38] : List Nat).map (fun c => (wait43 c).bind fun x => x.2.map fun y => match y.2 with
      | .fault f => (f.cause, f.detail.toNat)
      | _ => (0, 0)) = [none, some (0x0E, 2 + 2 ^ 16 * 5), none] := by decide +kernel

/-- The TS4 block of R105 in lanes 0 to 15: 3.0, −1.5, 0.25 and zeros (R163, R164). -/
def block4 (i : Instr) : State :=
  demoWith (fun t =>
    let v := ((t.va.set 1024 0x40400000).set 1025 0xBFC00000).set 1026 0x3E800000
    { t with va := v, s := t.s.set 2 0x1000F }) id paged i

theorem test_tsq : lands (after (.vaTsq (some 2) .ts4 .rne 2 (.reg 1)) (block4 (.vaTsq (some 2) .ts4 .rne 2 (.reg 1)))) 4 .va 2
    [0xFE80000C, 0xFE800016, 0xFE800002, 0xFE800000, 0] = true := by decide +kernel

theorem test_tsdq : ([(0, 0xFE80000C), (1, 0xFE800016), (2, 0xFE800002), (3, 0xFE800000)] : List (Nat × Lane)).map (fun x =>
    tsdq32 (TsFmt.m .ts4) (modesOf 0 0 .fmode) x.1 x.2 x.2) = [(0x40400000, 0), (0xBFC00000, 0), (0x3E800000, 0), (0, 0)] := by decide +kernel

/-- Callees 0x40 in even lanes and 0x80 in odd ones: vb.match of lane 0 names the even lanes (R175, R177). -/
theorem test_match :
    lands (after (.vbMatch (some 24) 2 (.reg 1)) (demoWith (fun t =>
      let v := (List.range 32).foldl (fun m l => m.set (1024 + l) (if l % 2 = 0 then 0x40 else 0x80)) t.vb
      { t with s := t.s.set 24 0xF, vb := v }) id paged (.vbMatch (some 24) 2 (.reg 1)))) 3 .vb 2 [5, 10, 5, 10] = true := by
  decide +kernel

/-- su.calli takes bits 56:0 of its operand and links the parcel after its own word (R129). -/
theorem test_calli :
    next (exec (.suCalli 30 (.reg 1)) (demo (.suCalli 30 (.reg 1)))) (fun u => lands u 1 .s 30 [2] &&
      team u fun t => t.keep.any fun k => k.taken == some 0x003456789ABCDEF0) = true := by
  decide +kernel

/-- 2^25 + 3 is rounded to the nearest even FP32 value, and 1/3 of it is not exact: NX (R106, R107, R162). -/
theorem test_int32_to_f32 : cvt32 .int32ToF32 (modesOf 0 0 .rne) 0x02000003 = (0x4C000001, 16) := by decide +kernel

/-- −1.0 to an unsigned integer saturates at 0 with NV (R162). -/
theorem test_f32_to_uint32 : cvt32 .f32ToUint32 (modesOf 0 0 .rne) 0xBF800000 = (0, 1) := by decide +kernel

/-- A store to the end of the block's scratchpad, read back little-endian (R8, R187). -/
theorem test_sts :
    next (exec (.muSts (some 2) 9 (.const 0) (.reg 2) ⟨0, 0, .core⟩) (demoWith (fun t => { t with
      s := t.s.set 2 1, a := t.a.set 9 0x7FFFC, vm := t.vm.set (1024 * 2) 0x11223344 }) id paged (.muSts (some 2) 9 (.const 0) (.reg 2) ⟨0, 0, .core⟩)))
      (fun u => u.spad == [(0x7FFFC, 0x44), (0x7FFFD, 0x33), (0x7FFFE, 0x22), (0x7FFFF, 0x11)]) = true := by decide +kernel

end Sys2Proof.Tests
end

section
/-!
PROOF. Steps (R4, R246, R313), writes of memory (R8, R287, R289) and the platform (R6, R408 to R421).
-/
namespace Sys2Proof.Machine

/-! ## Steps -/

/-- The turns within a clock put steps off and add none. -/
theorem State.mem_of_mem_inOrder {s : State} {l : List Instr} {i : Instr} (h : i ∈ s.inOrder l) : i ∈ l := by
  obtain ⟨x, hx, rfl⟩ := List.mem_map.mp h
  obtain ⟨j, hj, rfl⟩ := List.mem_map.mp (List.mem_filter.mp hx).1
  exact hj

/-- A step that is due leads to another state. -/
theorem State.due_changes {s : State} {i : Instr} (h : s.due i = true) : ∃ t, exec i s = .next t ∧ t ≠ s := by
  unfold State.due at h
  split at h
  case h_1 t ht => exact ⟨t, ht, of_decide_eq_true (Bool.and_eq_true_iff.mp h).1⟩
  case h_2 => cases h
  case h_3 => cases h

/-- What may come next is the end of the clock or a candidate that changes something. -/
theorem State.choices_sound {s : State} {i : Instr} (h : i ∈ s.choices) :
    i = .eventCounterIncrement ∨ (i ∈ s.candidates ∧ ∃ t, exec i s = .next t ∧ t ≠ s) := by
  rcases List.mem_append.mp h with h | h
  · obtain ⟨hc, hd⟩ := List.mem_filter.mp (State.mem_of_mem_inOrder h)
    exact .inr ⟨hc, State.due_changes hd⟩
  · split at h
    · exact .inl (List.mem_singleton.mp h)
    · cases h

/-- A list's element at an index, or the default past its end. -/
theorem getD_mem_or_eq {α : Type} (l : List α) (n : Nat) (d : α) : l.getD n d ∈ l ∨ l.getD n d = d := by
  by_cases h : n < l.length
  · rw [List.getD_eq_getElem _ _ h]
    exact .inl (List.getElem_mem h)
  · exact .inr (List.getD_eq_default _ _ (by omega))

/-- The device's own step is one of what may come next. -/
theorem State.ownStep_eq (s : State) : ∃ i, s.ownStep = exec i { s with ticked := false, fresh := s.fresh + 1 } ∧
    (i = .eventCounterIncrement ∨ (i ∈ s.candidates ∧ ∃ t, exec i s = .next t ∧ t ≠ s)) := by
  refine ⟨_, rfl, ?_⟩
  rcases getD_mem_or_eq s.choices (Config.freeChoice s.fresh % s.choices.length) .eventCounterIncrement with h | h
  · exact State.choices_sound h
  · exact .inl h

/-- With a step pending, that step, or the device's own while the packet's line is owned by a copy (R246). -/
theorem step_of_pending {s : State} {i : Instr} {rest : List Instr} (h : s.agenda = i :: rest) :
    step s = if s.hostWaits i then (s.hostRecall i).ownStep else exec i { s.hostServed with agenda := rest, ticked := false } := by
  unfold step
  rw [h]

/-- With nothing pending, the device's own step. -/
theorem step_of_idle {s : State} (h : s.agenda = []) : step s = s.ownStep := by
  unfold step
  rw [h]

/-- Settles O1: the match on the agenda, and what the choices of the device's own step are made of. -/
theorem stepOrder : Obligations.StepOrder := by
  refine ⟨fun s i rest h => ⟨fun hw => ?_, fun hw => ?_⟩, fun s h => ?_⟩
  · simp [step_of_pending h, hw]
  · simp [step_of_pending h, hw]
  · rw [step_of_idle h]
    exact s.ownStep_eq

/-! ## Stores written key by key -/

/-- Writes whose i-th changes key base + i only, each from what it finds there: what a key then reads as. -/
theorem SMap.get_foldl_range {w : Nat} {f : SMap w → Nat → SMap w} {v : Nat → BitVec w → BitVec w} {base : Nat}
    (hwf : ∀ m i, SMap.wf m = true → SMap.wf (f m i) = true)
    (hget : ∀ m i j, SMap.wf m = true → (f m i).get j = if j = base + i then v i (m.get j) else m.get j)
    {m : SMap w} (hm : SMap.wf m = true) (n k : Nat) :
    SMap.get ((List.range n).foldl f m) k = if base ≤ k ∧ k < base + n then v (k - base) (m.get k) else m.get k := by
  induction n with
  | zero => rw [if_neg (by omega)]; rfl
  | succ n ih =>
    have hn : SMap.wf ((List.range n).foldl f m) = true := foldl_keeps (fun m => SMap.wf m = true) f hwf _ m hm
    rw [List.range_succ, List.foldl_append, List.foldl_cons, List.foldl_nil, hget _ _ _ hn, ih]
    by_cases hk : k = base + n
    · subst hk
      simp
    · simp only [if_neg hk, show k < base + (n + 1) ↔ k < base + n by omega]

/-- The poison of a granule after a write: every granule touched is poisoned by poisoned data, one covered wholly is cleared by other
data, and the rest stay (R289). -/
theorem granPoison_get {m : SMap 1} (hm : m.wf = true) (g pa n : Nat) (p : Bool) (k : Nat) :
    (granPoison m g pa n p).get k = if pa / g ≤ k ∧ k < pa / g + ((pa + n - 1) / g + 1 - pa / g) then
      (if p then 1 else if pa ≤ k * g ∧ (k + 1) * g ≤ pa + n then 0 else m.get k) else m.get k := by
  unfold granPoison
  rw [SMap.get_foldl_range (base := pa / g)
    (v := fun i x => if p then 1 else if pa ≤ (pa / g + i) * g ∧ (pa / g + i + 1) * g ≤ pa + n then 0 else x) ?_ ?_ hm]
  · by_cases hk : pa / g ≤ k ∧ k < pa / g + ((pa + n - 1) / g + 1 - pa / g)
    · simp only [if_pos hk, Nat.add_sub_cancel' hk.1]
    · simp only [if_neg hk]
  · intro m i h
    dsimp only
    split
    · exact SMap.wf_set h _ _
    · split
      · exact SMap.wf_set h _ _
      · exact h
  · intro m i j h
    dsimp only
    split
    · exact SMap.get_set h _ _ _
    · split
      · exact SMap.get_set h _ _ _
      · exact (ite_self _).symm

/-! ## Writes of memory -/

/-- A page in no enabled window has no dirty-page bit (R286). -/
theorem State.markPage_noWindow {s : State} (h : ∀ n, n < 32 → (s.reg (memBase + 0x40000 + 32 * n)).getLsbD 0 = false) (pa : Nat) :
    s.markPage pa = s := by
  have hb : ∀ n, n ∈ List.range 32 → s.dirtyBit pa n = none := fun n hn => by
    have hw := h n (List.mem_range.mp hn)
    unfold State.dirtyBit
    simp only [hw, Bool.false_and, Bool.false_eq_true, if_false]
  unfold State.markPage
  generalize List.range 32 = l at hb
  induction l with
  | nil => rfl
  | cons n l ih =>
    rw [List.foldl_cons, hb n List.mem_cons_self]
    exact ih fun k hk => hb k (List.mem_cons_of_mem n hk)

/-- With no dirty window enabled a write marks no page (R287). -/
theorem State.markDirty_noWindow {s : State} (h : ∀ n, n < 32 → (s.reg (memBase + 0x40000 + 32 * n)).getLsbD 0 = false) (pa n : Nat) :
    s.markDirty pa n = s :=
  foldl_keeps (· = s) _ (fun t i ht => by rw [ht]; exact State.markPage_noWindow h _) _ s rfl

@[simp] theorem State.writeMem_nil (s : State) (pa : Nat) (p : Bool) : s.writeMem pa [] p = s := rfl

/-- A write of some bytes, with no dirty window enabled, changes those bytes, the poison of their granules and the caches. -/
theorem State.writeMem_noWindow {s : State} (h : ∀ n, n < 32 → (s.reg (memBase + 0x40000 + 32 * n)).getLsbD 0 = false) (pa : Nat)
    {l : List Byte} (hl : l ≠ []) (p : Bool) :
    { s.writeMem pa l p with cores := s.cores, l2 := s.l2 } =
      { s with mem := s.mem.setRange pa l, memP := granPoison s.memP 8 pa l.length p } := by
  let t : State := { s with mem := s.mem.setRange pa l, memP := granPoison s.memP 8 pa l.length p }
  have ht : t.markDirty pa l.length = t := State.markDirty_noWindow (s := t) h pa l.length
  have hu : s.writeMem pa l p = (t.l1Drop pa l.length).l2Range 0 pa l.length .ap true := by
    unfold State.writeMem
    rw [if_neg (by simpa using hl), ht]
  rw [hu]
  exact congrArg (fun u : State => { u with cores := s.cores }) (State.l2Range_frame (t.l1Drop pa l.length) 0 pa l.length .ap true)

@[simp] theorem length_leBytes (k : Nat) {n : Nat} (v : BitVec n) : (leBytes k v).length = k := by
  induction k generalizing v with
  | zero => rfl
  | succ k ih => simp [leBytes, ih]

/-- The lowest k bytes of a value, read back little-endian (R8). -/
theorem leNat_leBytes (k : Nat) {n : Nat} (v : BitVec n) : leNat (leBytes k v) = v.toNat % 256 ^ k := by
  induction k generalizing v with
  | zero => simp [leBytes, leNat, Nat.mod_one]
  | succ k ih =>
    calc leNat (leBytes (k + 1) v) = (v.setWidth 8).toNat + 256 * leNat (leBytes k (v >>> 8)) := rfl
      _ = v.toNat % 256 + 256 * (v.toNat / 256 % 256 ^ k) := by
        rw [ih, BitVec.toNat_setWidth, BitVec.toNat_ushiftRight, Nat.shiftRight_eq_div_pow]
      _ = v.toNat % 256 ^ (k + 1) := by rw [Nat.pow_succ', Nat.mod_mul]

/-- A range read after it was written gives the bytes written. -/
theorem SMap.getRange_setRange {w : Nat} {m : SMap w} (hw : SMap.wf m = true) (k : Nat) (l : List (BitVec w)) :
    (m.setRange k l).getRange k l.length = l :=
  List.ext_getElem (by simp [SMap.getRange]) fun i _ hi => by
    simpa [SMap.getRange] using SMap.get_setRange_in hw k l i hi

/-- Settles O59: no byte written changes nothing; otherwise memory and its poison are as the write's folds leave them. -/
theorem memoryWrites : Obligations.MemoryWrites := by
  intro s u pa l p hc hwin hu
  subst hu
  have ⟨hwf, hwfP, _⟩ := hc
  rcases eq_or_ne l [] with rfl | hl
  · exact ⟨hc, fun i hi => absurd hi (Nat.not_lt_zero i), fun _ _ => rfl, fun g hlo hhi => absurd (Nat.le_trans hhi hlo) (by simp),
      fun _ _ => rfl, rfl, fun v hv => nomatch hv⟩
  have hframe := State.writeMem_noWindow hwin pa hl p
  have hmem : (s.writeMem pa l p).mem = s.mem.setRange pa l := congrArg State.mem hframe
  have hmemP : (s.writeMem pa l p).memP = granPoison s.memP 8 pa l.length p := congrArg State.memP hframe
  have hlen : 0 < l.length := List.length_pos_iff.mpr hl
  refine ⟨s.writeMem_canonical pa l p hc, fun i hi => ?_, fun a ha => ?_, fun g hlo hhi => ?_, fun g hg => ?_, ?_, fun v hv => ?_⟩
  · rw [hmem, SMap.get_setRange_in hwf]
  · rw [hmem, SMap.get_setRange_out _ _ _ _ ha]
  · have hcov : pa ≤ g * 8 ∧ (g + 1) * 8 ≤ pa + l.length := by omega
    rw [hmemP, granPoison_get hwfP, if_pos (by omega), if_pos hcov]
  · rw [hmemP, granPoison_get hwfP, if_neg (by omega)]
  · exact congrArg (fun u : State => { u with mem := s.mem, memP := s.memP }) hframe
  · have hread : (s.writeMem pa l p).readMem pa 8 = leBytes 8 v := by
      rw [State.readMem, hmem, hv]
      simpa using SMap.getRange_setRange hwf pa (leBytes 8 v)
    rw [State.mem64, hread, leNat_leBytes, Nat.mod_eq_of_lt (show v.toNat < 256 ^ 8 from v.isLt), BitVec.ofNat_toNat, BitVec.setWidth_eq]

/-! ## The map of a bench's cores (R6) -/

/-- One of the cores left is picked. -/
theorem pickCore_mem (k : Nat) {left : List Nat} (h : left ≠ []) : pickCore k left ∈ left := by
  have hlt : Config.coreChoice k % left.length < left.length := Nat.mod_lt _ (List.length_pos_iff.mpr h)
  rw [pickCore, List.getD_eq_getElem _ _ hlt]
  exact List.getElem_mem hlt

/-- The cores left and the cores taken after some picks. -/
def benchPicks (bench n : Nat) : List Nat × List Nat :=
  (List.range n).foldl (fun a i => (a.1.erase (pickCore (8 * bench + i) a.1), a.2 ++ [pickCore (8 * bench + i) a.1])) (List.range 9, [])

theorem benchMap_eq (bench : Nat) : benchMap bench = (benchPicks bench 8).2 := rfl

theorem benchPicks_succ (bench n : Nat) : benchPicks bench (n + 1) =
    ((benchPicks bench n).1.erase (pickCore (8 * bench + n) (benchPicks bench n).1),
      (benchPicks bench n).2 ++ [pickCore (8 * bench + n) (benchPicks bench n).1]) := by
  unfold benchPicks
  rw [List.range_succ (n := n), List.foldl_append, List.foldl_cons, List.foldl_nil]

/-- Up to nine picks take a core each, and the cores taken with those left are the nine. -/
theorem benchPicks_perm (bench : Nat) {n : Nat} (h : n ≤ 9) :
    ((benchPicks bench n).1 ++ (benchPicks bench n).2).Perm (List.range 9) ∧ (benchPicks bench n).2.length = n := by
  induction n with
  | zero => exact ⟨.refl _, rfl⟩
  | succ n ih =>
    obtain ⟨hperm, hlen⟩ := ih (by omega)
    have hleft : (benchPicks bench n).1 ≠ [] := fun hnil => by
      have := hperm.length_eq
      simp [hnil, hlen] at this
      omega
    have hpick := pickCore_mem (8 * bench + n) hleft
    rw [benchPicks_succ]
    generalize pickCore (8 * bench + n) (benchPicks bench n).1 = p at *
    generalize benchPicks bench n = a at *
    have hmove : (a.1.erase p ++ (a.2 ++ [p])).Perm (p :: (a.1.erase p ++ a.2)) := by
      rw [← List.append_assoc]
      exact List.perm_append_singleton ..
    have hback : (p :: (a.1.erase p ++ a.2)).Perm (a.1 ++ a.2) := (List.perm_cons_erase hpick).symm.append_right a.2
    exact ⟨hmove.trans (hback.trans hperm), by simp [hlen]⟩

/-- A bench's logical cores are eight different ones of its nine. -/
theorem benchMap_spec (bench : Nat) : (benchMap bench).length = 8 ∧ (benchMap bench).Nodup ∧ ∀ p, p ∈ benchMap bench → p < 9 := by
  obtain ⟨hperm, hlen⟩ := benchPicks_perm bench (n := 8) (by omega)
  refine ⟨hlen, (List.nodup_append.mp (hperm.nodup_iff.mpr List.nodup_range)).2.1, fun p hp => ?_⟩
  exact List.mem_range.mp (hperm.mem_iff.mp (List.mem_append_right _ hp))

/-- The physical position that the boot map gives to a logical core. -/
theorem bootMap_get {c : Nat} (h : c < 512) : ∃ hc : c % 8 < (benchMap (c / 8)).length,
    (bootMap.get c).toNat = (benchMap (c / 8))[c % 8] ∧ (bootMap.get c).toNat < 9 := by
  obtain ⟨hlen, -, hlt⟩ := benchMap_spec (c / 8)
  have hc : c % 8 < (benchMap (c / 8)).length := by omega
  have hget : bootMap.get c = BitVec.ofNat 4 ((benchMap (c / 8)).getD (c % 8) 0) := by
    unfold bootMap
    rw [SMap.get_foldl_range (base := 0) (v := fun c _ => BitVec.ofNat 4 ((benchMap (c / 8)).getD (c % 8) 0)) (fun m i hm => SMap.wf_set hm _ _)
      (fun m i j hm => by rw [SMap.get_set hm]; split <;> simp_all) rfl, if_pos (by omega), Nat.sub_zero]
  have hval := hlt _ (List.getElem_mem hc)
  have hnat : (bootMap.get c).toNat = (benchMap (c / 8))[c % 8] := by
    rw [hget, List.getD_eq_getElem _ _ hc, BitVec.toNat_ofNat, Nat.mod_eq_of_lt (by omega)]
  exact ⟨hc, hnat, hnat ▸ hval⟩

/-- Two logical cores of one bench have different physical positions. -/
theorem bootMap_get_ne {c d : Nat} (hc : c < 512) (hd : d < 512) (hb : c / 8 = d / 8) (hne : c ≠ d) : bootMap.get c ≠ bootMap.get d := by
  intro he
  obtain ⟨hcl, hcv, -⟩ := bootMap_get hc
  obtain ⟨hdl, hdv, -⟩ := bootMap_get hd
  have hsame : (benchMap (c / 8))[c % 8] = (benchMap (c / 8))[d % 8]'(hb ▸ hdl) := by
    rw [← hcv, he, hdv]
    simp only [hb]
  have := (benchMap_spec (c / 8)).2.1.getElem_inj_iff.mp hsame
  omega

/-! ## Boot (R410) -/

/-- Invalidation of L1 sectors keeps the number of cores, and the rest of a write changes none. -/
theorem State.length_cores_writeMem (s : State) (pa : Nat) (l : List Byte) (p : Bool) : (s.writeMem pa l p).cores.length = s.cores.length := by
  unfold State.writeMem
  split
  case isTrue => rfl
  case isFalse =>
    have hl2 := fun t : State => (congrArg State.cores (t.l2Range_frame 0 pa l.length .ap true) :)
    have hmark := fun t : State => (congrArg State.cores (t.markDirty_frame pa l.length) :)
    simp only at hl2 hmark
    rw [hl2, State.l1Drop, List.length_map, hmark]

/-- PSTAT reads what is written to it first after reset; its reset value 0 is not listed. -/
theorem resetRegs_set_zero {v : Word} (h : v ≠ 0) : (SMap.set resetRegs 0 v).get 0 = v := by
  have h' : v ≠ 0#64 := h
  simp [resetRegs, SMap.set, SMap.get, h']

/-- What a boot from the bank chosen leaves: every core and partition, PSTAT, the bank and the map of cores. -/
theorem State.powered_running (s : State) (b : Nat) : let u := (s.powered s.plat).running b false
    u.cores.length = 512 ∧ u.parts.length = 2048 ∧ u.plat.bank = b ∧ u.teams = [] ∧
      u.regs.get 0 = 0x55550000FF71 ∧ u.coreMap = bootMap := by
  unfold State.running
  refine ⟨?_, ?_, ?_, ?_, ?_, ?_⟩
  · rw [State.length_cores_writeMem, List.length_map, List.length_range]
  · rw [State.writeMem_parts, List.length_map, List.length_range]
  · rw [State.writeMem_plat]
  · rw [State.writeMem_teams]; rfl
  · rw [State.writeMem_regs]
    exact resetRegs_set_zero (v := 0x55550000FF71) (by decide)
  · rw [State.writeMem_coreMap]

/-! ## Management commands (R412, R416) -/

/-- A record, or a default, after a write. -/
theorem AL.getD_put {α : Type} (l : AL α) (k : Nat) (v : α) (j : Nat) (d : α) : (l.put k v).getD j d = if j = k then v else l.getD j d := by
  unfold AL.getD
  split
  case isTrue h => rw [h, AL.get?_put_eq]; rfl
  case isFalse h => rw [AL.get?_put_ne l k v h]

/-- The minima that RAISE_SVN_MINIMUM leaves: of each kind of image the higher of its own and the given one. -/
theorem raisedMinima_spec (svn : AL Nat) (f : Nat → Nat) : let m := [1, 2, 3].foldl (fun (m : AL Nat) k => m.put k (max (m.getD k 0) (f k))) svn
    (∀ k, 1 ≤ k → k ≤ 3 → m.getD k 0 = max (svn.getD k 0) (f k)) ∧ ∀ k, (k < 1 ∨ 3 < k) → m.get? k = svn.get? k := by
  refine ⟨fun k hlo hhi => ?_, fun k hk => ?_⟩
  · simp only [List.foldl_cons, List.foldl_nil, AL.getD_put]
    interval_cases k <;> rfl
  · simp only [List.foldl_cons, List.foldl_nil]
    rw [AL.get?_put_ne _ _ _ (by omega), AL.get?_put_ne _ _ _ (by omega), AL.get?_put_ne _ _ _ (by omega)]

section
variable {s : State} (h : (s.reg 0).getLsbD 1 = false)
include h

/-- Outside recovery state the management port reaches every register and every command. -/
theorem State.mgmtBarred_eq_false (off : Nat) : s.mgmtBarred off = false := by
  rw [State.mgmtBarred, State.recovering, h, Bool.false_and]

theorem State.unlessRecovery_eq (f : State → State) : s.unlessRecovery f = f s := by
  rw [State.unlessRecovery, State.recovering, h, if_neg Bool.false_ne_true]

theorem exec_registerRead {off : Nat} {v : Word} (hv : s.sysRead off = some v) :
    exec (.registerRead off) s = .next (s.mgmtAnswer 0 (leBytes 8 v)) := by
  show execRegisterRead off s = _
  rw [execRegisterRead, State.mgmtBarred_eq_false h, if_neg Bool.false_ne_true, hv]

theorem exec_registerWrite {off : Nat} {v : Word} {u : State} (hu : s.sysWrite .mgmt off v = some u) :
    exec (.registerWrite off v) s = .next (u.mgmtAnswer 0 []) := by
  show execRegisterWrite off v s = _
  rw [execRegisterWrite, State.mgmtBarred_eq_false h, if_neg Bool.false_ne_true, hu]

theorem exec_installSession {n : Nat} (key : BitVec 256) (words : List Word) (hn : n < 256) (hr : (s.reg 0).getLsbD 0 = true) :
    exec (.installSession n key words) s = .next (State.mgmtAnswer ([3, 2, 1, 0].foldl (fun (s : State) i =>
      (s.sysWrite .mgmt (sessOff n + 8 * i) (words.getD i 0)).getD s) { s with sess := s.sess.put n { s.sessSt n with key := key } }) 0 []) := by
  show execInstallSession n key words s = _
  rw [execInstallSession, State.unlessRecovery_eq h, if_neg (by simp [hr]; omega)]

theorem exec_raiseSvnMinimum : exec .raiseSvnMinimum s = .next (State.mgmtAnswer { s with plat := { s.plat with
    svn := [1, 2, 3].foldl (fun (m : AL Nat) k => m.put k (max (m.getD k 0) (fwSvn (s.plat.image s.plat.bank k)))) s.plat.svn } } 0 []) := by
  show execRaiseSvnMinimum s = _
  rw [execRaiseSvnMinimum, State.unlessRecovery_eq h]

end

/-- COMMIT_IMAGE stores an accepted image of kind 1 to 3 in the other bank, which boots next, and answers 1 to any other (R412). -/
theorem exec_commitImage {s : State} {l : List Byte} {k : Nat} (hl : l = s.plat.chunk.getRange 0 s.plat.chunkLen)
    (hk : k = ((l.drop 4).headD 0).toNat) :
    exec .commitImage s = .next (if 1 ≤ k ∧ k ≤ 3 ∧ s.plat.accepts k l = true then State.mgmtAnswer { s with
      plat := { s.plat with chunk := [], chunkLen := 0, flash := s.plat.flash.put (4 * (1 - s.plat.bank) + k) l, boot := 1 - s.plat.bank } } 0 []
    else State.mgmtAnswer { s with plat := { s.plat with chunk := [], chunkLen := 0 } } 1 []) := by
  subst hk hl
  show execCommitImage s = _
  simp only [execCommitImage, Bool.and_eq_true, decide_eq_true_eq, and_assoc]

/-! ## Attestation (R413) -/

section
variable {s : State} {via : Via} (h : s.spdmServed via = true)
include h

/-- A requester that is served gets the response. -/
theorem State.spdmAnswer_eq (data : List Byte) : s.spdmAnswer via data = { s with out := s.out ++ [.spdm via data] } := if_pos h

/-- The measurement asked for, unsigned. -/
theorem exec_getMeasurements {i : Nat} {l : List Byte} (h0 : i ≠ 0) (hall : i ≠ 255) (hl : s.measurement i = some l) :
    exec (.getMeasurements via i none) s = .next { s with out := s.out ++ [.spdm via l] } := by
  show execGetMeasurements via i none s = _
  simp only [execGetMeasurements, if_neg h0, if_neg hall, hl, State.spdmAnswer_eq h]

end

/-! ## Power, temperature, cooling (R418, R420, R421) -/

theorem exec_powerCapStep {leaf : Nat} (h : leaf < 4) (s : State) (watts : Nat) : exec (.powerCapStep leaf watts) s =
    .next (if capOf (s.regBits 0x200 0 13) < watts then s.setStep leaf (s.stepOf leaf - 1) else s.setStep leaf (min 5 (s.stepOf leaf + 1))) := by
  show execPowerCapStep leaf watts s = _
  rw [execPowerCapStep, if_neg (by omega)]

theorem exec_thermalThrottling {leaf : Nat} (h : leaf < 4) (s : State) :
    exec (.thermalThrottling leaf) s = .next ((s.setStep leaf (s.stepOf leaf - 1)).platformEvent 2) := by
  show execThermalThrottling leaf s = _
  rw [execThermalThrottling, if_neg (by omega)]

/-- The cap applied, by the value written: none gives 3600 W, and any other is held between 1200 W and 3600 W (R420). -/
theorem capOf_spec (c : Nat) : (c = 0 → capOf c = 3600) ∧ (1 ≤ c → c < 1200 → capOf c = 1200) ∧ (1200 ≤ c → c ≤ 3600 → capOf c = c) ∧
    (3600 < c → capOf c = 3600) := by
  unfold capOf
  refine ⟨fun h => ?_, fun h₁ h₂ => ?_, fun h₁ h₂ => ?_, fun h => ?_⟩
  · rw [if_pos h]
  · rw [if_neg (by omega), if_pos h₂]
  · rw [if_neg (by omega), if_neg (by omega), if_pos h₂]
  · rw [if_neg (by omega), if_neg (by omega), if_neg (by omega)]

/-- Setting the step of every leaf: each waits for the step given, or for 0.6 GHz while the coolant limits it, and the limit stays. -/
theorem State.setStep_leaves (s : State) (v : Nat) : let u := [0, 1, 2, 3].foldl (fun s x => s.setStep x v) s
    u.plat.cool = s.plat.cool ∧ ∀ leaf, leaf < 4 → u.plat.clk.get? leaf = some (if s.plat.cool then 0 else v) := by
  refine ⟨rfl, fun leaf hleaf => ?_⟩
  simp only [List.foldl_cons, List.foldl_nil, State.setStep]
  interval_cases leaf <;> simp [AL.get?_put_eq, AL.get?_put_ne]

/-- Settles O57: the equation of each command, with the fold lemmas for the map of cores, the minima and the leaves' clocks. -/
theorem platformSteps : Obligations.PlatformSteps := by
  refine ⟨fun s => ⟨?_, ?_, rfl⟩, fun s off h => ⟨?_, ?_, ?_, ?_⟩, fun _ _ _ => rfl, fun s l k => exec_commitImage, fun _ => rfl,
    fun s via h => ⟨?_, ?_, ?_, ?_⟩, fun _ _ => rfl, fun s leaf watts h => ⟨?_, ?_, exec_thermalThrottling h s⟩, capOf_spec, fun s => ?_⟩
  · rfl
  · rintro b u rfl
    obtain ⟨hcores, hparts, hbank, hteams, hstat, hmap⟩ := s.powered_running b
    rw [hmap]
    exact ⟨hcores, hparts, hbank, hteams, hstat, fun c hc => (bootMap_get hc).2.2, fun c d => bootMap_get_ne⟩
  · exact fun v hv => exec_registerRead h hv
  · exact fun v u hu => exec_registerWrite h hu
  · rintro n key words u hn hr rfl
    exact exec_installSession h key words hn hr
  · exact ⟨_, exec_raiseSvnMinimum h, raisedMinima_spec _ _⟩
  · exact congrArg _ (State.spdmAnswer_eq h _)
  · exact fun a n => congrArg _ (State.spdmAnswer_eq h _)
  · rintro nonce m rfl
    exact congrArg _ (State.spdmAnswer_eq h _)
  · exact fun i l h0 hall hl => exec_getMeasurements h h0 hall hl
  · intro hw
    rw [exec_powerCapStep h, if_pos hw]
    rfl
  · intro hw
    rw [exec_powerCapStep h, if_neg (by omega)]
    rfl
  · obtain ⟨hcool, hlim⟩ := State.setStep_leaves { s with plat := { s.plat with cool := true } } 0
    obtain ⟨hfree, hrec⟩ := State.setStep_leaves { s with plat := { s.plat with cool := false } } 5
    exact ⟨_, _, _, rfl, rfl, rfl, rfl, rfl, rfl, rfl, rfl, rfl, hcool, rfl, hfree, fun leaf hl => ⟨hlim leaf hl, hrec leaf hl⟩⟩

end Sys2Proof.Machine
end

section
/-!
PROOF. What the proofs about slot operations share: updates of one team, the slot that runs, and what it leaves as it was (R29, R32, R57,
R67, R181).
-/
namespace Sys2Proof.Machine

/-! ## Updates of one team -/

/-- Two changes that agree on the record are one. -/
theorem AL.upd_congr {α : Type} (l : AL α) (k : Nat) {f g : α → α} (h : ∀ v, l.get? k = some v → f v = g v) : l.upd k f = l.upd k g := by
  induction l with
  | nil => rfl
  | cons e r ih =>
    obtain ⟨i, u⟩ := e
    by_cases hi : i = k
    · simp [AL.upd, hi, h u (by simp [AL.get?, hi])]
    · simp [AL.upd, hi, ih fun v hv => h v (by simpa [AL.get?, hi] using hv)]

theorem State.updTeam_updTeam (s : State) (z : Nat) (f g : Team → Team) : (s.updTeam z f).updTeam z g = s.updTeam z fun t => g (f t) :=
  congrArg (fun l => { s with teams := l }) (AL.upd_upd s.teams z f g)

theorem State.updTeam_congr {s : State} {z : Nat} {t : Team} {f g : Team → Team} (ht : s.teams.get? z = some t) (h : f t = g t) :
    s.updTeam z f = s.updTeam z g :=
  congrArg (fun l => { s with teams := l }) (AL.upd_congr s.teams z fun v hv => by
    rw [ht] at hv
    cases hv
    exact h)

theorem State.updTeam_eq_self {s : State} {z : Nat} {f : Team → Team} (h : ∀ t, s.teams.get? z = some t → f t = t) : s.updTeam z f = s :=
  congrArg (fun l => { s with teams := l }) (AL.upd_same s.teams z f h)

theorem State.updBlock_congr {s : State} {k : Nat} {b : Block} {f g : Block → Block} (hb : s.blocks.get? k = some b) (h : f b = g b) :
    s.updBlock k f = s.updBlock k g :=
  congrArg (fun l => { s with blocks := l }) (AL.upd_congr s.blocks k fun v hv => by
    rw [hb] at hv
    cases hv
    exact h)

/-! ## The slot that runs -/

/-- The operation of a word that an instruction names. -/
theorem Ctx.opOf_spec {c : Ctx} {i : Instr} {k : Nat} {o : OpSt} (h : c.opOf i = some (k, o)) :
    c.ops[k]? = some o ∧ o.op.ins = i ∧ o.st ≠ .done := by
  unfold Ctx.opOf at h
  split at h
  · cases h
  · rename_i n hn
    obtain ⟨p, hp, heq⟩ := Option.map_eq_some_iff.mp h
    cases heq
    obtain ⟨hlt, hpred, -⟩ := List.findIdx?_eq_some_iff_getElem.mp hn
    rw [List.getElem?_eq_getElem hlt] at hp
    cases hp
    simpa using hpred

/-- A slot whose checks have passed stands in the state of its view. -/
theorem State.checkedSlot_slotOf {s : State} {i : Instr} {x : Slot} (h : s.checkedSlot i = some x) : x.e.s.slotOf i = some x := by
  unfold State.checkedSlot at h
  cases hy : s.slotOf i with
  | none => simp [hy] at h
  | some y =>
    simp only [hy] at h
    split at h
    · cases h
      rw [(State.slotOf_spec hy).2.1, hy]
    · split at h
      · cases h
      · rw [(State.slotOf_spec h).2.1, h]

/-- What a slot that runs sees: its team, its block and its word in the state of its view. -/
theorem State.runningSlot_env {s : State} {i : Instr} {x : Slot} (h : s.runningSlot i = some x) :
    x.e.s.teams.get? x.e.z = some x.e.t ∧ x.e.s.blocks.get? x.e.t.blk = some x.e.b ∧ x.e.t.ctx = some x.e.c ∧
      x.e.c.ops[x.k]? = some x.o ∧ x.o.op.ins = i ∧ x.o.st ≠ .done := by
  obtain ⟨-, -, ht, hb, hc, ho⟩ := State.slotOf_spec (State.checkedSlot_slotOf (State.runningSlot_spec h).1)
  obtain ⟨hk, hi, hst⟩ := Ctx.opOf_spec ho
  exact ⟨ht, hb, hc, hk, hi, hst⟩

theorem State.runningSlot_team {s : State} {i : Instr} {x : Slot} (h : s.runningSlot i = some x) :
    x.e.s.teams.get? x.e.z = some x.e.t := (State.runningSlot_env h).1

theorem State.runningSlot_block {s : State} {i : Instr} {x : Slot} (h : s.runningSlot i = some x) :
    x.e.s.blocks.get? x.e.t.blk = some x.e.b := (State.runningSlot_env h).2.1

/-- An operation that makes no access has no place to fix (R181). -/
theorem State.fixPlaces_noAccess {s : State} {x : Slot} (h : x.e.accesses x.o.op.ins = none) : s.fixPlaces x = s := by
  unfold State.fixPlaces
  rw [h]

/-- The checks of an operation that makes no access leave the state as it was. -/
theorem State.runningSlot_state {s : State} {i : Instr} {x : Slot} (h : s.runningSlot i = some x) (hi : ∀ e : Env, e.accesses i = none) :
    x.e.s = s := by
  have hx := (State.runningSlot_spec h).1
  unfold State.checkedSlot at hx
  cases hy : s.slotOf i with
  | none => simp [hy] at hx
  | some y =>
    simp only [hy] at hx
    obtain ⟨-, hys, -, -, -, ho⟩ := State.slotOf_spec hy
    split at hx
    · cases hx
      exact hys
    · split at hx
      · cases hx
      · have hfix : s.fixPlaces y = s := State.fixPlaces_noAccess (by rw [(Ctx.opOf_spec ho).2.1]; exact hi _)
        rw [hfix] at hx
        exact (State.slotOf_spec hx).2.1

/-! ## What the end of a slot's clock leaves -/

/-- A team with one operation of its word in progress standing elsewhere. -/
def Team.setOpSt (t : Team) (k : Nat) (st : OpStatus) : Team :=
  { t with ctx := t.ctx.map fun c => { c with ops := c.ops.modify k fun o => { o with st := st } } }

/-- Where an operation stands is part of its team's word in progress. -/
theorem State.setSt_eq_updTeam (s : State) (z k : Nat) (st : OpStatus) : s.setSt z k st = s.updTeam z fun t => t.setOpSt k st := rfl

/-- A change of a team with the end of its slot's clock is one change. -/
theorem State.updTeam_setSt (s : State) (z k : Nat) (st : OpStatus) (g : Team → Team) :
    (s.updTeam z g).setSt z k st = s.updTeam z fun t => (g t).setOpSt k st := State.updTeam_updTeam ..

/-- A state differs in one team only, and that team by a relation. -/
def OnTeam (r : Team → Team → Prop) (s : State) (z : Nat) (u : State) : Prop := ∃ g : Team → Team, u = s.updTeam z g ∧ ∀ t, r t (g t)

theorem OnTeam.refl {r : Team → Team → Prop} (hr : ∀ t, r t t) (s : State) (z : Nat) : OnTeam r s z s :=
  ⟨fun t => t, (State.updTeam_eq_self fun _ _ => rfl).symm, hr⟩

theorem OnTeam.trans {r : Team → Team → Prop} (hr : ∀ {a b c}, r a b → r b c → r a c) {s t u : State} {z : Nat} (h : OnTeam r s z t)
    (h' : OnTeam r t z u) : OnTeam r s z u := by
  obtain ⟨f, rfl, hf⟩ := h
  obtain ⟨g, rfl, hg⟩ := h'
  exact ⟨_, State.updTeam_updTeam .., fun t => hr (hf t) (hg (f t))⟩

/-- The end of the slot's clock. -/
theorem OnTeam.setSt {r : Team → Team → Prop} (hr : ∀ {a b} k st, r a b → r a (b.setOpSt k st)) {s u : State} {z : Nat}
    (h : OnTeam r s z u) (k : Nat) (st : OpStatus) : OnTeam r s z (u.setSt z k st) := by
  obtain ⟨g, rfl, hg⟩ := h
  exact ⟨_, State.updTeam_setSt .., fun t => hr k st (hg t)⟩

/-- What a scalar operation does: it takes effect and has committed, or it blocks (R32). -/
theorem runScalar_cases {i : Instr} {s u : State} {x : Slot} {ready : Env → Bool} {eff : Env → State → State}
    (h : s.runningSlot i = some x) (hu : runScalar i s ready eff = .next u) : u = x.doneIn (eff x.e x.e.s) ∨ u = x.blocked := by
  by_cases hq : (x.e.queueReady i && ready x.e) = true
  · obtain ⟨hq, hr⟩ := (Bool.and_eq_true _ _).mp hq
    rw [runScalar_done h hq hr] at hu
    cases hu
    exact .inl rfl
  · rw [runScalar_blocks h (Bool.not_eq_true _ ▸ hq)] at hu
    cases hu
    exact .inr rfl

end Sys2Proof.Machine
end

section
/-!
PROOF. The integer functions that SU, VA and VB share, as the rules give them over exact integers (R65, R126, R156), and bit fields of words.
-/
namespace Sys2Proof.Machine

/-! ## Arithmetic -/

theorem Rule.add_eq {n : Nat} (a b : BitVec n) : Rule.add a b = a + b := by
  simp [Rule.add, BitVec.ofNat_add]

theorem Rule.sub_eq {n : Nat} (a b : BitVec n) : Rule.sub a b = a - b := by
  refine BitVec.eq_of_toInt_eq ?_
  rw [Rule.sub, BitVec.toInt_ofInt, BitVec.toInt_sub, BitVec.toInt_eq_toNat_bmod, BitVec.toInt_eq_toNat_bmod, Int.bmod_sub_bmod,
    Int.sub_bmod_bmod]

theorem Rule.mul_eq {n : Nat} (a b : BitVec n) : Rule.mul a b = a * b := by
  simp [Rule.mul, BitVec.ofNat_mul]

/-! ## Shifts -/

theorem shlW_eq_rule {n : Nat} (a : BitVec n) (b : Nat) : shlW a b = Rule.shl a b := by
  unfold shlW Rule.shl
  split
  · exact BitVec.eq_of_toNat_eq (by simp [Nat.shiftLeft_eq])
  · rfl

theorem shrW_eq_rule {n : Nat} (a : BitVec n) (b : Nat) : shrW a b = Rule.shr a b := by
  unfold shrW Rule.shr
  split
  · refine BitVec.eq_of_toNat_eq ?_
    rw [BitVec.toNat_ushiftRight, Nat.shiftRight_eq_div_pow, BitVec.toNat_ofNat,
      Nat.mod_eq_of_lt (Nat.lt_of_le_of_lt (Nat.div_le_self _ _) a.isLt)]
  · rfl

/-- An arithmetic shift of a signed word past its width leaves its sign. -/
theorem sarW_eq_rule {n : Nat} (a : BitVec n) (b : Nat) : sarW a b = Rule.sar a b := by
  unfold sarW Rule.sar
  have hlt : a.toInt < 2 ^ (n - 1) := a.toInt_lt
  have hle : -2 ^ (n - 1) ≤ a.toInt := a.le_toInt
  split
  · rw [← BitVec.ofInt_toInt (x := a.sshiftRight b), BitVec.toInt_sshiftRight, Int.shiftRight_eq_div_pow]
    norm_cast
  · rw [← BitVec.ofInt_toInt (x := a.sshiftRight (n - 1)), BitVec.toInt_sshiftRight, Int.shiftRight_eq_div_pow]
    push_cast
    split
    · rename_i h0
      rw [Int.ediv_eq_zero_of_lt h0 hlt]
      rfl
    · rename_i h0
      rw [show a.toInt / 2 ^ (n - 1) = -1 from Int.ediv_eq_iff_of_pos (by positivity) |>.mpr ⟨by omega, by omega⟩]

/-! ## Comparisons -/

theorem minS_eq_rule {n : Nat} (a b : BitVec n) : minS a b = Rule.min a b := by
  simp only [minS, Rule.min, BitVec.slt_iff_toInt_lt, ← Int.not_lt, ite_not]

/-- The two operands of a maximum that compare equal are the same word. -/
theorem maxS_eq_rule {n : Nat} (a b : BitVec n) : maxS a b = Rule.max a b := by
  simp only [maxS, Rule.max, BitVec.slt_iff_toInt_lt]
  rcases Int.lt_trichotomy a.toInt b.toInt with h | h | h
  · rw [if_pos h, if_pos (by omega)]
  · rw [BitVec.eq_of_toInt_eq h, ite_self, ite_self]
  · rw [if_neg (by omega), if_neg (by omega)]

theorem minU_eq_rule {n : Nat} (a b : BitVec n) : minU a b = Rule.minu a b := by
  simp only [minU, Rule.minu, BitVec.lt_def, ← Nat.not_lt, ite_not]

theorem maxU_eq_rule {n : Nat} (a b : BitVec n) : maxU a b = Rule.maxu a b := by
  simp only [maxU, Rule.maxu, BitVec.lt_def]
  rcases Nat.lt_trichotomy a.toNat b.toNat with h | h | h
  · rw [if_pos h, if_pos (by omega)]
  · rw [BitVec.eq_of_toNat_eq h, ite_self, ite_self]
  · rw [if_neg (by omega), if_neg (by omega)]

/-- The integer conditions (R65). -/
theorem Cond.holds_iff_rule {n : Nat} (c : Cond) (a b : BitVec n) : c.holds a b = true ↔ Rule.holds c a b := by
  cases c <;> simp [Cond.holds, Rule.holds, BitVec.slt_iff_toInt_lt, BitVec.ult_iff_lt, BitVec.lt_def, BitVec.toNat_inj,
    ← Bool.not_eq_true]

/-- The truth value of a condition. -/
theorem boolBits_eq_of_truth {n m : Nat} {c : Cond} {a b : BitVec n} {v : BitVec m} (h : Rule.Truth (Rule.holds c a b) v) :
    boolBits (c.holds a b) = v := by
  obtain ⟨ht, hf⟩ := h
  by_cases hc : Rule.holds c a b
  · rw [ht hc, Cond.holds_iff_rule c a b |>.mpr hc]
    rfl
  · rw [hf hc, Bool.eq_false_iff.mpr fun h => hc (Cond.holds_iff_rule c a b |>.mp h)]
    rfl

/-! ## Bit counts -/

theorem popc_eq_ones {n : Nat} (a : BitVec n) : popc a = Rule.ones a := (List.countP_eq_length_filter ..).symm

/-- The zeros above the highest 1 bit are counted from its logarithm. -/
theorem clz_eq_of_leading {n : Nat} {a : BitVec n} {k : Nat} (h : Rule.Leading a k) : clz a = k := by
  obtain ⟨hk, hz, hone⟩ := h
  unfold clz
  split
  · rename_i ha
    subst ha
    by_contra hne
    simpa using hone (by omega)
  · rename_i ha
    have hlt : k < n := by
      by_contra hge
      exact ha (BitVec.eq_of_getLsbD_eq fun i hi => (hz i (by omega)).trans BitVec.getLsbD_zero.symm)
    have ha' : a.toNat ≠ 0 := fun h0 => ha (BitVec.eq_of_toNat_eq (by simpa using h0))
    have hlog : a.toNat.log2 = n - 1 - k := by
      refine (Nat.log2_eq_iff ha').mpr ⟨Nat.ge_two_pow_of_testBit (hone hlt), Nat.lt_pow_two_of_testBit _ fun i hi => hz i (by omega)⟩
    omega

/-- The zeros below the lowest 1 bit are those before the first bit found. -/
theorem ctz_eq_of_trailing {n : Nat} {a : BitVec n} {k : Nat} (h : Rule.Trailing a k) : ctz a = k := by
  obtain ⟨hk, hz, hone⟩ := h
  unfold ctz
  rcases Nat.lt_or_eq_of_le hk with hlt | rfl
  · have hfind : (List.range n).find? (fun i => a.getLsbD i) = some k := by
      rw [List.find?_range_eq_some]
      exact ⟨hone hlt, List.mem_range.mpr hlt, fun j hj => by simp [hz j hj]⟩
    rw [hfind]
    rfl
  · have hfind : (List.range k).find? (fun i => a.getLsbD i) = none :=
      List.find?_eq_none.mpr fun i hi => by simp [hz i (List.mem_range.mp hi)]
    rw [hfind]
    rfl

/-! ## Fields of words -/

theorem bfx_eq_rule (a p n : Word) : bfx a p n = Rule.bfx a p n := by
  have hn : n = 0 ↔ n.toNat = 0 := ⟨fun h => by simp [h], fun h => BitVec.eq_of_toNat_eq (by simpa using h)⟩
  unfold bfx Rule.bfx
  simp only [hn]

theorem bmsk_eq_rule (n p : Word) : bmsk n p = Rule.bmsk n p := rfl

/-- The bits of a number in a field of w bits from bit k. -/
theorem nat_and_field (x k w : Nat) : x &&& (2 ^ w - 1) * 2 ^ k = x / 2 ^ k % 2 ^ w * 2 ^ k := by
  refine Nat.eq_of_testBit_eq fun i => ?_
  simp only [Nat.testBit_and, Nat.testBit_mul_two_pow, Nat.testBit_two_pow_sub_one, Nat.testBit_mod_two_pow, Nat.testBit_div_two_pow]
  by_cases hi : k ≤ i
  · simp [hi, Bool.and_comm]
  · simp [hi]

/-- The bits of a word in a field of w bits from bit k. -/
theorem and_field_eq (a : Word) (k w : Nat) {m : Word} (hm : m.toNat = (2 ^ w - 1) * 2 ^ k) :
    a &&& m = BitVec.ofNat 64 (a.toNat / 2 ^ k % 2 ^ w * 2 ^ k) := by
  refine BitVec.eq_of_toNat_eq ?_
  have hand : (a &&& m).toNat = a.toNat / 2 ^ k % 2 ^ w * 2 ^ k := by rw [BitVec.toNat_and, hm, nat_and_field]
  rw [BitVec.toNat_ofNat, ← hand, Nat.mod_eq_of_lt (a &&& m).isLt]

/-- A parcel address as a target, bits 56:0 (R125). -/
theorem and_addrMask (a : Word) : a &&& 0x01FFFFFFFFFFFFFF#64 = BitVec.ofNat 64 (a.toNat % 2 ^ 57) := by
  simpa using and_field_eq a 0 57 (m := 0x01FFFFFFFFFFFFFF#64) rfl

/-- A parcel address as a loop register holds it, bits 56:1 (R38). -/
theorem and_loopMask (a : Word) : a &&& 0x01FFFFFFFFFFFFFE#64 = loopAddr a.toNat := by
  simpa [loopAddr] using and_field_eq a 1 56 (m := 0x01FFFFFFFFFFFFFE#64) rfl

end Sys2Proof.Machine
end

section
/-!
PROOF. The SU operations: scalar results, loops, barriers, control registers, and what they leave as it was (R29, R38, R46 to R52, R123 to
R149).
-/
namespace Sys2Proof.Machine

/-! ## Scalar results (R126, R139, R140) -/

/-- An SU operation with a register result lands its value and has committed. -/
theorem runSu_lands {i : Instr} {s : State} {x : Slot} {fl : RFile} {sd : BitVec 6} {lat : Nat} {f : Env → Word}
    (h : s.runningSlot i = some x) (hq : x.e.queueReady i = true) (hr : i.result = some (fl, lat)) (hp : i.pairDest = false)
    (hb : i.isBallot = false) :
    runSu i sd s f = .next (x.doneIn (x.lands i .su fl sd.toNat lat ((f x.e).setWidth 128) (x.e.scalarsP i))) := by
  unfold runSu
  rw [runScalar_done h hq rfl, State.landScalar_eq hr hp hb]

/-- An SU operation with an effect on its team alone. -/
theorem runSuTeam_done {i : Instr} {s : State} {x : Slot} {f : Env → Team → Team} {g : Team → Team} (h : s.runningSlot i = some x)
    (hq : x.e.queueReady i = true) (hg : f x.e x.e.t = g x.e.t) : runSuTeam i s f = .next (x.doneIn (x.e.s.updTeam x.e.z g)) := by
  unfold runSuTeam
  rw [runScalar_done h hq rfl, State.updTeam_congr (State.runningSlot_team h) hg]

/-- Each row of R126 is the value that exec lands in s SD. -/
theorem SuRow.exec_eq {e : Env} {i : Instr} {sd : BitVec 6} {v : Word} (h : SuRow e i sd v) :
    ∃ f : Env → Word, (∀ s, exec i s = runSu i sd s f) ∧ f e = v ∧ i.result = some (.s, 1) ∧ i.pairDest = false ∧ i.isBallot = false := by
  cases h with
  | add sd sa sb => exact ⟨fun e => e.su sa + e.su sb, fun _ => rfl, (Rule.add_eq _ _).symm, rfl, rfl, rfl⟩
  | sub sd sa sb => exact ⟨fun e => e.su sa - e.su sb, fun _ => rfl, (Rule.sub_eq _ _).symm, rfl, rfl, rfl⟩
  | mul sd sa sb => exact ⟨fun e => e.su sa * e.su sb, fun _ => rfl, (Rule.mul_eq _ _).symm, rfl, rfl, rfl⟩
  | mulh sd sa sb => exact ⟨fun e => mulhS (e.su sa) (e.su sb), fun _ => rfl, rfl, rfl, rfl, rfl⟩
  | mulhu sd sa sb => exact ⟨fun e => mulhU (e.su sa) (e.su sb), fun _ => rfl, rfl, rfl, rfl, rfl⟩
  | and sd sa sb => exact ⟨fun e => e.su sa &&& e.su sb, fun _ => rfl, rfl, rfl, rfl, rfl⟩
  | or sd sa sb => exact ⟨fun e => e.su sa ||| e.su sb, fun _ => rfl, rfl, rfl, rfl, rfl⟩
  | xor sd sa sb => exact ⟨fun e => e.su sa ^^^ e.su sb, fun _ => rfl, rfl, rfl, rfl, rfl⟩
  | andn sd sa sb => exact ⟨fun e => e.su sa &&& ~~~(e.su sb), fun _ => rfl, rfl, rfl, rfl, rfl⟩
  | shl sd sa sb => exact ⟨fun e => shlW (e.su sa) (e.su sb).toNat, fun _ => rfl, shlW_eq_rule _ _, rfl, rfl, rfl⟩
  | shr sd sa sb => exact ⟨fun e => shrW (e.su sa) (e.su sb).toNat, fun _ => rfl, shrW_eq_rule _ _, rfl, rfl, rfl⟩
  | sar sd sa sb => exact ⟨fun e => sarW (e.su sa) (e.su sb).toNat, fun _ => rfl, sarW_eq_rule _ _, rfl, rfl, rfl⟩
  | min sd sa sb => exact ⟨fun e => minS (e.su sa) (e.su sb), fun _ => rfl, minS_eq_rule _ _, rfl, rfl, rfl⟩
  | max sd sa sb => exact ⟨fun e => maxS (e.su sa) (e.su sb), fun _ => rfl, maxS_eq_rule _ _, rfl, rfl, rfl⟩
  | minu sd sa sb => exact ⟨fun e => minU (e.su sa) (e.su sb), fun _ => rfl, minU_eq_rule _ _, rfl, rfl, rfl⟩
  | maxu sd sa sb => exact ⟨fun e => maxU (e.su sa) (e.su sb), fun _ => rfl, maxU_eq_rule _ _, rfl, rfl, rfl⟩
  | popc sd sa => exact ⟨fun e => BitVec.ofNat 64 (Machine.popc (e.su sa)), fun _ => rfl, congrArg (BitVec.ofNat 64) (popc_eq_ones _), rfl, rfl, rfl⟩
  | clz sd sa k hk => exact ⟨fun e => BitVec.ofNat 64 (Machine.clz (e.su sa)), fun _ => rfl, congrArg (BitVec.ofNat 64) (clz_eq_of_leading hk), rfl, rfl, rfl⟩
  | ctz sd sa k hk => exact ⟨fun e => BitVec.ofNat 64 (Machine.ctz (e.su sa)), fun _ => rfl, congrArg (BitVec.ofNat 64) (ctz_eq_of_trailing hk), rfl, rfl, rfl⟩
  | cmp cc sd sa sb v hv => exact ⟨fun e => boolBits (cc.holds (e.su sa) (e.su sb)), fun _ => rfl, boolBits_eq_of_truth hv, rfl, rfl, rfl⟩
  | sel sd sa sb sc => exact ⟨fun e => if e.su sc ≠ 0 then e.su sa else e.su sb, fun _ => rfl, ite_not .., rfl, rfl, rfl⟩
  | mov sd sa => exact ⟨fun e => e.su sa, fun _ => rfl, rfl, rfl, rfl, rfl⟩
  | bfx sd sa sb sc => exact ⟨fun e => Machine.bfx (e.su sa) (e.su sb) (e.su sc), fun _ => rfl, bfx_eq_rule _ _ _, rfl, rfl, rfl⟩
  | bmsk sd sa sb => exact ⟨fun e => Machine.bmsk (e.su sa) (e.su sb), fun _ => rfl, bmsk_eq_rule _ _, rfl, rfl, rfl⟩

/-- su.bcast lands the low 32 bits of its operand in every lane (R139). -/
theorem exec_suBcast {s : State} {x : Slot} {df : RFile} {sd : BitVec 6} {sa : Sel} (h : s.runningSlot (.suBcast df sd sa) = some x)
    (hq : x.e.queueReady (.suBcast df sd sa) = true) :
    exec (.suBcast df sd sa) s = .next (x.doneIn (x.e.s.updTeam x.e.z fun t => t.addLanding
      { due := x.e.c.t + 2 + (if (Instr.suBcast df sd sa).readsQueue then 3 else 0), file := df, reg := sd.toNat, pair := false, bal := false,
        vals := (List.range (32 * 2 ^ x.e.t.wlog)).map fun l =>
          ⟨l, BitVec.ofNat 128 ((x.e.su sa).toNat % 2 ^ 32), x.e.scalarsP (.suBcast df sd sa)⟩,
        flags := 0, pend := none, lanes := [], key := some (landKey x.e.slot .su) })) := by
  have hv : ((x.e.su sa).setWidth 32).setWidth 128 = BitVec.ofNat 128 ((x.e.su sa).toNat % 2 ^ 32) :=
    BitVec.eq_of_toNat_eq (by simp [BitVec.toNat_setWidth])
  show execSuBcast df sd sa s = _
  unfold execSuBcast
  rw [runScalar_done h hq rfl, hv]
  rfl

/-- Settles O17: every row is a value that lands through runSu, su.bcast one for every lane. -/
theorem suResults : Obligations.SuResults := by
  refine ⟨fun s i x sd v h hq hrow => ?_, fun s i x h hq => ⟨?_, ?_⟩⟩
  · obtain ⟨f, hexec, rfl, hr, hp, hb⟩ := hrow.exec_eq
    rw [hexec, runSu_lands h hq hr hp hb]
  · rintro df sd sa rfl -
    exact exec_suBcast h hq
  · rintro sd sa rfl
    show execSuXfer sd sa s = _
    unfold execSuXfer
    rw [runSu_lands h hq rfl rfl rfl]

/-! ## Loops (R38, R130 to R133) -/

/-- A taken transfer keeps bits 56:0 of its target (R125, R127). -/
theorem Slot.takes_eq (x : Slot) (s : State) (n : Nat) : x.takes s n = s.updTeam x.e.z fun t => t.take (BitVec.ofNat 64 n) := by
  have hn : BitVec.ofNat 64 n &&& 0x01FFFFFFFFFFFFFF#64 = BitVec.ofNat 64 (n % 2 ^ 57) := by
    rw [and_addrMask, BitVec.toNat_ofNat, Nat.mod_mod_of_dvd _ (by decide)]
  simp only [Slot.takes, Slot.keeps, Team.take, Team.keeping, hn]

/-- The loop registers of a level written by a function of what they were, and the word's record of an explicit count. -/
def Team.looping (t : Team) (lv : BitVec 3) (f : Word × Word × Word → Word × Word × Word) (count : Bool) : Team :=
  { t with
    loop := if lv = 0 then
        { t.loop with lc0 := (f (t.loop.lc0, t.loop.ls0, t.loop.le0)).1, ls0 := (f (t.loop.lc0, t.loop.ls0, t.loop.le0)).2.1,
                      le0 := (f (t.loop.lc0, t.loop.ls0, t.loop.le0)).2.2 }
      else
        { t.loop with lc1 := (f (t.loop.lc1, t.loop.ls1, t.loop.le1)).1, ls1 := (f (t.loop.lc1, t.loop.ls1, t.loop.le1)).2.1,
                      le1 := (f (t.loop.lc1, t.loop.ls1, t.loop.le1)).2.2 },
    keep := t.keep.map fun k => if count then (if lv = 0 then { k with lcw0 := true } else { k with lcw1 := true }) else k }

theorem Slot.loops_eq (x : Slot) (s : State) (lv : BitVec 3) (f : Word × Word × Word → Word × Word × Word) (count : Bool) :
    x.loops s lv f count = s.updTeam x.e.z fun t => t.looping lv f count := rfl

theorem Team.looping_zeroTrip (t : Team) (lv : BitVec 3) (f : Word × Word × Word → Word × Word × Word) (count : Bool) :
    (t.looping lv f count).zeroTrip = t.zeroTrip := rfl

theorem Team.looping_setUp (t : Team) (lv : BitVec 3) (n ls le : Word) :
    { t with loop := t.loop.setUp lv n ls le }.wroteLc lv = t.looping lv (fun _ => (n, loopAddr ls.toNat, loopAddr le.toNat)) true := by
  by_cases h : lv = 0 <;> simp [Team.wroteLc, Team.keeping, Team.looping, LoopRegs.setUp, h, and_loopMask]

theorem Team.looping_putLc (t : Team) (lv : BitVec 3) (v : Word) :
    { t with loop := t.loop.put lv .lc v }.wroteLc lv = t.looping lv (fun r => (v, r.2)) true := by
  by_cases h : lv = 0 <;> simp [Team.wroteLc, Team.keeping, Team.looping, LoopRegs.put, h]

theorem Team.looping_putLs (t : Team) (lv : BitVec 3) (v : Word) :
    { t with loop := t.loop.put lv .ls v } = t.looping lv (fun r => (r.1, loopAddr v.toNat, r.2.2)) false := by
  by_cases h : lv = 0 <;> simp [Team.looping, LoopRegs.put, h, and_loopMask]

theorem Team.looping_putLe (t : Team) (lv : BitVec 3) (v : Word) :
    { t with loop := t.loop.put lv .le v } = t.looping lv (fun r => (r.1, r.2.1, loopAddr v.toNat)) false := by
  by_cases h : lv = 0 <;> simp [Team.looping, LoopRegs.put, h, and_loopMask]

/-- A loop register as su.lrd reads it (R133). -/
theorem LoopRegs.get_eq (r : LoopRegs) (lv : BitVec 3) (x : LoopReg) (v : Word × Word × Word)
    (hv : v = if lv = 0 then (r.lc0, r.ls0, r.le0) else (r.lc1, r.ls1, r.le1)) :
    r.get lv x = match x with | .lc => v.1 | .ls => v.2.1 | .le => v.2.2 := by
  subst hv
  by_cases h : lv = 0
  · cases x <;> simp only [LoopRegs.get, if_pos h]
  · cases x <;> simp only [LoopRegs.get, if_neg h]

/-- Adding twice an offset to an address of 64 bits and keeping bits 56:1, or 56:0, wraps as R38 and R127 say. -/
theorem loopAddr_add (a b : Word) : loopAddr (a + 2 * b).toNat = loopAddr (a.toNat + 2 * b.toNat) := by
  refine congrArg (BitVec.ofNat 64) ?_
  have h2 : BitVec.toNat (2 : Word) = 2 := rfl
  rw [BitVec.toNat_add, BitVec.toNat_mul, h2]
  omega

/-- Settles O19: each operation is one change of the team's loop registers, su.loop with a count of 0 a taken transfer as well. -/
theorem suLoops : Obligations.SuLoops := by
  intro s i x h hq
  refine ⟨?_, ?_, ?_, ?_, ?_, ?_⟩
  · rintro lv sa sc rfl after
    have hteam (t : Team) : { t with loop := t.loop.setUp lv (x.e.su sa) x.e.c.npc (x.e.target sc) }.wroteLc lv =
        t.looping lv (fun _ => (x.e.su sa, loopAddr x.e.c.npc.toNat, loopAddr (x.e.c.pc.toNat + 2 * (x.e.su sc).toNat))) true := by
      rw [Team.looping_setUp, Env.target, loopAddr_add]
    refine ⟨fun hn => ?_, fun hz le a hle => ?_⟩
    · show execSuLoop lv sa sc s = _
      unfold execSuLoop
      refine runSuTeam_done h hq ?_
      rw [if_neg hn, hteam]
      rfl
    · show execSuLoop lv sa sc s = _
      unfold execSuLoop
      rw [Slot.takes_eq, show after = _ from Slot.loops_eq .., State.updTeam_updTeam]
      refine runSuTeam_done h hq ?_
      rw [if_pos hz, hteam, Team.looping_zeroTrip, hle, BitVec.ofNat_toNat, BitVec.setWidth_eq]
  · rintro lv rfl
    show execSuLbrk lv s = _
    unfold execSuLbrk
    exact runSuTeam_done h hq (Team.looping_putLc ..)
  · rintro lv sa rfl
    show execSuLwr lv .lc sa s = _
    unfold execSuLwr
    exact runSuTeam_done h hq (Team.looping_putLc ..)
  · rintro lv sa rfl
    show execSuLwr lv .ls sa s = _
    unfold execSuLwr
    exact runSuTeam_done h hq (Team.looping_putLs ..)
  · rintro lv sa rfl
    show execSuLwr lv .le sa s = _
    unfold execSuLwr
    exact runSuTeam_done h hq (Team.looping_putLe ..)
  · rintro sd lv lr rfl r hr
    show execSuLrd sd lv lr s = _
    unfold execSuLrd
    rw [runSu_lands h hq rfl rfl rfl, LoopRegs.get_eq x.e.t.loop lv lr r hr]
    rfl

/-! ## Barriers (R23, R136, R137) -/

/-- The generation bit of a team's domain at a level. -/
def State.teamGen (s : State) (t : Team) (lv : Nat) : Bool := ((s.blocks.get? t.blk).map fun b => s.barGen b lv).getD false

/-- A team forgets its record of a level. -/
def State.forgetBar (s : State) (z lv : Nat) : State := s.updTeam z fun t => { t with bars := t.bars.del lv }

/-- A team arrives at a level: its record is kept, and the level counts it. -/
def State.arriveBar (s : State) (z lv : Nat) (t : Team) : State :=
  (s.updTeam z fun u => { u with bars := u.bars.put lv ⟨true, s.teamGen t lv⟩ }).barCount t.blk lv false

/-- One evaluation of su.bar, by the team's record and what its operations have performed. -/
theorem State.barStep_eq {s : State} {z lv : Nat} {t : Team} (ht : s.teams.get? z = some t) :
    s.barStep z lv = match t.bars.get? lv with
      | some r => if s.teamGen t lv != r.gen then (s.forgetBar z lv, true) else (s, false)
      | none =>
        if t.allPerformed (if lv = 4 then .sys else .dev) then
          if (s.arriveBar z lv t).teamGen t lv != s.teamGen t lv then ((s.arriveBar z lv t).forgetBar z lv, true)
          else (s.arriveBar z lv t, false)
        else (s, false) := by
  unfold State.barStep
  rw [ht]
  dsimp only
  cases t.bars.get? lv <;> rfl

/-- su.bar is one evaluation of the barrier's rule. -/
theorem exec_suBar {s : State} {lv : BitVec 3} {x : Slot} (h : s.runningSlot (.suBar lv) = some x) {u : State} {b : Bool}
    (hu : x.e.s.barStep x.e.z lv.toNat = (u, b)) : exec (.suBar lv) s = .next (u.setSt x.e.z x.k (if b then .done else .blocked)) := by
  show execSuBar lv s = _
  unfold execSuBar
  rw [runSlot_runs _ h, hu]

/-- Writes the record of a block. -/
def State.setBlockRec (s : State) (k : Nat) (b : Block) : State := { s with blocks := s.blocks.put k b }

theorem State.setBlockRec_same (s : State) (k : Nat) (b : Block) : (s.setBlockRec k b).blocks.get? k = some b := AL.get?_put_eq ..

theorem State.setBlockRec_other (s : State) (k : Nat) (b : Block) {j : Nat} (h : j ≠ k) : (s.setBlockRec k b).blocks.get? j = s.blocks.get? j :=
  AL.get?_put_ne _ _ _ h

/-- The release rule at level 0 (R136). -/
theorem State.checkRelease_zero {s : State} {k : Nat} {b : Block} {l : Launch} (hb : s.blocks.get? k = some b)
    (hl : s.launches.get? b.launch = some l) :
    s.checkRelease k 0 = if l.teamsOf b.variant ≤ b.barArr + b.barEnd then s.setBlockRec k { b with barArr := 0, barGen := !b.barGen } else s := by
  unfold State.checkRelease
  rw [hb]
  simp only [hl, if_true]
  rfl

/-- A block with its arrivals and ended teams at level 0. -/
def Block.counted (b : Block) (fin : Bool) : Block := if fin then { b with barEnd := b.barEnd + 1 } else { b with barArr := b.barArr + 1 }

theorem State.barCount_zero {s : State} {k : Nat} {b : Block} (fin : Bool) (hb : s.blocks.get? k = some b) :
    s.barCount k 0 fin = (s.setBlockRec k (b.counted fin)).checkRelease k 0 := by
  unfold State.barCount
  rw [hb]
  rfl

/-- Settles O21: the branches of one evaluation, and the count and release at level 0. -/
theorem suBarrier : Obligations.SuBarrier := by
  refine ⟨fun s lv x gen h hgen => ?_, fun s k b l fin hb hl a e ha he => ?_⟩
  · intro forget arrived
    have ht := State.runningSlot_team h
    have hg (u : State) : gen u = u.teamGen x.e.t lv.toNat := hgen u
    have harr : arrived = x.e.s.arriveBar x.e.z lv.toNat x.e.t := by
      show State.barCount _ _ _ _ = _
      rw [hg]
      rfl
    have hlv : (if lv.toNat = 4 then Scope.sys else .dev) = if lv = 4 then .sys else .dev := by
      simp only [BitVec.toNat_eq, show BitVec.toNat (4 : BitVec 3) = 4 from rfl]
    refine ⟨fun r hr hne => ?_, fun r hr heq => ?_, fun hr hp => ?_, fun hr hp => ⟨fun hne => ?_, fun heq => ?_⟩⟩
    · rw [hg] at hne
      refine exec_suBar h (b := true) ((State.barStep_eq ht).trans ?_)
      simp only [hr, bne_iff_ne.mpr hne, if_true]
      rfl
    · rw [hg] at heq
      refine exec_suBar h (b := false) ((State.barStep_eq ht).trans ?_)
      simp [hr, heq]
    · refine exec_suBar h (b := false) ((State.barStep_eq ht).trans ?_)
      simp only [hr, hlv, hp, Bool.false_eq_true, if_false]
    · rw [hg, hg, harr] at hne
      rw [harr]
      refine exec_suBar h (b := true) ((State.barStep_eq ht).trans ?_)
      simp only [hr, hlv, hp, bne_iff_ne.mpr hne, if_true]
      rfl
    · rw [hg, hg, harr] at heq
      rw [harr]
      refine exec_suBar h (b := false) ((State.barStep_eq ht).trans ?_)
      simp only [hr, hlv, hp, heq, bne_self_eq_false, Bool.false_eq_true, if_true, if_false]
  · have harr : (b.counted fin).barArr = a := by
      subst ha
      cases fin <;> rfl
    have hend : (b.counted fin).barEnd = e := by
      subst he
      cases fin <;> rfl
    have hl' : s.launches.get? (b.counted fin).launch = some l := by cases fin <;> exact hl
    have hbc : b.counted fin = { b with barArr := a, barEnd := e } := by
      subst ha he
      cases fin <;> rfl
    rw [State.barCount_zero fin hb, State.checkRelease_zero (s.setBlockRec_same k _) hl', hbc]
    split
    · exact ⟨State.setBlockRec_same .., fun j hj => (State.setBlockRec_other _ _ _ hj).trans (State.setBlockRec_other _ _ _ hj), rfl⟩
    · exact ⟨State.setBlockRec_same .., fun j hj => State.setBlockRec_other _ _ _ hj, rfl⟩

/-! ## Control registers (R46 to R52, R141, R142) -/

/-- Fields of a word that share no bit are kept side by side. -/
theorem and_or_eq_add {n : Nat} (a : BitVec n) {m₁ m₂ : BitVec n} (h : m₁ &&& m₂ = 0) : a &&& (m₁ ||| m₂) = (a &&& m₁) + (a &&& m₂) := by
  have hd : (a &&& m₁) &&& (a &&& m₂) = 0 := by
    calc (a &&& m₁) &&& (a &&& m₂) = (a &&& a) &&& (m₁ &&& m₂) := by ac_rfl
      _ = 0 := by simp [h]
  rw [BitVec.add_eq_or_of_and_eq_zero _ _ hd]
  refine BitVec.eq_of_getLsbD_eq fun i _ => ?_
  simp only [BitVec.getLsbD_and, BitVec.getLsbD_or, Bool.and_or_distrib_left]

/-- The map of DWIN (R48). -/
theorem and_dwinMask (a : Word) : a &&& 0x00007FFF007F01F8#64 =
    BitVec.ofNat 64 (8 * (a.toNat / 2 ^ 3 % 2 ^ 6) + 2 ^ 16 * (a.toNat / 2 ^ 16 % 2 ^ 7) + 2 ^ 32 * (a.toNat / 2 ^ 32 % 2 ^ 15)) := by
  have hm : 0x00007FFF007F01F8#64 = (0x1F8#64 ||| 0x7F0000#64) ||| 0x7FFF00000000#64 := rfl
  rw [hm, and_or_eq_add a (by decide), and_or_eq_add a (by decide), and_field_eq a 3 6 (m := 0x1F8#64) rfl,
    and_field_eq a 16 7 (m := 0x7F0000#64) rfl, and_field_eq a 32 15 (m := 0x7FFF00000000#64) rfl, BitVec.ofNat_add, BitVec.ofNat_add]
  simp only [Nat.mul_comm, show 8 = 2 ^ 3 from rfl]

/-- The value of CTRL register 11 (R52). -/
theorem statBits_eq (m n : Bool) : ((if m then 1 else 0) ||| (if n then 2 else 0) : Word) =
    BitVec.ofNat 64 ((if m then 1 else 0) + (if n then 2 else 0)) := by
  cases m <;> cases n <;> rfl

/-- su.csrw writes its team's register under the map of R46 to R52. -/
theorem exec_suCsrw {s : State} {x : Slot} {csr : BitVec 12} {sa : Sel} {g : Team → Team} (h : s.runningSlot (.suCsrw csr sa) = some x)
    (hq : x.e.queueReady (.suCsrw csr sa) = true) (hg : x.e.t.setCsr csr.toNat (x.e.su sa) = g x.e.t) :
    exec (.suCsrw csr sa) s = .next (x.doneIn (x.e.s.updTeam x.e.z g)) := by
  show execSuCsrw csr sa s = _
  unfold execSuCsrw
  exact runSuTeam_done h hq hg

/-- Only COMPAT and DWIN have a check of their own below 0x00C (R48, R50). -/
theorem Env.csrStop_low {e : Env} {csr : BitVec 12} {w : Option Word} (h : e.csrStop csr w ≠ none) :
    csr.toNat ∈ [1, 3] ∨ 12 ≤ csr.toNat := by
  unfold Env.csrStop at h
  dsimp only at h
  split at h
  case isTrue hlo => exact .inr hlo
  case isFalse =>
    cases w with
    | none => exact absurd rfl h
    | some v =>
      dsimp only at h
      split at h
      case isTrue h1 =>
        subst h1
        exact .inl (by decide)
      case isFalse =>
        split at h
        case isTrue h3 =>
          subst h3
          exact .inl (by decide)
        case isFalse => exact absurd rfl h

/-- Settles O23: one case for each register's map, and REG_RANGE for the numbers that no register has. -/
theorem suControlRegisters : Obligations.SuControlRegisters := by
  intro s i x h hq
  refine ⟨?_, ?_, fun e csr w => Env.csrStop_low, fun e csr w hlo => ?_⟩
  · rintro sd csr n v rfl rfl hm
    have hv : x.e.csr (BitVec.ofNat 12 n).toNat = v := by
      simp only [List.mem_cons, Prod.mk.injEq, List.not_mem_nil, or_false] at hm
      rcases hm with ⟨rfl, rfl⟩ | ⟨rfl, rfl⟩ | ⟨rfl, rfl⟩ | ⟨rfl, rfl⟩ | ⟨rfl, rfl⟩ | ⟨rfl, rfl⟩ | ⟨rfl, rfl⟩ | ⟨rfl, rfl⟩ | ⟨rfl, rfl⟩ |
        ⟨rfl, rfl⟩ | ⟨rfl, rfl⟩ | ⟨rfl, rfl⟩
      case inr.inr.inr.inr.inr.inr.inr.inr.inr.inr.inr => exact statBits_eq _ _
      all_goals rfl
    show execSuCsrr sd _ s = _
    unfold execSuCsrr
    rw [runSu_lands h hq rfl rfl rfl, hv]
  · rintro csr sa rfl v rfl put
    have hw : BitVec.ofNat 64 (x.e.su sa).toNat = x.e.su sa := by simp
    refine ⟨?_, ?_, ?_, ?_, ?_, ?_, ?_, fun hro => ?_⟩
    · rintro rfl
      refine exec_suCsrw h hq ?_
      rw [hw]
      rfl
    · rintro rfl
      refine exec_suCsrw h hq (congrArg (fun v => { x.e.t with compat := v }) ?_)
      simpa using and_field_eq (x.e.su sa) 0 2 (m := 3) rfl
    · rintro rfl n rfl
      exact exec_suCsrw h hq (congrArg (fun v => { x.e.t with dwin := v }) (and_dwinMask _))
    · rintro rfl
      exact exec_suCsrw h hq (congrArg (fun v => { x.e.t with dbase := v }) (and_field_eq _ 6 51 (m := dbaseMask) rfl))
    · rintro rfl
      exact exec_suCsrw h hq (congrArg (fun v => { x.e.t with trapvec := v }) (and_field_eq _ 1 56 (m := 0x01FFFFFFFFFFFFFE#64) rfl))
    · rintro rfl
      exact exec_suCsrw h hq (congrArg (fun v => { x.e.t with ctxptr := v }) (and_field_eq _ 12 45 (m := 0x01FFFFFFFFFFF000#64) rfl))
    · rintro rfl
      refine exec_suCsrw h hq ?_
      rw [hw]
      rfl
    · have hid : x.e.t.setCsr csr.toNat (x.e.su sa) = x.e.t := by
        simp only [List.mem_cons, List.not_mem_nil, or_false] at hro
        rcases hro with rfl | rfl | rfl | rfl | rfl <;> rfl
      rw [exec_suCsrw (g := id) h hq hid, State.updTeam_eq_self (f := id) fun _ _ => rfl]
  · unfold Env.csrStop
    exact if_pos hlo

/-! ## The frame (R29, R123 to R149) -/

/-- A landing goes into the buffer and nowhere else. -/
theorem Team.addLanding_eq (t : Team) (l : Landing) : t.addLanding l = { t with land := (t.addLanding l).land } := by
  unfold Team.addLanding
  split
  · rfl
  · split <;> rfl

/-- What an SU operation may change of its team. -/
def Team.SuFrame (i : Instr) (t t' : Team) : Prop :=
  { t' with land := t.land, ctx := t.ctx, keep := t.keep, loop := t.loop, prefetch := t.prefetch, prefSys := t.prefSys, fmode := t.fmode,
            compat := t.compat, dwin := t.dwin, dbase := t.dbase, trapvec := t.trapvec, ctxptr := t.ctxptr, tcyc := t.tcyc } = t ∧
    ((∀ lv sa sc, i ≠ .suLoop lv sa sc) → (∀ lv, i ≠ .suLbrk lv) → (∀ lv lr sa, i ≠ .suLwr lv lr sa) → t'.loop = t.loop) ∧
    ((∀ sa sb, i ≠ .suDpf sa sb) → t'.prefetch = t.prefetch ∧ t'.prefSys = t.prefSys) ∧
    ((∀ csr sa, i ≠ .suCsrw csr sa) → t'.fmode = t.fmode ∧ t'.compat = t.compat ∧ t'.dwin = t.dwin ∧ t'.dbase = t.dbase ∧
      t'.trapvec = t.trapvec ∧ t'.ctxptr = t.ctxptr ∧ t'.tcyc = t.tcyc)

/-- A change of the landing buffer and of the word's record is within every frame. -/
theorem Team.SuFrame.of_land_keep {i : Instr} {t t' : Team} (h : t' = { t with land := t'.land, keep := t'.keep }) : t.SuFrame i t' := by
  rw [h]
  exact ⟨rfl, fun _ _ _ => rfl, fun _ => ⟨rfl, rfl⟩, fun _ => ⟨rfl, rfl, rfl, rfl, rfl, rfl, rfl⟩⟩

theorem Team.SuFrame.setOpSt {i : Instr} {t t' : Team} (h : t.SuFrame i t') (k : Nat) (st : OpStatus) : t.SuFrame i (t'.setOpSt k st) := h

theorem Team.SuFrame.addLanding (i : Instr) (t : Team) (l : Landing) : t.SuFrame i (t.addLanding l) := by
  rw [Team.addLanding_eq]
  exact .of_land_keep rfl

theorem Team.SuFrame.addLanding_take (i : Instr) (t : Team) (l : Landing) (a : Word) : t.SuFrame i ((t.addLanding l).take a) := by
  rw [Team.addLanding_eq]
  exact .of_land_keep rfl

theorem Team.SuFrame.setCsr (t : Team) (csr : BitVec 12) (sa : Sel) (v : Word) : t.SuFrame (.suCsrw csr sa) (t.setCsr csr.toNat v) := by
  unfold Team.setCsr
  split <;> exact ⟨rfl, fun _ _ _ => rfl, fun _ => ⟨rfl, rfl⟩, fun h => absurd rfl (h _ _)⟩

/-- An instruction is a scalar operation that changes its team alone, within a relation of the team before and after. -/
def ScalarOnTeam (i : Instr) (s : State) (r : Team → Team → Prop) : Prop :=
  ∃ (ready : Env → Bool) (eff : Env → State → State), exec i s = runScalar i s ready eff ∧
    ∀ e u, OnTeam r u e.z (eff e u)

theorem ScalarOnTeam.of_runSu {i : Instr} {s : State} {sd : BitVec 6} {f : Env → Word} {fl : RFile} {lat : Nat}
    (h : exec i s = runSu i sd s f) (hr : i.result = some (fl, lat)) : ScalarOnTeam i s (Team.SuFrame i) := by
  refine ⟨_, _, h, fun e u => ⟨fun t => t.addLanding (e.landing i .su fl sd.toNat lat [⟨0, (f e).setWidth 128, e.scalarsP i⟩] 0 none), ?_,
    fun t => .addLanding i t _⟩⟩
  unfold State.landScalar
  rw [hr]
  rfl

theorem ScalarOnTeam.of_runSuTeam {i : Instr} {s : State} {f : Env → Team → Team} (h : exec i s = runSuTeam i s f)
    (hf : ∀ e t, Team.SuFrame i t (f e t)) : ScalarOnTeam i s (Team.SuFrame i) :=
  ⟨_, _, h, fun e _ => ⟨f e, rfl, hf e⟩⟩

/-- Every SU operation but su.bar and su.swpt is a scalar operation on its team alone. -/
theorem scalarOnTeam_of_su {i : Instr} (s : State) (hk : i.kind = some .su) (hbar : ∀ lv, i ≠ .suBar lv) (hsw : ∀ sa, i ≠ .suSwpt sa) :
    ScalarOnTeam i s (Team.SuFrame i) := by
  cases i with
  | suBar lv => exact absurd rfl (hbar lv)
  | suSwpt sa => exact absurd rfl (hsw sa)
  | suAdd | suSub | suMul | suMulh | suMulhu | suAnd | suOr | suXor | suAndn | suShl | suShr | suSar | suMin | suMax | suMinu | suMaxu
  | suPopc | suClz | suCtz | suCmp | suSel | suMov | suBfx | suBmsk | suLrd | suSrd | suXfer | suCsrr =>
    exact .of_runSu (by dsimp only [exec]; rfl) rfl
  | suBcast df sd sa =>
    refine ⟨_, _, by dsimp only [exec, execSuBcast], fun e u => ?_⟩
    exact ⟨fun t => t.addLanding _, rfl, fun t => .addLanding _ t _⟩
  | suCall sd sc =>
    refine ⟨_, _, by dsimp only [exec, execSuCall], fun e u => ?_⟩
    exact ⟨fun t => (t.addLanding _).take _, State.updTeam_updTeam .., fun t => .addLanding_take _ t _ _⟩
  | suCalli sd sa =>
    refine ⟨_, _, by dsimp only [exec, execSuCalli], fun e u => ?_⟩
    exact ⟨fun t => (t.addLanding _).take _, State.updTeam_updTeam .., fun t => .addLanding_take _ t _ _⟩
  | suNop | suSwait =>
    refine ⟨_, fun _ u => u, by dsimp only [exec]; rfl, fun e u => ?_⟩
    exact .refl (fun t => .of_land_keep rfl) ..
  | suTrap | suEret | suDinv | suHclr | suEnd | suJmpi => exact .of_runSuTeam (by dsimp only [exec]; rfl) fun _ _ => .of_land_keep rfl
  | suBr occ sa sb sc =>
    refine .of_runSuTeam (by dsimp only [exec]; rfl) fun e t => ?_
    cases occ with
    | none => exact .of_land_keep rfl
    | some c =>
      dsimp only
      split <;> exact .of_land_keep rfl
  | suLoop lv sa sc =>
    refine .of_runSuTeam (by dsimp only [exec]; rfl) fun e t => ?_
    dsimp only
    rw [Team.looping_setUp]
    split
    · split <;> exact ⟨rfl, fun h => absurd rfl (h _ _ _), fun _ => ⟨rfl, rfl⟩, fun _ => ⟨rfl, rfl, rfl, rfl, rfl, rfl, rfl⟩⟩
    · exact ⟨rfl, fun h => absurd rfl (h _ _ _), fun _ => ⟨rfl, rfl⟩, fun _ => ⟨rfl, rfl, rfl, rfl, rfl, rfl, rfl⟩⟩
  | suLbrk lv =>
    refine .of_runSuTeam (by dsimp only [exec]; rfl) fun e t => ?_
    exact ⟨rfl, fun _ h => absurd rfl (h _), fun _ => ⟨rfl, rfl⟩, fun _ => ⟨rfl, rfl, rfl, rfl, rfl, rfl, rfl⟩⟩
  | suLwr lv lr sa =>
    refine .of_runSuTeam (by dsimp only [exec]; rfl) fun e t => ?_
    cases lr <;>
      exact ⟨rfl, fun _ _ h => absurd rfl (h _ _ _), fun _ => ⟨rfl, rfl⟩, fun _ => ⟨rfl, rfl, rfl, rfl, rfl, rfl, rfl⟩⟩
  | suDpf sa sb =>
    refine .of_runSuTeam (by dsimp only [exec]; rfl) fun e t => ?_
    split <;> exact ⟨rfl, fun _ _ _ => rfl, fun h => absurd rfl (h _ _), fun _ => ⟨rfl, rfl, rfl, rfl, rfl, rfl, rfl⟩⟩
  | suCsrw csr sa => exact .of_runSuTeam (by dsimp only [exec]; rfl) fun _ _ => .setCsr ..
  | _ => cases hk

/-- The checks of an operation that makes accesses are those of MU (R179, R187 to R190). -/
theorem Env.accesses_eq_none {i : Instr} (hk : i.kind ≠ some .mu) (e : Env) : e.accesses i = none := by
  unfold Env.accesses
  split
  case h_18 => rfl
  all_goals exact absurd rfl hk

/-- Settles O26: an SU operation commits or blocks, on its team alone and within its frame. -/
theorem suFrame : Obligations.SuFrame := by
  intro s u i x hk hbar hsw h hu
  obtain ⟨ready, eff, hexec, heff⟩ := scalarOnTeam_of_su s hk hbar hsw
  have hs : x.e.s = s := State.runningSlot_state h (Env.accesses_eq_none (by simp [hk]))
  have ht : s.teams.get? x.e.z = some x.e.t := hs ▸ State.runningSlot_team h
  obtain ⟨g, rfl, hframe⟩ : OnTeam (Team.SuFrame i) s x.e.z u := by
    rw [hexec] at hu
    rw [← hs]
    rcases runScalar_cases h hu with rfl | rfl
    · exact (heff x.e x.e.s).setSt (fun k st hf => hf.setOpSt k st) ..
    · exact (OnTeam.refl (fun t => .of_land_keep rfl) ..).setSt (fun k st hf => hf.setOpSt k st) ..
  obtain ⟨hteam, hloop, hpre, hcsr⟩ := hframe x.e.t
  exact ⟨State.updTeam_sameButTeams .., State.updTeam_sameOther _ _ _, x.e.t, g x.e.t, ht, by rw [State.updTeam_same, ht]; rfl,
    hteam, hloop, hpre, hcsr⟩

end Sys2Proof.Machine
end

section
/-!
PROOF. What the VA and VB operations leave as it was, and when a slot operation of any kind does not act (R29, R32, R36, R67, R84, R124,
R152, R153, R213).
-/
namespace Sys2Proof.Machine

/-! ## The frame of VA and VB (R29, R152, R153) -/

theorem Team.SameButLanding.refl (t : Team) : t.SameButLanding t := rfl

theorem Team.SameButLanding.trans {a b c : Team} (h : a.SameButLanding b) (h' : b.SameButLanding c) : a.SameButLanding c := by
  unfold Team.SameButLanding at *
  rw [← h, ← h']

theorem Team.SameButLanding.setOpSt {t t' : Team} (k : Nat) (st : OpStatus) (h : t.SameButLanding t') : t.SameButLanding (t'.setOpSt k st) := h

theorem Team.SameButLanding.addLanding (t : Team) (l : Landing) : t.SameButLanding (t.addLanding l) := by
  rw [Team.addLanding_eq]
  rfl

/-- A landing of some lanes is a change of the team's buffer. -/
theorem State.landLanes_onTeam (s : State) (e : Env) (i : Instr) (k : Kind) (reg : Nat) (vals : List LaneVal) (fl : FFlags) :
    OnTeam Team.SameButLanding s e.z (s.landLanes e i k reg vals fl) := by
  unfold State.landLanes
  split
  · exact .refl .refl ..
  · exact ⟨_, rfl, fun t => .addLanding t _⟩

/-- A scalar landing is a change of the team's buffer. -/
theorem State.landScalar_onTeam (s : State) (e : Env) (i : Instr) (k : Kind) (reg : Nat) (v : BitVec 128) (p : Bool) :
    OnTeam Team.SameButLanding s e.z (s.landScalar e i k reg v p) := by
  unfold State.landScalar
  split
  · exact .refl .refl ..
  · exact ⟨_, rfl, fun t => .addLanding t _⟩

/-- An instruction is a per-lane operation whose passes and commit change its team's landing buffer alone. -/
def LanesLand (i : Instr) (s : State) : Prop :=
  ∃ (ready : Env → Bool) (eff : Env → Nat → State → State) (fin : Env → State → State), exec i s = runLanes i s ready eff fin ∧
    (∀ e p u, OnTeam Team.SameButLanding u e.z (eff e p u)) ∧ ∀ e u, OnTeam Team.SameButLanding u e.z (fin e u)

/-- The commit of an operation without a pass. -/
theorem State.landNone_onTeam (s : State) (e : Env) (i : Instr) (k : Kind) (reg : Nat) :
    OnTeam Team.SameButLanding s e.z (if (e.runPasses i).isEmpty then s.landLanes e i k reg [] 0 else s) := by
  split
  · exact s.landLanes_onTeam ..
  · exact .refl .refl ..

theorem LanesLand.of_runVec {i : Instr} {s : State} {k : Kind} {vd : BitVec 6} {f : Env → Nat → BitVec 128 × FFlags}
    (h : exec i s = runVec i k vd s f) : LanesLand i s :=
  ⟨_, _, _, h, fun _ _ u => u.landLanes_onTeam .., fun _ u => u.landNone_onTeam ..⟩

theorem LanesLand.of_runGather {i : Instr} {s : State} {vd : BitVec 6} {f : Env → Nat → Lane} {q : Env → Nat → Bool}
    (h : exec i s = runGather i vd s f q) : LanesLand i s :=
  ⟨_, _, _, h, fun _ _ u => u.landLanes_onTeam .., fun _ u => u.landNone_onTeam ..⟩

/-- A transfer to S lands one value, or the words of a ballot. -/
theorem Env.toS_onTeam (e : Env) (i : Instr) (k : Kind) (xf : XferForm) (vd : BitVec 6) (oa : Sel) (s : State) :
    OnTeam Team.SameButLanding s e.z (e.toS i k xf vd oa s) := by
  cases xf with
  | copy => exact .refl .refl ..
  | first => exact s.landScalar_onTeam ..
  | first64 => exact s.landScalar_onTeam ..
  | ballot => exact s.landLanes_onTeam ..

theorem LanesLand.of_runXfer {i : Instr} {s : State} {k : Kind} {xf : XferForm} {vd : BitVec 6} {oa : Sel}
    (h : exec i s = runXfer i k xf vd oa s) : LanesLand i s := by
  cases xf with
  | copy => exact .of_runVec h
  | first | first64 | ballot => exact ⟨_, _, _, h.trans (by dsimp only [runXfer]), fun _ _ u => .refl .refl .., fun e u => e.toS_onTeam ..⟩

/-- Every VA operation is a per-lane operation that lands its results. -/
theorem lanesLand_of_va {i : Instr} (s : State) (hk : i.kind = some .va) : LanesLand i s := by
  cases i with
  | vaTsq mk ts rm vd oa =>
    exact ⟨_, _, _, by dsimp only [exec, execVaTsq], fun _ _ u => u.landLanes_onTeam .., fun _ u => u.landNone_onTeam ..⟩
  | vaXfer mk xf df vd oa => exact .of_runXfer (by dsimp only [exec]; rfl)
  | vaAdd | vaSub | vaMul | vaMulh | vaMulhu | vaAnd | vaOr | vaXor | vaAndn | vaShl | vaShr | vaSar | vaMin | vaMax | vaMinu | vaMaxu
  | vaCmp | vaSel | vaMov | vaFadd | vaFmul | vaFma | vaFsub | vaFnma | vaAdds | vaSubs | vaAdd64 | vaSub64 | vaShl64 | vaShr64 | vaSar64
  | vaCmp64 | vaFmin | vaFmax | vaFabs | vaFneg | vaFcmp | vaFcls | vaCvt | vaTsdq => exact .of_runVec (by dsimp only [exec]; rfl)
  | _ => cases hk

/-- Every VB operation is a per-lane operation that lands its results. -/
theorem lanesLand_of_vb {i : Instr} (s : State) (hk : i.kind = some .vb) : LanesLand i s := by
  cases i with
  | vbXfer mk xf df vd oa => exact .of_runXfer (by dsimp only [exec]; rfl)
  | vbPerm | vbShfl | vbRot | vbBcl | vbRed | vbScan | vbMatch => exact .of_runGather (by dsimp only [exec]; rfl)
  | vbAdd | vbSub | vbAnd | vbOr | vbXor | vbShl | vbShr | vbMin | vbMax | vbCmp | vbSel | vbMov | vbFadd | vbFmul | vbFma | vbPopc | vbClz
  | vbRcp | vbRsqrt | vbSqrt | vbExp2 | vbLog2 | vbSin | vbCos | vbTanh => exact .of_runVec (by dsimp only [exec]; rfl)
  | _ => cases hk

/-- A clock of such an operation. -/
theorem Slot.laneClock_onTeam {x : Slot} {i : Instr} {eff : Env → Nat → State → State} {fin : Env → State → State}
    (heff : ∀ e p u, OnTeam Team.SameButLanding u e.z (eff e p u)) (hfin : ∀ e u, OnTeam Team.SameButLanding u e.z (fin e u)) :
    OnTeam Team.SameButLanding x.e.s x.e.z (x.laneClock i eff fin) := by
  have hpass : OnTeam Team.SameButLanding x.e.s x.e.z (match x.e.c.passes with
      | [] => x.e.s
      | p :: _ => if (x.e.runPasses i).contains p then eff x.e p x.e.s else x.e.s) := by
    split
    · exact .refl .refl ..
    · split
      · exact heff ..
      · exact .refl .refl ..
  unfold Slot.laneClock
  dsimp only
  split
  · exact (hpass.trans .trans (hfin ..)).setSt .setOpSt ..
  · exact hpass.setSt .setOpSt ..

/-- An operation that is let go after blocking commits, or its clocks occupy its team's partition anew (R32, R84). -/
theorem Slot.unblock_onTeam {x : Slot} {i : Instr} {fin : Env → State → State}
    (hfin : ∀ e u, OnTeam Team.SameButLanding u e.z (fin e u)) :
    ∃ l, OnTeam Team.SameButLanding { x.e.s with parts := l } x.e.z (x.unblock i fin) := by
  unfold Slot.unblock
  dsimp only
  split
  · exact ⟨x.e.s.parts, (hfin x.e x.e.s).setSt .setOpSt ..⟩
  · refine ⟨x.e.s.parts.upd (partOf x.e.z) fun p => { p with busy := some x.e.z }, OnTeam.setSt .setOpSt ?_ ..⟩
    exact ⟨_, rfl, fun _ => rfl⟩

/-- What a clock or a retry of such an operation does: its team alone changes, and of a blocked one the partitions. -/
theorem LanesLand.next_onTeam {i : Instr} {s u : State} {x : Slot} (hl : LanesLand i s) (h : s.runningSlot i = some x)
    (hu : exec i s = .next u) :
    ∃ l, (x.o.st ≠ .blocked → l = x.e.s.parts) ∧ OnTeam Team.SameButLanding { x.e.s with parts := l } x.e.z u := by
  obtain ⟨ready, eff, fin, hexec, heff, hfin⟩ := hl
  rw [hexec, runLanes, runSlot_runs _ h] at hu
  cases hu
  have hself : OnTeam Team.SameButLanding x.e.s x.e.z x.e.s := .refl .refl ..
  cases x.o.st with
  | running => exact ⟨_, fun _ => rfl, x.laneClock_onTeam heff hfin⟩
  | done => exact ⟨_, fun _ => rfl, hself⟩
  | pending =>
    refine ⟨_, fun _ => rfl, ?_⟩
    dsimp only
    split
    · exact x.laneClock_onTeam heff hfin
    · exact hself.setSt .setOpSt ..
  | blocked =>
    dsimp only
    split
    · obtain ⟨l, hl⟩ := x.unblock_onTeam (i := i) hfin
      exact ⟨l, fun hne => absurd rfl hne, hl⟩
    · exact ⟨_, fun _ => rfl, hself⟩

/-- Settles O33: a VA or VB operation changes its team's landing buffer and word in progress, and blocked also the partition it occupies
anew. -/
theorem vectorFrame : Obligations.VectorFrame := by
  intro s u i x hk h hu
  have hlanes : LanesLand i s := hk.elim (lanesLand_of_va s) (lanesLand_of_vb s)
  have hmu : i.kind ≠ some .mu := by rcases hk with hk | hk <;> simp [hk]
  have hs : x.e.s = s := State.runningSlot_state h (Env.accesses_eq_none hmu)
  have ht : s.teams.get? x.e.z = some x.e.t := hs ▸ State.runningSlot_team h
  obtain ⟨l, hparts, g, rfl, hg⟩ := hlanes.next_onTeam h hu
  rw [hs] at hparts ⊢
  refine ⟨fun hne => ?_, rfl, fun y hy => State.updTeam_other _ _ _ hy, x.e.t, g x.e.t, ht, ?_, hg x.e.t⟩
  · rw [hparts hne]
    rfl
  · rw [State.updTeam_same, ht]
    rfl

end Sys2Proof.Machine
end

section
/-!
PROOF. When a slot operation of any kind does not act: without a word, stopped by a check, its queue bytes not ready, or behind a held
repeat that blocked (R32, R36, R57, R67, R124, R213).
-/
namespace Sys2Proof.Machine

/-- An instruction executes in a slot, and blocks there while the bytes of its queue reads are not ready. -/
def SlotForm (i : Instr) (s : State) : Prop :=
  ∃ act, exec i s = runSlot i s act ∧ ∀ x, x.o.st = .pending → x.e.queueReady i = false → act x = x.blocked

theorem SlotForm.of_scalar {i : Instr} {s : State} {ready : Env → Bool} {eff : Env → State → State}
    (h : exec i s = runScalar i s ready eff) : SlotForm i s := by
  refine ⟨_, h, fun x _ hq => ?_⟩
  simp only [hq, Bool.false_and]
  rfl

theorem SlotForm.of_lanes {i : Instr} {s : State} {ready : Env → Bool} {eff : Env → Nat → State → State} {fin : Env → State → State}
    (h : exec i s = runLanes i s ready eff fin) : SlotForm i s := by
  refine ⟨_, h, fun x hst hq => ?_⟩
  simp only [hst, hq, Bool.false_and]
  rfl

theorem LanesLand.slotForm {i : Instr} {s : State} (h : LanesLand i s) : SlotForm i s :=
  let ⟨_, _, _, hexec, _⟩ := h
  .of_lanes hexec

theorem SlotForm.of_xu {i : Instr} {s : State} (h : exec i s = runXu i s) : SlotForm i s := by
  refine ⟨_, h, fun x _ hq => ?_⟩
  simp only [hq]
  rfl

/-- Every SU operation executes in a slot; su.bar reads no queue. -/
theorem slotForm_of_su {i : Instr} (s : State) (hk : i.kind = some .su) : SlotForm i s := by
  by_cases hbar : ∀ lv, i ≠ .suBar lv
  · by_cases hsw : ∀ sa, i ≠ .suSwpt sa
    · obtain ⟨_, _, hexec, -⟩ := scalarOnTeam_of_su s hk hbar hsw
      exact .of_scalar hexec
    · obtain ⟨sa, rfl⟩ : ∃ sa, i = .suSwpt sa := by simpa using hsw
      refine ⟨_, by dsimp only [exec, execSuSwpt], fun x _ hq => ?_⟩
      simp only [hq]
      rfl
  · obtain ⟨lv, rfl⟩ : ∃ lv, i = .suBar lv := by simpa using hbar
    exact ⟨_, by dsimp only [exec, execSuBar], fun x _ hq => nomatch hq⟩

/-- Every MU operation executes in a slot. -/
theorem slotForm_of_mu {i : Instr} (s : State) (hk : i.kind = some .mu) : SlotForm i s := by
  cases i with
  | muLds | muGths | muSts | muScts | muLdr | muLdg | muGthg | muStr | muStg | muSctg | muAtmr | muAtmg | muAtms =>
    exact .of_lanes (by dsimp only [exec, execMuLds, execMuGths, execMuSts, execMuScts, execMuLdr, execMuLdg, execMuGthg, execMuStr,
      execMuStg, execMuSctg, execMuAtmr, execMuAtmg, execMuAtms, runSpadLoad, runSpadStore, runFarLoad, runFarStore, runFarAtomic])
  | muXferPerLane => exact (LanesLand.of_runVec (by dsimp only [exec]; rfl)).slotForm
  | muQbind | muQwait | muCwait => exact .of_scalar (by dsimp only [exec]; rfl)
  | muTfull | muTgate | muTclr => exact .of_scalar (by dsimp only [exec, execMuTfull, execMuTgate, execMuTclr, runTile])
  | muQadv qs qh oa =>
    refine ⟨_, by dsimp only [exec, execMuQadv], fun x _ hq => ?_⟩
    simp only [hq]
    rfl
  | muLdsa | muStsa | muLdga | muStga | muPfg | muAdda | muMova | muXfer | muTstat | muCprog | muCopy | muMsend | muMpost | muMprobe
  | muCpost | muTget =>
    exact .of_scalar (by dsimp only [exec, execMuLdsa, execMuStsa, execMuLdga, execMuStga, execMuPfg, execMuAdda, execMuMova, execMuXfer,
      execMuTstat, execMuCprog, execMuCopy, execMuMsend, execMuMpost, execMuMprobe, execMuCpost, execMuTget])
  | _ => cases hk

/-- Every XU operation executes in a slot. -/
theorem slotForm_of_xu {i : Instr} (s : State) (hk : i.kind = some .xu) : SlotForm i s := by
  cases i with
  | xuFmt => exact .of_scalar (by dsimp only [exec, execXuFmt])
  | xuMma | xuMmat | xuDist | xuTopk | xuAccst | xuAccld | xuAcczr | xuAccadd | xuAccmv | xuAccscl | xuAcctr =>
    exact .of_xu (by dsimp only [exec]; rfl)
  | _ => cases hk

theorem slotForm {i : Instr} (s : State) (hi : i.kind.isSome = true) : SlotForm i s := by
  obtain ⟨k, hk⟩ := Option.isSome_iff_exists.mp hi
  cases k with
  | su => exact slotForm_of_su s hk
  | va => exact (lanesLand_of_va s hk).slotForm
  | vb => exact (lanesLand_of_vb s hk).slotForm
  | mu => exact slotForm_of_mu s hk
  | xu => exact slotForm_of_xu s hk

/-- A position behind a held repeat that has blocked waits as a blocked slot does (R67). -/
theorem Slot.inTurn_heldUp {x : Slot} {y : OpSt} (i : Instr) (act : Slot → State) (hst : x.o.st = .pending)
    (hy : y ∈ x.e.c.repeatsDue x.o) (hb : y.st = .blocked) : x.inTurn i act = x.blocked := by
  have hany : ((x.e.c.repeatsDue x.o).any fun y => y.st == .blocked) = true := List.any_eq_true.mpr ⟨y, hy, by rw [hb]; rfl⟩
  have hup : x.e.c.heldUp x.o = true := by
    unfold Ctx.heldUp
    rw [hst, hany]
    rfl
  exact if_pos hup

/-- Settles O15: each operation has the form of a slot operation, and runSlot stops, blocks or holds it up. -/
theorem slotOperationStops : Obligations.SlotOperationStops := by
  intro s i hi
  obtain ⟨act, hexec, hblocks⟩ := slotForm s hi
  rw [hexec]
  refine ⟨runSlot_noWord act, fun x f => runSlot_stopped act, fun x hx hst hq => ?_, fun x hx hst ⟨y, hy, hb⟩ => ?_⟩
  · rw [runSlot_runs act hx, hblocks x hst hq]
  · rw [runSlot_checked act hx, x.inTurn_heldUp i act hst hy hb]

end Sys2Proof.Machine
end

section
/-!
PROOF. What a partition does in its clock, and which team it selects (R37, R84, R313).
-/
namespace Sys2Proof.Machine

/-! ## A partition's turn -/

/-- The turns a selection takes: that of its partition, and that of the core's partitions in ascending order. -/
def State.hadTurn (u : State) (part : Nat) : State := (u.takeTurn (turnSel part) 1).takeTurn (turnCore (part / 4)) (part % 4)

/-- A partition that has acted in the clock, or after a higher one of its core, does nothing more. -/
theorem teamSelection_idle {s : State} {part : Nat} (h : s.turn (turnSel part) ≠ 0 ∨ part % 4 < s.turn (turnCore (part / 4))) :
    exec (.teamSelection part) s = .next s := by
  show execTeamSelection part s = .next s
  unfold execTeamSelection
  rw [if_pos]
  simpa [State.mayAct] using h

/-- A partition acts in its turn. -/
theorem teamSelection_acts {s u : State} {part : Nat} (hsel : s.turn (turnSel part) = 0) (hcore : s.turn (turnCore (part / 4)) ≤ part % 4)
    (hu : s.partClock part = some u) : exec (.teamSelection part) s = .next (u.hadTurn part) := by
  show execTeamSelection part s = .next (u.hadTurn part)
  have hmay : s.mayAct (turnCore (part / 4)) (part % 4) = true := decide_eq_true hcore
  unfold execTeamSelection
  rw [hu, hsel, hmay]
  rfl

/-- The word that occupies a partition runs its next clock. -/
theorem State.partClock_busy {s : State} {part z : Nat} {p : Part} (hrows : s.rowsDue part = false) (hp : s.parts.get? part = some p)
    (hz : p.busy = some z) : s.partClock part = some (s.wordClock z) := by
  unfold State.partClock
  simp only [hrows, hp, hz, Bool.false_eq_true, if_false]

/-- A partition that no word occupies issues from the team selected. -/
theorem State.partClock_free {s : State} {part z : Nat} {p : Part} (hrows : s.rowsDue part = false) (hp : s.parts.get? part = some p)
    (hb : p.busy = none) (hz : s.select part = some z) : s.partClock part = some (s.issue z) := by
  unfold State.partClock
  simp only [hrows, hp, hb, hz, Bool.false_eq_true, if_false, Option.map_some]

/-- A team whose word nothing stops begins it. -/
theorem State.issue_begins {s : State} {z : Nat} {t : Team} {e : Env} (ht : s.teams.get? z = some t) (hd : t.drains = false)
    (hp : s.plan z = some (e, none)) : s.issue z = (s.beginWord z e).wordClock z := by
  unfold State.issue
  simp only [ht, hd, hp, Bool.false_eq_true, if_false]

/-- A team whose word a fault stops takes it as a trap. -/
theorem State.issue_faults {s : State} {z slot : Nat} {t : Team} {e : Env} {f : Flt} (ht : s.teams.get? z = some t)
    (hd : t.drains = false) (hp : s.plan z = some (e, some (slot, .fault f))) :
    s.issue z = (s.updTeam z fun _ => e.t).takeTrap z f := by
  unfold State.issue
  simp only [ht, hd, hp, Bool.false_eq_true, if_false]
  rfl

/-! ## The team selected (R313) -/

/-- Of two teams, by slot and last issue, the one whose last issue is older, the first on a tie. -/
def olderIssue (a x : Nat × Nat) : Nat × Nat := if x.2 < a.2 then x else a

/-- The first of a list whose last issue is oldest. -/
def oldestIssue : List (Nat × Nat) → Option (Nat × Nat)
  | [] => none
  | a :: l => some (l.foldl olderIssue a)

/-- The ready teams of a partition, by slot and last issue, in ascending order. -/
def State.readyTeams (s : State) (part : Nat) : List (Nat × Nat) :=
  (List.range 16).filterMap fun j => (s.teams.get? (16 * part + j)).bind fun t =>
    if s.ready (16 * part + j) t then some (16 * part + j, t.lastIssue) else none

/-- The oldest so far and the next one. -/
def olderSoFar (a : Option (Nat × Nat)) (x : Nat × Nat) : Option (Nat × Nat) :=
  match a with
  | none => some x
  | some y => if x.2 < y.2 then some x else some y

theorem foldl_olderSoFar (a : Nat × Nat) (l : List (Nat × Nat)) : l.foldl olderSoFar (some a) = some (l.foldl olderIssue a) := by
  induction l generalizing a with
  | nil => rfl
  | cons x l ih => rw [List.foldl_cons, List.foldl_cons, ← ih, olderIssue, apply_ite some, olderSoFar]

/-- Selection picks the oldest of the ready teams. -/
theorem State.select_eq (s : State) (part : Nat) : s.select part = (oldestIssue (s.readyTeams part)).map Prod.fst := by
  have hlist : s.select part = ((s.readyTeams part).foldl olderSoFar none).map Prod.fst := by
    refine congrArg (fun l : List (Nat × Nat) => (l.foldl olderSoFar none).map Prod.fst) (List.filterMap_congr fun j _ => ?_)
    dsimp only
    cases s.teams.get? (16 * part + j) <;> rfl
  rw [hlist]
  cases s.readyTeams part with
  | nil => rfl
  | cons a l => exact congrArg (Option.map Prod.fst) (foldl_olderSoFar a l)

/-- The order by which a team comes before another: an older last issue, then the lower slot. -/
def issuesFirst (a b : Nat × Nat) : Prop := a.2 < b.2 ∨ (a.2 = b.2 ∧ a.1 ≤ b.1)

/-- In a list of ascending slots the oldest comes first by age and slot. -/
theorem foldl_olderIssue {a m : Nat × Nat} {l : List (Nat × Nat)} (hs : (a :: l).Pairwise fun x y => x.1 < y.1)
    (hm : l.foldl olderIssue a = m) : m ∈ a :: l ∧ ∀ y ∈ a :: l, issuesFirst m y := by
  induction l generalizing a with
  | nil =>
    subst hm
    simp [issuesFirst]
  | cons x l ih =>
    obtain ⟨ha, hx, hl⟩ : (∀ y ∈ x :: l, a.1 < y.1) ∧ (∀ y ∈ l, x.1 < y.1) ∧ l.Pairwise fun x y => x.1 < y.1 := by
      simpa only [List.pairwise_cons] using hs
    have hax : a.1 < x.1 := ha x List.mem_cons_self
    rw [List.foldl_cons] at hm
    by_cases hlt : x.2 < a.2
    · rw [olderIssue, if_pos hlt] at hm
      obtain ⟨hmem, hmin⟩ := ih (List.pairwise_cons.mpr ⟨hx, hl⟩) hm
      refine ⟨List.mem_cons_of_mem _ hmem, fun y hy => ?_⟩
      rcases List.mem_cons.mp hy with rfl | hy
      · have hmx := hmin x List.mem_cons_self
        unfold issuesFirst at *
        omega
      · exact hmin y hy
    · rw [olderIssue, if_neg hlt] at hm
      obtain ⟨hmem, hmin⟩ := ih (List.pairwise_cons.mpr ⟨fun y hy => ha y (List.mem_cons_of_mem _ hy), hl⟩) hm
      refine ⟨?_, fun y hy => ?_⟩
      · rcases List.mem_cons.mp hmem with rfl | hmem
        · exact List.mem_cons_self
        · exact List.mem_cons_of_mem _ (List.mem_cons_of_mem _ hmem)
      · have hma := hmin a List.mem_cons_self
        rcases List.mem_cons.mp hy with rfl | hy
        · exact hma
        · rcases List.mem_cons.mp hy with rfl | hy
          · unfold issuesFirst at *
            omega
          · exact hmin y (List.mem_cons_of_mem _ hy)

theorem oldestIssue_spec {l : List (Nat × Nat)} {m : Nat × Nat} (hs : l.Pairwise fun x y => x.1 < y.1) (hm : oldestIssue l = some m) :
    m ∈ l ∧ ∀ y ∈ l, issuesFirst m y := by
  cases l with
  | nil => cases hm
  | cons a l => exact foldl_olderIssue hs (Option.some.inj hm)

/-- The ready teams of a partition. -/
theorem State.mem_readyTeams {s : State} {part : Nat} {x : Nat × Nat} :
    x ∈ s.readyTeams part ↔ x.1 / 16 = part ∧ ∃ t, s.teams.get? x.1 = some t ∧ s.ready x.1 t = true ∧ t.lastIssue = x.2 := by
  obtain ⟨z, n⟩ := x
  simp only [State.readyTeams, List.mem_filterMap, List.mem_range, Option.bind_eq_some_iff, Option.ite_none_right_eq_some, Option.some.injEq,
    Prod.mk.injEq]
  constructor
  · rintro ⟨j, hj, t, ht, hr, rfl, rfl⟩
    exact ⟨by omega, t, ht, hr, rfl⟩
  · rintro ⟨hz, t, ht, hr, rfl⟩
    have he : 16 * part + z % 16 = z := by omega
    exact ⟨z % 16, by omega, t, by rw [he]; exact ht, by rw [he]; exact hr, he, rfl⟩

/-- The ready teams stand in ascending order of slot. -/
theorem State.readyTeams_pairwise (s : State) (part : Nat) : (s.readyTeams part).Pairwise fun x y => x.1 < y.1 := by
  refine List.pairwise_lt_range.filterMap _ fun i j hij x hx y hy => ?_
  simp only [Option.bind_eq_some_iff, Option.ite_none_right_eq_some, Option.some.injEq] at hx hy
  obtain ⟨_, _, _, rfl⟩ := hx
  obtain ⟨_, _, _, rfl⟩ := hy
  exact Nat.add_lt_add_left hij _

/-- The team selected is ready, and of the partition's ready teams the one that issued longest ago, the lowest slot on a tie. -/
theorem State.select_spec {s : State} {part z : Nat} (h : s.select part = some z) :
    ∃ t, s.teams.get? z = some t ∧ s.ready z t = true ∧ z / 16 = part ∧
      ∀ y u, y / 16 = part → s.teams.get? y = some u → s.ready y u = true → issuesFirst (z, t.lastIssue) (y, u.lastIssue) := by
  rw [State.select_eq, Option.map_eq_some_iff] at h
  obtain ⟨⟨z', n⟩, hold, rfl⟩ := h
  obtain ⟨hmem, hmin⟩ := oldestIssue_spec (s.readyTeams_pairwise part) hold
  obtain ⟨hz, t, ht, hr, rfl⟩ := State.mem_readyTeams.mp hmem
  exact ⟨t, ht, hr, hz, fun y u hy hu hru => hmin (y, u.lastIssue) (State.mem_readyTeams.mpr ⟨hy, u, hu, hru, rfl⟩)⟩

/-- Settles O6: a partition's clock in its turn, and the team it selects. -/
theorem selectionRunsWord : Obligations.SelectionRunsWord := by
  refine ⟨fun s part p hrows hp hsel hcore => ?_, fun s part => teamSelection_idle, fun s part z => State.select_spec⟩
  refine ⟨fun z hz => teamSelection_acts hsel hcore (State.partClock_busy hrows hp hz), fun hb z t e hz ht hd => ?_⟩
  have hacts : exec (.teamSelection part) s = .next ((s.issue z).hadTurn part) :=
    teamSelection_acts hsel hcore (State.partClock_free hrows hp hb hz)
  refine ⟨fun hpl => ?_, fun slot f hpl => ?_⟩
  · rw [hacts, State.issue_begins ht hd hpl]
    rfl
  · rw [hacts, State.issue_faults ht hd hpl]
    rfl

end Sys2Proof.Machine
end

section
/-!
PROOF. Queue handles and tile state (R34 to R37, R41 to R44, R194 to R197).
-/
namespace Sys2Proof.Machine

/-! ## The fields of a queue handle (R34) -/

/-- Words that stand in masks without a common bit are put together by adding them. -/
theorem or_eq_add_of_masks {n : Nat} {a b m₁ m₂ : BitVec n} (ha : a &&& m₁ = a) (hb : b &&& m₂ = b) (h : m₁ &&& m₂ = 0) :
    a ||| b = a + b := by
  have hd : a &&& b = 0 := by
    calc a &&& b = (a &&& m₁) &&& (b &&& m₂) := by rw [ha, hb]
      _ = (a &&& b) &&& (m₁ &&& m₂) := by ac_rfl
      _ = 0 := by simp [h]
  exact (BitVec.add_eq_or_of_and_eq_zero _ _ hd).symm

theorem or_in_masks {n : Nat} {a b m₁ m₂ : BitVec n} (ha : a &&& m₁ = a) (hb : b &&& m₂ = b) : (a ||| b) &&& (m₁ ||| m₂) = a ||| b := by
  refine BitVec.eq_of_getLsbD_eq fun i _ => ?_
  have hai : (a.getLsbD i && m₁.getLsbD i) = a.getLsbD i := by rw [← BitVec.getLsbD_and, ha]
  have hbi : (b.getLsbD i && m₂.getLsbD i) = b.getLsbD i := by rw [← BitVec.getLsbD_and, hb]
  simp only [BitVec.getLsbD_and, BitVec.getLsbD_or]
  grind

/-- A value in a field of w bits from bit k stands in the field's mask. -/
theorem ofNat_field_and {v k w : Nat} {m : Word} (hv : v < 2 ^ w) (hkw : k + w ≤ 64) (hm : m.toNat = (2 ^ w - 1) * 2 ^ k) :
    BitVec.ofNat 64 (v * 2 ^ k) &&& m = BitVec.ofNat 64 (v * 2 ^ k) := by
  have hlt : v * 2 ^ k < 2 ^ 64 :=
    calc v * 2 ^ k < 2 ^ w * 2 ^ k := Nat.mul_lt_mul_of_pos_right hv (by positivity)
      _ = 2 ^ (k + w) := by rw [Nat.add_comm, Nat.pow_add]
      _ ≤ 2 ^ 64 := Nat.pow_le_pow_right (by decide) hkw
  rw [and_field_eq _ k w hm, BitVec.toNat_ofNat, Nat.mod_eq_of_lt hlt, Nat.mul_div_cancel _ (by positivity), Nat.mod_eq_of_lt hv]

theorem ofNat_shiftLeft_eq (v k : Nat) : BitVec.ofNat 64 v <<< k = BitVec.ofNat 64 (v * 2 ^ k) := by
  refine BitVec.eq_of_toNat_eq ?_
  simp [Nat.shiftLeft_eq]

theorem qhHead_eq (q : Word) : qhHead q = q.toNat / 2 ^ 27 % 2 ^ 13 := by simp [qhHead, Nat.shiftRight_eq_div_pow]

theorem qhTail_eq (q : Word) : qhTail q = q.toNat / 2 ^ 40 % 2 ^ 13 := by simp [qhTail, Nat.shiftRight_eq_div_pow]

theorem qhNlog_eq (q : Word) : qhNlog q = q.toNat / 2 ^ 23 % 2 ^ 4 := by simp [qhNlog, Nat.shiftRight_eq_div_pow]

theorem qhValid_iff (q : Word) : qhValid q = true ↔ q.toNat / 2 ^ 53 % 2 = 1 := by
  simp [qhValid, BitVec.getLsbD, Nat.testBit_eq_decide_div_mod_eq]

/-- A handle with its HEAD and TAIL replaced. -/
theorem qhSet_eq (q : Word) (h t : Nat) : qhSet q h t =
    BitVec.ofNat 64 (q.toNat % 2 ^ 27 + q.toNat / 2 ^ 53 % 2 ^ 11 * 2 ^ 53 + h % 2 ^ 13 * 2 ^ 27 + t % 2 ^ 13 * 2 ^ 40) := by
  have hmask : (0xFFE0000007FFFFFF#64) = 0x7FFFFFF#64 ||| 0xFFE0000000000000#64 := rfl
  have hkeep : q &&& 0xFFE0000007FFFFFF#64 = BitVec.ofNat 64 (q.toNat % 2 ^ 27 + q.toNat / 2 ^ 53 % 2 ^ 11 * 2 ^ 53) := by
    rw [hmask, and_or_eq_add q (by decide), and_field_eq q 0 27 (m := 0x7FFFFFF#64) rfl,
      and_field_eq q 53 11 (m := 0xFFE0000000000000#64) rfl, ← BitVec.ofNat_add]
    simp only [Nat.pow_zero, Nat.div_one, Nat.mul_one]
  have hq : (q &&& 0xFFE0000007FFFFFF#64) &&& 0xFFE0000007FFFFFF#64 = q &&& 0xFFE0000007FFFFFF#64 := by rw [BitVec.and_assoc, BitVec.and_self]
  have hh := ofNat_field_and (k := 27) (m := 0xFFF8000000#64) (Nat.mod_lt h (by decide : 0 < 2 ^ 13)) (by decide) rfl
  have ht := ofNat_field_and (k := 40) (m := 0x1FFF0000000000#64) (Nat.mod_lt t (by decide : 0 < 2 ^ 13)) (by decide) rfl
  have hqh := or_in_masks hq hh
  rw [or_eq_add_of_masks hq hh (by decide)] at hqh
  unfold qhSet
  rw [ofNat_shiftLeft_eq, ofNat_shiftLeft_eq, or_eq_add_of_masks hq hh (by decide), or_eq_add_of_masks hqh ht (by decide), hkeep,
    ← BitVec.ofNat_add, ← BitVec.ofNat_add]

/-- A handle whose HEAD moves. -/
theorem qhSet_head (q : Word) (h : Nat) : qhSet q h (qhTail q) =
    BitVec.ofNat 64 (q.toNat - q.toNat / 2 ^ 27 % 2 ^ 13 * 2 ^ 27 + h % 2 ^ 13 * 2 ^ 27) := by
  have hlt := q.isLt
  rw [qhSet_eq, qhTail_eq]
  congr 1
  omega

/-- A handle whose TAIL moves. -/
theorem qhSet_tail (q : Word) (t : Nat) : qhSet q (qhHead q) t =
    BitVec.ofNat 64 (q.toNat - q.toNat / 2 ^ 40 % 2 ^ 13 * 2 ^ 40 + t % 2 ^ 13 * 2 ^ 40) := by
  have hlt := q.isLt
  rw [qhSet_eq, qhHead_eq]
  congr 1
  omega

/-! ## mu.qbind, mu.qwait and mu.qadv (R37, R194 to R196) -/

theorem qhFill_eq (q : Word) : qhFill q =
    (q.toNat / 2 ^ 40 % 2 ^ 13 + 2 ^ (q.toNat / 2 ^ 23 % 2 ^ 4 + 1) - q.toNat / 2 ^ 27 % 2 ^ 13) % 2 ^ (q.toNat / 2 ^ 23 % 2 ^ 4 + 1) := by
  rw [qhFill, qhTail_eq, qhHead_eq, qhNlog_eq]

/-- The condition of mu.qwait (R195). -/
def qwaitOk (qs : QSide) (q : Word) (n : Nat) : Prop :=
  match qs with
  | .c => n ≤ qhFill q
  | .p => n ≤ 2 ^ qhNlog q - qhFill q

theorem exec_muQwait_done {s : State} {x : Slot} {qs : QSide} {qh : BitVec 3} {oa : Sel} (h : s.runningSlot (.muQwait qs qh oa) = some x)
    (hq : x.e.queueReady (.muQwait qs qh oa) = true) (hok : qwaitOk qs (x.e.b.q0.get qh.toNat) (x.e.scalar .a oa).toNat) :
    exec (.muQwait qs qh oa) s = .next (x.doneIn x.e.s) := by
  show execMuQwait qs qh oa s = _
  exact runScalar_done h hq (by cases qs <;> exact decide_eq_true hok)

theorem exec_muQwait_blocks {s : State} {x : Slot} {qs : QSide} {qh : BitVec 3} {oa : Sel} (h : s.runningSlot (.muQwait qs qh oa) = some x)
    (hno : ¬qwaitOk qs (x.e.b.q0.get qh.toNat) (x.e.scalar .a oa).toNat) : exec (.muQwait qs qh oa) s = .next x.blocked := by
  show execMuQwait qs qh oa s = _
  refine runScalar_blocks h ?_
  rw [Bool.and_eq_false_iff]
  exact .inr (by cases qs <;> exact decide_eq_false hno)

/-- An advance blocks until it may be applied (R196). -/
theorem exec_muQadv_blocks {s : State} {x : Slot} {qs : QSide} {qh : BitVec 3} {oa : Sel} (h : s.runningSlot (.muQadv qs qh oa) = some x)
    (hno : x.e.advReady x.k qs = false) : exec (.muQadv qs qh oa) s = .next x.blocked := by
  show execMuQadv qs qh oa s = _
  unfold execMuQadv
  rw [runSlot_runs _ h, hno, Bool.and_false]
  rfl

theorem exec_muQadv_applies {s : State} {x : Slot} {qs : QSide} {qh : BitVec 3} {oa : Sel} (h : s.runningSlot (.muQadv qs qh oa) = some x)
    (hq : x.e.queueReady (.muQadv qs qh oa) = true) (hadv : x.e.advReady x.k qs = true) :
    exec (.muQadv qs qh oa) s = .next (x.e.s.applyAdvance x qs qh oa) := by
  show execMuQadv qs qh oa s = _
  unfold execMuQadv
  rw [runSlot_runs _ h, hq, hadv]
  rfl

/-- An advance that leaves the fill in range takes effect. -/
theorem State.applyAdvance_some {s : State} {x : Slot} {qs : QSide} {qh : BitVec 3} {oa : Sel} {q : Word}
    (hb : s.blocks.get? x.e.t.blk = some x.e.b) (hq : qhAdvance (x.e.b.q.get qh.toNat) qs (x.e.scalar .a oa).toNat = some q) :
    s.applyAdvance x qs qh oa = x.doneIn (s.updBlock x.e.t.blk fun b => { b with q := b.q.set qh.toNat q }) := by
  unfold State.applyAdvance
  simp only [hb, hq]
  rfl

/-- An advance that would leave it traps, uncommitted (R196). -/
theorem State.applyAdvance_none {s : State} {x : Slot} {qs : QSide} {qh : BitVec 3} {oa : Sel}
    (hb : s.blocks.get? x.e.t.blk = some x.e.b) (hq : qhAdvance (x.e.b.q.get qh.toNat) qs (x.e.scalar .a oa).toNat = none) :
    s.applyAdvance x qs qh oa = s.takeTrap x.e.z ⟨0x0F, BitVec.ofNat 32 (qh.toNat + 56), 0, x.e.slot, 0, 0⟩ := by
  unfold State.applyAdvance
  simp only [hb, hq]
  rfl

theorem qhAdvance_c {q : Word} {n : Nat} (h : n ≤ qhFill q) : qhAdvance q .c n =
    some (BitVec.ofNat 64 (q.toNat - q.toNat / 2 ^ 27 % 2 ^ 13 * 2 ^ 27 + (qhHead q + n) % 2 ^ (qhNlog q + 1) % 2 ^ 13 * 2 ^ 27)) := by
  rw [← qhSet_head]
  exact if_pos h

theorem qhAdvance_p {q : Word} {n : Nat} (h : qhFill q + n ≤ 2 ^ qhNlog q) : qhAdvance q .p n =
    some (BitVec.ofNat 64 (q.toNat - q.toNat / 2 ^ 40 % 2 ^ 13 * 2 ^ 40 + (qhTail q + n) % 2 ^ (qhNlog q + 1) % 2 ^ 13 * 2 ^ 40)) := by
  rw [← qhSet_tail]
  exact if_pos h

theorem qhAdvance_none {q : Word} {qs : QSide} {n : Nat} (hc : qs = .c → qhFill q < n) (hp : qs = .p → 2 ^ qhNlog q < qhFill q + n) :
    qhAdvance q qs n = none := by
  cases qs with
  | c => exact if_neg (Nat.not_le.mpr (hc rfl))
  | p => exact if_neg (Nat.not_le.mpr (hp rfl))

/-- The value mu.qbind binds (R194). -/
theorem qbind_value (v : Word) : (if qhValid v then v &&& 0x003FFFFFFFFFFFFF#64 else 0) =
    if v.toNat / 2 ^ 53 % 2 = 1 then BitVec.ofNat 64 (v.toNat % 2 ^ 54) else 0 := by
  have hmask : v &&& 0x003FFFFFFFFFFFFF#64 = BitVec.ofNat 64 (v.toNat % 2 ^ 54) := by
    simpa using and_field_eq v 0 54 (m := 0x003FFFFFFFFFFFFF#64) rfl
  simp only [hmask, qhValid_iff]

theorem exec_muQbind {s : State} {x : Slot} {qh : BitVec 3} {md : BitVec 6} (h : s.runningSlot (.muQbind qh md) = some x)
    (hq : x.e.queueReady (.muQbind qh md) = true) :
    exec (.muQbind qh md) s = .next (x.doneIn (x.e.s.updBlock x.e.t.blk fun b => { b with
      q := b.q.set qh.toNat (if qhValid (x.e.t.a.get md.toNat) then x.e.t.a.get md.toNat &&& 0x003FFFFFFFFFFFFF#64 else 0),
      qP := b.qP.set qh.toNat 0 })) := by
  show execMuQbind qh md s = _
  exact runScalar_done h hq rfl

/-- Settles O44: each operation's condition and effect, by the handle's fields. -/
theorem muQueueHandles : Obligations.MuQueueHandles := by
  intro s i x h hq
  refine ⟨?_, fun qs qh oa q nlog head tail fill n hi hq0 hnlog hhead htail hfill hn => ⟨?_, ?_, ?_⟩⟩
  · rintro qh md v rfl rfl
    rw [exec_muQbind h hq, qbind_value]
  · rintro rfl
    have hf : fill = qhFill (x.e.b.q0.get qh.toNat) := by
      rcases hi with hi | hi <;> cases hi
      rw [qhFill_eq, hfill, hnlog, hhead, htail, hq0, if_pos rfl]
    rw [hf, hn]
    exact ⟨exec_muQwait_done h hq, fun hlt => exec_muQwait_blocks h (Nat.not_le.mpr hlt)⟩
  · rintro rfl
    obtain ⟨hf, hl⟩ : fill = qhFill (x.e.b.q0.get qh.toNat) ∧ nlog = qhNlog (x.e.b.q0.get qh.toNat) := by
      rcases hi with hi | hi <;> cases hi
      rw [qhFill_eq, hfill, qhNlog_eq, hnlog, hhead, htail, hq0, if_pos rfl]
      exact ⟨rfl, rfl⟩
    rw [hf, hl, hn]
    exact ⟨exec_muQwait_done h hq, fun hlt => exec_muQwait_blocks h (Nat.not_le.mpr hlt)⟩
  · rintro rfl
    rw [if_neg nofun] at hq0
    have hf : fill = qhFill (x.e.b.q.get qh.toNat) := by rw [qhFill_eq, hfill, hnlog, hhead, htail, hq0]
    rw [hf, hn, hnlog, hhead, htail, hq0, ← qhNlog_eq, ← qhHead_eq, ← qhTail_eq, qhHead_eq, qhTail_eq]
    have hb := State.runningSlot_block h
    refine ⟨exec_muQadv_blocks h, fun hadv => ⟨?_, ?_, fun hc hp => ?_⟩⟩
    · rintro rfl hle
      rw [exec_muQadv_applies h hq hadv, State.applyAdvance_some hb (qhAdvance_c hle), qhHead_eq]
    · rintro rfl hle
      rw [exec_muQadv_applies h hq hadv, State.applyAdvance_some hb (qhAdvance_p hle), qhTail_eq]
    · rw [exec_muQadv_applies h hq hadv, State.applyAdvance_none hb (qhAdvance_none hc hp)]

end Sys2Proof.Machine
end

section
/-!
PROOF. Tile state (R41 to R44, R197).
-/
namespace Sys2Proof.Machine

/-- A flag of a tile state word stands in its own bit. -/
theorem flagBit_getLsbD (c : Bool) {m j : Nat} (k : Nat) (hm : m = 2 ^ k) (hj : j < 32) :
    (BitVec.ofNat 32 (if c then m else 0)).getLsbD j = (c && decide (k = j)) := by
  rw [BitVec.getLsbD_ofNat, decide_eq_true hj, Bool.true_and, hm]
  cases c with
  | true => exact Nat.testBit_two_pow
  | false => exact Nat.zero_testBit j

/-- A bit of a tile state word from its fields. -/
theorem tsMake_getLsbD {j : Nat} (hj : j < 22) (chunk : BitVec 16) (full gate busyw : Bool) (busyr : Nat) :
    (tsMake chunk full gate busyw busyr).getLsbD j =
      if j < 16 then chunk.getLsbD j else if j = 16 then full else if j = 17 then gate else if j = 18 then busyw
      else busyr.testBit (j - 19) := by
  have hr : (busyr % 8).testBit (j - 19) = busyr.testBit (j - 19) := by
    rw [show 8 = 2 ^ 3 from rfl, Nat.testBit_mod_two_pow, decide_eq_true (by omega), Bool.true_and]
  have hc : 16 ≤ j → chunk.getLsbD j = false := fun h => BitVec.getLsbD_of_ge _ _ h
  have h32 : j < 32 := by omega
  simp only [tsMake, BitVec.getLsbD_or, BitVec.getLsbD_setWidth, BitVec.getLsbD_shiftLeft, BitVec.natCast_eq_ofNat,
    flagBit_getLsbD (m := 0x10000) full 16 rfl h32, flagBit_getLsbD (m := 0x20000) gate 17 rfl h32, flagBit_getLsbD (m := 0x40000) busyw 18 rfl h32]
  rw [BitVec.getLsbD_ofNat, hr]
  grind

/-- A bit of a tile state word of which some fields are kept. -/
theorem tsMake_of_word {j : Nat} (hj : j < 22) (w : BitVec 32) (chunk : BitVec 16) (full gate : Bool) :
    (tsMake chunk full gate (tsBusyW w) (tsBusyR w)).getLsbD j =
      if j < 16 then chunk.getLsbD j else if j = 16 then full else if j = 17 then gate else w.getLsbD j := by
  have hr : 19 ≤ j → (tsBusyR w).testBit (j - 19) = w.getLsbD j := fun h => by
    rw [tsBusyR, BitVec.testBit_toNat, BitVec.getLsbD_extractLsb', decide_eq_true (by omega), Bool.true_and, Nat.add_sub_cancel' h]
  rw [tsMake_getLsbD hj]
  split_ifs with h16 h16' h17 h18
  · rfl
  · rfl
  · rfl
  · rw [h18]; rfl
  · exact hr (by omega)

/-- A chunk's bit of a tile state word. -/
theorem tsChunk_getLsbD (w : BitVec 32) {j : Nat} (hj : j < 16) : (tsChunk w).getLsbD j = w.getLsbD j := by
  rw [tsChunk, BitVec.getLsbD_extractLsb', decide_eq_true hj, Bool.true_and, Nat.zero_add]

/-- A tile-state operation blocks while an engine writes the tile (R43). -/
theorem runTile_blocks {i : Instr} {oa : Sel} {s : State} {x : Slot} {f : BitVec 32 → BitVec 16 → BitVec 32}
    (h : s.runningSlot i = some x) (hb : (x.e.tile oa).getLsbD 18 = true) : runTile i oa s f = .next x.blocked := by
  refine runScalar_blocks h ?_
  rw [show tsBusyW (x.e.tile oa) = true from hb, Bool.not_true, Bool.and_false]

/-- Else it makes the new word of the present one. -/
theorem runTile_done {i : Instr} {oa : Sel} {s : State} {x : Slot} {f : BitVec 32 → BitVec 16 → BitVec 32} (h : s.runningSlot i = some x)
    (hq : x.e.queueReady i = true) (hb : (x.e.tile oa).getLsbD 18 = false) :
    runTile i oa s f = .next (x.doneIn (x.e.s.updBlock x.e.t.blk fun b => { b with
      tiles := b.tiles.set (x.e.scalar .a oa).toNat
        (f (x.e.b.tiles.get (x.e.scalar .a oa).toNat) (x.e.b.chunkNow.get (x.e.scalar .a oa).toNat)) })) := by
  refine (runScalar_done h hq (by rw [show tsBusyW (x.e.tile oa) = false from hb]; rfl)).trans ?_
  exact congrArg (fun u => Host.Outcome.next (x.doneIn u)) (State.updBlock_congr (State.runningSlot_block h) rfl)

/-- What mu.cwait waits for (R197). -/
theorem cwait_ready_iff (w : BitVec 32) (v : Word) : let m : BitVec 16 := v.setWidth 16
    (m == 0 || tsFull w || (tsChunk w &&& m) == m) = true ↔ w.getLsbD 16 = true ∨ ∀ j, j < 16 → v.getLsbD j = true → w.getLsbD j = true := by
  intro m
  have hm (j : Nat) (hj : j < 16) : m.getLsbD j = v.getLsbD j := by simp [m, hj]
  have hall : (tsChunk w &&& m) = m ↔ ∀ j, j < 16 → v.getLsbD j = true → w.getLsbD j = true := by
    constructor
    · intro he j hj hv
      have hbit := congrArg (fun b => b.getLsbD j) he
      simp only [BitVec.getLsbD_and, tsChunk_getLsbD w hj, hm j hj, hv, Bool.and_true] at hbit
      exact hbit
    · intro ha
      refine BitVec.eq_of_getLsbD_eq fun j hj => ?_
      rw [BitVec.getLsbD_and, tsChunk_getLsbD w hj, hm j hj]
      have hj := ha j hj
      grind
  have hzero : m = 0 → ∀ j, j < 16 → v.getLsbD j = true → w.getLsbD j = true := by
    intro h0 j hj hv
    rw [← hm j hj, h0] at hv
    simp at hv
  rw [Bool.or_eq_true, Bool.or_eq_true, beq_iff_eq, beq_iff_eq, hall]
  unfold tsFull
  tauto

theorem exec_muCwait {s : State} {x : Slot} {oa ob : Sel} (h : s.runningSlot (.muCwait oa ob) = some x)
    (hq : x.e.queueReady (.muCwait oa ob) = true) (hok : (x.e.tile oa).getLsbD 16 = true ∨
      ∀ j, j < 16 → (x.e.scalar .a ob).getLsbD j = true → (x.e.tile oa).getLsbD j = true) :
    exec (.muCwait oa ob) s = .next (x.doneIn x.e.s) := by
  show execMuCwait oa ob s = _
  exact runScalar_done h hq ((cwait_ready_iff ..).mpr hok)

theorem exec_muCwait_blocks {s : State} {x : Slot} {oa ob : Sel} (h : s.runningSlot (.muCwait oa ob) = some x)
    (hno : ¬((x.e.tile oa).getLsbD 16 = true ∨ ∀ j, j < 16 → (x.e.scalar .a ob).getLsbD j = true → (x.e.tile oa).getLsbD j = true)) :
    exec (.muCwait oa ob) s = .next x.blocked := by
  show execMuCwait oa ob s = _
  refine runScalar_blocks h (Bool.and_eq_false_iff.mpr (.inr ?_))
  exact Bool.eq_false_iff.mpr fun hr => hno ((cwait_ready_iff ..).mp hr)

/-- The word that a tile-state operation makes of the present one w and of the chunks c completed in this clock (R197). -/
def tileWord (i : Instr) (w : BitVec 32) (c : BitVec 16) : BitVec 32 :=
  match i with
  | .muTfull _ => tsMake (tsChunk w) true (tsGate w) (tsBusyW w) (tsBusyR w)
  | .muTgate g _ => tsMake (tsChunk w) (tsFull w) g (tsBusyW w) (tsBusyR w)
  | _ => tsMake c (c == 0xFFFF) (tsGate w) (tsBusyW w) (tsBusyR w)

/-- A tile-state operation. -/
def TileOp (i : Instr) (oa : Sel) : Prop := i = .muTfull oa ∨ (∃ g, i = .muTgate g oa) ∨ i = .muTclr oa

theorem exec_tileOp {i : Instr} {oa : Sel} (s : State) (hi : TileOp i oa) : exec i s = runTile i oa s (tileWord i) := by
  rcases hi with rfl | ⟨g, rfl⟩ | rfl
  · exact (by dsimp only [exec, execMuTfull]; rfl)
  · exact (by dsimp only [exec, execMuTgate]; rfl)
  · exact (by dsimp only [exec, execMuTclr]; rfl)

/-- The bits of that word. -/
theorem tileWord_getLsbD {i : Instr} {oa : Sel} (hi : TileOp i oa) (w : BitVec 32) (c : BitVec 16) {j : Nat} (hj : j < 22) :
    (tileWord i w c).getLsbD j =
      (if i = .muTfull oa ∧ j = 16 then true
       else if i = .muTclr oa ∧ j < 16 then c.getLsbD j
       else if i = .muTclr oa ∧ j = 16 then decide (c = 0xFFFF)
       else if i = .muTgate true oa ∧ j = 17 then true
       else if i = .muTgate false oa ∧ j = 17 then false else w.getLsbD j) := by
  have hchunk : j < 16 → (tsChunk w).getLsbD j = w.getLsbD j := tsChunk_getLsbD w
  have hfull : tsFull w = w.getLsbD 16 := rfl
  have hgate : tsGate w = w.getLsbD 17 := rfl
  rcases hi with rfl | ⟨g, rfl⟩ | rfl
  · rw [tileWord, tsMake_of_word hj]
    simp only [reduceCtorEq, true_and, false_and, if_false]
    grind
  · rw [tileWord, tsMake_of_word hj]
    cases g <;> simp only [reduceCtorEq, true_and, false_and, if_false, Instr.muTgate.injEq, and_true] <;> grind
  · rw [show tileWord (.muTclr oa) w c = tsMake c (decide (c = 0xFFFF)) (tsGate w) (tsBusyW w) (tsBusyR w) from rfl, tsMake_of_word hj]
    simp only [reduceCtorEq, true_and, false_and, if_false]
    grind

/-- Settles O45: the tile-state operations by the bits of the word they make, mu.cwait by its mask, mu.tstat by its landing. -/
theorem muTileState : Obligations.MuTileState := by
  rintro s i x oa _ _ _ _ h hq rfl rfl rfl rfl
  refine ⟨fun hi => ?_, fun ob hi => ?_, fun md hi => ?_⟩
  · rw [exec_tileOp s hi]
    exact ⟨runTile_blocks h, fun hb => ⟨_, runTile_done h hq hb, fun j hj => tileWord_getLsbD hi _ _ hj⟩⟩
  · subst hi
    exact ⟨exec_muCwait h hq, exec_muCwait_blocks h⟩
  · subst hi
    show execMuTstat md oa s = _
    unfold execMuTstat
    dsimp only
    rw [runScalar_done h hq rfl, State.landScalar_eq rfl rfl rfl]

end Sys2Proof.Machine
end

section
/-!
PROOF. Scratchpad loads and stores (R43, R187, R376): the comparators that look at an access are those of the core whose scratchpad holds
its place, and the statements' premise speaks of the team's core only.
-/
namespace Sys2Proof.Machine

/-- A lone team of core 0 about to run an operation whose place lies in the scratchpad of core 1, where a comparator is armed for every
scratchpad access of any requester. -/
def strayPlace (i : Instr) : State :=
  let s := State.reset.withFetchWord 256 ((encode i).getD 0).toNat
  match s.plan 0 with
  | some (e, none) =>
    (({ s.beginWord 0 e with cur := some 0 } : State).updOpSt 0 0 fun o => { o with places := [(0, .spad (2 ^ 19))] }).setReg
      (coreDbg 1 + 0x108) (BitVec.ofNat 64 (2 ^ 10 + 2 ^ 4 + 7 * 2 ^ 5))
  | _ => s

/-- A step answers a next state in which a register differs. -/
def changesReg (s : State) (i : Instr) (off : Nat) : Bool :=
  match exec i s with
  | .next u => u.regs.get off != s.regs.get off
  | .fault _ => false
  | .refused _ => false

/-- The record of the hit in core 1 is outside the frame of an access by a team of core 0 (R379). -/
theorem not_slotFrame_of_changesReg {s u : State} {i : Instr} (hc : changesReg s i (coreDbg 1 + 0x180) = true) (hu : exec i s = .next u) :
    ¬s.SlotFrame u 0 [] := by
  rintro ⟨-, -, hregs, -⟩
  have heq := hregs (coreDbg 1 + 0x180) (.inr (by decide)) List.not_mem_nil
  unfold changesReg at hc
  rw [hu] at hc
  simp [heq] at hc

/-- The hypotheses of the scalar clauses, of the slot in strayPlace. -/
def strayRuns (i : Instr) : Bool :=
  ((strayPlace i).runningSlot i).any fun x =>
    x.e.z == 0 && x.e.queueReady i && x.e.spadReady i && x.e.spadAt i 0 == some (2 ^ 19)

theorem strayRuns_spec {i : Instr} (h : strayRuns i = true) : ∃ x, (strayPlace i).runningSlot i = some x ∧ x.e.z = 0 ∧
    x.e.queueReady i = true ∧ x.e.spadReady i = true ∧ x.e.spadAt i 0 = some (2 ^ 19) := by
  simp only [strayRuns, Option.any_eq_true, Bool.and_eq_true, beq_iff_eq] at h
  obtain ⟨x, hx, ⟨⟨hz, hq⟩, hr⟩, hk⟩ := h
  exact ⟨x, hx, hz, hq, hr, hk⟩

/-- Refutes O39: mu.ldsa of a place in another core's scratchpad hits that core's comparator, whose record is no part of the frame. -/
theorem not_muScratchpadLoads : ¬ Obligations.MuScratchpadLoads := by
  rintro ⟨-, -, hscalar⟩
  obtain ⟨x, hx, hz, hq, hr, hk⟩ := strayRuns_spec (i := .muLdsa 9 13 (.const 0) ⟨0, 0, .core⟩) (by decide +kernel)
  have hwatch : (strayPlace (.muLdsa 9 13 (.const 0) ⟨0, 0, .core⟩)).Unwatched (coreOf x.e.z) := by
    rw [hz]
    unfold State.Unwatched
    decide +kernel
  obtain ⟨u, t', hu, hframe, -⟩ := hscalar _ _ x 9 13 (.const 0) ⟨0, 0, .core⟩ (2 ^ 19) rfl hx hwatch hq hr hk
  rw [hz] at hframe
  exact not_slotFrame_of_changesReg (by decide +kernel) hu hframe

/-- Refutes O40: mu.stsa of such a place does the same. -/
theorem not_muScratchpadStores : ¬ Obligations.MuScratchpadStores := by
  rintro ⟨-, -, hscalar⟩
  obtain ⟨x, hx, hz, hq, hr, hk⟩ := strayRuns_spec (i := .muStsa 9 13 (.const 0) ⟨0, 0, .core⟩) (by decide +kernel)
  have hwatch : (strayPlace (.muStsa 9 13 (.const 0) ⟨0, 0, .core⟩)).Unwatched (coreOf x.e.z) := by
    rw [hz]
    unfold State.Unwatched
    decide +kernel
  obtain ⟨u, t', hu, hframe, -⟩ := hscalar _ _ x 9 13 (.const 0) ⟨0, 0, .core⟩ (2 ^ 19) rfl hx hwatch (by decide +kernel) hq hr hk
  rw [hz] at hframe
  exact not_slotFrame_of_changesReg (by decide +kernel) hu hframe

end Sys2Proof.Machine
end

section
/-!
PROOF. Matrix operations (R212, R220): the read of xu.fmt is seen by the comparators of the block's core, and the statement's premise speaks
of the team's core only.
-/
namespace Sys2Proof.Machine

/-- A lone team of core 0 about to run xu.fmt, whose block is recorded in core 1, where a comparator is armed for every scratchpad access
of any requester. -/
def strayBlock (i : Instr) : State :=
  let s := State.reset.withFetchWord 256 ((encode i).getD 0).toNat
  match s.plan 0 with
  | some (e, none) =>
    (({ s.beginWord 0 e with cur := some 0 } : State).updBlock 0 fun b => { b with core := 1 }).setReg
      (coreDbg 1 + 0x108) (BitVec.ofNat 64 (2 ^ 10 + 2 ^ 4 + 7 * 2 ^ 5))
  | _ => s

/-- The hypotheses of the clause of xu.fmt, of the slot in strayBlock. -/
def strayFmt (i : Instr) (oa : Sel) : Bool :=
  ((strayBlock i).runningSlot i).any fun x =>
    x.e.z == 0 && x.e.queueReady i && x.e.predsReady i && x.e.b.readReady (x.e.addrVal .f oa).toNat 16 &&
      x.e.t.locFree (x.e.opId i) (.spad (2 ^ 19 * x.e.b.core + 8192 * x.e.b.tile0 + (x.e.addrVal .f oa).toNat)) 16

theorem strayFmt_spec {i : Instr} {oa : Sel} (h : strayFmt i oa = true) : ∃ x, (strayBlock i).runningSlot i = some x ∧ x.e.z = 0 ∧
    x.e.queueReady i = true ∧ x.e.predsReady i = true ∧ x.e.b.readReady (x.e.addrVal .f oa).toNat 16 = true ∧
    x.e.t.locFree (x.e.opId i) (.spad (2 ^ 19 * x.e.b.core + 8192 * x.e.b.tile0 + (x.e.addrVal .f oa).toNat)) 16 = true := by
  simp only [strayFmt, Option.any_eq_true, Bool.and_eq_true, beq_iff_eq] at h
  obtain ⟨x, hx, ⟨⟨⟨hz, hq⟩, hp⟩, hr⟩, hl⟩ := h
  exact ⟨x, hx, hz, hq, hp, hr, hl⟩

/-- Refutes O47: xu.fmt of a block recorded in another core hits that core's comparator, whose record is no part of the frame. -/
theorem not_xuCommands : ¬ Obligations.XuCommands := by
  rintro ⟨hfmt, -⟩
  obtain ⟨x, hx, hz, hq, hp, hr, hl⟩ := strayFmt_spec (i := .xuFmt 6 (.const 0) ⟨0, 0, .core⟩) (oa := .const 0) (by decide +kernel)
  have hwatch : (strayBlock (.xuFmt 6 (.const 0) ⟨0, 0, .core⟩)).Unwatched (coreOf x.e.z) := by
    rw [hz]
    unfold State.Unwatched
    decide +kernel
  obtain ⟨u, t', hu, hframe, -⟩ := hfmt _ _ x 6 (.const 0) ⟨0, 0, .core⟩ _ _ rfl hx hwatch hq rfl rfl hp hr hl
  rw [hz] at hframe
  exact not_slotFrame_of_changesReg (by decide +kernel) hu hframe

end Sys2Proof.Machine
end

section
/-!
PROOF. The engines' steps: retries of blocked slots (R32, R37, R212), matrix commands (R214, R216), copies (R202, R203), and the end of a
block (R149).
-/
namespace Sys2Proof.Machine

/-! ## Retries (R32, R37, R212) -/

/-- A slot that may be tried in its partition's turn takes the turn when it goes on. -/
theorem State.retryInTurn_eq {s : State} {z k : Nat} (hm : s.mayRetry z k = true) (ht : s.turn (coreOf z) ≤ partOf z % 4) :
    s.retryInTurn z k = if (s.retrySlot z k).stillBlocked z k then s.retrySlot z k
      else (s.retrySlot z k).takeTurn (coreOf z) (partOf z % 4) := by
  have hmay : s.mayAct (turnCore (coreOf z)) (partOf z % 4) = true := decide_eq_true ht
  unfold State.retryInTurn
  rw [hm, hmay]
  rfl

/-- The blocked slots of a core are slots of its teams. -/
theorem State.coreOf_of_mem_blockedSlots {s : State} {core : Nat} {own : Instr → Bool} {y : Nat × Nat} (h : y ∈ s.blockedSlots core own) :
    coreOf y.1 = core := by
  obtain ⟨x, hx, hy⟩ := List.mem_flatMap.mp h
  have hcore : coreOf x.1 = core := by simpa using (List.mem_filter.mp hx).2
  split at hy
  · cases hy
  · obtain ⟨n, -, rfl⟩ := List.mem_map.mp hy
    exact hcore

/-- A blocked slot that a retry lets go in its partition's turn. -/
def State.retryGoes (s : State) (core : Nat) (y : Nat × Nat) : Bool :=
  s.mayRetry y.1 y.2 && decide (s.turn core ≤ partOf y.1 % 4) && !(s.retrySlot y.1 y.2).stillBlocked y.1 y.2

theorem State.firstRetry_eq (s : State) (core : Nat) (own : Instr → Bool) :
    s.firstRetry core own = (s.blockedSlots core own).find? (s.retryGoes core) := rfl

/-- The first that goes commits and takes the turn. -/
theorem State.retryInTurn_of_goes {s : State} {core : Nat} {y : Nat × Nat} (hcore : coreOf y.1 = core) (h : s.retryGoes core y = true) :
    s.retryInTurn y.1 y.2 = (s.retrySlot y.1 y.2).takeTurn core (partOf y.1 % 4) := by
  subst hcore
  simp only [State.retryGoes, Bool.and_eq_true, decide_eq_true_eq, Bool.not_eq_true'] at h
  obtain ⟨⟨hm, ht⟩, hs⟩ := h
  rw [State.retryInTurn_eq hm ht, hs]
  rfl

/-- QUEUE_HANDLE_UPDATE and XU_ACCEPTANCE retry the blocked slots of their operations. -/
theorem exec_firstRetry {s : State} {core : Nat} {i : Instr} {own : Instr → Bool}
    (hi : (i = .queueHandleUpdate core ∧ own = isAdvance) ∨ (i = .xuAcceptance core ∧ own = isCommand)) :
    (∀ z k, s.firstRetry core own = some (z, k) → exec i s = .next (s.retryInTurn z k)) ∧
    (s.firstRetry core own = none → exec i s = .next s) := by
  rcases hi with ⟨rfl, rfl⟩ | ⟨rfl, rfl⟩
  · refine ⟨fun z k h => ?_, fun h => ?_⟩
    · show execQueueHandleUpdate core s = _
      unfold execQueueHandleUpdate
      rw [h]
    · show execQueueHandleUpdate core s = _
      unfold execQueueHandleUpdate
      rw [h]
  · refine ⟨fun z k h => ?_, fun h => ?_⟩
    · show execXuAcceptance core s = _
      unfold execXuAcceptance
      rw [h]
    · show execXuAcceptance core s = _
      unfold execXuAcceptance
      rw [h]

/-! ## Matrix commands (R214, R216) -/

theorem exec_matrixCommandBegin {s : State} {core : Nat} {c : MCmd} {t : Team} {b : Block} (h : s.headCmd core = some (c, t, b))
    (hr : s.cmdReady core c t b = true) : exec (.matrixCommandBegin core) s =
      .next ((((s.engineReads b c).updCmd core c.id fun c => { c with due := some (s.clock + c.clocks) }).postRows core 5
        (bankRows (b.rowKeys c.readSpans.1) [] ++ bankRows (b.rowKeys (xuUse c.ins c.args).wr) [])).postRows core 6
          (bankRows (b.rowKeys c.readSpans.2) [])) := by
  show execMatrixCommandBegin core s = _
  unfold execMatrixCommandBegin
  simp only [h, hr, Bool.not_true, Bool.false_eq_true, if_false]

theorem exec_matrixCommandCompletion_runs {s : State} {core : Nat} {c : MCmd} {t : Team} {b : Block}
    (h : s.headCmd core = some (c, t, b)) (hd : s.cmdDone core c = false) (hdue : c.due.isSome = true) :
    exec (.matrixCommandCompletion core) s = .next (s.writeChunk core c b) := by
  show execMatrixCommandCompletion core s = _
  unfold execMatrixCommandCompletion
  simp only [h, hd, hdue, Bool.not_false, if_true]

theorem exec_matrixCommandCompletion_ends {s : State} {core : Nat} {c : MCmd} {t : Team} {b : Block}
    (h : s.headCmd core = some (c, t, b)) (hd : s.cmdDone core c = true) : exec (.matrixCommandCompletion core) s =
      .next ((((s.runCommand b c c.groups).updCore core fun k => { k with mq := k.mq.filter fun x => x.id != c.id }).updBlock c.blk
        fun b => b.xuEnd (xuUse c.ins c.args)).updTeam c.z fun t => t.complete c.id 4) := by
  show execMatrixCommandCompletion core s = _
  unfold execMatrixCommandCompletion
  simp only [h, hd, Bool.not_true, Bool.false_eq_true, if_false]

/-! ## Copies (R202, R203) -/

section
variable {s : State} {id : Nat} {c : Copy} {t : Team} {b : Block} (hc : s.copies.find? (fun x => x.id == id) = some c)
  (hr : s.copyReady c = some (t, b))
include hc hr

theorem exec_copyChunkComplete {s' : State} {c' : Copy} {n : Nat} (hs : s.copyStep c t b = (s', c', .unit n)) :
    exec (.copyChunkComplete id) s = .next (if c'.prog'.dstGlobal then s'
      else s'.updBlock c.blk fun b => b.setChunks (n / 16) (1#16 <<< (n % 16))) := by
  show execCopyChunkComplete id s = _
  unfold execCopyChunkComplete
  simp only [hc, hr, hs]

theorem exec_copyCompletion (hl : c.left = false) (hf : s.farOfCopy id = false) : exec (.copyCompletion id) s =
    .next (({ (s.giveMse c).performViews (coreOf c.z) id (s.doneWidth id c.scp) with
        copies := ((s.giveMse c).performViews (coreOf c.z) id (s.doneWidth id c.scp)).copies.filter fun x => x.id != id }.updBlock c.blk
      fun b => b.copyEnd c.prog').updTeam c.z fun t => t.complete id (s.doneWidth id c.scp)) := by
  show execCopyCompletion id s = _
  unfold execCopyCompletion
  simp only [hc, hr, hl, hf, Bool.or_self, Bool.false_eq_true, if_false]

theorem exec_copyFaultSuspend {s' : State} {c' : Copy} {cause : Nat} {d : BitVec 32} {a : Word}
    (hs : s.copyStep c t b = (s', c', .fault cause d a)) (he : t.ended = false) (hn : cause ≠ 0x1A) :
    exec (.copyFaultSuspend id) s =
      .next ((s'.putCopy c'.suspend).updTeam c.z fun t => t.pendCause (.copyFault c.id cause d a)) := by
  show execCopyFaultSuspend id s = _
  unfold execCopyFaultSuspend
  simp only [hc, hr, hs, he, hn, Bool.false_eq_true, if_false]

end

/-! ## The end of a block (R149) -/

theorem exec_blockEnd {s : State} {k : Nat} {b : Block} (hb : s.blocks.get? k = some b) (hs : b.stop = false)
    (hd : s.blockDone k b = true) : exec (.blockEnd k) s = .next { (s.dropQueued b).removeBlock k with
      launches := s.launches.upd b.launch fun l => { l with ended := l.ended ++ [(b.lin, b.teams.length)] } } := by
  show execBlockEnd k s = _
  unfold execBlockEnd
  simp only [hb, hs, hd, Bool.not_true, Bool.or_self, Bool.false_eq_true, if_false]

/-- Settles O50: the retries in their turns, then one equation per engine step. -/
theorem engineSteps : Obligations.EngineSteps := by
  refine ⟨fun s z k hm ht => ?_, fun s core z k own i p q hi => ?_, fun s core c t b h => ?_,
    fun s id c t b hc hr => ?_, fun s k b => exec_blockEnd⟩
  · exact congrArg Host.Outcome.next (State.retryInTurn_eq hm ht)
  · obtain ⟨hretry, hidle⟩ := exec_firstRetry (s := s) hi
    refine ⟨fun hl hp hz => ?_, fun hn => ?_⟩
    · have hfirst : s.firstRetry core own = some (z, k) := by
        rw [State.firstRetry_eq, List.find?_eq_some_iff_append]
        exact ⟨hz, p, q, hl, fun y hy => by rw [show s.retryGoes core y = false from hp y hy]; rfl⟩
      have hmem : (z, k) ∈ s.blockedSlots core own := by
        rw [hl]
        exact List.mem_append_right _ List.mem_cons_self
      rw [hretry z k hfirst, State.retryInTurn_of_goes (State.coreOf_of_mem_blockedSlots hmem) hz]
    · refine hidle ?_
      rw [State.firstRetry_eq, List.find?_eq_none]
      exact fun y hy => Bool.eq_false_iff.mp (hn y hy)
  · exact ⟨exec_matrixCommandBegin h, exec_matrixCommandCompletion_runs h, exec_matrixCommandCompletion_ends h⟩
  · refine ⟨fun s' c' n => exec_copyChunkComplete hc hr, ?_, fun s' c' cause d a => exec_copyFaultSuspend hc hr⟩
    rintro _ _ rfl rfl hl hf
    exact exec_copyCompletion hc hr hl hf

end Sys2Proof.Machine
end

section
/-!
PROOF. Traps: taking one, its frame, the order of asynchronous causes, and the return (R53, R55, R68, R144, R318, R319, R322).
-/
namespace Sys2Proof.Machine

/-! ## What the writes of a frame leave: the teams -/

@[simp] theorem State.useXlat_teams (s : State) (core : Nat) (w : WalkRes) : (s.useXlat core w).teams = s.teams := by
  unfold State.useXlat
  cases w.setA <;> rfl

@[simp] theorem State.dropViews_teams (s : State) (pa n : Nat) : (s.dropViews pa n).teams = s.teams := by
  unfold State.dropViews
  split <;> rfl

theorem State.writeVa_go_teams {core root : Nat} {asid : BitVec 16} {p : Bool} {n : Nat} {s u : State} {va : Nat} {l : List Byte}
    (h : State.writeVa.go core asid root p n s va l = .ok u) : u.teams = s.teams := by
  induction n generalizing s va l with
  | zero =>
    cases h
    rfl
  | succ n ih =>
    unfold State.writeVa.go at h
    split at h
    · cases h
      rfl
    · dsimp only at h
      split at h
      · cases h
      · simpa using ih h

theorem State.writeFrame_teams {s u : State} {core root va : Nat} {asid : BitVec 16} {l : List Byte} {p : Bool}
    (h : s.writeFrame core asid root va l p = .ok u) : u.teams = s.teams := by
  unfold State.writeFrame at h
  dsimp only at h
  split at h
  · cases h
  · exact State.writeVa_go_teams h

/-- Writes the next piece of a frame, unless one before it could not be written. -/
def framePiece (core : Nat) (asid : BitVec 16) (root ctx : Nat) (r : Except XErr State) (x : Nat × List Byte × Bool) : Except XErr State :=
  match r with
  | .ok s => s.writeFrame core asid root (ctx + x.1) x.2.1 x.2.2
  | .error e => .error e

theorem foldl_framePiece_error {core root ctx : Nat} {asid : BitVec 16} (l : List (Nat × List Byte × Bool)) (e : XErr) :
    l.foldl (framePiece core asid root ctx) (.error e) = .error e := by
  induction l with
  | nil => rfl
  | cons x l ih => exact ih

theorem foldl_framePiece_teams {core root ctx : Nat} {asid : BitVec 16} {l : List (Nat × List Byte × Bool)} {s u : State}
    (h : l.foldl (framePiece core asid root ctx) (.ok s) = .ok u) : u.teams = s.teams := by
  induction l generalizing s with
  | nil =>
    cases h
    rfl
  | cons x l ih =>
    rw [List.foldl_cons] at h
    cases hx : framePiece core asid root ctx (.ok s) x with
    | error e =>
      rw [hx, foldl_framePiece_error] at h
      cases h
    | ok v =>
      rw [hx] at h
      rw [ih h]
      exact State.writeFrame_teams hx

theorem State.ringPut_teams (s : State) (core : Nat) (l : List (List Byte)) : (s.ringPut core l).teams = s.teams :=
  foldl_keeps (fun u : State => u.teams = s.teams) _ (fun u r hu => by simp [State.putReg, hu]) l s rfl

theorem State.trace_teams (s : State) (core typ part slot extra : Nat) (soa : Word) : (s.trace core typ part slot extra soa).teams = s.teams := by
  unfold State.trace
  cases s.cores.get? core with
  | none => rfl
  | some c =>
    simp only [apply_ite State.teams, State.updCore_teams, State.ringPut_teams, State.satReg, State.putReg, State.setReg_teams, ite_self]

/-- After a trap with no step running the teams are as the entry left them. -/
theorem State.afterTrap_teams (s : State) (z : Nat) {t : Team} (h : FrameHead) (ht : t.stepping = none) :
    (s.afterTrap z t h).teams = s.teams := by
  unfold State.afterTrap
  rw [ht]
  exact State.trace_teams ..

/-! ## Taking a trap (R318, R322) -/

theorem foldl_max_le {α : Type} {f : α → Nat} {l : List α} {n m : Nat} (hm : m ≤ n) (h : ∀ x ∈ l, f x ≤ n) :
    l.foldl (fun m x => max m (f x)) m ≤ n := by
  induction l generalizing m with
  | nil => exact hm
  | cons x l ih => exact ih (max_le hm (h x List.mem_cons_self)) fun y hy => h y (List.mem_cons_of_mem _ hy)

/-- In user mode, with a frame that lies in its context area and can be written, the team enters trap mode. -/
theorem State.takeTrap_user {s u : State} {z : Nat} {t0 t : Team} {f : Flt} {h : FrameHead} (ht0 : s.teams.get? z = some t0)
    (ht : t = t0.landStop) (hh : h = t.frameHead f) (hm : t.tmode = false)
    (hlen : ∀ x ∈ frameBytes t h t.held t.replayList, x.1 + x.2.1.length ≤ 2 ^ (12 + t.ctxlog))
    (hw : (frameBytes t h t.held t.replayList).foldl (framePiece (coreOf z) t.asid t.root t.ctxptr.toNat)
      (.ok ((s.updTeam z fun _ => t).abandonRefill z)) = .ok u) :
    s.takeTrap z f = (u.updTeam z fun t' => t'.enterTrap t.replayList (h.done != 0 || h.part2)).afterTrap z t h := by
  subst ht
  subst hh
  have hle := Nat.not_lt.mpr (foldl_max_le (f := fun x : Nat × List Byte × Bool => x.1 + x.2.1.length) (Nat.zero_le _) hlen)
  unfold State.takeTrap
  simp only [ht0, hm, Bool.false_eq_true, if_false, if_neg hle]
  split
  · rename_i heq
    exact nomatch heq.symm.trans hw
  · rename_i heq
    cases heq.symm.trans hw
    rfl

/-- The team of a trap in user mode (R68, R318). -/
theorem State.takeTrap_user_team {s u : State} {z : Nat} {t0 t : Team} {f : Flt} {h : FrameHead} (ht0 : s.teams.get? z = some t0)
    (ht : t = t0.landStop) (hh : h = t.frameHead f) (hst : t.stepping = none) (hm : t.tmode = false)
    (hlen : ∀ x ∈ frameBytes t h t.held t.replayList, x.1 + x.2.1.length ≤ 2 ^ (12 + t.ctxlog))
    (hw : (frameBytes t h t.held t.replayList).foldl (framePiece (coreOf z) t.asid t.root t.ctxptr.toNat)
      (.ok ((s.updTeam z fun _ => t).abandonRefill z)) = .ok u) :
    (s.takeTrap z f).teams.get? z = some (t.enterTrap t.replayList (h.done != 0 || h.part2)) := by
  have hu : u.teams.get? z = some t := by
    rw [foldl_framePiece_teams hw]
    exact (State.updTeam_same ..).trans (by rw [ht0]; rfl)
  rw [State.takeTrap_user ht0 ht hh hm hlen hw, State.afterTrap_teams _ _ _ hst, State.updTeam_same, hu]
  rfl

/-- In trap mode the team halts (R322). -/
theorem State.takeTrap_trapMode {s : State} {z : Nat} {t0 t : Team} {f : Flt} (ht0 : s.teams.get? z = some t0) (ht : t = t0.landStop)
    (hm : t.tmode = true) :
    s.takeTrap z f = ((s.updTeam z fun _ => t).abandonRefill z).haltTeam z 7 true (t.frameHead f) := by
  subst ht
  unfold State.takeTrap
  simp only [ht0, hm, if_true]

/-- A team halted by a trap it cannot take. -/
def Team.haltAt (t : Team) (nest : Bool) (h : FrameHead) : Team :=
  { t.putAside h none with halted := true, nest := t.nest || nest, haltFrame := some h }

/-- The event posted for a team. -/
theorem State.postEvent_spec {s : State} {z code : Nat} {w : Word} {t : Team} (ht : s.teams.get? z = some t) :
    (s.postEvent code z w).teams = s.teams ∧ (s.postEvent code z w).mem = s.mem ∧
      ∃ e, (s.postEvent code z w).cxq = s.cxq ++ [e] ∧ e.code = code := by
  unfold State.postEvent
  simp only [ht]
  exact ⟨trivial, trivial, _, rfl, rfl⟩

/-- A team that halts, and the event posted for it. -/
theorem State.haltTeam_spec {s : State} {z code : Nat} {nest : Bool} {h : FrameHead} {t : Team} (ht : s.teams.get? z = some t) :
    (s.haltTeam z code nest h).teams.get? z = some (t.haltAt nest h) ∧ (s.haltTeam z code nest h).mem = s.mem ∧
      ∃ e, (s.haltTeam z code nest h).cxq = s.cxq ++ [e] ∧ e.code = code := by
  have hget : (s.updTeam z fun t => t.haltAt nest h).teams.get? z = some (t.haltAt nest h) := by
    rw [State.updTeam_same, ht]
    rfl
  obtain ⟨hteams, hmem, hcxq⟩ := State.postEvent_spec (code := code) (w := h.word0) hget
  exact ⟨(congrArg (fun l => AL.get? l z) hteams).trans hget, hmem, hcxq⟩

/-! ## The frame (R53) -/

/-- The k-th of the words that bytes begin with. -/
theorem leNat_word (ws : List Word) (rest : List Byte) {k : Nat} (hk : k < ws.length) :
    leNat (((ws.flatMap (leBytes 8) ++ rest).drop (8 * k)).take 8) = ws[k].toNat := by
  induction ws generalizing k with
  | nil => cases hk
  | cons w ws ih =>
    rw [List.flatMap_cons, List.append_assoc]
    cases k with
    | zero =>
      rw [Nat.mul_zero, List.drop_zero, List.take_left' (length_leBytes 8 w), leNat_leBytes]
      exact Nat.mod_eq_of_lt w.isLt
    | succ k =>
      rw [show 8 * (k + 1) = 8 + 8 * k by omega, ← List.drop_drop, List.drop_left' (length_leBytes 8 w)]
      exact ih (Nat.lt_of_succ_lt_succ hk)

/-- Word 0 of a frame. -/
theorem FrameHead.word0_toNat (h : FrameHead) : h.word0.toNat = h.flt.cause % 256 + 2 ^ 8 * (h.flt.slot % 4) + 2 ^ 10 * h.done.toNat
    + (if h.partial_ then 2 ^ 13 else 0) + (if h.part2 then 2 ^ 14 else 0) + 2 ^ 16 * (h.flt.pass % 32) + 2 ^ 32 * h.flt.detail.toNat := by
  have hdone := h.done.isLt
  have hdetail := h.flt.detail.isLt
  have hflag (c : Bool) (n : Nat) : n * (if c then 1 else 0) = if c then n else 0 := by cases c <;> simp
  rw [FrameHead.word0, BitVec.toNat_ofNat, hflag, hflag]
  refine Nat.mod_eq_of_lt ?_
  split_ifs <;> omega

/-- The words at a frame's start, before the held records. -/
def frameWords (t : Team) (h : FrameHead) (rep : List Landing) : List Word :=
  [h.word0, h.pc, h.npc, h.flt.addr, h.tcyc, t.fmode, h.flt.lanes.setWidth 64, BitVec.ofNat 64 rep.length]

/-- The held records of a frame: 16 bytes for each kind. -/
def frameHeldBytes (held : AL SlotBits) : List Byte :=
  heldKinds.flatMap fun k => match held.get? k with
    | some x => leBytes 16 ((x.setWidth 128 : BitVec 128) ||| (1#128 <<< 80))
    | none => leBytes 16 (0#128)

theorem length_frameHeldBytes (held : AL SlotBits) : (frameHeldBytes held).length = 80 := by
  have hrec : ∀ k ∈ heldKinds, (match held.get? k with
      | some x => leBytes 16 ((x.setWidth 128 : BitVec 128) ||| (1#128 <<< 80))
      | none => leBytes 16 (0#128)).length = 16 := by
    intro k _
    split <;> exact length_leBytes ..
  rw [frameHeldBytes, List.length_flatMap, List.map_congr_left hrec]
  rfl

/-- A frame's first 256 bytes. -/
def frameFirst (t : Team) (h : FrameHead) (held : AL SlotBits) (rep : List Landing) : List Byte :=
  (frameWords t h rep).flatMap (leBytes 8) ++ (frameHeldBytes held ++ (leBytes 8 h.imm ++ leBytes 0x68 (0#8)))

theorem frameBytes_eq (t : Team) (h : FrameHead) (held : AL SlotBits) (rep : List Landing) :
    ∃ r, frameBytes t h held rep = (0, frameFirst t h held rep, false) :: r := by
  have hfirst : leBytes 8 h.word0 ++ leBytes 8 h.pc ++ leBytes 8 h.npc ++ leBytes 8 h.flt.addr ++ leBytes 8 h.tcyc ++ leBytes 8 t.fmode
      ++ leBytes 8 ((h.flt.lanes.setWidth 64 : Word)) ++ leBytes 8 (BitVec.ofNat 64 rep.length) ++ frameHeldBytes held ++ leBytes 8 h.imm
      ++ leBytes 0x68 (0#8) = frameFirst t h held rep := by
    simp only [frameFirst, frameWords, List.flatMap_cons, List.flatMap_nil, List.append_nil, List.append_assoc]
  exact ⟨(frameBytes t h held rep).tail, congrArg (fun b => (0, b, false) :: (frameBytes t h held rep).tail) hfirst⟩

theorem length_frameWords (t : Team) (h : FrameHead) (rep : List Landing) :
    ((frameWords t h rep).flatMap (leBytes 8)).length = 64 := by
  simp [frameWords]

/-- Those bytes are the first 256, and their words are the head's fields. -/
theorem frameFirst_spec (t : Team) (h : FrameHead) (held : AL SlotBits) (rep : List Landing) : (frameFirst t h held rep).length = 256 ∧
    (∀ k (hk : k < 8), leNat (((frameFirst t h held rep).drop (8 * k)).take 8) = (frameWords t h rep)[k].toNat) ∧
    leNat (((frameFirst t h held rep).drop (8 * 18)).take 8) = h.imm.toNat := by
  refine ⟨?_, fun k hk => leNat_word _ _ hk, ?_⟩
  · unfold frameFirst
    simp only [List.length_append, length_frameWords, length_frameHeldBytes, length_leBytes]
  · have himm := leNat_word [h.imm] (leBytes 0x68 (0#8)) (k := 0) Nat.one_pos
    rw [show 8 * 18 = 64 + (80 + 8 * 0) by rfl, ← List.drop_drop, ← List.drop_drop]
    unfold frameFirst
    rw [List.drop_left' (length_frameWords ..), List.drop_left' (length_frameHeldBytes held)]
    simpa using himm

/-! ## The order of asynchronous causes (R319) -/

theorem Async.before_iff (a b : Async) : a.before b = true ↔ a.rank < b.rank ∨ (a.rank = b.rank ∧ a.age < b.age) := by
  simp [Async.before]

theorem mem_of_nextAsync {l r : List Async} {a : Async} (h : nextAsync l = some (a, r)) : a ∈ l := by
  induction l generalizing a r with
  | nil => cases h
  | cons x l ih =>
    unfold nextAsync at h
    split at h
    · cases h
      exact List.mem_cons_self
    · rename_i b r' heq
      split at h
      · cases h
        exact List.mem_cons_of_mem _ (ih heq)
      · cases h
        exact List.mem_cons_self

theorem nextAsync_eq_none {l : List Async} (h : nextAsync l = none) : l = [] := by
  cases l with
  | nil => rfl
  | cons x l =>
    unfold nextAsync at h
    split at h
    · cases h
    · split at h <;> cases h

/-- The first cause is taken when none of the others comes before it. -/
theorem nextAsync_head {a : Async} {q : List Async} (hq : ∀ x ∈ q, x.before a = false) : nextAsync (a :: q) = some (a, q) := by
  unfold nextAsync
  split
  · rename_i heq
    rw [nextAsync_eq_none heq]
  · rename_i b r heq
    rw [hq b (mem_of_nextAsync heq)]
    rfl

/-- A cause that comes before all those in front of it, and behind none of the others, is taken. -/
theorem nextAsync_append {a : Async} {p q : List Async} (hp : ∀ x ∈ p, a.before x = true) (hq : ∀ x ∈ q, x.before a = false) :
    nextAsync (p ++ a :: q) = some (a, p ++ q) := by
  induction p with
  | nil => exact nextAsync_head hq
  | cons x p ih =>
    rw [List.cons_append, nextAsync, ih fun y hy => hp y (List.mem_cons_of_mem _ hy)]
    simp only [hp x List.mem_cons_self, if_true]
    rfl

theorem exec_trapEntry {s : State} {z : Nat} {t : Team} {a : Async} {rest : List Async} (ht : s.teams.get? z = some t)
    (hr : t.asyncReady = true) (hn : nextAsync t.async = some (a, rest)) : exec (.trapEntry z) s =
      .next ((s.updTeam z fun t => { t with
        async := rest, ctx := none, fetched := none, zeroTrip := none, waiting := false }).takeTrap z a.flt) := by
  show execTrapEntry z s = _
  unfold execTrapEntry
  simp only [ht, hr, hn, Bool.not_true, Bool.false_eq_true, if_false]

/-! ## The return (R144) -/

theorem exec_eretResume {s s' : State} {z : Nat} {t : Team} {f : FrameIn} (ht : s.teams.get? z = some t) (hr : t.eretReady = true)
    (hf : s.readFrame z t = .ok (s', f)) :
    exec (.eretResume z) s = .next (((s'.updTeam z fun t => t.leaveTrap f).resumeCopies z).traceResume z) := by
  show execEretResume z s = _
  unfold execEretResume
  simp only [ht, hr, hf, Bool.not_true, Bool.false_eq_true, if_false]

/-- With nothing in the buffer nothing lands. -/
theorem Team.landDue_empty {t : Team} (h : t.land = []) : t.landDue = { t with land := [] } := by
  have hdue : t.dueList = [] := by simp [Team.dueList, h]
  unfold Team.landDue
  rw [hdue, h]
  rfl

/-- The parcel address a trap or return goes on at (R125). -/
theorem loopAddr_toNat (v : Nat) : (loopAddr v).toNat = v / 2 % 2 ^ 56 * 2 := by
  rw [loopAddr, BitVec.toNat_ofNat]
  omega

theorem Team.enterTrap_pc (t : Team) (rep : List Landing) (p : Bool) :
    (t.enterTrap rep p).pc.toNat = t.trapvec.toNat / 2 % 2 ^ 56 * 2 :=
  (congrArg BitVec.toNat (and_loopMask t.trapvec)).trans (loopAddr_toNat _)

/-- The PC of a frame. -/
theorem framePc_toNat (l : List Byte) :
    (field64 l 8 &&& 0x01FFFFFFFFFFFFFE#64).toNat = leNat ((l.drop 8).take 8) / 2 % 2 ^ 56 * 2 := by
  rw [and_loopMask, loopAddr_toNat, field64, BitVec.toNat_ofNat]
  omega

/-- Settles O49: the entry in either mode, the frame's words, the cause taken first, and the fields of a return. -/
theorem trapsAndReturns : Obligations.TrapsAndReturns := by
  refine ⟨?_, ?_, ?_, ?_⟩
  · intro s u z t0 t f h l ht0 ht hh hst
    refine ⟨fun hm hl hlen hw => ?_, fun hm => ?_⟩
    · subst hl
      exact ⟨_, State.takeTrap_user_team ht0 ht hh hst hm hlen hw, rfl, Team.enterTrap_pc .., rfl, rfl, rfl, rfl, rfl, rfl, rfl, rfl, rfl, rfl,
        rfl, rfl, rfl, rfl, rfl, rfl, rfl, rfl, rfl, rfl⟩
    · have hget : ((s.updTeam z fun _ => t).abandonRefill z).teams.get? z = some t :=
        (State.updTeam_same ..).trans (by rw [ht0]; rfl)
      obtain ⟨hteam, hmem, hcxq⟩ := State.haltTeam_spec (code := 7) (nest := true) (h := h) hget
      rw [State.takeTrap_trapMode ht0 ht hm, ← hh]
      exact ⟨_, hteam, hm, rfl, Bool.or_true _, rfl, hmem, hcxq⟩
  · intro t h held rep
    obtain ⟨r, hr⟩ := frameBytes_eq t h held rep
    obtain ⟨hlen, hwords, himm⟩ := frameFirst_spec t h held rep
    refine ⟨_, r, hr, hlen, ?_⟩
    intro k v hkv
    simp only [List.mem_cons, Prod.mk.injEq, List.not_mem_nil, or_false] at hkv
    rcases hkv with ⟨rfl, rfl⟩ | ⟨rfl, rfl⟩ | ⟨rfl, rfl⟩ | ⟨rfl, rfl⟩ | ⟨rfl, rfl⟩ | ⟨rfl, rfl⟩ | ⟨rfl, rfl⟩ | ⟨rfl, rfl⟩ | ⟨rfl, rfl⟩
    · exact (hwords 0 (by decide)).trans h.word0_toNat
    · exact hwords 1 (by decide)
    · exact hwords 2 (by decide)
    · exact hwords 3 (by decide)
    · exact hwords 4 (by decide)
    · exact hwords 5 (by decide)
    · exact (hwords 6 (by decide)).trans (BitVec.toNat_setWidth_of_le (by decide))
    · exact (hwords 7 (by decide)).trans (BitVec.toNat_ofNat ..)
    · exact himm
  · intro s z t a p q ht hr ha hp hq
    refine exec_trapEntry ht hr ?_
    rw [ha]
    refine nextAsync_append (fun x hx => (Async.before_iff a x).mpr (hp x hx)) fun x hx => ?_
    have hqx := hq x hx
    rw [Bool.eq_false_iff, Ne, Async.before_iff]
    omega
  · intro s s' z t f ht hr hf
    refine ⟨exec_eretResume ht hr hf, fun hland => ?_⟩
    rw [show t.leaveTrap f = _ from Team.landDue_empty hland]
    exact ⟨rfl, framePc_toNat f.head, BitVec.toNat_ofNat .., rfl, rfl, rfl, rfl, rfl, rfl, rfl, rfl, rfl⟩

end Sys2Proof.Machine
end

section
/-!
PROOF. The filter of R79 and the entries it accepts: decode and encode agree, and what is reserved is refused (R57 to R65, R79, R80).
-/
namespace Sys2Proof

/-! ## The fields of an entry (R57) -/

theorem ofBool_getLsbD {n : Nat} (b : BitVec n) (k : Nat) : BitVec.ofBool (b.getLsbD k) = b.extractLsb' k 1 := by
  refine BitVec.eq_of_getLsbD_eq fun i hi => ?_
  obtain rfl : i = 0 := by omega
  simp

theorem rawPos_packWord (n : BitVec 3) (p : Nat → BitVec 3 × Bool × SlotBits) {i : Nat} (hi : i < 3) :
    rawPos (packWord n (p 0) (p 1) (p 2)) i = p i := by
  simp only [rawPos, packWord, BitVec.cast_eq]
  interval_cases i
  all_goals
    simp (disch := omega) only [extract_low, extract_high, bit_low, bit_high, Nat.reduceSub, Nat.reduceMul, Nat.sub_self, extract_all]
    simp

theorem nimm_packWord (n : BitVec 3) (p0 p1 p2 : BitVec 3 × Bool × SlotBits) : (packWord n p0 p1 p2).extractLsb' 241 3 = n := by
  simp only [packWord, BitVec.cast_eq]
  simp (disch := omega) only [extract_low, extract_high, Nat.reduceSub, Nat.sub_self, extract_all]

theorem bit240_packWord (n : BitVec 3) (p0 p1 p2 : BitVec 3 × Bool × SlotBits) : (packWord n p0 p1 p2).getLsbD 240 = false := by
  simp only [packWord, BitVec.cast_eq]
  simp (disch := omega) only [bit_low, bit_high, Nat.reduceSub, Nat.sub_self]
  simp

/-- The fields are the whole entry but bit 240: put side by side again they are it. -/
theorem packWord_rawPos {b : ControlWord} (h : b.getLsbD 240 = false) :
    packWord (b.extractLsb' 241 3) (rawPos b 0) (rawPos b 1) (rawPos b 2) = b := by
  have h0 : 0#1 = b.extractLsb' 240 1 := by rw [← ofBool_getLsbD, h]; rfl
  simp only [packWord, rawPos, BitVec.cast_eq, h0, ofBool_getLsbD, Nat.reduceMul, Nat.reduceSub]
  iterate 10 rw [BitVec.extractLsb'_append_extractLsb'_eq_extractLsb' (by rfl)]
  exact BitVec.extractLsb'_eq_self

/-! ## The positions of a word -/

/-- The operation at a position. -/
def Word3.pos (w : Word3) : Nat → Option SlotOp
  | 0 => w.p0
  | 1 => w.p1
  | 2 => w.p2
  | _ => none

/-- The occupied ones of three positions, with their numbers. -/
def occupied (g : Nat → Option SlotOp) : List (Nat × SlotOp) := [0, 1, 2].filterMap fun i => (g i).map fun o => (i, o)

theorem mem_positions {i : Nat} : i ∈ [0, 1, 2] ↔ i < 3 := by
  simp only [List.mem_cons, List.not_mem_nil, or_false]
  omega

theorem mem_occupied {g : Nat → Option SlotOp} {x : Nat × SlotOp} : x ∈ occupied g ↔ x.1 < 3 ∧ g x.1 = some x.2 := by
  obtain ⟨i, o⟩ := x
  simp only [occupied, List.mem_filterMap, mem_positions, Option.map_eq_some_iff, Prod.mk.injEq]
  constructor
  · rintro ⟨j, hj, o', ho, rfl, rfl⟩
    exact ⟨hj, ho⟩
  · exact fun ⟨hi, ho⟩ => ⟨i, hi, o, ho, rfl, rfl⟩

theorem lookup_occupied (g : Nat → Option SlotOp) {i : Nat} (hi : i < 3) : (occupied g).lookup i = g i := by
  interval_cases i <;> cases h0 : g 0 <;> cases h1 : g 1 <;> cases h2 : g 2 <;> simp [occupied, List.lookup, h0, h1, h2]

theorem pairwise_occupied {g : Nat → Option SlotOp} {r : SlotOp → SlotOp → Prop} (hr : ∀ {x y}, r x y → r y x) :
    (occupied g).Pairwise (fun x y => r x.2 y.2) ↔
      ∀ i j, i < 3 → j < 3 → i ≠ j → ∀ x y, g i = some x → g j = some y → r x y := by
  have hlt : (occupied g).Pairwise (fun x y => r x.2 y.2) ↔
      ∀ i j, i < j → j < 3 → ∀ x y, g i = some x → g j = some y → r x y := by
    rw [occupied, List.pairwise_filterMap, show [0, 1, 2] = List.range 3 from rfl, List.pairwise_iff_getElem]
    simp only [List.length_range, List.getElem_range, Option.map_eq_some_iff]
    constructor
    · exact fun h i j hij hj x y hx hy => h i j (by omega) hj hij _ ⟨x, hx, rfl⟩ _ ⟨y, hy, rfl⟩
    · rintro h i j - hj hij _ ⟨x, hx, rfl⟩ _ ⟨y, hy, rfl⟩
      exact h i j hij hj x y hx hy
  rw [hlt]
  constructor
  · intro h i j hi hj hne x y hx hy
    rcases Nat.lt_or_gt_of_ne hne with hij | hij
    · exact h i j hij hj x y hx hy
    · exact hr (h j i hij hi y x hy hx)
  · exact fun h i j hij hj => h i j (by omega) hj (by omega)

theorem Word3.ops_eq_occupied (w : Word3) : w.ops = occupied w.pos := by
  obtain ⟨n, p0, p1, p2⟩ := w
  cases p0 <;> cases p1 <;> cases p2 <;> rfl

/-! ## Check 2 at one position (R58, R59) -/

/-- What a position holds whose bits are an operation's, or none's. -/
def PosRes.of : Option SlotOp → PosRes
  | none => .empty
  | some o => .op o

/-- An operation is the one that its kind's map gives for its hold bit and its slot field. -/
def SlotOp.Decoded (o : SlotOp) : Prop := decodeSlot o.kind o.hold o.bits = .ok o.ins

theorem Kind.dec_enc (k : Kind) : Kind.dec k.enc = some k := by cases k <;> rfl

theorem Kind.enc_of_dec {b : BitVec 3} {k : Kind} (h : Kind.dec b = some k) : k.enc = b := by
  revert k b
  decide

theorem Kind.dec_posBits (o : Option SlotOp) : Kind.dec (posBits o).1 = o.map SlotOp.kind := by
  cases o with
  | none => rfl
  | some o => exact Kind.dec_enc o.kind

theorem decodePos_posBits {o : Option SlotOp} (h : ∀ x, o = some x → x.Decoded) : decodePos (posBits o) = PosRes.of o := by
  cases o with
  | none => rfl
  | some x =>
    have hk : x.kind.enc ≠ 0 := by cases x.kind <;> decide
    have hd : decodeSlot x.kind x.hold x.bits = .ok x.ins := h x rfl
    simp only [decodePos, posBits, if_neg hk, Kind.dec_enc, hd]
    rfl

@[simp] theorem PosRes.op?_of (o : Option SlotOp) : (PosRes.of o).op? = o := by cases o <;> rfl
@[simp] theorem PosRes.sub?_of (o : Option SlotOp) : (PosRes.of o).sub? = none := by cases o <;> rfl

/-- A position fails check 2, or its bits are those of the operation found there, or of none. -/
theorem decodePos_cases (p : BitVec 3 × Bool × SlotBits) :
    (∃ e, decodePos p = .bad e) ∨ ∃ o, posBits o = p ∧ decodePos p = PosRes.of o ∧ ∀ x, o = some x → x.Decoded := by
  obtain ⟨b, hold, bits⟩ := p
  by_cases hb : b = 0
  · by_cases hx : bits = 0
    · subst hb hx
      cases hold with
      | false => exact .inr ⟨none, rfl, decodePos_posBits (o := none) (by simp), by simp⟩
      | true => exact .inl ⟨4, by simp [decodePos]⟩
    · exact .inl ⟨3, by simp only [decodePos, if_pos hb, if_pos hx]⟩
  · cases hk : Kind.dec b with
    | none => exact .inl ⟨1, by simp only [decodePos, if_neg hb, hk]⟩
    | some k =>
      cases hd : decodeSlot k hold bits with
      | error e => exact .inl ⟨e, by simp only [decodePos, if_neg hb, hk, hd]⟩
      | ok i =>
        refine .inr ⟨some ⟨k, hold, bits, i⟩, by rw [posBits, Kind.enc_of_dec hk],
          by simp only [decodePos, if_neg hb, hk, hd, PosRes.of], ?_⟩
        intro x hx
        rw [← Option.some.inj hx]
        exact hd

theorem posBits_of_decodePos {p : BitVec 3 × Bool × SlotBits} (h : (decodePos p).sub? = none) :
    posBits (decodePos p).op? = p ∧ ∀ x, (decodePos p).op? = some x → x.Decoded := by
  rcases decodePos_cases p with ⟨e, he⟩ | ⟨o, hp, ho, hd⟩
  · rw [he] at h
    cases h
  · rw [ho, PosRes.op?_of]
    exact ⟨hp, hd⟩

/-! ## Checks 1, 3 and 4 between positions (R79) -/

theorem dupKind_eq_nil {k : Nat → Option Kind} :
    dupKind k = [] ↔ ∀ i j, i < 3 → j < 3 → i ≠ j → ∀ a, k i = some a → k j ≠ some a := by
  simp only [dupKind, List.filter_eq_nil_iff, mem_positions, Bool.and_eq_true, List.any_eq_true, bne_iff_ne, beq_iff_eq,
    Option.isSome_iff_exists, not_and, not_exists]
  constructor
  · exact fun h i j hi hj hne a ha hj' => h i hi ⟨a, ha⟩ j hj hne.symm (hj'.trans ha.symm)
  · rintro h i hi ⟨a, ha⟩ j hj hne hji
    exact h i j hi hj hne.symm a ha (hji.trans ha)

theorem foldl_max_le {l : List Nat} {a n : Nat} : l.foldl max a ≤ n ↔ a ≤ n ∧ ∀ x ∈ l, x ≤ n := by
  induction l generalizing a with
  | nil => simp
  | cons x l ih => simp [ih, and_assoc]

theorem SlotOp.immBad_eq_false {n : Nat} {o : SlotOp} : o.immBad n = false ↔ o.ins.nimm ≤ n := by
  simp [SlotOp.immBad, Instr.nimm, foldl_max_le]

theorem portClash_eq_nil {g : Nat → Option SlotOp} :
    portClash (occupied g) = [] ↔ ∀ i j, i < 3 → j < 3 → i ≠ j → ∀ x y, g i = some x → g j = some y →
      ∀ r, x.ins.lands = some r → y.ins.lands ≠ some r := by
  simp only [portClash, List.filter_eq_nil_iff, mem_positions, Bool.and_eq_true, List.any_eq_true, bne_iff_ne, not_and, not_exists]
  constructor
  · intro h i j hi hj hne x y hx hy r hr hyr
    refine h i hi j hj hne.symm ?_
    simp [lookup_occupied, hi, hj, hx, hy, hr, hyr]
  · intro h i hi j hj hne
    rw [lookup_occupied g hi, lookup_occupied g hj]
    cases hx : g i with
    | none => simp
    | some x =>
      cases hy : g j with
      | none => simp
      | some y =>
        simp only [Bool.and_eq_true, Option.isSome_iff_exists, beq_iff_eq, not_and, forall_exists_index]
        exact fun r hr hxy => h i j hi hj hne.symm x y hx hy r hr (hxy ▸ hr)

/-- Two operations of one word: of different kinds, and no result in one file at one latency (R79). -/
def SlotOp.Apart (x y : SlotOp) : Prop := x.kind ≠ y.kind ∧ ∀ r, x.ins.lands = some r → y.ins.lands ≠ some r

theorem SlotOp.Apart.symm {x y : SlotOp} (h : x.Apart y) : y.Apart x := ⟨h.1.symm, fun r hy hx => h.2 r hx hy⟩

/-! ## The filter -/

/-- The word that the fields of an entry give. -/
def wordOf (b : ControlWord) : Word3 :=
  let found (i : Nat) := (decodePos (rawPos b i)).op?
  ⟨(b.extractLsb' 241 3).toNat, found 0, found 1, found 2⟩

theorem wordOf_ops (b : ControlWord) : (wordOf b).ops = occupied fun i => (decodePos (rawPos b i)).op? := by
  rw [Word3.ops_eq_occupied]
  rfl

/-- The positions that fail check 2, with their reasons. -/
def badPositions (b : ControlWord) : List (Nat × Nat) := [0, 1, 2].filterMap fun i => (decodePos (rawPos b i)).sub?.map fun e => (i, e)

theorem ops_eq (b : ControlWord) :
    (([0, 1, 2].map fun i => (i, decodePos (rawPos b i))).filterMap fun x => x.2.op?.map fun o => (x.1, o)) = (wordOf b).ops := by
  rw [wordOf_ops, List.filterMap_map]
  rfl

theorem badPositions_eq (b : ControlWord) :
    (([0, 1, 2].map fun i => (i, decodePos (rawPos b i))).filterMap fun x => x.2.sub?.map fun e => (x.1, e)) = badPositions b := by
  rw [List.filterMap_map]
  rfl

theorem badPositions_eq_nil {b : ControlWord} : badPositions b = [] ↔ ∀ i < 3, (decodePos (rawPos b i)).sub? = none := by
  simp only [badPositions, List.filterMap_eq_nil_iff, mem_positions, Option.map_eq_none_iff]

theorem decodeWord_of_dup {b : ControlWord} (h : dupKind (fun i => Kind.dec (rawPos b i).1) ≠ []) :
    ∃ m, decodeWord b = .error ⟨1, 0, m⟩ := by
  obtain ⟨a, r, hd⟩ := List.exists_cons_of_ne_nil h
  exact ⟨posMask (a :: r), by simp only [decodeWord, hd]⟩

theorem decodeWord_of_bad {b : ControlWord} (h : dupKind (fun i => Kind.dec (rawPos b i).1) = [])
    (hb : badPositions b ≠ [] ∨ b.getLsbD 240 = true) : ∃ n m, decodeWord b = .error ⟨2, n, m⟩ := by
  have hs : (!((badPositions b).map Prod.snd ++ (if b.getLsbD 240 then [2] else [])).isEmpty) = true := by
    rcases hb with hb | hb <;> simp [hb]
  simp only [decodeWord, h, badPositions_eq]
  rw [if_pos hs]
  exact ⟨_, _, rfl⟩

/-- The filter accepts an entry that no check stops, as the word that its fields give. -/
theorem decodeWord_eq_ok {b : ControlWord} {w : Word3} : decodeWord b = .ok w ↔
    dupKind (fun i => Kind.dec (rawPos b i).1) = [] ∧ badPositions b = [] ∧ b.getLsbD 240 = false ∧ (wordOf b).nimm ≤ 4 ∧
      (∀ x ∈ (wordOf b).ops, x.2.ins.nimm ≤ (wordOf b).nimm) ∧ portClash (wordOf b).ops = [] ∧ wordOf b = w := by
  by_cases hd : dupKind (fun i => Kind.dec (rawPos b i).1) = []
  case neg =>
    obtain ⟨m, hm⟩ := decodeWord_of_dup hd
    simp [hm, hd]
  by_cases hb : badPositions b = [] ∧ b.getLsbD 240 = false
  case neg =>
    obtain ⟨n, m, hm⟩ := decodeWord_of_bad hd (by simpa only [not_and_or, Bool.not_eq_false] using hb)
    simp only [hm, reduceCtorEq, false_iff]
    exact fun h => hb ⟨h.2.1, h.2.2.1⟩
  obtain ⟨hb, h240⟩ := hb
  have hlook {i : Nat} (hi : i < 3) : (wordOf b).ops.lookup i = (decodePos (rawPos b i)).op? := by
    rw [wordOf_ops, lookup_occupied _ hi]
  have himm : (!(((wordOf b).ops.filter fun x => x.2.immBad (wordOf b).nimm).map Prod.fst).isEmpty) = true ↔
      ¬∀ x ∈ (wordOf b).ops, x.2.ins.nimm ≤ (wordOf b).nimm := by
    simp [SlotOp.immBad_eq_false]
  have hw : (⟨(wordOf b).nimm, (wordOf b).ops.lookup 0, (wordOf b).ops.lookup 1, (wordOf b).ops.lookup 2⟩ : Word3) = wordOf b := by
    rw [hlook (by decide), hlook (by decide), hlook (by decide)]
    rfl
  have hn : (b.extractLsb' 241 3).toNat = (wordOf b).nimm := rfl
  simp only [decodeWord, hd, hb, h240, badPositions_eq, ops_eq, hn, hw, himm, true_and, List.map_nil, List.nil_append, List.isEmpty_nil,
    Bool.not_true, Bool.false_eq_true, if_false]
  split
  case isTrue h4 => simp [Nat.not_le_of_lt h4]
  case isFalse h4 =>
    split
    case isTrue hi =>
      simp only [reduceCtorEq, false_iff]
      exact fun h => hi h.2.1
    case isFalse hi =>
      cases hp : portClash (wordOf b).ops with
      | cons a r => simp
      | nil =>
        simp only [Except.ok.injEq, true_and]
        exact ⟨fun h => ⟨Nat.le_of_not_lt h4, not_not.mp hi, h⟩, fun h => h.2.2⟩

/-! ## Decode and encode agree -/

theorem rawPos_entry (w : Word3) {i : Nat} (hi : i < 3) : rawPos w.entry i = posBits (w.pos i) :=
  rawPos_packWord _ (fun i => posBits (w.pos i)) hi

theorem SlotOp.pairwise_apart_iff {g : Nat → Option SlotOp} : (occupied g).Pairwise (fun x y => x.2.Apart y.2) ↔
    dupKind (fun i => (g i).map SlotOp.kind) = [] ∧ portClash (occupied g) = [] := by
  rw [pairwise_occupied (r := SlotOp.Apart) SlotOp.Apart.symm, portClash_eq_nil, dupKind_eq_nil]
  simp only [Option.map_eq_some_iff, Ne]
  constructor
  · refine fun h => ⟨?_, fun i j hi hj hne x y hx hy => (h i j hi hj hne x y hx hy).2⟩
    rintro i j hi hj hne _ ⟨x, hx, rfl⟩ ⟨y, hy, hk⟩
    exact (h i j hi hj hne x y hx hy).1 hk.symm
  · refine fun ⟨hk, hl⟩ i j hi hj hne x y hx hy => ⟨fun hxy => ?_, hl i j hi hj hne x y hx hy⟩
    exact hk i j hi hj hne _ ⟨x, hx, rfl⟩ ⟨y, hy, hxy.symm⟩

theorem dupKind_congr {k l : Nat → Option Kind} (h : ∀ i < 3, k i = l i) : dupKind k = [] ↔ dupKind l = [] := by
  rw [dupKind_eq_nil, dupKind_eq_nil]
  constructor
  · intro hk i j hi hj
    rw [← h i hi, ← h j hj]
    exact hk i j hi hj
  · intro hl i j hi hj
    rw [h i hi, h j hj]
    exact hl i j hi hj

theorem Word3.ops_decoded_iff {w : Word3} : (∀ x ∈ w.ops, x.2.Decoded) ↔ ∀ i < 3, ∀ x, w.pos i = some x → x.Decoded := by
  simp only [Word3.ops_eq_occupied, mem_occupied, Prod.forall, and_imp]
  exact ⟨fun h i hi x hx => h i x hi hx, fun h i x hi hx => h i hi x hx⟩

theorem Word3.ext_pos {v w : Word3} (hn : v.nimm = w.nimm) (h : ∀ i < 3, v.pos i = w.pos i) : v = w := by
  obtain ⟨n, p0, p1, p2⟩ := v
  obtain ⟨m, q0, q1, q2⟩ := w
  cases hn
  cases h 0 (by decide)
  cases h 1 (by decide)
  cases h 2 (by decide)
  rfl

theorem wordOf_pos (b : ControlWord) {i : Nat} (hi : i < 3) : (wordOf b).pos i = (decodePos (rawPos b i)).op? := by
  interval_cases i <;> rfl

/-- The entry of the word that an entry's fields give is the entry itself, if check 2 finds nothing. -/
theorem entry_wordOf {b : ControlWord} (h : b.getLsbD 240 = false) (hb : badPositions b = []) : (wordOf b).entry = b := by
  have hpos {i : Nat} (hi : i < 3) : posBits ((wordOf b).pos i) = rawPos b i := by
    rw [wordOf_pos b hi]
    exact (posBits_of_decodePos (badPositions_eq_nil.mp hb i hi)).1
  calc (wordOf b).entry
      = packWord (BitVec.ofNat 3 (b.extractLsb' 241 3).toNat) (posBits ((wordOf b).pos 0)) (posBits ((wordOf b).pos 1))
          (posBits ((wordOf b).pos 2)) := rfl
    _ = packWord (b.extractLsb' 241 3) (rawPos b 0) (rawPos b 1) (rawPos b 2) := by
        rw [hpos (by decide), hpos (by decide), hpos (by decide), BitVec.ofNat_toNat, BitVec.setWidth_eq]
    _ = b := packWord_rawPos h

/-- The fields of a word's entry give the word, and check 2 finds nothing. -/
theorem wordOf_entry {w : Word3} (hn : w.nimm ≤ 4) (hd : ∀ x ∈ w.ops, x.2.Decoded) :
    badPositions w.entry = [] ∧ wordOf w.entry = w := by
  have hpos {i : Nat} (hi : i < 3) : decodePos (rawPos w.entry i) = PosRes.of (w.pos i) := by
    rw [rawPos_entry w hi]
    exact decodePos_posBits (Word3.ops_decoded_iff.mp hd i hi)
  refine ⟨badPositions_eq_nil.mpr fun i hi => by rw [hpos hi, PosRes.sub?_of], Word3.ext_pos ?_ fun i hi => ?_⟩
  · have hnimm : (wordOf w.entry).nimm = (BitVec.ofNat 3 w.nimm).toNat := congrArg BitVec.toNat (nimm_packWord ..)
    rw [hnimm, BitVec.toNat_ofNat]
    omega
  · rw [wordOf_pos _ hi, hpos hi, PosRes.op?_of]

/-- The filter accepts the entries of the words that R79 allows, each as its word, and no other entry. -/
theorem decodeWord_eq_ok_iff {b : ControlWord} {w : Word3} : decodeWord b = .ok w ↔
    w.entry = b ∧ w.nimm ≤ 4 ∧ (∀ x ∈ w.ops, x.2.Decoded ∧ x.2.ins.nimm ≤ w.nimm) ∧ w.ops.Pairwise fun x y => x.2.Apart y.2 := by
  have hkind {v : Word3} {i : Nat} (hi : i < 3) : Kind.dec (rawPos v.entry i).1 = (v.pos i).map SlotOp.kind := by
    rw [rawPos_entry v hi, Kind.dec_posBits]
  rw [decodeWord_eq_ok]
  constructor
  · rintro ⟨hd, hb, h240, hn, himm, hp, rfl⟩
    have hentry := entry_wordOf h240 hb
    have hdec : ∀ x ∈ (wordOf b).ops, x.2.Decoded := Word3.ops_decoded_iff.mpr fun i hi => by
      rw [wordOf_pos b hi]
      exact (posBits_of_decodePos (badPositions_eq_nil.mp hb i hi)).2
    refine ⟨hentry, hn, fun x hx => ⟨hdec x hx, himm x hx⟩, ?_⟩
    rw [Word3.ops_eq_occupied] at hp ⊢
    refine SlotOp.pairwise_apart_iff.mpr ⟨(dupKind_congr fun i hi => ?_).mp hd, hp⟩
    rw [← hkind hi, hentry]
  · rintro ⟨rfl, hn, hops, hpair⟩
    obtain ⟨hb, hw⟩ := wordOf_entry hn fun x hx => (hops x hx).1
    rw [Word3.ops_eq_occupied] at hpair
    obtain ⟨hd, hp⟩ := SlotOp.pairwise_apart_iff.mp hpair
    rw [hw]
    exact ⟨(dupKind_congr fun i hi => hkind hi).mpr hd, hb, bit240_packWord .., hn, fun x hx => (hops x hx).2,
      (Word3.ops_eq_occupied w).symm ▸ hp, rfl⟩

/-! ## Slot fields (R61 to R64, R87 to R91) -/

open Laws.RoundTrip in
theorem roundTrip_of_su {i : Instr} (h : i.kind = some .su) : Statement i := by
  cases i <;> cases h <;> simp only [
    suNop, suEnd, suAdd, suSub, suMul, suMulh, suMulhu, suAnd, suOr, suXor, suAndn, suShl, suShr, suSar, suMin, suMax, suMinu, suMaxu,
    suPopc, suClz, suCtz, suCmp, suSel, suMov, suBfx, suBmsk, suBr, suCall, suCalli, suJmpi, suLoop, suLbrk, suLrd, suLwr, suSwait,
    suSrd, suBar, suSwpt, suBcast, suXfer, suCsrr, suCsrw, suTrap, suEret, suDpf, suDinv, suHclr]

open Laws.RoundTrip in
theorem roundTrip_of_va {i : Instr} (h : i.kind = some .va) : Statement i := by
  cases i <;> cases h <;> simp only [
    vaAdd, vaSub, vaMul, vaMulh, vaMulhu, vaAnd, vaOr, vaXor, vaAndn, vaShl, vaShr, vaSar, vaMin, vaMax, vaMinu, vaMaxu, vaCmp, vaSel,
    vaMov, vaAdds, vaSubs, vaAdd64, vaSub64, vaShl64, vaShr64, vaSar64, vaCmp64, vaFadd, vaFsub, vaFmul, vaFma, vaFnma, vaFmin, vaFmax,
    vaFabs, vaFneg, vaFcmp, vaFcls, vaCvt, vaTsq, vaTsdq, vaXfer]

open Laws.RoundTrip in
theorem roundTrip_of_vb {i : Instr} (h : i.kind = some .vb) : Statement i := by
  cases i <;> cases h <;> simp only [
    vbAdd, vbSub, vbAnd, vbOr, vbXor, vbShl, vbShr, vbMin, vbMax, vbCmp, vbSel, vbMov, vbPopc, vbClz, vbFadd, vbFmul, vbFma, vbRcp,
    vbRsqrt, vbSqrt, vbExp2, vbLog2, vbSin, vbCos, vbTanh, vbPerm, vbShfl, vbRot, vbBcl, vbRed, vbScan, vbMatch, vbXfer]

open Laws.RoundTrip in
theorem roundTrip_of_mu {i : Instr} (h : i.kind = some .mu) : Statement i := by
  cases i <;> cases h <;> simp only [
    muLds, muSts, muGths, muScts, muLdsa, muStsa, muLdr, muStr, muAtmr, muLdg, muStg, muGthg, muSctg, muLdga, muStga, muPfg, muAtms,
    muAtmg, muQbind, muQwait, muQadv, muTfull, muTgate, muTclr, muCwait, muTstat, muCprog, muCopy, muMsend, muMpost, muMprobe, muCpost,
    muTget, muAdda, muMova, muXfer, muXferPerLane]

open Laws.RoundTrip in
theorem roundTrip_of_xu {i : Instr} (h : i.kind = some .xu) : Statement i := by
  cases i <;> cases h <;> simp only [
    xuFmt, xuMma, xuMmat, xuDist, xuTopk, xuAccst, xuAccld, xuAcczr, xuAccadd, xuAccscl, xuAccmv, xuAcctr]

open Laws.RoundTrip in
/-- Every slot operation has its round trip. -/
theorem roundTrip_of_kind {i : Instr} {k : Kind} (h : i.kind = some k) : Statement i := by
  cases k with
  | su => exact roundTrip_of_su h
  | va => exact roundTrip_of_va h
  | vb => exact roundTrip_of_vb h
  | mu => exact roundTrip_of_mu h
  | xu => exact roundTrip_of_xu h

/-- An encoded operation is what its slot field decodes to. -/
theorem SlotOp.Encoded.decoded {o : SlotOp} (h : o.Encoded) : o.Decoded := by
  obtain ⟨hwf, hkind, hbits, hhold⟩ := h
  unfold SlotOp.Decoded
  rw [hbits]
  exact roundTrip_of_kind hkind hwf o.kind o.hold hkind hhold

/-- Settles O8: an encoded word's operations are decoded from their slot fields, so the filter accepts its entry as the word. -/
theorem decodeOfEncodedWord : Obligations.DecodeOfEncodedWord := by
  intro w ⟨hops, hn, hpair⟩
  exact decodeWord_eq_ok_iff.mpr ⟨rfl, hn, fun x hx => ⟨(hops x hx).1.decoded, (hops x hx).2⟩, hpair⟩

/-- Settles O9: an accepted entry is the entry of the word it gives. -/
theorem decodedWordIsItsEntry : Obligations.DecodedWordIsItsEntry := fun _ _ h => decodeWord_eq_ok_iff.mp h

/-! ## What is refused (R79, R80) -/

theorem Kind.dec_eq_none_iff {b : BitVec 3} : Kind.dec b = none ↔ b = 0 ∨ 6 ≤ b.toNat := by
  revert b
  decide

/-- Two positions hold one kind when they hold one code that names a kind. -/
theorem dupKind_rawPos_ne_nil {b : ControlWord} {i j : Nat} (hij : i < j) (hj : j < 3) (h : (rawPos b i).1 = (rawPos b j).1)
    (hk : ¬((rawPos b i).1 = 0 ∨ 6 ≤ (rawPos b i).1.toNat)) : dupKind (fun i => Kind.dec (rawPos b i).1) ≠ [] := by
  intro hd
  obtain ⟨k, hk⟩ := Option.ne_none_iff_exists'.mp (mt Kind.dec_eq_none_iff.mp hk)
  exact dupKind_eq_nil.mp hd i j (by omega) hj (by omega) k hk (h ▸ hk)

theorem dupKind_rawPos_eq_nil {b : ControlWord} (h : ∀ i j, i < j → j < 3 → (rawPos b i).1 = (rawPos b j).1 →
    (rawPos b i).1 = 0 ∨ 6 ≤ (rawPos b i).1.toNat) : dupKind (fun i => Kind.dec (rawPos b i).1) = [] := by
  refine dupKind_eq_nil.mpr fun i j hi hj hne a ha hja => ?_
  have hcode : (rawPos b i).1 = (rawPos b j).1 := (Kind.enc_of_dec ha).symm.trans (Kind.enc_of_dec hja)
  have hnone : Kind.dec (rawPos b i).1 = none := Kind.dec_eq_none_iff.mpr <| by
    rcases Nat.lt_or_gt_of_ne hne with hij | hij
    · exact h i j hij hj hcode
    · exact hcode ▸ h j i hij hi hcode.symm
  rw [ha] at hnone
  cases hnone

/-- A reserved kind code, and a hold bit or a nonzero field at an empty position, fail check 2. -/
theorem sub?_decodePos_ne_none {p : BitVec 3 × Bool × SlotBits} (h : 6 ≤ p.1.toNat ∨ (p.1 = 0 ∧ (p.2.1 = true ∨ p.2.2 ≠ 0))) :
    (decodePos p).sub? ≠ none := by
  intro hs
  obtain ⟨hbits, -⟩ := posBits_of_decodePos hs
  cases ho : (decodePos p).op? with
  | none =>
    rw [ho] at hbits
    subst hbits
    simp [posBits] at h
  | some o =>
    rw [ho] at hbits
    subst hbits
    have hk : Kind.dec o.kind.enc = none := Kind.dec_eq_none_iff.mpr (h.symm.imp And.left id)
    rw [Kind.dec_enc] at hk
    cases hk

/-- Settles O10: a repeated kind by check 1, a reserved code or bit by check 2, and a fifth immediate because no accepted word has it. -/
theorem reservedWordsRefused : Obligations.ReservedWordsRefused := by
  refine fun b => ⟨?_, fun hdup hres => ?_, fun hn => ?_⟩
  · rintro ⟨i, j, hij, hj, hcode, h1, h5⟩
    refine decodeWord_of_dup (dupKind_rawPos_ne_nil hij hj hcode ?_)
    rintro (h0 | h6)
    · rw [h0] at h1
      cases h1
    · omega
  · refine decodeWord_of_bad (dupKind_rawPos_eq_nil hdup) (hres.symm.imp ?_ id)
    rintro ⟨i, hi, hp⟩ hb
    exact sub?_decodePos_ne_none hp (badPositions_eq_nil.mp hb i hi)
  · cases hd : decodeWord b with
    | error f => exact ⟨f, rfl⟩
    | ok w =>
      obtain ⟨-, -, -, h4, -⟩ := decodeWord_eq_ok.mp hd
      exact absurd hn (Nat.not_le_of_lt (Nat.lt_succ_of_le h4))

/-! ## Worked encodings -/

/-- Settles O7: each entry is run through the filter. -/
theorem writtenWordsDecode : Obligations.WrittenWordsDecode := by
  unfold Obligations.WrittenWordsDecode
  refine ⟨?_, ?_, ?_, ?_, ?_, ?_, ?_⟩
  all_goals decide +kernel

end Sys2Proof
end

section
/-!
PROOF. The integer and pair operations of VA and VB: what lands in the clock of each pass, and without a pass (R84, R86, R151, R152, R156,
R157).
-/
namespace Sys2Proof.Machine

/-! ## A value per enabled lane (R152) -/

/-- An instruction lands value v ℓ and flags g ℓ of each enabled lane, lat team-cycles after its word's. -/
def LanesRow (e : Env) (i : Instr) (k : Kind) (fl : RFile) (vd : BitVec 6) (lat : Nat) (pair : Bool) (v : Nat → BitVec 128)
    (g : Nat → FFlags) : Prop :=
  ∃ f : Env → Nat → BitVec 128 × FFlags, (∀ s, exec i s = runVec i k vd s f) ∧ (∀ l, f e l = (v l, g l)) ∧
    i.result = some (fl, lat) ∧ i.pairDest = pair ∧ i.isBallot = false

/-- The lanes of one pass, as an operation lands them. -/
theorem State.landLanes_pass {x : Slot} {i : Instr} {k : Kind} {fl : RFile} {reg lat p : Nat} {pair : Bool}
    {f : Nat → BitVec 128 × FFlags} {v : Nat → BitVec 128} {g : Nat → FFlags} (hf : ∀ l, f l = (v l, g l))
    (hr : i.result = some (fl, lat)) (hp : i.pairDest = pair) (hb : i.isBallot = false) (q : Nat → Bool) :
    (let r := (lanesIn x.e.t i.maskOf p).map fun l => (l, f l)
     x.e.s.landLanes x.e i k reg (r.map fun y => ⟨y.1, y.2.1, q y.1⟩) (r.foldl (fun m y => m ||| y.2.2) 0)) =
      x.landsPass i k fl reg lat pair p v g q := by
  simp [State.landLanes, State.land, Env.landing, Slot.landsPass, Instr.qx, Function.comp_def, List.foldl_map, hf, hr, hp, hb]

theorem State.landLanes_none {x : Slot} {i : Instr} {k : Kind} {fl : RFile} {reg lat : Nat} {pair : Bool}
    (hr : i.result = some (fl, lat)) (hp : i.pairDest = pair) (hb : i.isBallot = false) :
    x.e.s.landLanes x.e i k reg [] 0 = x.landsNone i k fl reg lat pair := by
  simp [State.landLanes, State.land, Env.landing, Slot.landsNone, Instr.qx, hr, hp, hb]

/-- Each pass lands its lanes; without a pass the landing is empty. -/
theorem LanesRow.exec_next {s : State} {x : Slot} {i : Instr} {k : Kind} {fl : RFile} {vd : BitVec 6} {lat : Nat} {pair : Bool}
    {v : Nat → BitVec 128} {g : Nat → FFlags} (hrow : LanesRow x.e i k fl vd lat pair v g) (h : s.runningSlot i = some x) (p : Nat) :
    (x.inPass i p → exec i s = .next (x.afterPass i p (x.landsPass i k fl vd.toNat lat pair p v g (x.e.lanesP i)))) ∧
    (x.noPass i → exec i s = .next (x.doneIn (x.landsNone i k fl vd.toNat lat pair))) := by
  obtain ⟨f, hexec, hf, hr, hpair, hb⟩ := hrow
  refine ⟨fun hin => ?_, fun hno => ?_⟩
  · have hne : (x.e.runPasses i).isEmpty = false := by
      rw [List.isEmpty_eq_false_iff]
      exact List.ne_nil_of_mem hin.2.1
    rw [hexec, runVec, runLanes_pass h hin fun _ => rfl, State.landLanes_pass hf hr hpair hb]
    simp only [hne, Bool.false_eq_true, if_false, Slot.afterPass, Slot.doneIn]
    cases x.last i p <;> rfl
  · have hempty : (x.e.runPasses i).isEmpty = true := List.isEmpty_iff.mpr hno.2.2.1
    rw [hexec, runVec, runLanes_empty h hno rfl, if_pos hempty, State.landLanes_none hr hpair hb]

/-! ## Integers (R156, R157) -/

/-- A 32-bit integer result raises no flag. -/
theorem LanesRow.of_runInt {e : Env} {i : Instr} {k : Kind} {fl : RFile} {vd : BitVec 6} {lat : Nat} {g : Env → Nat → Lane}
    {f : Nat → Lane} (hexec : ∀ s, exec i s = runInt i k vd s g) (hv : ∀ l, g e l = f l) (hr : i.result = some (fl, lat))
    (hp : i.pairDest = false) (hb : i.isBallot = false) :
    LanesRow e i k fl vd lat false (fun l => (f l).setWidth 128) fun _ => 0 :=
  ⟨_, hexec, fun l => by rw [hv l], hr, hp, hb⟩

/-- SatS(32, v) (R121). -/
theorem satS32_eq_rule (v : Int) : satS32 v = Rule.sat 32 v := by
  unfold satS32 Rule.sat
  split
  case isTrue h => exact congrArg _ (by omega)
  case isFalse h =>
    split
    case isTrue h' => exact congrArg _ (by omega)
    case isFalse h' => exact congrArg _ (by omega)

/-- Each row of R156 is the value that exec lands. -/
theorem IntRow.lanesRow {e : Env} {i : Instr} {k : Kind} {fl : RFile} {vd : BitVec 6} {f : Nat → Lane} (h : IntRow e i k fl vd f) :
    LanesRow e i k fl vd 2 false (fun l => (f l).setWidth 128) fun _ => 0 := by
  cases h with
  | vaAdd | vbAdd => exact .of_runInt (fun _ => rfl) (fun _ => (Rule.add_eq _ _).symm) rfl rfl rfl
  | vaSub | vbSub => exact .of_runInt (fun _ => rfl) (fun _ => (Rule.sub_eq _ _).symm) rfl rfl rfl
  | vaMul => exact .of_runInt (fun _ => rfl) (fun _ => (Rule.mul_eq _ _).symm) rfl rfl rfl
  | vaShl | vbShl => exact .of_runInt (fun _ => rfl) (fun _ => shlW_eq_rule _ _) rfl rfl rfl
  | vaShr | vbShr => exact .of_runInt (fun _ => rfl) (fun _ => shrW_eq_rule _ _) rfl rfl rfl
  | vaSar => exact .of_runInt (fun _ => rfl) (fun _ => sarW_eq_rule _ _) rfl rfl rfl
  | vaMin | vbMin => exact .of_runInt (fun _ => rfl) (fun _ => minS_eq_rule _ _) rfl rfl rfl
  | vaMax | vbMax => exact .of_runInt (fun _ => rfl) (fun _ => maxS_eq_rule _ _) rfl rfl rfl
  | vaMinu => exact .of_runInt (fun _ => rfl) (fun _ => minU_eq_rule _ _) rfl rfl rfl
  | vaMaxu => exact .of_runInt (fun _ => rfl) (fun _ => maxU_eq_rule _ _) rfl rfl rfl
  | vaCmp mk cc vd oa ob f hf => exact .of_runInt (fun _ => rfl) (fun l => boolBits_eq_of_truth (hf l)) rfl rfl rfl
  | vbCmp mk cc vd oa ob f hf => exact .of_runInt (fun _ => rfl) (fun l => boolBits_eq_of_truth (hf l)) rfl rfl rfl
  | vaSel | vbSel => exact .of_runInt (fun _ => rfl) (fun _ => ite_not ..) rfl rfl rfl
  | vaAdds | vaSubs => exact .of_runInt (fun _ => rfl) (fun _ => satS32_eq_rule _) rfl rfl rfl
  | vbPopc => exact .of_runInt (fun _ => rfl) (fun _ => congrArg (BitVec.ofNat 32) (popc_eq_ones _)) rfl rfl rfl
  | vbClz mk vd oa k hk =>
    exact .of_runInt (fun _ => rfl) (fun l => congrArg (BitVec.ofNat 32) (clz_eq_of_leading (hk l))) rfl rfl rfl
  | vaMulh | vaMulhu | vaAnd | vaOr | vaXor | vaAndn | vaMov | vbAnd | vbOr | vbXor | vbMov =>
    exact .of_runInt (fun _ => rfl) (fun _ => rfl) rfl rfl rfl

/-- Settles O28: every row of R156, and va.cmp64, lands one value per lane without a flag. -/
theorem vectorIntegers : Obligations.VectorIntegers := by
  refine ⟨fun s i x k fl vd f p h hrow => hrow.lanesRow.exec_next h p, ?_⟩
  rintro s mk cc vd oa ob x f p i rfl h hf
  exact LanesRow.exec_next (.of_runInt (fun _ => rfl) (fun l => boolBits_eq_of_truth (hf l)) rfl rfl rfl) h p

/-! ## Pairs (R86, R157) -/

/-- A pair result raises no flag. -/
theorem LanesRow.of_pair {e : Env} {i : Instr} {vd : BitVec 6} {g : Env → Nat → Word} {f : Nat → Word}
    (hexec : ∀ s, exec i s = runVec i .va vd s fun e l => ((g e l).setWidth 128, 0)) (hv : ∀ l, g e l = f l)
    (hr : i.result = some (.va, 2)) (hp : i.pairDest = true) (hb : i.isBallot = false) :
    LanesRow e i .va .va vd 2 true (fun l => (f l).setWidth 128) fun _ => 0 :=
  ⟨_, hexec, fun l => by rw [hv l], hr, hp, hb⟩

/-- Each row of R157 is the 64-bit value that exec lands. -/
theorem PairRow.lanesRow {e : Env} {i : Instr} {vd : BitVec 6} {f : Nat → Word} (h : PairRow e i vd f) :
    LanesRow e i .va .va vd 2 true (fun l => (f l).setWidth 128) fun _ => 0 := by
  cases h with
  | add64 => exact .of_pair (fun _ => rfl) (fun _ => (Rule.add_eq _ _).symm) rfl rfl rfl
  | sub64 => exact .of_pair (fun _ => rfl) (fun _ => (Rule.sub_eq _ _).symm) rfl rfl rfl
  | shl64 => exact .of_pair (fun _ => rfl) (fun _ => shlW_eq_rule _ _) rfl rfl rfl
  | shr64 => exact .of_pair (fun _ => rfl) (fun _ => shrW_eq_rule _ _) rfl rfl rfl
  | sar64 => exact .of_pair (fun _ => rfl) (fun _ => sarW_eq_rule _ _) rfl rfl rfl

/-- A parcel of the word's immediate, as a selector reads it (R60). -/
theorem constVal_imm_toInt (v : Word) (j : BitVec 2) :
    (constVal v (.imm j)).toInt = (BitVec.ofNat 15 (v.toNat / 2 ^ (15 * j.toNat))).toInt := by
  have hfield : v.extractLsb' (15 * j.toNat) 15 = BitVec.ofNat 15 (v.toNat / 2 ^ (15 * j.toNat)) :=
    BitVec.eq_of_toNat_eq (by rw [BitVec.extractLsb'_toNat, BitVec.toNat_ofNat, Nat.shiftRight_eq_div_pow])
  rw [constVal, BitVec.toInt_signExtend_of_le (by decide), hfield]

/-- A number in two parts, the second the low one. -/
theorem toNat_append_eq_add {m n : Nat} (a : BitVec m) (b : BitVec n) : (a ++ b).toNat = b.toNat + 2 ^ n * a.toNat := by
  rw [BitVec.toNat_append, ← Nat.shiftLeft_add_eq_or_of_lt b.isLt, Nat.shiftLeft_eq, Nat.add_comm, Nat.mul_comm]

theorem Env.pair_reg_toNat (e : Env) (n : BitVec 6) (l : Nat) :
    (e.pair (.reg n) l).toNat = (e.t.va.get (1024 * n.toNat + l)).toNat + 2 ^ 32 * (e.t.va.get (1024 * (n.toNat + 1) + l)).toNat :=
  toNat_append_eq_add (e.t.va.get (1024 * (n.toNat + 1) + l)) (e.t.va.get (1024 * n.toNat + l))

/-- Settles O29: every pair row lands a 64-bit value per lane, and a pair operand is its two elements or its constant. -/
theorem vectorPairs : Obligations.VectorPairs := by
  refine ⟨fun s i x vd f p h hrow => hrow.lanesRow.exec_next h p, fun e n c j l => ⟨e.pair_reg_toNat n l, ?_, rfl, ?_⟩⟩
  · exact BitVec.toInt_signExtend_of_le (by decide)
  · exact constVal_imm_toInt _ _

end Sys2Proof.Machine
end

section
/-!
PROOF. The transfers of SU: branches, calls and indirect transfers (R65, R125, R127 to R129).
-/
namespace Sys2Proof.Machine

/-- A taken transfer to (PC + 2·offset) mod 2^57 (R127). -/
theorem Slot.takes_target (x : Slot) (s : State) (sc : Sel) :
    x.takes s (x.e.c.pc.toNat + 2 * (x.e.su sc).toNat) = s.updTeam x.e.z fun t => t.take (x.e.target sc) := by
  have hsum : BitVec.ofNat 64 (x.e.c.pc.toNat + 2 * (x.e.su sc).toNat) = x.e.target sc := by
    rw [Env.target, BitVec.ofNat_add, BitVec.ofNat_mul, BitVec.ofNat_toNat, BitVec.ofNat_toNat, BitVec.setWidth_eq, BitVec.setWidth_eq]
    rfl
  rw [Slot.takes_eq, hsum]

/-- A taken transfer to the value of an operand (R129). -/
theorem Slot.takes_toNat (x : Slot) (s : State) (v : Word) : x.takes s v.toNat = s.updTeam x.e.z fun t => t.take v := by
  rw [Slot.takes_eq, BitVec.ofNat_toNat, BitVec.setWidth_eq]

/-- su.br takes its target when it has no condition or its condition holds, and does nothing else (R127). -/
theorem exec_suBr {s : State} {x : Slot} {occ : Option Cond} {sa sb sc : Sel} (h : s.runningSlot (.suBr occ sa sb sc) = some x)
    (hq : x.e.queueReady (.suBr occ sa sb sc) = true) :
    ((∀ cc, occ = some cc → Rule.holds cc (x.e.su sa) (x.e.su sb)) →
      exec (.suBr occ sa sb sc) s = .next (x.doneIn (x.takes x.e.s (x.e.c.pc.toNat + 2 * (x.e.su sc).toNat)))) ∧
    (∀ cc, occ = some cc → ¬Rule.holds cc (x.e.su sa) (x.e.su sb) → exec (.suBr occ sa sb sc) s = .next (x.doneIn x.e.s)) := by
  show (_ → execSuBr occ sa sb sc s = _) ∧ ∀ cc, _ → _ → execSuBr occ sa sb sc s = _
  unfold execSuBr
  refine ⟨fun hc => ?_, ?_⟩
  · rw [Slot.takes_target]
    refine runSuTeam_done h hq ?_
    cases occ with
    | none => rfl
    | some cc => exact if_pos ((Cond.holds_iff_rule cc _ _).mpr (hc cc rfl))
  · rintro cc rfl hc
    rw [runSuTeam_done (g := id) h hq (if_neg (mt (Cond.holds_iff_rule cc _ _).mp hc)), State.updTeam_eq_self (f := id) fun _ _ => rfl]

/-- Settles O18: each transfer is a taken target, a call's with its link landed before. -/
theorem suTransfers : Obligations.SuTransfers := by
  intro s i x h hq
  refine ⟨?_, ?_, ?_, ?_, ?_⟩
  · rintro sa sb sc rfl
    exact (exec_suBr h hq).1 nofun
  · rintro cc sa sb sc rfl
    refine ⟨fun hc => (exec_suBr h hq).1 ?_, (exec_suBr h hq).2 cc rfl⟩
    rintro _ ⟨⟩
    exact hc
  · rintro sd sc rfl
    show execSuCall sd sc s = _
    unfold execSuCall
    rw [runScalar_done h hq rfl, State.landScalar_eq rfl rfl rfl, Slot.takes_target]
  · rintro sd sa rfl
    show execSuCalli sd sa s = _
    unfold execSuCalli
    rw [runScalar_done h hq rfl, State.landScalar_eq rfl rfl rfl, Slot.takes_toNat]
  · rintro sa rfl
    show execSuJmpi sa s = _
    unfold execSuJmpi
    rw [Slot.takes_toNat]
    exact runSuTeam_done h hq rfl

end Sys2Proof.Machine
end

section
/-!
PROOF. How a word comes to its team: WORD_FETCH, DICT_REFILL and the word's immediate (R53, R57, R70, R71, R73, R74, R320).
-/
namespace Sys2Proof.Machine

/-! ## The word's immediate (R70) -/

/-- A number in two's complement of w bits, sign-extended to 64. -/
theorem toInt_signExtend_eq {w v : Nat} (x : BitVec w) (h0 : 0 < w) (hw : w ≤ 64) (hv : v = x.toNat) :
    (x.signExtend 64).toInt = if v < 2 ^ (w - 1) then (v : Int) else (v : Int) - 2 ^ w := by
  have hp : 2 ^ w = 2 * 2 ^ (w - 1) := (mul_pow_sub_one h0.ne' 2).symm
  rw [BitVec.toInt_signExtend_of_le hw, BitVec.toInt_eq_toNat_cond, hv]
  push_cast
  exact if_congr (by omega) rfl rfl

/-- An immediate whose parcels side by side are the bits x. -/
theorem wordImm_toInt_of_bits {l : List (BitVec 15)} {w v : Nat} (x : BitVec w) (hx : wordImm l = x.signExtend 64)
    (hw : 15 * l.length = w) (h0 : 0 < w) (h64 : w ≤ 64) (hv : v = x.toNat) :
    (wordImm l).toInt = if v < 2 ^ (15 * l.length - 1) then (v : Int) else (v : Int) - 2 ^ (15 * l.length) := by
  rw [hw, hx, toInt_signExtend_eq x h0 h64 hv]

/-- Σ pⱼ·2^(15j) over parcels numbered from k on. -/
def parcelSum (l : List (BitVec 15)) (k : Nat) : Nat := ((l.zipIdx k).map fun x => x.1.toNat * 2 ^ (15 * x.2)).sum

theorem parcelSum_nil (k : Nat) : parcelSum [] k = 0 := rfl

theorem parcelSum_cons (a : BitVec 15) (l : List (BitVec 15)) (k : Nat) :
    parcelSum (a :: l) k = a.toNat * 2 ^ (15 * k) + parcelSum l (k + 1) := by
  rw [parcelSum, List.zipIdx_cons, List.map_cons, List.sum_cons, parcelSum]

/-- The immediate of up to four parcels is their number in base 2^15, sign-extended. -/
theorem wordImm_toInt {l : List (BitVec 15)} (hne : l ≠ []) (hlen : l.length ≤ 4) :
    (wordImm l).toInt = if parcelSum l 0 < 2 ^ (15 * l.length - 1) then (parcelSum l 0 : Int)
      else (parcelSum l 0 : Int) - 2 ^ (15 * l.length) := by
  match l, hne with
  | [a], _ =>
    refine wordImm_toInt_of_bits a rfl (by simp) (by decide) (by decide) ?_
    rw [parcelSum_cons, parcelSum_nil]
    ring
  | [a, b], _ =>
    refine wordImm_toInt_of_bits (b ++ a) rfl (by simp) (by decide) (by decide) ?_
    rw [parcelSum_cons, parcelSum_cons, parcelSum_nil, toNat_append_eq_add]
    ring
  | [a, b, c], _ =>
    refine wordImm_toInt_of_bits (c ++ (b ++ a)) rfl (by simp) (by decide) (by decide) ?_
    rw [parcelSum_cons, parcelSum_cons, parcelSum_cons, parcelSum_nil, toNat_append_eq_add, toNat_append_eq_add]
    ring
  | [a, b, c, d], _ =>
    refine wordImm_toInt_of_bits (d ++ (c ++ (b ++ a))) rfl (by simp) (by decide) (by decide) ?_
    rw [parcelSum_cons, parcelSum_cons, parcelSum_cons, parcelSum_cons, parcelSum_nil, toNat_append_eq_add, toNat_append_eq_add,
      toNat_append_eq_add]
    ring

/-- Settles O4: the parcels' number, and the frame's word at 0x90. -/
theorem immediateValue : Obligations.ImmediateValue := by
  refine ⟨⟨rfl, ?_⟩, fun t f c held rep hc => ?_⟩
  · rintro l v hne hlen rfl
    exact wordImm_toInt hne hlen
  · obtain ⟨r, hr⟩ := frameBytes_eq t (t.frameHead f) held rep
    obtain ⟨-, -, himm⟩ := frameFirst_spec t (t.frameHead f) held rep
    have hhead : (t.frameHead f).imm = c.imm := by
      unfold Team.frameHead
      rw [hc]
    exact ⟨_, r, hr, hhead ▸ himm⟩

/-! ## Fetching a word (R71, R73) -/

/-- A parcel address plus a count of parcels, modulo 2^57. -/
theorem parcelAdd_eq (pc : Word) (n : Nat) : parcelAdd pc n = BitVec.ofNat 64 ((pc.toNat + 2 * n) % 2 ^ 57) := by
  rw [parcelAdd, and_addrMask, BitVec.toNat_add, BitVec.toNat_ofNat]
  exact congrArg _ (by omega)

theorem toNat_ofNat_mod57 (n : Nat) : (BitVec.ofNat 64 (n % 2 ^ 57)).toNat = n % 2 ^ 57 := by
  rw [BitVec.toNat_ofNat]
  omega

/-- The token parcel of an installed entry (R71 steps 1 to 4). -/
theorem State.lookParcel_resident {s s' : State} {z va e : Nat} {t : Team} {q : Part} {x : DEntry} {p : BitVec 16} {w : Word3}
    (hp : s.parcel z t va = .ok (s', p)) (himm : isImm p = false) (hq : s'.parts.get? (partOf z) = some q)
    (hlen : (payload p).toNat < (t.win q).len) (hfind : q.find (t.win q) t.asid (payload p).toNat = some e)
    (hx : q.table.get? e = some x) (hbad : x.bad = false) (hw : decodeWord x.bits = .ok w) :
    s.lookParcel z t va = ({ s' with parts := s'.parts.put (partOf z) (q.touch ((t.win q).set0 (payload p).toNat) e) },
      .word (payload p).toNat w) := by
  unfold State.lookParcel
  simp only [hp, himm, hq, Nat.not_le_of_lt hlen, hfind, hx, hbad, hw, Bool.false_eq_true, if_false]

/-- A word whose immediate parcels are read (R71 step 5). -/
theorem State.gotWord_ok {s u : State} {z idx : Nat} {t : Team} {w : Word3} {l : List (BitVec 15)}
    (h : s.immParcels z t idx w.nimm ((t.pc.toNat + 2) % 2 ^ 57) = .ok (u, l)) :
    s.gotWord z t idx w = (u.updTeam z fun t' => { t' with
      fetched := some ⟨t.pc, BitVec.ofNat 64 ((t.pc.toNat + 2 * (1 + w.nimm)) % 2 ^ 57), wordImm l, idx, w⟩,
      waiting := false }).checkBreak z := by
  unfold State.gotWord
  simp only [parcelAdd_eq, toNat_ofNat_mod57, Nat.mul_one, h]

/-- Settles O3: the lookup finds the installed entry, and its word is got with its immediate parcels. -/
theorem fetchGivesDecodedWord : Obligations.FetchGivesDecodedWord := by
  intro s s' u z e t q x p w imms ht hwant hrefill hheld hp himm hq hlen hfind hx hbad hw hu
  have hlook := State.lookParcel_resident hp himm hq hlen hfind hx hbad hw
  show execWordFetch z s = _
  unfold execWordFetch
  simp only [ht, hwant, hrefill, hheld, hlook, Bool.not_true, Bool.or_self, Bool.false_eq_true, if_false]
  exact congrArg Host.Outcome.next (State.gotWord_ok hu)

/-! ## Refilling an entry (R73, R74) -/

/-- The address of the entry of a token. -/
theorem entryAddr_toNat (base : Word) (n : Nat) :
    ((base + BitVec.ofNat 64 (32 * n)) &&& 0x01FFFFFFFFFFFFFF#64).toNat = (base.toNat + 32 * n) % 2 ^ 57 := by
  rw [and_addrMask, toNat_ofNat_mod57, BitVec.toNat_add, BitVec.toNat_ofNat]
  omega

/-- Settles O5: the entry's bytes are read, and decode to the word that every waiting team gets, or to the fault of each. -/
theorem refillDecodesEntry : Obligations.RefillDecodesEntry := by
  intro s s' part k p r l hp hr hstart hpre _ hheld hl
  have hexec : exec (.dictRefill part k) s = execDictRefill part k s := rfl
  rw [hexec]
  unfold execDictRefill
  simp only [hp, hr, hstart, hpre, entryAddr_toNat, hheld, hl, decodeEntry, fetchFlt, fetchDetail]
  constructor
  · intro w hw
    simp [hw]
  · intro f hf
    simp [hf]

end Sys2Proof.Machine
end

section
/-!
PROOF. RoundInt, and the mode of an RM field (R65, R106).
-/
namespace Sys2Proof.Machine

/-! ## RoundInt (R106) -/

/-- Whether a mode takes the upper of the two integers about ±(q + rem/u). -/
def roundsUp (r : Rnd) (s : Bool) (q rem u : Nat) : Bool :=
  match r with
  | .rne => decide (u < 2 * rem) || (2 * rem == u && q % 2 == 1)
  | .rz => false
  | .ru => rem != 0 && !s
  | .rd => rem != 0 && s

theorem roundInt_of_nonneg (r : Rnd) (s : Bool) (m : Nat) {e : Int} (h : 0 ≤ e) : roundInt r s m e = m * 2 ^ e.toNat := by
  simp [roundInt, h]

theorem roundInt_neg (r : Rnd) (s : Bool) (m k : Nat) :
    roundInt r s m (-(k : Int)) = m / 2 ^ k + (roundsUp r s (m / 2 ^ k) (m % 2 ^ k) (2 ^ k)).toNat := by
  rcases Nat.eq_zero_or_pos k with rfl | hk
  · cases r <;> simp [roundInt, roundsUp, Nat.mod_one]
  · have hneg : ¬ (0 : Int) ≤ -(k : Int) := by omega
    unfold roundInt
    rw [if_neg hneg, Int.neg_neg, Int.toNat_natCast]
    change (if roundsUp r s (m / 2 ^ k) (m % 2 ^ k) (2 ^ k) then _ else _) = _
    cases roundsUp r s (m / 2 ^ k) (m % 2 ^ k) (2 ^ k) <;> rfl

/-- n with a sign. -/
def signedInt (s : Bool) (n : Nat) : Int := if s then -(n : Int) else n

/-- The integer a mode takes for ±(q + rem/u). -/
def rounded (r : Rnd) (s : Bool) (q rem u : Nat) : Int := signedInt s (q + (roundsUp r s q rem u).toNat)

section
variable (s : Bool) (q rem u : Nat)

/-- How far the integer that a mode takes lies from ±(u·q + rem), in parts of u. -/
theorem signedInt_sub_rounded (r : Rnd) :
    signedInt s (u * q + rem) - rounded r s q rem u * u = (if s then -1 else 1) * (rem - (roundsUp r s q rem u).toNat * u : Int) := by
  cases s <;> simp only [rounded, signedInt, if_true, Bool.false_eq_true, if_false] <;> push_cast <;> ring

variable (hrem : rem < u)
include hrem

theorem rounded_rne : let d := signedInt s (u * q + rem) - rounded .rne s q rem u * u
    2 * d ≤ u ∧ -(u : Int) ≤ 2 * d ∧ (2 * d = u ∨ 2 * d = -(u : Int) → rounded .rne s q rem u % 2 = 0) := by
  simp only [signedInt_sub_rounded]
  rcases Nat.lt_trichotomy (2 * rem) u with h | h | h
  · have hup : roundsUp .rne s q rem u = false := by simp [roundsUp]; omega
    cases s <;> simp [hup] <;> omega
  · have hup : roundsUp .rne s q rem u = decide (q % 2 = 1) := by simp [roundsUp, h]; rfl
    rcases Nat.mod_two_eq_zero_or_one q with hq | hq <;> cases s <;> simp [rounded, signedInt, hup, hq] <;> omega
  · have hup : roundsUp .rne s q rem u = true := by simp [roundsUp, h]
    cases s <;> simp [hup] <;> omega

theorem rounded_rz : let x := signedInt s (u * q + rem)
    let v := rounded .rz s q rem u
    if s then x ≤ v * u ∧ v * u < x + u ∧ v ≤ 0 else v * u ≤ x ∧ x < v * u + u ∧ 0 ≤ v := by
  have d := signedInt_sub_rounded s q rem u .rz
  have hv : rounded .rz s q rem u = signedInt s q := by simp [rounded, roundsUp]
  cases s <;> simp [roundsUp, hv, signedInt] at d ⊢ <;> omega

theorem rounded_ru : signedInt s (u * q + rem) ≤ rounded .ru s q rem u * u ∧
    rounded .ru s q rem u * u < signedInt s (u * q + rem) + u := by
  have d := signedInt_sub_rounded s q rem u .ru
  rcases eq_or_ne rem 0 with rfl | h
  · cases s <;> simp [roundsUp] at d ⊢ <;> omega
  · cases s <;> simp [roundsUp, bne_iff_ne.mpr h] at d ⊢ <;> omega

theorem rounded_rd : rounded .rd s q rem u * u ≤ signedInt s (u * q + rem) ∧
    signedInt s (u * q + rem) < rounded .rd s q rem u * u + u := by
  have d := signedInt_sub_rounded s q rem u .rd
  rcases eq_or_ne rem 0 with rfl | h
  · cases s <;> simp [roundsUp] at d ⊢ <;> omega
  · cases s <;> simp [roundsUp, bne_iff_ne.mpr h] at d ⊢ <;> omega

end

theorem Rnd.ofBits_eq (b : BitVec 2) :
    Rnd.ofBits b = if b = 0 then .rne else if b = 1 then .rz else if b = 2 then .ru else .rd := by
  revert b
  decide

/-- Settles O13: m is q·2^k + rem, and each mode chooses between q and q + 1 by rem. -/
theorem roundIntRule : Obligations.RoundIntRule := by
  refine ⟨fun s m k => ?_, fun e rm => rfl, fun fm cm b hb => ⟨?_, rfl, rfl, rfl, rfl⟩⟩
  · have hdiv : 2 ^ k * (m / 2 ^ k) + m % 2 ^ k = m := Nat.div_add_mod m _
    have hrem : m % 2 ^ k < 2 ^ k := Nat.mod_lt _ (by positivity)
    have hu : ((2 : Int) ^ k) = ((2 ^ k : Nat) : Int) := by push_cast; rfl
    simp only [roundInt_neg, hu]
    generalize 2 ^ k = u at *
    generalize m / u = q at *
    generalize m % u = rem at *
    subst hdiv
    exact ⟨rounded_rne s q rem u hrem, rounded_rz s q rem u hrem, rounded_ru s q rem u hrem, rounded_rd s q rem u hrem⟩
  · have hfield : fm.extractLsb' 0 2 = b := BitVec.eq_of_toNat_eq (by simpa using hb)
    simp only [modesOf, Rm.rnd, hfield, Rnd.ofBits_eq]

end Sys2Proof.Machine
end

section
/-!
PROOF. Exact numbers m·2^e as rationals: their order, their logarithm and RoundInt between integers (R98, R106, R107).
-/
namespace Sys2Proof.Machine

/-! ## Exact numbers as rationals (R98, R107) -/

/-- The number m·2^e. -/
def dyVal (m : Nat) (e : Int) : ℚ := m * 2 ^ e

theorem dyVal_of_le (m : Nat) {lo e : Int} (h : lo ≤ e) : dyVal m e = ((m * 2 ^ (e - lo).toNat : Nat) : ℚ) * 2 ^ lo := by
  have hz : (2 : ℚ) ^ e = 2 ^ (e - lo).toNat * 2 ^ lo := by
    rw [← zpow_natCast, Int.toNat_of_nonneg (by omega), ← zpow_add₀ two_ne_zero, Int.sub_add_cancel]
  rw [dyVal, hz]
  push_cast
  ring

theorem dyLt_iff (m : Nat) (e : Int) (n : Nat) (k : Int) : dyLt m e n k = true ↔ dyVal m e < dyVal n k := by
  rw [dyVal_of_le m (min_le_left e k), dyVal_of_le n (min_le_right e k), mul_lt_mul_iff_left₀ (by positivity), Nat.cast_lt]
  exact decide_eq_true_iff

theorem dyEq_iff (m : Nat) (e : Int) (n : Nat) (k : Int) : dyEq m e n k = true ↔ dyVal m e = dyVal n k := by
  rw [dyVal_of_le m (min_le_left e k), dyVal_of_le n (min_le_right e k), mul_left_inj' (by positivity), Nat.cast_inj]
  exact beq_iff_eq

theorem dyVal_sub (m : Nat) (e q : Int) : dyVal m (e - q) = dyVal m e / 2 ^ q := by
  rw [dyVal, dyVal, zpow_sub₀ two_ne_zero]
  ring

theorem dyVal_add_one (m : Nat) (e : Int) : dyVal m (e + 1) = dyVal (2 * m) e := by
  rw [dyVal, dyVal, zpow_add₀ two_ne_zero]
  push_cast
  ring

/-- floor(log2 x) of x = m·2^e. -/
theorem flog2_spec {m : Nat} (hm : m ≠ 0) (e : Int) : (2 : ℚ) ^ flog2 m e ≤ dyVal m e ∧ dyVal m e < 2 ^ (flog2 m e + 1) := by
  have hlo : ((2 ^ m.log2 : Nat) : ℚ) ≤ m := Nat.cast_le.mpr (Nat.log2_self_le hm)
  have hhi : (m : ℚ) < ((2 ^ (m.log2 + 1) : Nat) : ℚ) := Nat.cast_lt.mpr Nat.lt_log2_self
  have hpos : (0 : ℚ) < 2 ^ e := by positivity
  have hz (k : Nat) : (2 : ℚ) ^ ((k : Int) + e) = ((2 ^ k : Nat) : ℚ) * 2 ^ e := by
    rw [zpow_add₀ two_ne_zero, zpow_natCast]
    push_cast
    rfl
  rw [flog2, show (m.log2 : Int) + e + 1 = ((m.log2 + 1 : Nat) : Int) + e by push_cast; ring, hz, hz]
  exact ⟨mul_le_mul_of_nonneg_right hlo hpos.le, mul_lt_mul_of_pos_right hhi hpos⟩

theorem flog2_unique {m : Nat} (hm : m ≠ 0) {e k : Int} (hlo : (2 : ℚ) ^ k ≤ dyVal m e) (hhi : dyVal m e < 2 ^ (k + 1)) :
    flog2 m e = k := by
  obtain ⟨h1, h2⟩ := flog2_spec hm e
  have ha := (zpow_lt_zpow_iff_right₀ (one_lt_two (α := ℚ))).mp (h1.trans_lt hhi)
  have hb := (zpow_lt_zpow_iff_right₀ (one_lt_two (α := ℚ))).mp (hlo.trans_lt h2)
  omega

/-! ## RoundInt between integers (R106) -/

theorem roundsUp_rem_pos {r : Rnd} {s : Bool} {q rem u : Nat} (hu : 0 < u) (h : roundsUp r s q rem u = true) : 0 < rem := by
  cases r <;> simp [roundsUp] at h <;> omega

theorem dyVal_neg (m k : Nat) : dyVal m (-(k : Int)) = (m : ℚ) / ((2 ^ k : Nat) : ℚ) := by
  rw [dyVal, zpow_neg, zpow_natCast]
  push_cast
  rfl

/-- Every mode gives the greatest integer below the number or the least above it. -/
theorem roundInt_mem (r : Rnd) (s : Bool) (m : Nat) (e : Int) :
    ⌊dyVal m e⌋₊ ≤ roundInt r s m e ∧ roundInt r s m e ≤ ⌈dyVal m e⌉₊ := by
  rcases lt_or_ge e 0 with h | h
  · obtain ⟨k, rfl⟩ : ∃ k : Nat, e = -(k : Int) := ⟨(-e).toNat, by omega⟩
    rw [roundInt_neg, dyVal_neg, Nat.floor_div_eq_div]
    refine ⟨Nat.le_add_right _ _, ?_⟩
    cases hup : roundsUp r s (m / 2 ^ k) (m % 2 ^ k) (2 ^ k) with
    | false =>
      rw [Bool.toNat_false, Nat.add_zero, ← Nat.floor_div_eq_div (K := ℚ)]
      exact Nat.floor_le_ceil _
    | true =>
      have hrem := roundsUp_rem_pos (by positivity) hup
      rw [Bool.toNat_true, Nat.succ_le_iff, Nat.lt_ceil, lt_div_iff₀ (by positivity), ← Nat.cast_mul, Nat.cast_lt]
      have := Nat.div_add_mod m (2 ^ k)
      linarith [Nat.mul_comm (2 ^ k) (m / 2 ^ k)]
  · rw [roundInt_of_nonneg r s m h, dyVal_of_le m h, sub_zero, zpow_zero, mul_one, Nat.floor_natCast, Nat.ceil_natCast]
    exact ⟨le_rfl, le_rfl⟩

theorem le_roundInt {n m : Nat} {e : Int} (r : Rnd) (s : Bool) (h : (n : ℚ) ≤ dyVal m e) : n ≤ roundInt r s m e :=
  (Nat.le_floor h).trans (roundInt_mem r s m e).1

theorem roundInt_le {n m : Nat} {e : Int} (r : Rnd) (s : Bool) (h : dyVal m e ≤ n) : roundInt r s m e ≤ n :=
  (roundInt_mem r s m e).2.trans (Nat.ceil_le.mpr h)

theorem roundInt_of_eq {n m : Nat} {e : Int} (r : Rnd) (s : Bool) (h : dyVal m e = n) : roundInt r s m e = n :=
  Nat.le_antisymm (roundInt_le r s h.le) (le_roundInt r s h.ge)

end Sys2Proof.Machine
end

section
/-!
PROOF. The plain formats FP32, FP16 and BF16: reading a pattern by its fields, encoding a rounded number, overflow and RoundTo (R98, R107,
R108, R120).
-/
namespace Sys2Proof.Machine

/-! ## Bit patterns of the plain formats (R98) -/

/-- What the plain formats share: a fraction field, and exponents from 1 − bias to bias. -/
structure Fmt.Plain (f : Fmt) : Prop where
  p_ge : 2 ≤ f.p
  bias_pos : 1 ≤ f.bias
  emax_eq : f.emax = 2 * f.bias + 1

theorem Fmt.plain_of_mem {f : Fmt} (h : f ∈ [fp32, fp16, bf16]) : f.Plain := by
  simp only [List.mem_cons, List.not_mem_nil, or_false] at h
  rcases h with rfl | rfl | rfl <;> exact ⟨by decide, by decide, by decide⟩

theorem plain_fp32 : fp32.Plain := Fmt.plain_of_mem (by decide)

/-- The value of exponent field x and fraction fr. -/
def Fmt.fieldVal (f : Fmt) (s : Bool) (x fr : Nat) : FV :=
  if x = f.emax then
    if fr = 0 then .inf s else .nan s (fr.testBit (f.p - 2)) (fr % 2 ^ (f.p - 2))
  else if x = 0 then .fin s fr (f.emin - (f.p - 1 : Nat))
  else .fin s (fr + 2 ^ (f.p - 1)) ((x : Int) - f.bias - (f.p - 1 : Nat))

/-- A pattern is read by its sign, exponent and fraction. -/
theorem Fmt.dec_fields (f : Fmt) (s : Bool) {x fr : Nat} (hx : x < 2 ^ f.eb) (hfr : fr < 2 ^ (f.p - 1)) :
    f.dec (f.signBits s + (x * 2 ^ (f.p - 1) + fr)) = f.fieldVal s x fr := by
  have hb : f.signBits s + (x * 2 ^ (f.p - 1) + fr) = fr + 2 ^ (f.p - 1) * (x + 2 ^ f.eb * s.toNat) := by
    cases s <;> simp [signBits, signPos, pow_add] <;> ring
  have hlow : (fr + 2 ^ (f.p - 1) * (x + 2 ^ f.eb * s.toNat)) % 2 ^ (f.p - 1) = fr := by
    rw [Nat.add_mul_mod_self_left, Nat.mod_eq_of_lt hfr]
  have hhigh : (fr + 2 ^ (f.p - 1) * (x + 2 ^ f.eb * s.toNat)) / 2 ^ (f.p - 1) = x + 2 ^ f.eb * s.toNat := by
    rw [Nat.add_mul_div_left _ _ (by positivity), Nat.div_eq_of_lt hfr, Nat.zero_add]
  have hsign : (fr + 2 ^ (f.p - 1) * (x + 2 ^ f.eb * s.toNat)).testBit f.signPos = s := by
    rw [signPos, Nat.testBit_eq_decide_div_mod_eq, pow_add, ← Nat.div_div_eq_div_mul, hhigh,
      Nat.add_mul_div_left _ _ (by positivity), Nat.div_eq_of_lt hx]
    cases s <;> rfl
  rw [dec, hb, hsign, Nat.shiftRight_eq_div_pow, hhigh, hlow, Nat.add_mul_mod_self_left, Nat.mod_eq_of_lt hx]
  rfl

/-! ## The branches of RoundTo (R107, R120) -/

/-- The exponent of the last place that RoundTo rounds to. -/
def Fmt.spacing (f : Fmt) (m : Nat) (e : Int) : Int := max (flog2 m e) f.emin - f.p + 1

/-- Whether a number is tiny (R107, R120). -/
def Fmt.tiny (f : Fmt) (md : Modes) (s : Bool) (m : Nat) (e : Int) : Bool :=
  if md.level1 then dyLt (roundInt md.rnd s m (e - (flog2 m e - f.p + 1))) (flog2 m e - f.p + 1) 1 f.emin
  else decide (flog2 m e < f.emin)

/-- RoundTo of a nonzero number: flushed, overflowed or encoded. -/
theorem roundTo_nonzero (f : Fmt) (md : Modes) (s : Bool) {m : Nat} (hm : m ≠ 0) (e : Int) :
    let q := f.spacing m e
    let n := roundInt md.rnd s m (e - q)
    roundTo f md s m e =
      if f.tiny md s m e && f.flushOut md then (f.signBits s, 24)
      else if f.emax * 2 ^ (f.p - 1) ≤ f.encode false n q then (overflow f md.rnd s, 20)
      else (f.encode s n q, if dyEq n q m e then 0 else if f.tiny md s m e then 24 else 16) := by
  simp only [roundTo, if_neg hm]
  rw [← apply_ite (Prod.mk _)]
  rfl

/-! ## Encoding a rounded number (R107, R108) -/

section
variable {f : Fmt} (hf : f.Plain)

/-- The exponent of the last place of a number whose exponent field is E. -/
def Fmt.lastPlace (f : Fmt) (E : Nat) : Int := (E : Int) - f.bias - (f.p - 1 : Nat)

theorem Fmt.encode_lastPlace (s : Bool) (n : Nat) {E : Nat} :
    f.encode s n (f.lastPlace E) = f.signBits s + if n < 2 ^ (f.p - 1) then n else (E - 1) * 2 ^ (f.p - 1) + n := by
  rw [encode, lastPlace, show (E : Int) - f.bias - (f.p - 1 : Nat) + (f.p - 1 : Nat) + f.bias = E by omega, Int.toNat_natCast]

/-- Numbers of two last places compared as integers. -/
theorem Fmt.dyVal_lastPlace_le_iff (f : Fmt) (n k E F : Nat) :
    dyVal n (f.lastPlace E) ≤ dyVal k (f.lastPlace F) ↔ n * 2 ^ (E - F) ≤ k * 2 ^ (F - E) := by
  rcases le_total E F with h | h
  · have hle : f.lastPlace E ≤ f.lastPlace F := by simp only [lastPlace]; omega
    have hsub : (f.lastPlace F - f.lastPlace E).toNat = F - E := by simp only [lastPlace]; omega
    rw [dyVal_of_le k hle, dyVal, mul_le_mul_iff_left₀ (by positivity), Nat.cast_le, hsub, Nat.sub_eq_zero_of_le h, pow_zero, mul_one]
  · have hle : f.lastPlace F ≤ f.lastPlace E := by simp only [lastPlace]; omega
    have hsub : (f.lastPlace E - f.lastPlace F).toNat = E - F := by simp only [lastPlace]; omega
    rw [dyVal_of_le n hle, dyVal, mul_le_mul_iff_left₀ (by positivity), Nat.cast_le, hsub, Nat.sub_eq_zero_of_le h, pow_zero, mul_one]

include hf

theorem Fmt.Plain.two_pow_p : 2 ^ f.p = 2 * 2 ^ (f.p - 1) := by
  have := hf.p_ge
  rw [← pow_succ', Nat.sub_add_cancel (by omega)]

/-- An integer of p bits at the last place of an exponent field is at most MaxFin just if that field is a number's. -/
theorem Fmt.Plain.le_maxFin_iff {n E : Nat} (hlo : 2 ^ (f.p - 1) ≤ n) (hhi : n < 2 ^ f.p) :
    dyVal n (f.lastPlace E) ≤ dyVal (2 ^ f.p - 1) (f.bias - f.p + 1) ↔ E < f.emax := by
  have hmax : (f.bias : Int) - f.p + 1 = f.lastPlace (2 * f.bias) := by have := hf.p_ge; simp only [lastPlace]; omega
  rw [hmax, dyVal_lastPlace_le_iff, hf.emax_eq]
  have hp := hf.two_pow_p
  rcases Nat.lt_or_ge E (2 * f.bias + 1) with h | h
  · rw [show E - 2 * f.bias = 0 by omega, pow_zero, mul_one]
    have := Nat.le_mul_of_pos_right (2 ^ f.p - 1) (Nat.two_pow_pos (2 * f.bias - E))
    exact iff_of_true (by omega) h
  · obtain ⟨d, hd⟩ : ∃ d, E - 2 * f.bias = d + 1 := ⟨E - 2 * f.bias - 1, by omega⟩
    have := Nat.le_mul_of_pos_right n (Nat.two_pow_pos d)
    rw [hd, show 2 * f.bias - E = 0 by omega, pow_zero, mul_one, pow_succ, ← mul_assoc]
    exact iff_of_false (by omega) (by omega)

/-- The fields of ±n·2^q with the last place of exponent field E, where n is below 2^(p-1) only at the last place of subnormals; a carry
to 2^p is the least number of the next exponent. -/
theorem Fmt.Plain.encode_fields (s : Bool) {n E : Nat} (hE : 1 ≤ E) (hn : n ≤ 2 ^ f.p) (hsub : n < 2 ^ (f.p - 1) → E = 1) :
    ∃ x fr, f.encode s n (f.lastPlace E) = f.signBits s + (x * 2 ^ (f.p - 1) + fr) ∧ fr < 2 ^ (f.p - 1) ∧
      (x < f.emax → ∃ m' e', f.fieldVal s x fr = .fin s m' e' ∧ dyVal m' e' = dyVal n (f.lastPlace E)) ∧
      (dyVal n (f.lastPlace E) ≤ dyVal (2 ^ f.p - 1) (f.bias - f.p + 1) ↔ x < f.emax) := by
  have hp := hf.two_pow_p
  have hb := hf.bias_pos
  have hmax := hf.emax_eq
  have hP := Nat.two_pow_pos (f.p - 1)
  rw [f.encode_lastPlace]
  rcases Nat.lt_or_ge n (2 ^ (f.p - 1)) with hlt | hge
  · -- a subnormal number, or zero
    obtain rfl := hsub hlt
    refine ⟨0, n, by simp [hlt], hlt, fun h => ⟨n, f.lastPlace 1, ?_, rfl⟩, iff_of_true ?_ (by omega)⟩
    · rw [fieldVal, if_neg h.ne, if_pos rfl]
      rfl
    · have hle : dyVal n (f.lastPlace 1) ≤ dyVal (2 ^ (f.p - 1)) (f.lastPlace 1) :=
        (f.dyVal_lastPlace_le_iff ..).mpr (Nat.mul_le_mul_right _ hlt.le)
      exact hle.trans ((hf.le_maxFin_iff le_rfl (by omega)).mpr (by omega))
  · rw [if_neg (Nat.not_lt.mpr hge)]
    rcases Nat.lt_or_ge n (2 ^ f.p) with hn' | hn'
    · refine ⟨E, n - 2 ^ (f.p - 1), ?_, by omega, fun h => ⟨n, f.lastPlace E, ?_, rfl⟩, hf.le_maxFin_iff hge hn'⟩
      · obtain ⟨k, rfl⟩ : ∃ k, E = k + 1 := ⟨E - 1, by omega⟩
        rw [Nat.add_sub_cancel, Nat.add_one_mul]
        omega
      · rw [fieldVal, if_neg h.ne, if_neg (by omega), Nat.sub_add_cancel hge]
        rfl
    · -- the carry
      obtain rfl : n = 2 * 2 ^ (f.p - 1) := by omega
      have hcarry : dyVal (2 * 2 ^ (f.p - 1)) (f.lastPlace E) = dyVal (2 ^ (f.p - 1)) (f.lastPlace (E + 1)) := by
        rw [← dyVal_add_one]
        exact congrArg _ (by simp only [lastPlace]; omega)
      rw [hcarry]
      refine ⟨E + 1, 0, ?_, hP, fun h => ⟨2 ^ (f.p - 1), f.lastPlace (E + 1), ?_, rfl⟩, hf.le_maxFin_iff le_rfl (by omega)⟩
      · obtain ⟨k, rfl⟩ : ∃ k, E = k + 1 := ⟨E - 1, by omega⟩
        rw [Nat.add_sub_cancel]
        ring
      · rw [fieldVal, if_neg h.ne, if_neg (by omega), Nat.zero_add]
        rfl

/-- A rounded number's pattern overflows just if the number is above MaxFin, and else reads as that number. -/
theorem Fmt.Plain.encode_spec (s : Bool) {n E : Nat} (hE : 1 ≤ E) (hn : n ≤ 2 ^ f.p) (hsub : n < 2 ^ (f.p - 1) → E = 1) :
    (f.emax * 2 ^ (f.p - 1) ≤ f.encode false n (f.lastPlace E) ↔
      dyLt (2 ^ f.p - 1) (f.bias - f.p + 1) n (f.lastPlace E) = true) ∧
    (dyLt (2 ^ f.p - 1) (f.bias - f.p + 1) n (f.lastPlace E) = false →
      ∃ m' e', f.dec (f.encode s n (f.lastPlace E)) = .fin s m' e' ∧ dyVal m' e' = dyVal n (f.lastPlace E)) := by
  refine ⟨?_, fun h => ?_⟩
  · obtain ⟨x, fr, henc, hfr, -, hmax⟩ := hf.encode_fields false hE hn hsub
    rw [dyLt_iff, ← not_le, hmax, henc, not_lt]
    simp only [signBits, Bool.false_eq_true, if_false, Nat.zero_add]
    refine ⟨fun h => ?_, fun h => (Nat.mul_le_mul_right _ h).trans (Nat.le_add_right _ _)⟩
    by_contra hx
    have := Nat.mul_le_mul_right (2 ^ (f.p - 1)) (show x + 1 ≤ f.emax by omega)
    rw [Nat.add_one_mul] at this
    omega
  · obtain ⟨x, fr, henc, hfr, hval, hmax⟩ := hf.encode_fields s hE hn hsub
    have hx : x < f.emax := by rw [← hmax, ← not_lt, ← dyLt_iff, h]; exact Bool.false_ne_true
    rw [henc, f.dec_fields s (by rw [emax] at hx; omega) hfr]
    exact hval hx

/-- The spacing is the last place of an exponent field, and the rounded number has p bits or carries, and fewer only at the spacing of
subnormals. -/
theorem Fmt.Plain.spacing_spec (r : Rnd) (s : Bool) {m : Nat} (hm : m ≠ 0) (e : Int) :
    let n := roundInt r s m (e - f.spacing m e)
    ∃ E, f.spacing m e = f.lastPlace E ∧ 1 ≤ E ∧ n ≤ 2 ^ f.p ∧ (n < 2 ^ (f.p - 1) → E = 1) := by
  have hp := hf.p_ge
  obtain ⟨hlo, hhi⟩ := flog2_spec hm e
  have hmin : f.emin = 1 - (f.bias : Int) := rfl
  refine ⟨(max (flog2 m e) f.emin + f.bias).toNat, ?_, ?_, roundInt_le r s ?_, fun hn => ?_⟩
  · simp only [spacing, lastPlace]
    omega
  · omega
  · have hle : (2 : ℚ) ^ (flog2 m e + 1) ≤ 2 ^ ((f.p : Int) + f.spacing m e) :=
      zpow_le_zpow_right₀ one_le_two (by simp only [spacing]; omega)
    rw [zpow_add₀ two_ne_zero (f.p : Int), zpow_natCast] at hle
    rw [dyVal_sub, div_le_iff₀ (by positivity)]
    push_cast
    exact (hhi.trans_le hle).le
  · by_contra hE
    have hsp : flog2 m e = (f.p - 1 : Nat) + f.spacing m e := by simp only [spacing]; omega
    refine absurd hn (Nat.not_lt.mpr (le_roundInt r s ?_))
    rw [hsp, zpow_add₀ two_ne_zero, zpow_natCast] at hlo
    rw [dyVal_sub, le_div_iff₀ (by positivity)]
    push_cast
    exact hlo

end

/-! ## Overflow (R108) -/

/-- Settles O12: each pattern of the table, evaluated for both signs. -/
theorem overflowTable : Obligations.OverflowTable := by
  refine ⟨fun s => ?_, fun s => ?_, fun s => ?_⟩ <;> cases s <;> decide

/-! ## The rule -/

/-- Settles O35: the rounded number's pattern is that of its fields, which overflow just above MaxFin. -/
theorem roundToRule : Obligations.RoundToRule := by
  intro f md s m e hf hm
  have hf := Fmt.plain_of_mem hf
  obtain ⟨E, hq, hE, hn, hsub⟩ := hf.spacing_spec md.rnd s hm e
  obtain ⟨hover, hdec⟩ := hf.encode_spec s hE hn hsub
  rw [← hq] at hover hdec
  have h := roundTo_nonzero f md s hm e
  -- the statement's q, n and tiny are spacing, the rounded number and Fmt.tiny
  change (f.tiny md s m e = true → _) ∧ ((f.tiny md s m e = false ∨ _) →
    (dyLt _ _ (roundInt md.rnd s m (e - f.spacing m e)) (f.spacing m e) = true → _) ∧
    (dyLt _ _ (roundInt md.rnd s m (e - f.spacing m e)) (f.spacing m e) = false → _))
  refine ⟨fun ht hfl => ?_, fun hno => ?_⟩
  · rw [h, ht, hfl]
    rfl
  · have hno : (f.tiny md s m e && f.flushOut md) = false := by rwa [Bool.and_eq_false_iff]
    simp only [hno, Bool.false_eq_true, if_false, hover] at h
    refine ⟨fun hbig => ?_, fun hbig => ?_⟩
    · rw [h, if_pos hbig]
    · obtain ⟨m', e', hm', hv⟩ := hdec hbig
      rw [h, if_neg (by rw [hbig]; exact Bool.false_ne_true)]
      exact ⟨m', e', hm', (dyEq_iff ..).mpr hv, rfl⟩

end Sys2Proof.Machine
end

section
/-!
PROOF. Numbers that a format holds exactly, and the patterns of FP32 (R98, R107, R110, R112).
-/
namespace Sys2Proof.Machine

/-! ## Numbers that a format holds (R107) -/

section
variable {f : Fmt} (hf : f.Plain) {n E : Nat} (hlo : 2 ^ (f.p - 1) ≤ n) (hhi : n < 2 ^ f.p) (hE : 1 ≤ E)
include hlo hE

theorem Fmt.encode_normal (s : Bool) : f.encode s n (f.lastPlace E) = f.signBits s + (E * 2 ^ (f.p - 1) + (n - 2 ^ (f.p - 1))) := by
  obtain ⟨k, rfl⟩ : ∃ k, E = k + 1 := ⟨E - 1, by omega⟩
  rw [f.encode_lastPlace, if_neg (Nat.not_lt.mpr hlo), Nat.add_sub_cancel, Nat.add_one_mul]
  omega

include hf hhi

/-- The pattern of a normal number reads as it. -/
theorem Fmt.Plain.dec_encode (s : Bool) (hmax : E < f.emax) : f.dec (f.encode s n (f.lastPlace E)) = .fin s n (f.lastPlace E) := by
  have hp := hf.two_pow_p
  rw [Fmt.encode_normal hlo hE, f.dec_fields s (by rw [emax] at hmax; omega) (by omega), fieldVal, if_neg hmax.ne, if_neg (by omega),
    Nat.sub_add_cancel hlo]
  rfl

/-- A normal number is rounded to its own pattern, without a flag. -/
theorem Fmt.Plain.roundTo_normal {m : Nat} {e : Int} (md : Modes) (s : Bool) (hmax : E < f.emax)
    (h : dyVal m e = dyVal n (f.lastPlace E)) : roundTo f md s m e = (f.encode s n (f.lastPlace E), 0) := by
  have hp := hf.p_ge
  have hlast : (2 : ℚ) ^ (f.p - 1) * 2 ^ f.lastPlace E = 2 ^ (((f.p - 1 : Nat) : Int) + f.lastPlace E) := by
    rw [zpow_add₀ two_ne_zero, zpow_natCast]
  have hlow : (2 : ℚ) ^ (((f.p - 1 : Nat) : Int) + f.lastPlace E) ≤ dyVal m e := by
    rw [h, ← hlast]
    exact mul_le_mul_of_nonneg_right (by exact_mod_cast hlo) (by positivity)
  have hhigh : dyVal m e < 2 ^ (((f.p - 1 : Nat) : Int) + f.lastPlace E + 1) := by
    rw [h, zpow_add_one₀ two_ne_zero, ← hlast, mul_right_comm, ← pow_succ, Nat.sub_add_cancel (by omega)]
    exact mul_lt_mul_of_pos_right (by exact_mod_cast hhi) (by positivity)
  have hm : m ≠ 0 := by
    rintro rfl
    rw [dyVal, Nat.cast_zero, zero_mul] at hlow
    exact absurd hlow (not_le.mpr (by positivity))
  have hmin : f.emin = 1 - (f.bias : Int) := rfl
  have hlg : flog2 m e = f.emin + (E - 1 : Nat) := by
    rw [flog2_unique hm hlow hhigh, lastPlace]
    omega
  have hsp : flog2 m e - f.p + 1 = f.lastPlace E := by
    rw [hlg, lastPlace]
    omega
  have hsp' : f.spacing m e = f.lastPlace E := by
    rw [spacing, ← hsp, max_eq_left (by omega)]
  have hn : roundInt md.rnd s m (e - f.lastPlace E) = n := by
    refine roundInt_of_eq _ _ ?_
    rw [dyVal_sub, h, dyVal, mul_div_assoc, div_self (by positivity), mul_one]
  have htiny : f.tiny md s m e = false := by
    unfold tiny
    split
    · rw [hsp, hn, Bool.eq_false_iff, ne_eq, dyLt_iff, ← h, not_lt]
      refine le_trans ?_ hlow
      rw [dyVal, Nat.cast_one, one_mul]
      exact zpow_le_zpow_right₀ one_le_two (by simp only [lastPlace]; omega)
    · exact decide_eq_false (by omega)
  have hfit : ¬ f.emax * 2 ^ (f.p - 1) ≤ f.encode false n (f.lastPlace E) := by
    have := Nat.mul_le_mul_right (2 ^ (f.p - 1)) hmax
    have := hf.two_pow_p
    rw [Fmt.encode_normal hlo hE, signBits, if_neg Bool.false_ne_true, Nat.succ_mul] at *
    omega
  rw [roundTo_nonzero f md s hm]
  simp only [hsp', hn, htiny, Bool.false_and, Bool.false_eq_true, if_false, if_neg hfit, (dyEq_iff ..).mpr h.symm, if_true]

end

/-! ## Patterns of FP32 (R98) -/

/-- A pattern is a NaN. -/
abbrev nan32 (a : Lane) : Prop := 2 ^ 31 - 2 ^ 23 < a.toNat % 2 ^ 31

/-- A pattern is a signalling NaN. -/
abbrev snan32 (a : Lane) : Prop := nan32 a ∧ a.getLsbD 22 = false

theorem dec_fp32 (a : Lane) : fp32.dec a.toNat = fp32.fieldVal (a.getLsbD 31) (a.toNat / 2 ^ 23 % 2 ^ 8) (a.toNat % 2 ^ 23) := by
  rw [← Nat.shiftRight_eq_div_pow]
  rfl

section
variable (md : Modes) {a : Lane}

theorem read_of_dec_nan {f : Fmt} {b : Nat} {s q : Bool} {p : Nat} (h : f.dec b = .nan s q p) : f.read md b = .nan s q p := by
  rw [Fmt.read, h]

theorem read_of_dec_inf {f : Fmt} {b : Nat} {s : Bool} (h : f.dec b = .inf s) : f.read md b = .inf s := by
  rw [Fmt.read, h]

theorem read_of_dec_zero {f : Fmt} {b : Nat} {s : Bool} {e : Int} (h : f.dec b = .fin s 0 e) : f.read md b = .fin s 0 e := by
  simp only [Fmt.read, h, ite_self]

theorem read_nan32 (h : nan32 a) : fp32.read md a.toNat = .nan (a.getLsbD 31) (a.getLsbD 22) (a.toNat % 2 ^ 22) := by
  unfold nan32 at h
  refine read_of_dec_nan md ?_
  have hfr : (a.toNat % 2 ^ 23).testBit 22 = a.getLsbD 22 := by rw [Nat.testBit_mod_two_pow]; rfl
  rw [dec_fp32, Fmt.fieldVal, if_pos (by simp only [Fmt.emax, fp32]; omega), if_neg (by omega)]
  simp only [fp32, Nat.reduceSub, hfr, show a.toNat % 2 ^ 23 % 2 ^ 22 = a.toNat % 2 ^ 22 by omega]

/-- A pattern below the infinities reads as a number, 0 for a subnormal one under input flush. -/
theorem read_finite32 (h : a.toNat % 2 ^ 31 < 2 ^ 31 - 2 ^ 23) : ∃ m e, fp32.read md a.toNat = .fin (a.getLsbD 31) m e := by
  have hx : a.toNat / 2 ^ 23 % 2 ^ 8 ≠ fp32.emax := by simp only [Fmt.emax, fp32]; omega
  have hdec : ∃ m e, fp32.dec a.toNat = .fin (a.getLsbD 31) m e := by
    rw [dec_fp32, Fmt.fieldVal, if_neg hx]
    split
    · exact ⟨_, _, rfl⟩
    · exact ⟨_, _, rfl⟩
  obtain ⟨m, e, hdec⟩ := hdec
  simp only [Fmt.read, hdec]
  split
  · exact ⟨_, _, rfl⟩
  · exact ⟨_, _, rfl⟩

theorem read_normal32 (hlo : 2 ^ 23 ≤ a.toNat % 2 ^ 31) (hhi : a.toNat % 2 ^ 31 < 2 ^ 31 - 2 ^ 23) :
    fp32.read md a.toNat = .fin (a.getLsbD 31) (a.toNat % 2 ^ 23 + 2 ^ 23) (fp32.lastPlace (a.toNat / 2 ^ 23 % 2 ^ 8)) := by
  have hx : a.toNat / 2 ^ 23 % 2 ^ 8 ≠ fp32.emax := by simp only [Fmt.emax, fp32]; omega
  have hdec : fp32.dec a.toNat = .fin (a.getLsbD 31) (a.toNat % 2 ^ 23 + 2 ^ 23) (fp32.lastPlace (a.toNat / 2 ^ 23 % 2 ^ 8)) := by
    rw [dec_fp32, Fmt.fieldVal, if_neg hx, if_neg (by omega)]
    rfl
  have hbig : decide (a.toNat % 2 ^ 23 + 2 ^ 23 < 2 ^ (fp32.p - 1)) = false := decide_eq_false (by simp only [fp32]; omega)
  simp only [Fmt.read, hdec, hbig, Bool.and_false, Bool.false_eq_true, if_false]

theorem read_inf32 (h : a.toNat % 2 ^ 31 = 2 ^ 31 - 2 ^ 23) : fp32.read md a.toNat = .inf (a.getLsbD 31) := by
  refine read_of_dec_inf md ?_
  rw [dec_fp32, Fmt.fieldVal, if_pos (by simp only [Fmt.emax, fp32]; omega), if_pos (by omega)]

theorem isNan_read32 (a : Lane) : (fp32.read md a.toNat).isNan = true ↔ nan32 a := by
  rcases lt_trichotomy (a.toNat % 2 ^ 31) (2 ^ 31 - 2 ^ 23) with h | h | h
  · obtain ⟨m, e, hr⟩ := read_finite32 md h
    rw [hr]
    exact iff_of_false Bool.false_ne_true (by unfold nan32; omega)
  · rw [read_inf32 md h]
    exact iff_of_false Bool.false_ne_true (by unfold nan32; omega)
  · rw [read_nan32 md h]
    exact iff_of_true rfl h

theorem isNan_or_read32 (a b : Lane) : ((fp32.read md a.toNat).isNan || (fp32.read md b.toNat).isNan) = true ↔ nan32 a ∨ nan32 b := by
  rw [Bool.or_eq_true, isNan_read32, isNan_read32]

theorem FV.isNan_of_isSnan {v : FV} (h : v.isSnan = true) : v.isNan = true := by
  cases v with
  | nan => rfl
  | inf => cases h
  | fin => cases h

theorem isSnan_read32 (a : Lane) : (fp32.read md a.toNat).isSnan = true ↔ snan32 a := by
  by_cases h : nan32 a
  · rw [read_nan32 md h, FV.isSnan, Bool.not_eq_true']
    exact (and_iff_right h).symm
  · exact iff_of_false (fun hs => h ((isNan_read32 md a).mp (FV.isNan_of_isSnan hs))) fun hs => h hs.1

theorem sign32_eq (a : Lane) : a.getLsbD 31 = decide (a.toNat / 2 ^ 31 % 2 = 1) := Nat.testBit_eq_decide_div_mod_eq

/-- A pattern is its sign and its other bits. -/
theorem ofNat_signBits_add (a : Lane) : BitVec.ofNat 32 (fp32.signBits (a.getLsbD 31) + a.toNat % 2 ^ 31) = a := by
  refine BitVec.eq_of_toNat_eq ?_
  have := a.isLt
  rw [sign32_eq, BitVec.toNat_ofNat]
  simp only [Fmt.signBits, Fmt.signPos, fp32, decide_eq_true_eq]
  split <;> omega

/-- The quiet NaN with a NaN's sign and payload is the NaN with its quiet bit set. -/
theorem ofNat_nanBits {a : Lane} (h : nan32 a) : BitVec.ofNat 32 (fp32.nanBits (a.getLsbD 31) (a.toNat % 2 ^ 22)) = a ||| 0x00400000 := by
  have hquiet : (0x00400000 : Lane) = BitVec.twoPow 32 22 := by decide
  have hbit : a.getLsbD 22 = decide (a.toNat / 2 ^ 22 % 2 = 1) := Nat.testBit_eq_decide_div_mod_eq
  have hfields : (BitVec.ofNat 32 (fp32.nanBits (a.getLsbD 31) (a.toNat % 2 ^ 22))).toNat =
      a.toNat / 2 ^ 23 * 2 ^ 23 + 2 ^ 22 + a.toNat % 2 ^ 22 := by
    unfold nan32 at h
    have := a.isLt
    rw [sign32_eq, BitVec.toNat_ofNat]
    simp only [Fmt.nanBits, Fmt.cnan, Fmt.emax, Fmt.signBits, Fmt.signPos, fp32, decide_eq_true_eq]
    split <;> omega
  refine BitVec.eq_of_toNat_eq (hfields.trans ?_)
  have hand := BitVec.and_twoPow a 22
  cases hq : a.getLsbD 22 with
  | true =>
    rw [hq, if_pos rfl, ← hquiet] at hand
    have hor : a ||| (a &&& 0x00400000) = a := by
      ext i
      simp only [BitVec.getElem_or, BitVec.getElem_and]
      cases a[i] <;> rfl
    rw [hand] at hor
    rw [hor]
    rw [hq] at hbit
    have := of_decide_eq_true hbit.symm
    omega
  | false =>
    rw [hq, if_neg Bool.false_ne_true, ← hquiet] at hand
    have hbit := of_decide_eq_false (hbit.symm.trans hq)
    rw [← BitVec.add_eq_or_of_and_eq_zero _ _ hand, BitVec.toNat_add, show (0x00400000 : Lane).toNat = 2 ^ 22 by decide]
    have := a.isLt
    omega

end

end Sys2Proof.Machine
end

section
/-!
PROOF. The special cases of FP32 sums and products: NaNs, infinities, invalid operations and the signs of zeros (R109, R112, R158, R159).
-/
namespace Sys2Proof.Machine

/-! ## NaN operands (R112, R120) -/

@[simp] theorem FV.isNan_nan (s q : Bool) (p : Nat) : (FV.nan s q p).isNan = true := rfl

@[simp] theorem movePay_fp32 (pay : Nat) : movePay fp32 fp32 pay = pay := by simp [movePay]

/-- The first NaN of two operands, quieted; the canonical NaN at COMPAT level 1. -/
theorem pickNaN_fp32 (md : Modes) {a b : Lane} (h : nan32 a ∨ nan32 b) :
    BitVec.ofNat 32 (pickNaN fp32 fp32 md [fp32.read md a.toNat, fp32.read md b.toNat]) =
      if md.level1 then 0x7FC00000 else (if nan32 a then a else b) ||| 0x00400000 := by
  unfold pickNaN
  split
  · rfl
  · by_cases ha : nan32 a
    · simp only [read_nan32 md ha, List.find?, FV.isNan, movePay_fp32, ofNat_nanBits ha, if_pos ha]
    · have hb : nan32 b := h.resolve_left ha
      have hna : (fp32.read md a.toNat).isNan = false := Bool.eq_false_iff.mpr ((isNan_read32 md a).not.mpr ha)
      simp only [List.find?, hna, read_nan32 md hb, FV.isNan_nan, movePay_fp32, ofNat_nanBits hb, if_neg ha]

theorem snanFlag_pair (md : Modes) (a b : Lane) : (snanFlag [fp32.read md a.toNat, fp32.read md b.toNat] = 1 ↔ snan32 a ∨ snan32 b) ∧
    (snanFlag [fp32.read md a.toNat, fp32.read md b.toNat] = 0 ↔ ¬(snan32 a ∨ snan32 b)) := by
  simp only [snanFlag, List.any_cons, List.any_nil, Bool.or_false, ← isSnan_read32 md, ← Bool.or_eq_true]
  cases (fp32.read md a.toNat).isSnan || (fp32.read md b.toNat).isSnan <;> decide

theorem fadd32_of_nan (md : Modes) (sub : Bool) {a b : Lane} (h : nan32 a ∨ nan32 b) :
    fadd32 md sub a b = (BitVec.ofNat 32 (pickNaN fp32 fp32 md [fp32.read md a.toNat, fp32.read md b.toNat]),
      snanFlag [fp32.read md a.toNat, fp32.read md b.toNat]) := by
  simp only [fadd32, (isNan_or_read32 md a b).mpr h, if_true]

theorem fmul32_of_nan (md : Modes) {a b : Lane} (h : nan32 a ∨ nan32 b) :
    fmul32 md a b = (BitVec.ofNat 32 (pickNaN fp32 fp32 md [fp32.read md a.toNat, fp32.read md b.toNat]),
      snanFlag [fp32.read md a.toNat, fp32.read md b.toNat]) := by
  simp only [fmul32, (isNan_or_read32 md a b).mpr h, if_true]

/-! ## Exact sums (R109) -/

theorem scaled_zero (s : Bool) (e k : Int) : scaled s 0 e k = 0 := by cases s <;> simp [scaled]

theorem scaled_add_neg (s : Bool) (m : Nat) (e k : Int) : scaled s m e k + scaled (!s) m e k = 0 := by cases s <;> simp [scaled]

/-- The rounded sum of one number. -/
theorem roundSum_scaled {f : Fmt} (md : Modes) {zs : Bool} (s : Bool) {m : Nat} (hm : m ≠ 0) (e k : Int) :
    roundSum f md zs (scaled s m e k) k = roundTo f md s (m * 2 ^ (e - k).toNat) k := by
  have hpos : 0 < m * 2 ^ (e - k).toNat := by positivity
  have hcast : (m : Int) * 2 ^ (e - k).toNat = ((m * 2 ^ (e - k).toNat : Nat) : Int) := by push_cast; rfl
  unfold roundSum scaled
  rw [hcast]
  generalize m * 2 ^ (e - k).toNat = n at hpos
  cases s with
  | false => simp [hpos.ne', (Int.natCast_nonneg n).not_gt]
  | true => simp [hpos.ne', hpos]

/-! ## Zeros, infinities and one (R109, R158) -/

section
variable (md : Modes)

@[simp] theorem read_posInf32 : fp32.read md (0x7F800000 : Lane).toNat = .inf false := read_of_dec_inf md (by decide)
@[simp] theorem read_negInf32 : fp32.read md (0xFF800000 : Lane).toNat = .inf true := read_of_dec_inf md (by decide)
@[simp] theorem read_posZero32 : fp32.read md (0x00000000 : Lane).toNat = .fin false 0 (-149) := read_of_dec_zero md (by decide)
@[simp] theorem read_negZero32 : fp32.read md (0x80000000 : Lane).toNat = .fin true 0 (-149) := read_of_dec_zero md (by decide)
@[simp] theorem read_one32 : fp32.read md (0x3F800000 : Lane).toNat = .fin false (2 ^ 23) (-23) :=
  (read_normal32 md (by decide) (by decide)).trans (by decide)

theorem zeroSum32 (r : Rnd) : BitVec.ofNat 32 (fp32.signBits (r == .rd)) = if r = .rd then 0x80000000 else 0x00000000 := by
  cases r <;> decide

theorem addZero32 : fadd32 md false 0x00000000 0x80000000 = (if md.rnd = .rd then 0x80000000 else 0x00000000, 0) := by
  simp only [fadd32, read_posZero32, read_negZero32]
  rw [← zeroSum32]
  rfl

/-! ## A number with an infinity, 0, 1 and itself -/

variable {x : Lane}

theorem posInf_add32 (h : x.toNat % 2 ^ 31 < 2 ^ 31 - 2 ^ 23) : fadd32 md false 0x7F800000 x = (0x7F800000, 0) := by
  obtain ⟨m, e, hx⟩ := read_finite32 md h
  simp only [fadd32, read_posInf32, hx]
  rfl

theorem add_negInf32 (h : x.toNat % 2 ^ 31 < 2 ^ 31 - 2 ^ 23) : fadd32 md false x 0xFF800000 = (0xFF800000, 0) := by
  obtain ⟨m, e, hx⟩ := read_finite32 md h
  simp only [fadd32, read_negInf32, hx]
  rfl

variable (hlo : 2 ^ 23 ≤ x.toNat % 2 ^ 31) (hhi : x.toNat % 2 ^ 31 < 2 ^ 31 - 2 ^ 23)
include hlo hhi

/-- A number equal to a normal operand is rounded to that operand. -/
theorem roundTo_normal32 {m : Nat} {e : Int}
    (h : dyVal m e = dyVal (x.toNat % 2 ^ 23 + 2 ^ 23) (fp32.lastPlace (x.toNat / 2 ^ 23 % 2 ^ 8))) :
    (BitVec.ofNat 32 (roundTo fp32 md (x.getLsbD 31) m e).1, (roundTo fp32 md (x.getLsbD 31) m e).2) = (x, 0) := by
  have hE : 1 ≤ x.toNat / 2 ^ 23 % 2 ^ 8 := by omega
  have hn : 2 ^ (fp32.p - 1) ≤ x.toNat % 2 ^ 23 + 2 ^ 23 := by simp only [fp32]; omega
  have hn' : x.toNat % 2 ^ 23 + 2 ^ 23 < 2 ^ fp32.p := by simp only [fp32]; omega
  have hmax : x.toNat / 2 ^ 23 % 2 ^ 8 < fp32.emax := by simp only [Fmt.emax, fp32]; omega
  rw [plain_fp32.roundTo_normal hn hn' hE md _ hmax h, Fmt.encode_normal hn hE]
  have hbits : x.toNat / 2 ^ 23 % 2 ^ 8 * 2 ^ (fp32.p - 1) + (x.toNat % 2 ^ 23 + 2 ^ 23 - 2 ^ (fp32.p - 1)) = x.toNat % 2 ^ 31 := by
    simp only [fp32]
    omega
  rw [hbits, ofNat_signBits_add]

theorem sub_self32 : fadd32 md true x x = (if md.rnd = .rd then 0x80000000 else 0x00000000, 0) := by
  have hm : (x.toNat % 2 ^ 23 + 2 ^ 23 == 0) = false := by simp
  simp only [fadd32, read_normal32 md hlo hhi, FV.isNan, FV.neg, addFV, roundSum, zeroSumSign, Bool.or_self, Bool.false_eq_true, if_false,
    scaled_add_neg, hm, Bool.false_and, if_true, zeroSum32]

theorem add_zero32 : fadd32 md false x 0x00000000 = (x, 0) := by
  have hm : x.toNat % 2 ^ 23 + 2 ^ 23 ≠ 0 := by omega
  simp only [fadd32, read_normal32 md hlo hhi, read_posZero32, FV.isNan, addFV, Bool.or_self, Bool.false_eq_true, if_false, scaled_zero,
    add_zero]
  rw [roundSum_scaled md _ hm]
  exact roundTo_normal32 md hlo hhi (dyVal_of_le _ (min_le_left _ _)).symm

theorem mul_one32 : fmul32 md x 0x3F800000 = (x, 0) := by
  have hv : dyVal ((x.toNat % 2 ^ 23 + 2 ^ 23) * 2 ^ 23) (fp32.lastPlace (x.toNat / 2 ^ 23 % 2 ^ 8) + -23) =
      dyVal (x.toNat % 2 ^ 23 + 2 ^ 23) (fp32.lastPlace (x.toNat / 2 ^ 23 % 2 ^ 8)) := by
    rw [dyVal_of_le (x.toNat % 2 ^ 23 + 2 ^ 23) (show fp32.lastPlace (x.toNat / 2 ^ 23 % 2 ^ 8) + -23 ≤ _ by omega), dyVal]
    congr 4
    omega
  simp only [fmul32, read_normal32 md hlo hhi, read_one32, FV.isNan, mulFV, Bool.or_self, Bool.false_eq_true, if_false, Bool.bne_false]
  exact roundTo_normal32 md hlo hhi hv

end

/-- Settles O14: a NaN operand is picked and quieted, and each other case by the values that the patterns read as. -/
theorem specialSumsAndProducts : Obligations.SpecialSumsAndProducts := by
  refine ⟨fun md sub a b => ?_, fun md x => ?_⟩
  · intro nan sig h
    obtain ⟨hone, hzero⟩ := snanFlag_pair md a b
    rw [fadd32_of_nan md sub h, fmul32_of_nan md h]
    exact ⟨pickNaN_fp32 md h, rfl, hone, hzero, rfl⟩
  · refine ⟨rfl, rfl, rfl, ?_, rfl, ?_, ?_, addZero32 md, fun hfin => ⟨posInf_add32 md hfin, add_negInf32 md hfin, fun hnorm =>
      ⟨sub_self32 md hnorm hfin, add_zero32 md hnorm hfin, mul_one32 md hnorm hfin⟩⟩⟩
    · simp only [fmul32, read_posZero32, read_negInf32]
      rfl
    · simp only [fmul32, read_posZero32, read_negZero32]
      rfl
    · simp only [fadd32, read_negZero32]
      rfl

end Sys2Proof.Machine
end

section
/-!
PROOF. Conversions between FP32 and integers (R114, R120, R162).
-/
namespace Sys2Proof.Machine

/-! ## FP32 to an integer (R114) -/

/-- The least integer of w bits. -/
def satLo (w : Nat) (signed : Bool) : Int := if signed then -(2 ^ (w - 1) : Nat) else 0

/-- The greatest integer of w bits. -/
def satHi (w : Nat) (signed : Bool) : Int := if signed then (2 ^ (w - 1) : Nat) - 1 else (2 ^ w : Nat) - 1

/-- Saturation of ±v. -/
theorem satBits_eq (w : Nat) (signed s : Bool) (v : Nat) : satBits w signed s v =
    if signedInt s v < satLo w signed then (BitVec.ofInt 32 (satLo w signed), true)
    else if satHi w signed < signedInt s v then (BitVec.ofInt 32 (satHi w signed), true)
    else (BitVec.ofInt 32 (signedInt s v), false) := rfl

section
variable {w : Nat} {signed : Bool} (md : Modes) (a : Lane) (hle : satLo w signed ≤ satHi w signed)
include hle

theorem toInt32_fin {s : Bool} {m : Nat} {e : Int} (h : fp32.read md a.toNat = .fin s m e) :
    let n := roundInt md.rnd s m e
    let v := signedInt s n
    (v < satLo w signed → toInt32 w signed md a = (BitVec.ofInt 32 (satLo w signed), 1)) ∧
      (satHi w signed < v → toInt32 w signed md a = (BitVec.ofInt 32 (satHi w signed), 1)) ∧
      (satLo w signed ≤ v → v ≤ satHi w signed → toInt32 w signed md a = (BitVec.ofInt 32 v, if dyEq n 0 m e then 0 else 16)) := by
  refine ⟨fun hv => ?_, fun hv => ?_, fun hv hv' => ?_⟩
  · have hsat : satBits w signed s (roundInt md.rnd s m e) = (BitVec.ofInt 32 (satLo w signed), true) := by
      rw [satBits_eq, if_pos hv]
    simp only [toInt32, h, hsat]
    rfl
  · have hsat : satBits w signed s (roundInt md.rnd s m e) = (BitVec.ofInt 32 (satHi w signed), true) := by
      rw [satBits_eq, if_neg (not_lt.mpr (hle.trans hv.le)), if_pos hv]
    simp only [toInt32, h, hsat]
    rfl
  · have hsat : satBits w signed s (roundInt md.rnd s m e) = (BitVec.ofInt 32 (signedInt s (roundInt md.rnd s m e)), false) := by
      rw [satBits_eq, if_neg (not_lt.mpr hv), if_neg (not_lt.mpr hv')]
    simp only [toInt32, h, hsat]
    rfl

variable (hmin : -(2 ^ 64) < satLo w signed) (hmax : satHi w signed < 2 ^ 64)
include hmin hmax

/-- Infinities saturate like integers beyond every range. -/
theorem satBits_far (s : Bool) : (satBits w signed s (2 ^ 64)).1 = BitVec.ofInt 32 (if s then satLo w signed else satHi w signed) := by
  rw [satBits_eq]
  cases s with
  | false => rw [if_neg (by simp only [signedInt]; norm_num; omega), if_pos (by simp only [signedInt]; norm_num; omega)]; rfl
  | true => rw [if_pos (by simp only [signedInt]; norm_num; omega)]; rfl

theorem toInt32_inf {s : Bool} (h : fp32.read md a.toNat = .inf s) :
    toInt32 w signed md a = (BitVec.ofInt 32 (if s then satLo w signed else satHi w signed), 1) := by
  simp only [toInt32, h, satBits_far hle hmin hmax]
  rfl

theorem toInt32_nan {s q : Bool} {y : Nat} (h : fp32.read md a.toNat = .nan s q y) :
    toInt32 w signed md a = (if md.level1 then BitVec.ofInt 32 (satHi w signed) else 0, 1) := by
  simp only [toInt32, h, satBits_far hle hmin hmax]
  rfl

end

/-! ## An integer to FP32 (R114) -/

/-- A whole number up to 2^24 is one of 24 bits at the last place of a normal exponent. -/
theorem exists_normal32 {k : Nat} (hpos : k ≠ 0) (h : k ≤ 2 ^ 24) :
    ∃ n E, 2 ^ 23 ≤ n ∧ n < 2 ^ 24 ∧ 1 ≤ E ∧ E < 255 ∧ dyVal k 0 = dyVal n (fp32.lastPlace E) := by
  rcases h.lt_or_eq with hlt | rfl
  · have hlg : k.log2 ≤ 23 := by have := (Nat.log2_lt hpos).mpr hlt; omega
    have hle : fp32.lastPlace (k.log2 + 127) ≤ 0 := by simp only [Fmt.lastPlace, fp32]; omega
    have hsub : (0 - fp32.lastPlace (k.log2 + 127)).toNat = 23 - k.log2 := by simp only [Fmt.lastPlace, fp32]; omega
    refine ⟨k * 2 ^ (23 - k.log2), k.log2 + 127, ?_, ?_, ?_, ?_, ?_⟩
    · calc 2 ^ 23 = 2 ^ k.log2 * 2 ^ (23 - k.log2) := by rw [← pow_add, Nat.add_sub_of_le hlg]
        _ ≤ k * 2 ^ (23 - k.log2) := Nat.mul_le_mul_right _ (Nat.log2_self_le hpos)
    · calc k * 2 ^ (23 - k.log2) < 2 ^ (k.log2 + 1) * 2 ^ (23 - k.log2) := Nat.mul_lt_mul_of_pos_right Nat.lt_log2_self (by positivity)
        _ = 2 ^ 24 := by rw [← pow_add, show k.log2 + 1 + (23 - k.log2) = 24 by omega]
    · omega
    · omega
    · rw [dyVal_of_le k hle, hsub, dyVal]
  · have hlast : fp32.lastPlace 151 = 0 + 1 := by decide
    refine ⟨2 ^ 23, 151, le_rfl, by norm_num, by norm_num, by norm_num, ?_⟩
    rw [hlast, dyVal_add_one, ← pow_succ']

/-- An integer up to 2^24 becomes the pattern of its value, with no flag. -/
theorem ofInt32_exact (md : Modes) {v : Int} (hv : v ≠ 0) (h : v.natAbs ≤ 2 ^ 24) : (ofInt32 md v).2 = 0 ∧
    ∃ m e, fp32.dec (ofInt32 md v).1.toNat = .fin (decide (v < 0)) m e ∧ dyEq m e v.natAbs 0 = true := by
  obtain ⟨n, E, hlo, hhi, hE, hmax, hval⟩ := exists_normal32 (Int.natAbs_ne_zero.mpr hv) h
  have hemax : fp32.emax = 255 := by decide
  rw [← hemax] at hmax
  have hround := plain_fp32.roundTo_normal hlo hhi hE md (decide (v < 0)) hmax hval
  have hbits : fp32.encode (decide (v < 0)) n (fp32.lastPlace E) < 2 ^ 32 := by
    rw [Fmt.encode_normal hlo hE]
    simp only [Fmt.signBits, Fmt.signPos, fp32]
    split <;> omega
  refine ⟨congrArg Prod.snd hround, n, fp32.lastPlace E, ?_, (dyEq_iff ..).mpr hval.symm⟩
  rw [ofInt32, hround, BitVec.toNat_ofNat, Nat.mod_eq_of_lt hbits]
  exact plain_fp32.dec_encode hlo hhi hE _ hmax

/-- The selectors of va.cvt from integers. -/
theorem cvt32_of_int (md : Modes) {a : Lane} {c : Cvt} {v : Int} (h : (c, v) ∈ [(Cvt.int32ToF32, a.toInt),
    (.uint32ToF32, (a.toNat : Int)), (.int8ToF32, (BitVec.ofNat 8 a.toNat).toInt), (.uint8ToF32, ((a.toNat % 2 ^ 8 : Nat) : Int))]) :
    cvt32 c md a = ofInt32 md v := by
  simp only [List.mem_cons, List.not_mem_nil, or_false, Prod.mk.injEq] at h
  rcases h with ⟨rfl, rfl⟩ | ⟨rfl, rfl⟩ | ⟨rfl, rfl⟩ | ⟨rfl, rfl⟩
  · rfl
  · rfl
  · rfl
  · rw [← BitVec.toNat_setWidth]
    rfl

/-- The selectors of va.cvt to integers, by the range of each. -/
theorem cvt32_to_int (md : Modes) {a : Lane} {c : Cvt} {lo hi : Int} (h : (c, lo, hi) ∈ [(Cvt.f32ToInt32, -2147483648, 2147483647),
    (.f32ToUint32, 0, 4294967295), (.f32ToInt8, -128, 127), (.f32ToUint8, 0, 255)]) : ∃ w signed, cvt32 c md a = toInt32 w signed md a ∧
      lo = satLo w signed ∧ hi = satHi w signed ∧ -(2 ^ 64) < satLo w signed ∧ satLo w signed ≤ satHi w signed ∧
      satHi w signed < 2 ^ 64 := by
  simp only [List.mem_cons, List.not_mem_nil, or_false, Prod.mk.injEq] at h
  rcases h with ⟨rfl, rfl, rfl⟩ | ⟨rfl, rfl, rfl⟩ | ⟨rfl, rfl, rfl⟩ | ⟨rfl, rfl, rfl⟩
  · exact ⟨32, true, rfl, by decide⟩
  · exact ⟨32, false, rfl, by decide⟩
  · exact ⟨8, true, rfl, by decide⟩
  · exact ⟨8, false, rfl, by decide⟩

/-- Settles O37: to an integer by what the operand reads as, and from an integer by its normal form. -/
theorem floatConversions : Obligations.FloatConversions := by
  refine ⟨fun md a c lo hi hc => ?_, fun md a c v hc hv => ?_⟩
  · obtain ⟨w, signed, hcvt, rfl, rfl, hmin, hle, hmax⟩ := cvt32_to_int md hc
    rw [hcvt]
    exact ⟨fun s m e h => toInt32_fin md a hle h, fun s h => toInt32_inf md a hle hmin hmax h,
      fun s q y h => toInt32_nan md a hle hmin hmax h⟩
  · rw [cvt32_of_int md hc]
    rcases eq_or_ne v 0 with rfl | hne
    · exact ⟨rfl, fun _ => rfl, fun h => absurd rfl h⟩
    · exact ⟨(ofInt32_exact md hne hv).1, fun h => absurd h hne, fun _ => (ofInt32_exact md hne hv).2⟩

end Sys2Proof.Machine
end

section
/-!
PROOF. The FP32 operations of VA and VB: what lands in the clock of each pass, and without a pass (R152, R158 to R165).
-/
namespace Sys2Proof.Machine

/-! ## Sign bits (R161) -/

theorem clearSign_eq (a : Lane) : a &&& 0x7FFFFFFF = BitVec.ofNat 32 (a.toNat % 2 ^ 31) := by
  refine BitVec.eq_of_toNat_eq ?_
  have hlt : a.toNat % 2 ^ 31 < 2 ^ 32 := by omega
  rw [BitVec.toNat_ofNat, Nat.mod_eq_of_lt hlt, BitVec.toNat_and, show (0x7FFFFFFF : Lane).toNat = 2 ^ 31 - 1 by decide,
    Nat.and_two_pow_sub_one_eq_mod]

theorem flipSign_eq (a : Lane) : a ^^^ 0x80000000 = BitVec.ofNat 32 (a.toNat + 2 ^ 31) := by
  have hsign : (0x80000000 : Lane) = BitVec.twoPow 32 31 := by decide
  refine BitVec.eq_of_getLsbD_eq fun i hi => ?_
  rw [hsign, BitVec.getLsbD_xor, BitVec.getLsbD_twoPow, BitVec.getLsbD_ofNat, Nat.add_comm]
  rcases Nat.lt_or_ge i 31 with h | h
  · simp [Nat.testBit_two_pow_add_gt h, hi, h.ne', BitVec.testBit_toNat]
  · obtain rfl : i = 31 := by omega
    rw [Nat.testBit_two_pow_add_eq, BitVec.testBit_toNat]
    simp

/-! ## The rows (R158 to R165) -/

/-- A 32-bit floating-point result lands with its flags. -/
theorem LanesRow.of_runFp {e : Env} {i : Instr} {k : Kind} {fl : RFile} {vd : BitVec 6} {lat : Nat} {g : Env → Nat → Lane × FFlags}
    {f : Nat → Lane × FFlags} (hexec : ∀ s, exec i s = runFp i k vd s g) (hv : ∀ l, g e l = f l) (hr : i.result = some (fl, lat))
    (hp : i.pairDest = false) (hb : i.isBallot = false) :
    LanesRow e i k fl vd lat false (fun l => (f l).1.setWidth 128) fun l => (f l).2 :=
  ⟨_, hexec, fun l => by rw [hv l], hr, hp, hb⟩

/-- Each row is the value that exec lands, with its flags. -/
theorem FpRow.lanesRow {e : Env} {i : Instr} {k : Kind} {fl : RFile} {vd : BitVec 6} {f : Nat → Lane × FFlags}
    (h : FpRow e i k fl vd f) : LanesRow e i k fl vd 4 false (fun l => (f l).1.setWidth 128) fun l => (f l).2 := by
  cases h with
  | vaFadd | vaFsub | vaFmul | vaFma | vaFnma | vaFmin | vaFmax | vaFcmp | vaCvt | vaTsdq | vbFadd | vbFmul | vbFma =>
    exact .of_runFp (fun _ => rfl) (fun _ => rfl) rfl rfl rfl
  | vaFabs => exact .of_runInt (fun _ => rfl) (fun _ => clearSign_eq _) rfl rfl rfl
  | vaFneg => exact .of_runInt (fun _ => rfl) (fun _ => flipSign_eq _) rfl rfl rfl
  | vaFcls => exact .of_runInt (fun _ => rfl) (fun _ => rfl) rfl rfl rfl

theorem SpecialRow.lanesRow {e : Env} {i : Instr} {fn : SpecFn} {vd : BitVec 6} {oa : Sel} (h : SpecialRow i fn vd oa) :
    LanesRow e i .vb .vb vd 8 false (fun l => (special32 fn e.c.fm e.c.cm (e.lane .vb oa l)).1.setWidth 128)
      fun l => (special32 fn e.c.fm e.c.cm (e.lane .vb oa l)).2 := by
  cases h with
  | rcp | rsqrt | sqrt | exp2 | log2 | sin | cos | tanh =>
    exact .of_runFp (f := fun l => special32 _ e.c.fm e.c.cm (e.lane .vb oa l)) (fun _ => rfl) (fun _ => rfl) rfl rfl rfl

/-! ## Tiered-scale blocks (R163) -/

/-- The lanes of a pass are those of its two blocks of sixteen. -/
theorem lanesIn_eq_blockLanes (t : Team) (m : Mask) (p : Nat) : lanesIn t m p = [2 * p, 2 * p + 1].flatMap (blockLanes t m) := by
  have hsplit : (List.range 32).map (fun i => 32 * p + i) =
      (List.range 16).map (fun j => 16 * (2 * p) + j) ++ (List.range 16).map (fun j => 16 * (2 * p + 1) + j) := by
    rw [show 32 = 16 + 16 from rfl, List.range_add, List.map_append, List.map_map]
    congr 1 <;> refine List.map_congr_left fun j _ => ?_ <;> simp <;> omega
  simp only [lanesIn, hsplit, List.filter_append, List.flatMap_cons, List.flatMap_nil, List.append_nil, blockLanes]

theorem div_of_mem_blockLanes {t : Team} {m : Mask} {b l : Nat} (h : l ∈ blockLanes t m b) : l / 16 = b := by
  obtain ⟨j, hj, rfl⟩ := List.mem_map.mp (List.mem_of_mem_filter h)
  have := List.mem_range.mp hj
  omega

section
variable {α β : Type} (L : α → List β)

/-- What is made of the members of each list, the empty lists left out. -/
theorem flatMap_filter_nonempty {γ : Type} (h : α → β → γ) (l : List α) :
    (l.filter fun b => !(L b).isEmpty).flatMap (fun b => (L b).map (h b)) = l.flatMap fun b => (L b).map (h b) := by
  induction l with
  | nil => rfl
  | cons b l ih =>
    cases hb : L b with
    | nil => simp [hb, ih]
    | cons x r => simp [hb, ih]

/-- Flags that every member of a list raises. -/
theorem foldl_or_const {g : β → FFlags} {c m : FFlags} {l : List β} (h : ∀ x ∈ l, g x = c) (hne : l ≠ []) :
    l.foldl (fun m x => m ||| g x) m = m ||| c := by
  induction l generalizing m with
  | nil => exact absurd rfl hne
  | cons x r ih =>
    rw [List.foldl_cons, h x (List.mem_cons_self ..)]
    rcases eq_or_ne r [] with rfl | hr
    · rfl
    · rw [ih (fun y hy => h y (List.mem_cons_of_mem _ hy)) hr, BitVec.or_assoc, BitVec.or_self]

/-- The flags of all members are those of the lists that have one. -/
theorem foldl_or_flatMap {g : β → FFlags} {c : α → FFlags} {l : List α} (h : ∀ b, ∀ x ∈ L b, g x = c b) (m : FFlags) :
    (l.flatMap L).foldl (fun m x => m ||| g x) m = (l.filter fun b => !(L b).isEmpty).foldl (fun m b => m ||| c b) m := by
  induction l generalizing m with
  | nil => rfl
  | cons b l ih =>
    rw [List.flatMap_cons, List.foldl_append, ih]
    rcases eq_or_ne (L b) [] with hb | hb
    · simp [hb]
    · rw [foldl_or_const (h b) hb, List.filter_cons_of_pos (by simpa using hb), List.foldl_cons]

end

theorem maskOf_vaTsq (mk : Mask) (ts : TsFmt) (rm : Rm) (vd : BitVec 6) (oa : Sel) : (Instr.vaTsq mk ts rm vd oa).maskOf = mk := by
  cases mk <;> rfl

/-- What va.tsq lands in lane l with block b: the block's scale record and the lane's own field. -/
def Env.tsqLane (e : Env) (ts : TsFmt) (rm : Rm) (mk : Mask) (oa : Sel) (b l : Nat) : BitVec 128 :=
  BitVec.ofNat 128 (tsScale (e.tsqBlock ts rm mk oa b) * 2 ^ 16 + tsField (TsFmt.m ts) (e.tsqBlock ts rm mk oa b) (l % 16))

/-- va.tsq lands one value per enabled lane, with the flags of its block. -/
theorem exec_vaTsq (mk : Mask) (ts : TsFmt) (rm : Rm) (vd : BitVec 6) (oa : Sel) (s : State) :
    exec (.vaTsq mk ts rm vd oa) s = runVec (.vaTsq mk ts rm vd oa) .va vd s fun e l =>
      (e.tsqLane ts rm mk oa (l / 16) l, (e.tsqBlock ts rm mk oa (l / 16)).fl) := by
  have hexec : exec (.vaTsq mk ts rm vd oa) s = execVaTsq mk ts rm vd oa s := rfl
  rw [hexec, execVaTsq, runVec]
  congr 1
  funext e p s
  have hvals := flatMap_filter_nonempty (blockLanes e.t mk)
    (fun b l => (⟨l, e.tsqLane ts rm mk oa b l, e.lanesP (.vaTsq mk ts rm vd oa) l⟩ : LaneVal)) [2 * p, 2 * p + 1]
  have hflags := foldl_or_flatMap (blockLanes e.t mk) (g := fun l => (e.tsqBlock ts rm mk oa (l / 16)).fl)
    (c := fun b => (e.tsqBlock ts rm mk oa b).fl) (l := [2 * p, 2 * p + 1]) (fun b l hl => by rw [div_of_mem_blockLanes hl]) 0
  simp only [Env.tsqLane] at hvals ⊢
  simp only [maskOf_vaTsq, List.flatMap_map, hvals, List.foldl_map, List.map_map]
  rw [lanesIn_eq_blockLanes, hflags, List.map_flatMap]
  refine congrArg (fun v => s.landLanes e _ _ _ v _) (List.flatMap_congr fun b _ => List.map_congr_left fun l hl => ?_)
  simp only [Function.comp_apply, div_of_mem_blockLanes hl]

/-- Settles O30: every row lands one value per lane with its flags, and va.tsq its block's. -/
theorem vectorFloats : Obligations.VectorFloats := by
  refine ⟨fun s i x k fl vd f p h hrow => hrow.lanesRow.exec_next h p, fun s i x fn vd oa p h hrow => hrow.lanesRow.exec_next h p, ?_⟩
  rintro s mk ts rm vd oa x p i blk rfl h hblk
  obtain rfl : blk = x.e.tsqBlock ts rm mk oa := funext hblk
  exact LanesRow.exec_next ⟨_, exec_vaTsq mk ts rm vd oa, fun _ => rfl, rfl, rfl, rfl⟩ h p

end Sys2Proof.Machine
end

section
/-!
PROOF. The accumulator commands: what they leave in each element of their accumulator, and nowhere else (R21, R118, R227).
-/
namespace Sys2Proof.Machine

/-! ## Writing an accumulator (R21) -/

/-- Where the elements of an accumulator of a block begin. -/
def Block.accBase (b : Block) (a : Nat) : Nat := 32768 * b.core + 4096 * b.accs.getD a 0

theorem Block.accKey_eq (b : Block) (a i j : Nat) : b.accKey a i j = b.accBase a + (64 * i + j) := by
  rw [accKey, accBase, Nat.add_assoc]

theorem Block.accKey_div_mod (b : Block) (a n : Nat) : b.accKey a (n / 64) (n % 64) = b.accBase a + n := by
  rw [accKey_eq, Nat.div_add_mod]

/-- The first N elements of an accumulator written one after the other. -/
def State.accWrites (s : State) (b : Block) (a : Nat) (f : Nat → Nat → Lane × Bool) (N : Nat) : State :=
  (List.range N).foldl (fun t n => t.setAccElem (b.accKey a (n / 64) (n % 64)) (f (n / 64) (n % 64)).1 (f (n / 64) (n % 64)).2) s

section
variable (s : State) (b : Block) (a : Nat) (f : Nat → Nat → Lane × Bool)

theorem State.accWrites_succ (N : Nat) : s.accWrites b a f (N + 1) =
    (s.accWrites b a f N).setAccElem (b.accBase a + N) (f (N / 64) (N % 64)).1 (f (N / 64) (N % 64)).2 := by
  rw [accWrites, List.range_succ, List.foldl_append, List.foldl_cons, List.foldl_nil, b.accKey_div_mod]
  rfl

/-- The writes change only the accumulators. -/
theorem State.accWrites_frame (N : Nat) : { s.accWrites b a f N with acc := s.acc, accP := s.accP } = s := by
  induction N with
  | zero => rfl
  | succ N ih =>
    rw [accWrites_succ]
    exact ih

theorem State.accWrites_wf (h : SMap.wf s.acc = true) (N : Nat) : SMap.wf (s.accWrites b a f N).acc = true := by
  induction N with
  | zero => exact h
  | succ N ih =>
    rw [accWrites_succ]
    exact SMap.wf_set ih _ _

theorem State.accWrites_get_out {N k : Nat} (hk : ∀ n < N, k ≠ b.accBase a + n) : (s.accWrites b a f N).acc.get k = s.acc.get k := by
  induction N with
  | zero => rfl
  | succ N ih =>
    rw [accWrites_succ]
    exact (SMap.get_set_ne _ _ _ (hk N N.lt_succ_self)).trans (ih fun n hn => hk n (hn.trans N.lt_succ_self))

theorem State.accWrites_get_in (h : SMap.wf s.acc = true) {N n : Nat} (hn : n < N) :
    (s.accWrites b a f N).acc.get (b.accBase a + n) = (f (n / 64) (n % 64)).1 := by
  induction N with
  | zero => exact absurd hn n.not_lt_zero
  | succ N ih =>
    rw [accWrites_succ]
    rcases (Nat.lt_succ_iff_lt_or_eq.mp hn) with hlt | rfl
    · exact (SMap.get_set_ne _ _ _ (by omega)).trans (ih hlt)
    · exact SMap.get_set_eq (s.accWrites_wf b a f h _) _ _

/-- Writing all elements of an accumulator: each holds its value, and nothing else changes. -/
theorem State.mapAcc_spec (h : SMap.wf s.acc = true) :
    (∀ i j, i < 64 → j < 64 → (s.mapAcc b a f).acc.get (b.accKey a i j) = (f i j).1) ∧
    (∀ k, (∀ i j, i < 64 → j < 64 → k ≠ b.accKey a i j) → (s.mapAcc b a f).acc.get k = s.acc.get k) ∧
    { s.mapAcc b a f with acc := s.acc, accP := s.accP } = s := by
  have hmap : s.mapAcc b a f = s.accWrites b a f 4096 := rfl
  rw [hmap]
  refine ⟨fun i j hi hj => ?_, fun k hk => ?_, s.accWrites_frame b a f 4096⟩
  · rw [b.accKey_eq, s.accWrites_get_in b a f h (by omega), show (64 * i + j) / 64 = i by omega, show (64 * i + j) % 64 = j by omega]
  · refine s.accWrites_get_out b a f fun n hn => ?_
    rw [← b.accKey_div_mod]
    exact hk _ _ (by omega) (by omega)

end

/-! ## FP32 sums and products of accumulators (R118, R227) -/

section
variable (md : Modes) {x y : Lane}

theorem accArith_of_nan (mul : Bool) (h : nan32 x ∨ nan32 y) : accArith md mul x y = 0x7FC00000 := by
  simp only [accArith, (isNan_or_read32 md x y).mpr h, if_true]
  rfl

variable (h : ¬(nan32 x ∨ nan32 y))
include h

theorem accArith_add : accArith md false x y = (fadd32 md false x y).1 := by
  simp only [accArith, fadd32, Bool.eq_false_iff.mpr ((isNan_or_read32 md x y).not.mpr h), Bool.false_eq_true, if_false]

theorem accArith_mul : accArith md true x y = (fmul32 md x y).1 := by
  simp only [accArith, fmul32, Bool.eq_false_iff.mpr ((isNan_or_read32 md x y).not.mpr h), Bool.false_eq_true, if_false, if_true]
  cases mulFV (fp32.read md x.toNat) (fp32.read md y.toNat) with
  | none => rfl
  | some v => cases v <;> rfl

end

/-- Settles O48: each command writes all elements of its accumulator from the state before it. -/
theorem matrixAccumulators : Obligations.MatrixAccumulators := by
  intro s b c g d a st oc f hwf w md nan hf
  obtain ⟨v, hrun, hv⟩ : ∃ v, s.runCommand b c g = s.mapAcc b d.toNat v ∧ ∀ i j, (v i j).1 = f i j := by
    rcases hf with ⟨hi, hf⟩ | ⟨hi, hf⟩ | ⟨hi, hf⟩ | ⟨hi, hf⟩ | ⟨hi, hf⟩ <;> simp only [State.runCommand, hi]
    · exact ⟨_, rfl, fun i j => (hf i j).symm⟩
    · exact ⟨_, rfl, fun i j => (hf i j).symm⟩
    · exact ⟨_, rfl, fun i j => (hf i j).symm⟩
    · refine ⟨_, rfl, fun i j => ?_⟩
      by_cases hn : nan32 (w d i j) ∨ nan32 (w a i j)
      · exact (accArith_of_nan md false hn).trans ((hf i j).1 hn).symm
      · exact (accArith_add md hn).trans ((hf i j).2 hn).symm
    · refine ⟨_, rfl, fun i j => ?_⟩
      by_cases hn : nan32 (w d i j) ∨ nan32 (BitVec.ofNat 32 c.args.oc.toNat)
      · exact (accArith_of_nan md true hn).trans ((hf i j).1 hn).symm
      · exact (accArith_mul md hn).trans ((hf i j).2 hn).symm
  rw [hrun]
  simp only [← hv]
  exact s.mapAcc_spec b d.toNat v hwf

end Sys2Proof.Machine
end

section
/-!
PROOF. PRIVILEGE: which operations of SU it stops, and that no other check of theirs gives its cause (R54, R124, R142, R144, R146, R320).
-/
namespace Sys2Proof.Machine

/-! ## Checks that do not give a cause -/

/-- A check does not stop with a fault of a cause. -/
def NoFault (cause : Nat) (r : Option Stop) : Prop := ∀ f, r = some (.fault f) → f.cause ≠ cause

section
variable {n : Nat}

theorem NoFault.none : NoFault n none := fun _ h => nomatch h

theorem NoFault.wait : NoFault n (some .wait) := fun _ h => nomatch h

theorem NoFault.zeroTrip (le : Word) : NoFault n (some (.zeroTrip le)) := fun _ h => nomatch h

theorem NoFault.fault {f : Flt} (h : f.cause ≠ n) : NoFault n (some (.fault f)) := fun g hg => by
  cases hg
  exact h

theorem NoFault.ite {p : Prop} [Decidable p] {a b : Option Stop} (ha : NoFault n a) (hb : NoFault n b) : NoFault n (if p then a else b) := by
  split
  · exact ha
  · exact hb

theorem NoFault.orStop {a b : Option Stop} (ha : NoFault n a) (hb : NoFault n b) : NoFault n (orStop a b) := by
  cases a with
  | none => exact hb
  | some x => exact ha

/-- The first stop of a list of checks. -/
theorem NoFault.foldl {α : Type} {f : Option Stop → α → Option Stop} (hf : ∀ a x, NoFault n a → NoFault n (f a x)) (l : List α)
    {a : Option Stop} (ha : NoFault n a) : NoFault n (l.foldl f a) :=
  List.foldlRecOn l f ha fun a ha x _ => hf a x ha

end

/-! ## The common checks (R17, R25, R31, R36, R321) -/

theorem Env.laneReg_noFault {e : Env} {n : Nat} (hn : n ≠ cRegRange) (fl : RFile) (k : Nat) (pair : Bool) : NoFault n (e.laneReg fl k pair) :=
  .ite .none (.ite (.fault hn.symm) (.ite (.fault hn.symm) .none))

theorem Env.regStop_noFault {e : Env} {n : Nat} (hn : n ≠ cRegRange) (i : Instr) : NoFault n (e.regStop i) := by
  unfold Env.regStop
  refine .orStop ?_ (.orStop (.foldl (fun a x ha => .orStop ha ?_) _ .none) (.orStop ?_ (.orStop (.ite (.fault hn.symm) .none) ?_)))
  · split
    · exact .ite (.fault hn.symm) .none
    · exact .none
  · cases x with
    | reg r => exact Env.laneReg_noFault hn _ _ _
    | queue | imm | whole | const => exact .none
  · split
    · exact Env.laneReg_noFault hn _ _ _
    · exact .none
  · split
    · exact .fault hn.symm
    · exact .none

theorem Env.queueStop_noFault {e : Env} {n : Nat} (hn : n ≠ cQueue) (i : Instr) : NoFault n (e.queueStop i) := by
  unfold Env.queueStop
  refine .foldl (fun a x ha => .orStop ha ?_) _ .none
  obtain ⟨sel, addr⟩ := x
  cases sel with
  | queue h k =>
    exact .ite (.fault hn.symm) (.ite (.fault hn.symm) (.ite .none (.ite (.ite (.fault hn.symm) .none) (.ite (.fault hn.symm) .none))))
  | reg | imm | whole | const => exact .none

theorem Env.landStop_noFault {e : Env} {n : Nat} (hn : n ≠ cLanding) (o : OpSt) (before : List (RFile × Nat)) :
    NoFault n (e.landStop o before) := by
  unfold Env.landStop
  split
  · exact .none
  · exact .ite (.fault hn.symm) .none

theorem Env.poisonStop_noFault {e : Env} {n : Nat} (hn : n ≠ cUncorrectable) (i : Instr) : NoFault n (e.poisonStop i) := by
  unfold Env.poisonStop
  dsimp only
  split
  · exact .fault hn.symm
  · refine .ite .none ?_
    split
    · exact .none
    · exact .fault hn.symm

/-! ## The checks of SU operations (R124) -/

theorem Env.csrStop_noFault {e : Env} {n : Nat} (hn : n ≠ cRegRange) (csr : BitVec 12) (w : Option Word) : NoFault n (e.csrStop csr w) := by
  unfold Env.csrStop
  refine .ite (.fault hn.symm) ?_
  split
  · exact .none
  · exact .ite (.ite (.fault hn.symm) .none) (.ite (.ite (.fault hn.symm) .none) .none)

theorem Env.lazyStop_noFault {e : Env} {n : Nat} (hn : n ≠ cLazyBind) (sa : Sel) : NoFault n (e.lazyStop sa) :=
  .ite (.fault hn.symm) .none

theorem Env.swaitStop_noFault {e : Env} {n : Nat} (hn : n ≠ cWaitRange) (str : Nat) (c : BitVec 16) : NoFault n (e.swaitStop str c) :=
  .ite (.fault hn.symm) .none

/-- An SU operation's own checks give REG_RANGE, STREAM_WAIT_RANGE, LAZY_BIND or DOMAIN. -/
theorem Env.ownStop_su_noPrivilege (e : Env) {i : Instr} (hk : i.kind = some .su) : NoFault cPrivilege (e.ownStop i) := by
  have hacc : e.accesses i = none := Env.accesses_eq_none (by simp [hk]) e
  unfold Env.ownStop
  rw [hacc]
  cases i with
  | suCsrr | suCsrw => exact Env.csrStop_noFault (by decide) _ _
  | suBar lv => exact .ite (.fault (by decide : cDomain ≠ cPrivilege)) .none
  | suSwait str sb => exact Env.swaitStop_noFault (by decide) _ _
  | suCalli | suJmpi => exact Env.lazyStop_noFault (by decide) _
  | suLoop lv sa sc =>
    refine .ite ?_ .none
    dsimp only
    split
    · exact .ite .none (.zeroTrip _)
    · exact .zeroTrip _
  | suNop | suEnd | suAdd | suSub | suMul | suMulh | suMulhu | suAnd | suOr | suXor | suAndn | suShl | suShr | suSar | suMin | suMax
  | suMinu | suMaxu | suPopc | suClz | suCtz | suCmp | suSel | suMov | suBfx | suBmsk | suBr | suCall | suLbrk | suLrd | suLwr | suSrd
  | suSwpt | suBcast | suXfer | suTrap | suEret | suDpf | suDinv | suHclr => exact .none
  | _ => cases hk

/-- No check of an SU operation but PRIVILEGE itself gives that cause. -/
theorem Env.slotStop_privilege {e : Env} {o : OpSt} {before : List (RFile × Nat)} {f : Flt} (hk : o.op.ins.kind = some .su)
    (h : e.slotStop o before = some (.fault f)) (hf : f.cause = cPrivilege) : e.privStop o.op.ins = some (.fault f) := by
  unfold Env.slotStop at h
  dsimp only at h
  cases hp : e.privStop o.op.ins with
  | some x =>
    rw [hp] at h
    exact h
  | none =>
    rw [hp] at h
    refine absurd hf (NoFault.orStop (Env.regStop_noFault ?_ _) (.orStop (Env.queueStop_noFault ?_ _) (.orStop (Env.landStop_noFault ?_ _ _)
      (.orStop (Env.poisonStop_noFault ?_ _) (.ite (e.ownStop_su_noPrivilege hk) .wait)))) f h)
    all_goals decide

/-- PRIVILEGE comes before every other check. -/
theorem Env.slotStop_of_priv {e : Env} {o : OpSt} {before : List (RFile × Nat)} {x : Stop} (h : e.privStop o.op.ins = some x) :
    e.slotStop o before = some x := by
  unfold Env.slotStop
  dsimp only
  rw [h]
  rfl

/-- What PRIVILEGE stops: in user mode su.eret, su.dinv and su.csrw of six registers (R142, R144, R146). -/
theorem Env.privStop_some {e : Env} {i : Instr} {x : Stop} (h : e.privStop i = some x) :
    e.t.tmode = false ∧ (i = .suEret ∨ i = .suDinv ∨ ∃ csr sa, i = .suCsrw csr sa ∧ csr.toNat ∈ [1, 3, 4, 8, 9, 10]) := by
  unfold Env.privStop at h
  dsimp only at h
  split at h
  case isTrue => cases h
  case isFalse hu =>
    refine ⟨Bool.eq_false_iff.mpr hu, ?_⟩
    split at h
    · exact .inl rfl
    · exact .inr (.inl rfl)
    · rename_i csr sa
      split at h
      case isTrue hc => exact .inr (.inr ⟨csr, sa, rfl, List.contains_iff_mem.mp hc⟩)
      case isFalse => cases h
    · cases h

/-- Settles O16: PRIVILEGE is the first check, and no other check of an SU operation gives its cause. -/
theorem privilegeFaults : Obligations.PrivilegeFaults := by
  intro e o before
  refine ⟨fun hu => ⟨fun hi => ?_, fun hi => ?_, fun csr sa hi hc => ?_⟩, fun f hk hstop hf => ?_⟩
  · refine Env.slotStop_of_priv ?_
    rw [hi, Env.privStop, hu]
    rfl
  · refine Env.slotStop_of_priv ?_
    rw [hi, Env.privStop, hu]
    rfl
  · refine Env.slotStop_of_priv ?_
    rw [hi, Env.privStop, hu]
    have hmem : [1, 3, 4, 8, 9, 10].contains csr.toNat = true := List.contains_iff_mem.mpr hc
    simp only [hmem, Bool.false_eq_true, if_false, if_true]
    rfl
  · exact Env.privStop_some (Env.slotStop_privilege hk hstop hf)

end Sys2Proof.Machine
end

section
/-!
PROOF. The SU operations on streams, on switch points, and those that leave a record for their word's whole commit (R134, R135, R138,
R143 to R149).
-/
namespace Sys2Proof.Machine

/-! ## Streams (R134, R135) -/

/-- A difference of 16-bit counts is taken modulo 2^16. -/
theorem toNat_ofNat_sub (v : Nat) (d : BitVec 16) : (BitVec.ofNat 16 v - d).toNat = (v + 2 ^ 16 - d.toNat) % 2 ^ 16 := by
  rw [BitVec.toNat_sub, BitVec.toNat_ofNat]
  have hd := d.isLt
  omega

/-- A wait is over when the completions have reached its count, or are less than 2^15 past it (R135). -/
theorem waitDone_iff (d c : BitVec 16) : waitDone d c = true ↔ (c - d).toNat = 0 ∨ 32769 ≤ (c - d).toNat := by
  unfold waitDone
  rw [decide_eq_true_iff, BitVec.toNat_sub, BitVec.toNat_sub]
  have hd := d.isLt
  have hc := c.isLt
  omega

/-- STREAM_WAIT_RANGE: the count lies above what is issued, by the distances of both from the completions (R135). -/
theorem Env.swaitStop_eq (e : Env) (n : Nat) (c : BitVec 16) :
    e.swaitStop n c = if (e.iPrime n - e.t.dc.get n).toNat < (c - e.t.dc.get n).toNat ∧ (c - e.t.dc.get n).toNat ≤ 32768 then
      some (.fault ⟨0x0E, BitVec.ofNat 32 (n + 2 ^ 16 * (c - e.t.dc.get n).toNat), 0, e.slot, 0, 0⟩) else none := rfl

/-- A counter of 16 bits as su.srd lands it (R134). -/
theorem setWidth_counter (d : BitVec 16) : (d.setWidth 64).setWidth 128 = BitVec.ofNat 128 d.toNat := by simp

/-- Settles O20: su.srd lands a counter, and su.swait goes by the count's distance from the completions. -/
theorem suStreams : Obligations.SuStreams := by
  intro s i x h hq
  refine ⟨?_, ?_, ?_⟩
  · rintro sd str rfl
    show execSuSrd sd str .issued s = _
    unfold execSuSrd
    rw [runSu_lands h hq rfl rfl rfl, ← setWidth_counter]
    rfl
  · rintro sd str rfl
    show execSuSrd sd str .completed s = _
    unfold execSuSrd
    rw [runSu_lands h hq rfl rfl rfl, ← setWidth_counter]
    rfl
  · rintro str sb δ rfl hδ
    have hdist : (BitVec.ofNat 16 (x.e.su sb).toNat - x.e.t.dc.get str.toNat).toNat = δ := by rw [toNat_ofNat_sub, hδ]
    have hdone : waitDone (x.e.t.dc.get str.toNat) ((x.e.su sb).setWidth 16) = true ↔ δ = 0 ∨ 32769 ≤ δ := by
      rw [waitDone_iff, ← BitVec.ofNat_toNat, hdist]
    refine ⟨fun hover => ?_, fun hpos hle => ?_, fun e ht _ => ?_⟩
    · show execSuSwait str sb s = _
      unfold execSuSwait
      exact runScalar_done h hq (hdone.mpr hover)
    · show execSuSwait str sb s = _
      unfold execSuSwait
      refine runScalar_blocks h ?_
      rw [hq, Bool.true_and, Bool.eq_false_iff, Ne, hdone]
      omega
    · have hissued : (e.iPrime str.toNat - x.e.t.dc.get str.toNat).toNat =
          ((e.iPrime str.toNat).toNat + 2 ^ 16 - (x.e.t.dc.get str.toNat).toNat) % 2 ^ 16 := by
        rw [← toNat_ofNat_sub, BitVec.ofNat_toNat, BitVec.setWidth_eq]
      rw [Env.swaitStop_eq, ht, hdist, hissued]

/-! ## What waits for the word's whole commit, and the prefetch list (R143 to R149) -/

/-- An operation that leaves a record of itself for the whole commit. -/
theorem exec_keeps {i : Instr} {s : State} {x : Slot} {f : Env → Keep → Keep} (h : s.runningSlot i = some x)
    (hq : x.e.queueReady i = true) (hexec : exec i s = runSuTeam i s fun e t => t.keeping (f e)) :
    exec i s = .next (x.doneIn (x.keeps x.e.s (f x.e))) := by
  rw [hexec]
  exact runSuTeam_done h hq rfl

/-- The list of a su.dpf is ascending (R145). -/
theorem Team.dpfList_pairwise (t : Team) (p : Part) (a c : Nat) : (t.dpfList p a c).Pairwise (· < ·) := by
  unfold Team.dpfList
  exact (List.pairwise_lt_range.map (a + ·) fun _ _ h => Nat.add_lt_add_left h a).filter _

/-- The list of a su.dpf holds the indices of its range that lie within the window and are not resident (R145). -/
theorem Team.mem_dpfList (t : Team) (p : Part) (a c y : Nat) :
    y ∈ t.dpfList p a c ↔ a ≤ y ∧ y < a + Nat.min c (if t.tmode then 32 else 8 * dwinSize t.dwin) ∧
      y < (if t.tmode then p.sysWin else userWin t.dwin t.dbase).len ∧
      p.find (if t.tmode then p.sysWin else userWin t.dwin t.dbase) t.asid y = none := by
  have hrange (n : Nat) : y ∈ (List.range n).map (fun i => a + i) ↔ a ≤ y ∧ y < a + n := by
    simp only [List.mem_map, List.mem_range]
    exact ⟨fun ⟨i, hi, he⟩ => by omega, fun ⟨hlo, hhi⟩ => ⟨y - a, by omega, by omega⟩⟩
  unfold Team.dpfList
  simp only [List.mem_filter, hrange, Bool.and_eq_true, decide_eq_true_iff, Option.isNone_iff_eq_none, and_assoc, Nat.min_def]

/-- Settles O24: each operation keeps its record, and su.dpf its list. -/
theorem suSystem : Obligations.SuSystem := by
  intro s i x h hq
  refine ⟨?_, ?_, ?_, ?_, ?_, ?_⟩
  · rintro sa rfl
    exact exec_keeps h hq (by dsimp only [exec]; rfl)
  · rintro rfl
    exact exec_keeps h hq (by dsimp only [exec]; rfl)
  · rintro rfl
    exact exec_keeps h hq (by dsimp only [exec]; rfl)
  · rintro sa rfl
    rw [BitVec.ofNat_toNat]
    exact exec_keeps (f := fun e k => { k with hclr := (e.su sa).setWidth 5 }) h hq (by dsimp only [exec]; rfl)
  · rintro rfl
    exact exec_keeps h hq (by dsimp only [exec]; rfl)
  · rintro sa sb p rfl hp w n
    refine ⟨x.e.t.dpfList p (x.e.su sa).toNat (x.e.su sb).toNat, ?_, Team.dpfList_pairwise .., Team.mem_dpfList _ _ _ _⟩
    show execSuDpf sa sb s = _
    unfold execSuDpf
    refine runSuTeam_done h hq ?_
    rw [hp]

/-! ## Switch points (R138) -/

/-- A team may stop: its operations have completed and are performed at device scope, and its landings have their data (R138). -/
def Team.Settled (t : Team) : Prop := (∀ o ∈ t.ops, o.done = true ∧ o.performedAt .dev = true) ∧ ∀ l ∈ t.land, l.pend = none

theorem Team.settled_iff (t : Team) :
    ((t.ops.all fun o => o.done && o.performedAt .dev) && t.land.all fun l => l.pend.isNone) = true ↔ t.Settled := by
  simp [Team.Settled]

/-- The stopped teams of a block once a team has stopped at k. -/
def Block.stoppedAt (b : Block) (z : Nat) (k : Word) : List (Nat × Word) := (b.switches.filter fun y => y.1 != z) ++ [(z, k)]

theorem Block.stoppedAt_all_iff (b : Block) (z : Nat) (k : Word) :
    (b.teams.all fun y => (b.stoppedAt z k).any fun x => x.1 == y) = true ↔ ∀ y ∈ b.teams, y = z ∨ ∃ x ∈ b.switches, x.1 = y := by
  simp only [List.all_eq_true, List.any_eq_true, Block.stoppedAt, List.mem_append, List.mem_filter, List.mem_singleton, bne_iff_ne, beq_iff_eq]
  refine forall₂_congr fun y _ => ⟨?_, ?_⟩
  · rintro ⟨x, ⟨hx, -⟩ | rfl, rfl⟩
    · exact .inr ⟨x, hx, rfl⟩
    · exact .inl rfl
  · rintro (rfl | ⟨x, hx, rfl⟩)
    · exact ⟨_, .inr rfl, rfl⟩
    · by_cases hz : x.1 = z
      · exact ⟨_, .inr rfl, hz.symm⟩
      · exact ⟨x, .inl ⟨hx, hz⟩, rfl⟩

/-- A team drained and marked stopped at k (R138). -/
def State.stopAt (s : State) (z : Nat) (t : Team) (k : Word) : State :=
  (s.updTeam z Team.drained).updBlock t.blk fun b => { b with switches := b.stoppedAt z k }

section
variable {s : State} {z : Nat} {t : Team} {b : Block} {k : Word} (ht : s.teams.get? z = some t) (hb : s.blocks.get? t.blk = some b)
include ht hb

/-- One evaluation of su.swpt k, by what the block's teams have done (R138). -/
theorem State.swptStep_eq : s.swptStep z k =
    if !b.flagged || t.tmode || !s.switchAt b k.toNat then (s, true)
    else if b.switches.any fun x => x.1 != z && x.2 != k then (s.withdrawSwitch t.blk, true)
    else if (t.ops.all fun o => o.done && o.performedAt .dev) && t.land.all fun l => l.pend.isNone then
      if b.teams.all fun y => (b.stoppedAt z k).any fun x => x.1 == y then ((s.stopAt z t k).switchStop t.blk k.toNat, false)
      else (s.stopAt z t k, false)
    else (s, false) := by
  have hstop : (s.updTeam z Team.drained).updBlock t.blk (fun c => { c with switches := b.stoppedAt z k }) = s.stopAt z t k :=
    State.updBlock_congr (b := b) hb rfl
  unfold State.swptStep
  simp only [ht, hb, ← hstop]
  rfl

/-- No request applies: the slot passes. -/
theorem State.swptStep_passes (h : b.flagged = false ∨ t.tmode = true ∨ s.switchAt b k.toNat = false) : s.swptStep z k = (s, true) := by
  rw [State.swptStep_eq ht hb, if_pos]
  rcases h with h | h | h <;> simp [h]

variable (hf : b.flagged = true) (hu : t.tmode = false) (hk : s.switchAt b k.toNat = true)
include hf hu hk

/-- Another team has stopped at a different point: the request is withdrawn. -/
theorem State.swptStep_withdraws (h : ∃ y ∈ b.switches, y.1 ≠ z ∧ y.2 ≠ k) : s.swptStep z k = (s.withdrawSwitch t.blk, true) := by
  rw [State.swptStep_eq ht hb, if_neg (by simp [hf, hu, hk]), if_pos (by simpa using h)]

variable (hsame : ∀ y ∈ b.switches, y.1 ≠ z → y.2 = k)
include hsame

/-- The team waits for its operations and landings. -/
theorem State.swptStep_waits (h : ¬t.Settled) : s.swptStep z k = (s, false) := by
  rw [State.swptStep_eq ht hb, if_neg (by simp [hf, hu, hk]), if_neg (by simpa using hsame), if_neg (t.settled_iff.not.mpr h)]

/-- The team stops, and with it the block once all its teams have. -/
theorem State.swptStep_stops (h : t.Settled) : s.swptStep z k =
    if b.teams.all fun y => (b.stoppedAt z k).any fun x => x.1 == y then ((s.stopAt z t k).switchStop t.blk k.toNat, false)
    else (s.stopAt z t k, false) := by
  rw [State.swptStep_eq ht hb, if_neg (by simp [hf, hu, hk]), if_neg (by simpa using hsame), if_pos (t.settled_iff.mpr h)]

end

/-- su.swpt is one evaluation of the switch point's rule. -/
theorem exec_suSwpt {s : State} {sa : Sel} {x : Slot} (h : s.runningSlot (.suSwpt sa) = some x)
    (hq : x.e.queueReady (.suSwpt sa) = true) {u : State} {c : Bool} (hu : x.e.s.swptStep x.e.z (x.e.su sa) = (u, c)) :
    exec (.suSwpt sa) s = .next (u.setSt x.e.z x.k (if c then .done else .blocked)) := by
  show execSuSwpt sa s = _
  unfold execSuSwpt
  rw [runSlot_runs _ h, if_pos hq, hu]

/-- Settles O22: the branches of one evaluation. -/
theorem suSwitchPoint : Obligations.SuSwitchPoint := by
  intro s sa x h hq v b ready stopped
  have ht := State.runningSlot_team h
  have hb := State.runningSlot_block h
  refine ⟨fun hno => ?_, fun hf hu hk => ⟨fun hother => ?_, fun hsame => ⟨fun hr => ?_, fun hr => ?_⟩⟩⟩
  · exact exec_suSwpt h hq (State.swptStep_passes ht hb hno)
  · exact exec_suSwpt h hq (State.swptStep_withdraws ht hb hf hu hk hother)
  · exact exec_suSwpt h hq (State.swptStep_waits ht hb hf hu hk hsame hr)
  · have hstops := State.swptStep_stops ht hb hf hu hk hsame hr
    refine ⟨fun ⟨z, hz, hne, hno⟩ => ?_, fun hall => ?_⟩
    · refine exec_suSwpt h hq (c := false) (hstops.trans (if_neg ((b.stoppedAt_all_iff x.e.z v).not.mpr fun hall => ?_)))
      exact (hall z hz).elim hne fun ⟨y, hy, hyz⟩ => hno y hy hyz
    · exact exec_suSwpt h hq (c := false) (hstops.trans (if_pos ((b.stoppedAt_all_iff x.e.z v).mpr hall)))

end Sys2Proof.Machine
end

section
/-!
PROOF. su.nop: no check stops it, its encoding, and the held record it ends (R66, R87, R148).
-/
namespace Sys2Proof

/-! ## The encoding of su.nop (R61, R87) -/

/-- The SU layout has no bit outside its fields. -/
theorem SlotF.pack_unpack_su (x : SlotBits) : SlotF.pack .su (SlotF.unpack .su x) = x := by
  simp only [SlotF.pack, SlotF.unpack, BitVec.cast_eq, BitVec.setWidth_setWidth_of_le _ (show 17 ≤ 25 by decide), BitVec.setWidth_eq]
  iterate 10 rw [BitVec.extractLsb'_append_extractLsb'_eq_extractLsb' (by rfl)]
  exact BitVec.extractLsb'_eq_self

/-- An accepted slot field: its row gives the instruction, and what the row does not use is zero (R79). -/
theorem decodeSlot_eq_ok {k : Kind} {hold : Bool} {x : SlotBits} {i : Instr} (h : decodeSlot k hold x = .ok i) :
    (mapRow k (SlotF.unpack k x)).ins = some i ∧ (SlotF.unpack k x).rsv = 0 ∧
      ∀ g, g ∉ (mapRow k (SlotF.unpack k x)).used → (SlotF.unpack k x).isZero g = true := by
  simp only [decodeSlot] at h
  split at h
  case isTrue => cases h
  split at h
  case isTrue => cases h
  split at h
  case isTrue => cases h
  case isFalse hzero =>
    split at h
    case isTrue => cases h
    split at h
    case isTrue => cases h
    split at h
    case h_2 => cases h
    case h_1 j hj =>
      cases h
      simp only [Bool.or_eq_true, not_or, bne_iff_ne, not_not, List.any_eq_true, not_exists] at hzero
      obtain ⟨⟨hrsv, -⟩, hused⟩ := hzero
      refine ⟨hj, hrsv, fun g hg => ?_⟩
      have hall : g ∈ Fld.all := by cases g <;> decide
      simpa [hall, hg] using hused g

/-- The only row of SU that gives su.nop. -/
theorem op_of_suRow_suNop {f : SlotF} (h : (suRow f).ins = some .suNop) : f.op = 0 := by
  unfold suRow at h
  split at h
  case h_1 h0 => exact BitVec.eq_of_toNat_eq h0
  all_goals simp [row, noRow, Option.bind_eq_some_iff] at h

/-- A slot whose fields are all zero. -/
theorem SlotF.eq_zero {f : SlotF} (hop : f.op = 0) (hrsv : f.rsv = 0) (h : ∀ g, f.isZero g = true) : f = {} := by
  obtain ⟨op, d, a, b, c, code, csr, str, lv, df, mb, me, rm, ab, pm, scp, qh, acc, fa, fb, acb, rsv⟩ := f
  have hall : ∀ g ∈ Fld.all, _ := fun g _ => h g
  simp only [Fld.all, List.forall_mem_cons, SlotF.isZero, beq_iff_eq, Bool.not_eq_true', List.not_mem_nil, false_implies,
    implies_true, and_true] at hall
  simp_all only

theorem decodeSlot_eq_suNop_iff {b : SlotBits} {i : Instr} (h : decodeSlot .su false b = .ok i) : i = .suNop ↔ b = 0 := by
  constructor
  · rintro rfl
    obtain ⟨hins, hrsv, hzero⟩ := decodeSlot_eq_ok h
    have hop : (SlotF.unpack .su b).op = 0 := op_of_suRow_suNop hins
    have hrow : (suRow (SlotF.unpack .su b)).used = [] := by rw [suRow, hop]; rfl
    have hf : SlotF.unpack .su b = {} := SlotF.eq_zero hop hrsv fun g => hzero g (by rw [mapRow, hrow]; exact List.not_mem_nil)
    rw [← SlotF.pack_unpack_su b, hf]
    decide
  · rintro rfl
    have h0 : decodeSlot .su false 0 = .ok .suNop := by decide
    rw [h0] at h
    cases h
    rfl

end Sys2Proof

namespace Sys2Proof.Machine

/-! ## Held records after a word (R66) -/

theorem AL.get?_eq_none_iff {α : Type} {l : AL α} {k : Nat} : l.get? k = none ↔ ∀ e ∈ l, e.1 ≠ k := by
  induction l with
  | nil => simp
  | cons e r ih =>
    obtain ⟨j, v⟩ := e
    by_cases hj : j = k
    · simp [AL.get?, hj]
    · simp [AL.get?, hj, ih]

theorem AL.get?_filter_none {α : Type} {l : AL α} {k : Nat} (p : Nat × α → Bool) (h : l.get? k = none) : AL.get? (l.filter p) k = none :=
  AL.get?_eq_none_iff.mpr fun e he => AL.get?_eq_none_iff.mp h e (List.mem_filter.mp he).1

theorem AL.get?_del {α : Type} (l : AL α) (k : Nat) : (l.del k).get? k = none :=
  AL.get?_eq_none_iff.mpr fun _ he => by simpa using (List.mem_filter.mp he).2

/-- What one position of a word does to the held records (R66). -/
def holdOp (h : AL SlotBits) (x : Nat × SlotOp) : AL SlotBits :=
  if x.2.hold then h.put x.2.kind.enc.toNat x.2.bits else h.del x.2.kind.enc.toNat

theorem heldAfter_eq (held : AL SlotBits) (w : Word3) (c : BitVec 5) :
    heldAfter held w c = (w.ops.foldl holdOp held).filter fun x => !c.getLsbD (x.1 - 1) := rfl

theorem Kind.enc_toNat_inj {j k : Kind} (h : j.enc.toNat = k.enc.toNat) : j = k := by
  revert h
  cases j <;> cases k <;> decide

/-- An operation that is not held leaves its kind without a record. -/
theorem holdOp_same {h : AL SlotBits} {x : Nat × SlotOp} (hx : x.2.hold = false) : (holdOp h x).get? x.2.kind.enc.toNat = none := by
  rw [holdOp, hx]
  exact AL.get?_del ..

/-- A kind without a record has none after an operation that is not held, or of another kind. -/
theorem holdOp_none {h : AL SlotBits} {x : Nat × SlotOp} {k : Kind} (hx : x.2.kind = k → x.2.hold = false)
    (hk : h.get? k.enc.toNat = none) : (holdOp h x).get? k.enc.toNat = none := by
  unfold holdOp
  split
  case isTrue hh =>
    have hne : k.enc.toNat ≠ x.2.kind.enc.toNat := fun he => by simp [hx (Kind.enc_toNat_inj he).symm] at hh
    rwa [AL.get?_put_ne _ _ _ hne]
  case isFalse => exact AL.get?_filter_none _ hk

/-- A word with an operation of a kind, and none held of it, ends the record of that kind (R66). -/
theorem heldAfter_none {held : AL SlotBits} {w : Word3} {c : BitVec 5} {k : Kind} (hmem : ∃ x ∈ w.ops, x.2.kind = k)
    (hhold : ∀ x ∈ w.ops, x.2.kind = k → x.2.hold = false) : (heldAfter held w c).get? k.enc.toNat = none := by
  obtain ⟨x, hx, rfl⟩ := hmem
  obtain ⟨l, r, hlr⟩ := List.append_of_mem hx
  rw [heldAfter_eq]
  refine AL.get?_filter_none _ ?_
  rw [hlr, List.foldl_append, List.foldl_cons]
  have hr : ∀ y ∈ r, y.2.kind = x.2.kind → y.2.hold = false := fun y hy => hhold y (by simp [hlr, hy])
  exact List.foldlRecOn r holdOp (motive := fun h => h.get? x.2.kind.enc.toNat = none) (holdOp_same (hhold x hx rfl))
    fun h hh y hy => holdOp_none (hr y hy) hh

/-! ## su.nop (R148) -/

/-- No check stops su.nop. -/
theorem Env.slotStop_suNop (e : Env) (o : OpSt) (b : List (RFile × Nat)) (h : o.op.ins = .suNop) : e.slotStop o b = none := by
  have hpriv : e.privStop .suNop = none := ite_self _
  have hland : e.landStop o b = none := by rw [Env.landStop, h]; rfl
  rw [Env.slotStop, h]
  rw [hpriv, hland]
  rfl

/-- Settles O25: su.nop is a scalar operation without effect. -/
theorem suNop : Obligations.SuNop := by
  refine ⟨fun s x h => ?_, Env.slotStop_suNop, by decide, fun b i => decodeSlot_eq_suNop_iff, fun held w c k hk hnop henc => ?_⟩
  · show execSuNop s = _
    unfold execSuNop
    rw [runScalar_done h rfl rfl]
  · obtain ⟨x, hx, hxk⟩ := List.mem_map.mp hk
    refine heldAfter_none (k := .su) ⟨x, hx, congrArg Prod.snd hxk⟩ fun y hy hsu => ?_
    obtain ⟨-, -, -, hhold⟩ := (henc.1 y hy).1
    have hins : y.2.ins = .suNop := (hnop y hy).resolve_right (not_not.mpr hsu)
    rw [hins] at hhold
    exact Bool.eq_false_iff.mpr fun hh => nomatch hhold hh

end Sys2Proof.Machine
end

section
/-!
PROOF. The word's whole commit: the next word after a taken transfer, a loop end or neither, and the counts left (R125, R131).
-/
namespace Sys2Proof.Machine

/-! ## Loop ends (R131) -/

/-- The word at pc ends level 1, whose count is not 0. -/
def LoopRegs.ends1 (r : LoopRegs) (pc : Word) : Bool := pc == r.le1 && r.lc1 != 0

/-- The word at pc ends level 0, whose count is not 0. -/
def LoopRegs.ends0 (r : LoopRegs) (pc : Word) : Bool := pc == r.le0 && r.lc0 != 0

/-- The word at pc ends level 1, which goes round again. -/
def LoopRegs.again1 (r : LoopRegs) (pc : Word) : Bool := r.ends1 pc && r.lc1 != 1

theorem LoopRegs.ends1_iff {r : LoopRegs} {pc : Word} : r.ends1 pc = true ↔ pc = r.le1 ∧ r.lc1 ≠ 0 := by simp [LoopRegs.ends1]

theorem LoopRegs.ends0_iff {r : LoopRegs} {pc : Word} : r.ends0 pc = true ↔ pc = r.le0 ∧ r.lc0 ≠ 0 := by simp [LoopRegs.ends0]

theorem LoopRegs.again1_iff {r : LoopRegs} {pc : Word} : r.again1 pc = true ↔ (pc = r.le1 ∧ r.lc1 ≠ 0) ∧ r.lc1 ≠ 1 := by
  simp [LoopRegs.again1, LoopRegs.ends1]

/-- Counting down reaches 0 from 1 alone. -/
theorem sub_one_bne_zero (v : Word) : (v - 1 != 0) = (v != 1) := by
  have h : v - 1 = 0 ↔ v = 1 := by bv_omega
  rw [Bool.eq_iff_iff, bne_iff_ne, bne_iff_ne, Ne, Ne, h]

/-- What a loop end finds at level 1: the count is left above 0 when the level goes round again, and then alone. -/
theorem LoopRegs.again1_eq (r : LoopRegs) (pc : Word) :
    (r.ends1 pc && (if r.ends1 pc then r.lc1 - 1 else r.lc1) != 0) = r.again1 pc := by
  unfold LoopRegs.again1
  cases r.ends1 pc
  · rfl
  · exact sub_one_bne_zero _

/-- A loop end: the next parcel, and the counts of both levels (R131). -/
theorem loopEnd_eq (r : LoopRegs) (pc npc : Word) :
    (loopEnd r pc npc).1 = (if r.again1 pc then r.ls1 else if r.ends0 pc && r.lc0 != 1 then r.ls0 else npc) ∧
    (loopEnd r pc npc).2.1 = (if !r.again1 pc && r.ends0 pc then r.lc0 - 1 else r.lc0) ∧
    (loopEnd r pc npc).2.2.1 = (if r.ends1 pc then r.lc1 - 1 else r.lc1) := by
  have h1 : (pc == r.le1 && r.lc1 != 0) = r.ends1 pc := rfl
  have h0 : (pc == r.le0 && r.lc0 != 0) = r.ends0 pc := rfl
  simp only [loopEnd, h1, h0, LoopRegs.again1_eq, sub_one_bne_zero]
  cases r.again1 pc with
  | true => exact ⟨rfl, rfl, rfl⟩
  | false =>
    cases r.ends0 pc with
    | false => exact ⟨rfl, rfl, rfl⟩
    | true => cases r.lc0 != 1 <;> exact ⟨rfl, rfl, rfl⟩

/-! ## The commit of a word (R125) -/

/-- A count that is counted down is not what it was. -/
theorem ite_sub_one_eq (c : Bool) (v w : Word) :
    (if (if c then v - 1 else v) == v then w else if c then v - 1 else v) = if c then v - 1 else w := by
  cases c <;> simp

/-- The counts after a word: those a loop end leaves, but of a level that the word writes (R131). -/
theorem Team.loopAfter_eq (t : Team) (k : Keep) (pc npc : Word) :
    (t.loopAfter k pc npc).lc0 = (if !k.lcw0 && (!k.snap.again1 pc && k.snap.ends0 pc) then k.snap.lc0 - 1 else t.loop.lc0) ∧
    (t.loopAfter k pc npc).lc1 = (if !k.lcw1 && k.snap.ends1 pc then k.snap.lc1 - 1 else t.loop.lc1) := by
  obtain ⟨-, h0, h1⟩ := loopEnd_eq k.snap pc npc
  simp only [Team.loopAfter, h0, h1]
  constructor
  · cases k.lcw0
    · simp only [Bool.false_or, ite_sub_one_eq, Bool.not_false, Bool.true_and]
    · rfl
  · cases k.lcw1
    · simp only [Bool.false_or, ite_sub_one_eq, Bool.not_false, Bool.true_and]
    · rfl

/-- A team after a word that wholly commits and does not return: at the target taken or the next parcel, with the loop registers that its
loop end leaves, before what is due lands (R66, R125, R131). -/
def Team.committed (t : Team) (c : Ctx) (k : Keep) : Team :=
  let next := k.taken.getD (loopEnd k.snap c.pc c.npc).1
  { t with
    ctx := none, keep := none, done := 0, occ := 0, part2 := false, resumePass := 0, zeroTrip := none, pc := next, probes := [], landed := 0,
    loop := if k.taken.isSome then t.loop else t.loopAfter k c.pc c.npc, held := heldAfter t.held c.word k.hclr, tc := t.tc + 1,
    land := t.land.map fun l => { l with key := none }, tcyc := if !t.tmode then t.tcyc + 1 else t.tcyc,
    crc := if !t.tmode && (k.taken.isSome || next != c.npc) then crc32 t.crc (leBytes 8 next) else t.crc }

theorem State.reg_updTeam (s : State) (z off : Nat) (f : Team → Team) : (s.updTeam z f).reg off = s.reg off := rfl

section
variable {s : State} {z : Nat} {t : Team} {c : Ctx} {k : Keep} (ht : s.teams.get? z = some t) (hc : t.ctx = some c) (hk : t.keep = some k)
  (hfin : k.fin = false) (heret : k.eret = false) (htrap : k.trap = none) (hdinv : k.dinv = false) (hstep : t.stepping = none)
  (hdbg : (s.reg (tdbgOff z)).getLsbD 1 = false)
include ht hc hk hfin heret htrap hdinv hstep hdbg

/-- A word that neither ends its team nor returns, traps or invalidates, on a team not stepped and without snapshots, commits its team and
may leave a single step pending. -/
theorem State.commitWord_eq : s.commitWord z =
    if !t.tmode && (s.reg (tdbgOff z)).getLsbD 0 then
      (s.updTeam z fun _ => (t.committed c k).landDue).updTeam z fun t => t.pendCause .singleStep
    else s.updTeam z fun _ => (t.committed c k).landDue := by
  unfold State.commitWord Team.committed
  simp only [ht, hc, hk, hfin, heret, htrap, hdinv, hstep, hdbg, State.reg_updTeam, Bool.or_false, Bool.and_false, Bool.false_eq_true,
    if_false, Option.isSome_none]
  cases (loopEnd k.snap c.pc c.npc).2.2.2 <;> rfl

/-- With nothing in flight, the team that the commit leaves. -/
theorem State.commitWord_team (hland : t.land = []) : ∃ t', (s.commitWord z).teams.get? z = some t' ∧ t'.ctx = none ∧ t'.tc = t.tc + 1 ∧
    t'.pc = k.taken.getD (loopEnd k.snap c.pc c.npc).1 ∧
    t'.loop = (if k.taken.isSome then t.loop else t.loopAfter k c.pc c.npc) := by
  have hempty : (t.committed c k).land = [] := by rw [Team.committed, hland]; rfl
  have hget (u : Team) : (s.updTeam z fun _ => u).teams.get? z = some u := by rw [State.updTeam_same, ht]; rfl
  rw [State.commitWord_eq ht hc hk hfin heret htrap hdinv hstep hdbg, Team.landDue_empty hempty]
  split
  · rw [State.updTeam_updTeam, hget]
    unfold Team.pendCause
    split <;> exact ⟨_, rfl, rfl, rfl, rfl, rfl⟩
  · exact ⟨_, hget _, rfl, rfl, rfl, rfl⟩

end

/-- Settles O27: the parcel and the counts of the loop end, case by case. -/
theorem nextWord : Obligations.NextWord := by
  intro s z t c k ht hc hk hfin heret htrap hdinv hstep hland hdbg
  obtain ⟨t', ht', hctx, htc, hpc, hloop⟩ := State.commitWord_team ht hc hk hfin heret htrap hdinv hstep hdbg hland
  refine ⟨t', ht', hctx, htc, ?_⟩
  intro r in1 in0
  refine ⟨fun a ha => ?_, fun hnone => ?_⟩
  · rw [hpc, hloop, ha]
    exact ⟨rfl, rfl⟩
  · have h1 : r.ends1 c.pc = true ↔ in1 := LoopRegs.ends1_iff
    have h0 : r.ends0 c.pc = true ↔ in0 := LoopRegs.ends0_iff
    have ha : r.again1 c.pc = true ↔ in1 ∧ r.lc1 ≠ 1 := LoopRegs.again1_iff
    have hpc : t'.pc = if r.again1 c.pc then r.ls1 else if r.ends0 c.pc && r.lc0 != 1 then r.ls0 else c.npc :=
      hpc.trans (by rw [hnone]; exact (loopEnd_eq ..).1)
    have hloop : t'.loop = t.loopAfter k c.pc c.npc := hloop.trans (by rw [hnone]; rfl)
    have hlc0 : t'.loop.lc0 = if !k.lcw0 && (!r.again1 c.pc && r.ends0 c.pc) then r.lc0 - 1 else t.loop.lc0 :=
      (congrArg LoopRegs.lc0 hloop).trans (t.loopAfter_eq k c.pc c.npc).1
    have hlc1 : t'.loop.lc1 = if !k.lcw1 && r.ends1 c.pc then r.lc1 - 1 else t.loop.lc1 :=
      (congrArg LoopRegs.lc1 hloop).trans (t.loopAfter_eq k c.pc c.npc).2
    have hnot (hno : ¬(in1 ∧ r.lc1 ≠ 1)) : r.again1 c.pc = false := Bool.eq_false_iff.mpr (ha.not.mpr hno)
    refine ⟨fun h => ?_, fun hno h => ?_, fun hno h => ?_, fun hno h => ?_, fun h hw => ?_, fun h => ?_, fun hw => ?_, fun hw => ?_⟩
    · rw [ha.mpr h] at hpc hlc0
      rw [h1.mpr h.1] at hlc1
      exact ⟨hpc, fun hw => by simpa [hw] using hlc1, by simpa using hlc0⟩
    · rw [hnot hno, h0.mpr h.1] at hpc hlc0
      rw [bne_iff_ne.mpr h.2] at hpc
      exact ⟨hpc, fun hw => by simpa [hw] using hlc0⟩
    · rw [hnot hno, h0.mpr h.1] at hpc hlc0
      exact ⟨by simpa [h.2] using hpc, fun hw => by simpa [hw, h.2] using hlc0⟩
    · rw [hnot hno, Bool.eq_false_iff.mpr (h0.not.mpr h)] at hpc hlc0
      exact ⟨hpc, by simpa using hlc0⟩
    · simpa [h1.mpr h.1, hw, h.2] using hlc1
    · simpa [Bool.eq_false_iff.mpr (h1.not.mpr h)] using hlc1
    · simpa [hw] using hlc1
    · simpa [hw] using hlc0

end Sys2Proof.Machine
end

section
/-!
PROOF. The lanes that a mask enables, and the lane operations of VB: in-pass permutes, reductions, scans and equal-value masks (R17, R18,
R173 to R175).
-/
namespace Sys2Proof.Machine

/-! ## Enabled lanes (R17, R18) -/

theorem mem_lanesIn {t : Team} {m : Mask} {p l : Nat} : l ∈ lanesIn t m p ↔ l / 32 = p ∧ enabled t m l = true := by
  simp only [lanesIn, List.mem_filter, List.mem_map, List.mem_range, and_congr_left_iff]
  refine fun _ => ⟨?_, fun h => ⟨l % 32, Nat.mod_lt _ (by decide), by omega⟩⟩
  rintro ⟨i, hi, rfl⟩
  omega

theorem lanesIn_of_maskWord_zero {t : Team} {m : Mask} {p : Nat} (h : maskWord t m p = 0) : lanesIn t m p = [] := by
  refine List.eq_nil_iff_forall_not_mem.mpr fun l hl => ?_
  obtain ⟨rfl, hon⟩ := mem_lanesIn.mp hl
  simp [enabled, h] at hon

/-- The lanes of the first n passes. -/
theorem flatMap_lanesIn_range (t : Team) (m : Mask) (n : Nat) :
    (List.range n).flatMap (lanesIn t m) = (List.range (32 * n)).filter (enabled t m) := by
  induction n with
  | zero => rfl
  | succ n ih =>
    rw [List.range_succ, List.flatMap_append, ih, Nat.mul_succ, List.range_add, List.filter_append, List.flatMap_singleton]
    rfl

/-- The lanes of all passes are the enabled ones below the team's width, in their order. -/
theorem lanesAll_eq_filter (t : Team) (m : Mask) : lanesAll t m = (List.range t.width).filter (enabled t m) := by
  rw [show t.width = 32 * t.passes from rfl, ← flatMap_lanesIn_range, lanesAll, livePasses]
  induction List.range t.passes with
  | nil => rfl
  | cons p r ih =>
    rcases eq_or_ne (maskWord t m p) 0 with h | h
    · rw [List.filter_cons_of_neg (by simp [h]), ih, List.flatMap_cons, lanesIn_of_maskWord_zero h, List.nil_append]
    · rw [List.filter_cons_of_pos (by simpa using h), List.flatMap_cons, ih, List.flatMap_cons]

theorem mem_lanesAll {t : Team} {m : Mask} {l : Nat} : l ∈ lanesAll t m ↔ l < t.width ∧ enabled t m l = true := by
  simp [lanesAll_eq_filter]

/-- A word made of one bit for each member of a list. -/
theorem getLsbD_foldl_or_bit {w : Nat} (k : Nat → Nat) (L : List Nat) (m : BitVec w) {j : Nat} (hj : j < w) :
    (L.foldl (fun m l => m ||| 1#w <<< k l) m).getLsbD j = true ↔ m.getLsbD j = true ∨ ∃ l ∈ L, k l = j := by
  induction L generalizing m with
  | nil => simp
  | cons l r ih =>
    have hbit : (1#w <<< k l).getLsbD j = decide (k l = j) := by
      rw [← BitVec.twoPow_eq, BitVec.getLsbD_twoPow]
      rcases eq_or_ne (k l) j with h | h
      · simp [h, hj]
      · simp [h]
    simp only [List.foldl_cons, ih, BitVec.getLsbD_or, hbit, Bool.or_eq_true, decide_eq_true_eq, List.exists_mem_cons_iff, or_assoc]

/-! ## Reductions (R174) -/

theorem foldl_add_eq_sum (a : Lane) (l : List Lane) : l.foldl (· + ·) a = BitVec.ofNat 32 (a.toNat + (l.map BitVec.toNat).sum) := by
  induction l generalizing a with
  | nil => simp
  | cons b r ih =>
    rw [List.foldl_cons, ih, List.map_cons, List.sum_cons, ← Nat.add_assoc, BitVec.ofNat_add, BitVec.ofNat_add, BitVec.ofNat_toNat,
      BitVec.setWidth_eq, BitVec.ofNat_add, BitVec.ofNat_toNat, BitVec.ofNat_toNat, BitVec.setWidth_eq, BitVec.setWidth_eq]

/-- A fold that begins with the first member is one over all members from a start that this member absorbs. -/
theorem foldl_eq_foldl_cons {f g : Lane → Lane → Lane} {u a : Lane} (r : List Lane) (hfg : ∀ x y, f x y = g x y) (hu : g u a = a) :
    r.foldl f a = (a :: r).foldl g u := by
  rw [List.foldl_cons, hu, show f = g from funext₂ hfg]

/-- A function over the lanes of a list that has one. -/
theorem redOver_eq_rule (f : RedFn) {l : List Lane} (h : l ≠ []) : redOver f l = Rule.red f l := by
  obtain ⟨a, r, rfl⟩ := List.exists_cons_of_ne_nil h
  cases f with
  | add => exact foldl_add_eq_sum a r
  | min => exact foldl_eq_foldl_cons r minS_eq_rule (ite_self a)
  | max => exact foldl_eq_foldl_cons r maxS_eq_rule (ite_self a)
  | minu => exact foldl_eq_foldl_cons r minU_eq_rule (ite_self a)
  | maxu => exact foldl_eq_foldl_cons r maxU_eq_rule (ite_self a)
  | and => exact foldl_eq_foldl_cons r (fun _ _ => rfl) BitVec.allOnes_and
  | or => exact foldl_eq_foldl_cons r (fun _ _ => rfl) BitVec.zero_or
  | xor => exact foldl_eq_foldl_cons r (fun _ _ => rfl) BitVec.zero_xor

/-! ## What the lane operations land (R173 to R175) -/

/-- An instruction lands value f ℓ with poison q ℓ of each enabled lane of VB, 3 team-cycles after its word's. -/
def GatherLands (e : Env) (i : Instr) (vd : BitVec 6) (f : Nat → Lane) (q : Nat → Bool) : Prop :=
  ∃ (g : Env → Nat → Lane) (r : Env → Nat → Bool), (∀ s, exec i s = runGather i vd s g r) ∧
    (∀ p, ∀ l ∈ lanesIn e.t i.maskOf p, g e l = f l ∧ r e l = q l) ∧
    i.result = some (.vb, 3) ∧ i.pairDest = false ∧ i.isBallot = false

/-- The lanes of one pass land without a flag. -/
theorem State.landLanes_noFlag {x : Slot} {i : Instr} {k : Kind} {fl : RFile} {reg lat p : Nat} {pair : Bool} {v : Nat → BitVec 128}
    {q : Nat → Bool} (hr : i.result = some (fl, lat)) (hp : i.pairDest = pair) (hb : i.isBallot = false) :
    x.e.s.landLanes x.e i k reg ((lanesIn x.e.t i.maskOf p).map fun l => ⟨l, v l, q l⟩) 0 =
      x.landsPass i k fl reg lat pair p v (fun _ => 0) q := by
  simp [State.landLanes, State.land, Env.landing, Slot.landsPass, Instr.qx, hr, hp, hb]

/-- Each pass lands its lanes; without a pass the landing is empty. -/
theorem GatherLands.exec_next {s : State} {x : Slot} {i : Instr} {vd : BitVec 6} {f : Nat → Lane} {q : Nat → Bool}
    (hrow : GatherLands x.e i vd f q) (h : s.runningSlot i = some x) (p : Nat) :
    (x.inPass i p → exec i s = .next (x.afterPass i p
      (x.landsPass i .vb .vb vd.toNat 3 false p (fun l => (f l).setWidth 128) (fun _ => 0) q))) ∧
    (x.noPass i → exec i s = .next (x.doneIn (x.landsNone i .vb .vb vd.toNat 3 false))) := by
  obtain ⟨g, r, hexec, hval, hr, hp, hb⟩ := hrow
  refine ⟨fun hin => ?_, fun hno => ?_⟩
  · obtain ⟨-, hmem, -⟩ := id hin
    have hne : (x.e.runPasses i).isEmpty = false := List.isEmpty_eq_false_iff.mpr (List.ne_nil_of_mem hmem)
    have hvals : (lanesIn x.e.t i.maskOf p).map (fun l => (⟨l, (g x.e l).setWidth 128, r x.e l⟩ : LaneVal)) =
        (lanesIn x.e.t i.maskOf p).map fun l => ⟨l, (f l).setWidth 128, q l⟩ := by
      refine List.map_congr_left fun l hl => ?_
      obtain ⟨hg, hq⟩ := hval p l hl
      rw [hg, hq]
    rw [hexec, runGather, runLanes_pass h hin fun _ => rfl, hvals, State.landLanes_noFlag hr hp hb]
    simp only [hne, Bool.false_eq_true, if_false, Slot.afterPass, Slot.doneIn]
    cases x.last i p <;> rfl
  · obtain ⟨-, -, hnil, -⟩ := id hno
    have hempty : (x.e.runPasses i).isEmpty = true := List.isEmpty_iff.mpr hnil
    rw [hexec, runGather, runLanes_empty h hno rfl, if_pos hempty, State.landLanes_none hr hp hb]

/-- An in-pass permute lands A of the lane that permLane names. -/
theorem GatherLands.of_runPerm {e : Env} {i : Instr} {vd : BitVec 6} {oa ob : Sel} {src : Nat → Nat}
    (hexec : ∀ s, exec i s = runPerm i vd oa ob s) (hsrc : ∀ l, permLane i l (e.lane .vb ob l) = src l)
    (hr : i.result = some (.vb, 3)) (hp : i.pairDest = false) (hb : i.isBallot = false) :
    GatherLands e i vd (fun l => e.lane .vb oa (src l)) fun l => e.laneP ob l || e.laneP oa (src l) :=
  ⟨_, _, hexec, fun _ l _ => by simp only [Env.vb, hsrc l, and_self], hr, hp, hb⟩

/-- The lanes of its own pass that a lane is compared with. -/
theorem matchBits_eq {e : Env} {mk : Mask} {oa : Sel} {l : Nat} {v : Lane} (h : ∀ j, j < 32 → (v.getLsbD j = true ↔
      enabled e.t mk (32 * (l / 32) + j) = true ∧ e.lane .vb oa (32 * (l / 32) + j) = e.lane .vb oa l)) :
    ((lanesIn e.t mk (l / 32)).filter fun j => e.lane .vb oa j == e.lane .vb oa l).foldl (fun m j => m ||| 1#32 <<< (j % 32)) 0 = v := by
  refine BitVec.eq_of_getLsbD_eq fun j hj => Bool.eq_iff_iff.mpr ?_
  rw [getLsbD_foldl_or_bit _ _ _ hj, h j hj]
  simp only [BitVec.ofNat_eq_ofNat, BitVec.getLsbD_zero, Bool.false_eq_true, false_or, List.mem_filter, mem_lanesIn, beq_iff_eq]
  constructor
  · rintro ⟨y, ⟨⟨hp, hon⟩, heq⟩, hy⟩
    obtain rfl : y = 32 * (l / 32) + j := by omega
    exact ⟨hon, heq⟩
  · rintro ⟨hon, heq⟩
    exact ⟨_, ⟨⟨by omega, hon⟩, heq⟩, by omega⟩

/-- The mask of a reduction is its mask field, and so is that of a scan. -/
theorem maskOf_vbRed (mk : Mask) (f : RedFn) (vd : BitVec 6) (oa : Sel) : (Instr.vbRed mk f vd oa).maskOf = mk := by cases mk <;> rfl

theorem maskOf_vbScan (mk : Mask) (f : RedFn) (vd : BitVec 6) (oa : Sel) : (Instr.vbScan mk f vd oa).maskOf = mk := by cases mk <;> rfl

/-- Each row of R173 to R175 is what exec lands: an enabled lane is one of the lanes that its own reduction or scan is formed of. -/
theorem GatherRow.gatherLands {e : Env} {i : Instr} {vd : BitVec 6} {f : Nat → Lane} {q : Nat → Bool} (h : GatherRow e i vd f q) :
    GatherLands e i vd f q := by
  cases h with
  | perm mk _ oa ob src hsrc | shfl mk _ oa ob src hsrc | rot mk _ oa ob src hsrc | bcl mk _ oa ob src hsrc =>
    exact .of_runPerm (fun _ => rfl) (fun l => by rw [hsrc, Nat.mul_comm 32]; rfl) rfl rfl rfl
  | red mk f _ oa =>
    refine ⟨_, _, fun _ => rfl, fun p l hl => ⟨redOver_eq_rule f ?_, rfl⟩, rfl, rfl, rfl⟩
    rw [maskOf_vbRed, mem_lanesIn] at hl
    exact List.ne_nil_of_mem (List.mem_map_of_mem (mem_lanesIn.mpr ⟨rfl, hl.2⟩))
  | scan mk f _ oa =>
    refine ⟨_, _, fun _ => rfl, fun p l hl => ⟨redOver_eq_rule f ?_, rfl⟩, rfl, rfl, rfl⟩
    rw [maskOf_vbScan, mem_lanesIn] at hl
    exact List.ne_nil_of_mem (List.mem_map_of_mem (List.mem_filter.mpr ⟨mem_lanesIn.mpr ⟨rfl, hl.2⟩, decide_eq_true le_rfl⟩))
  | matchEq mk _ oa f hf => exact ⟨_, _, fun _ => rfl, fun p l _ => ⟨matchBits_eq (hf l), rfl⟩, rfl, rfl, rfl⟩

/-- Settles O31: every row lands one value per enabled lane, with the poison of the lanes it was formed from. -/
theorem vectorGathers : Obligations.VectorGathers :=
  fun _ _ _ _ _ _ p h hrow => hrow.gatherLands.exec_next h p

end Sys2Proof.Machine
end

section
/-!
PROOF. The transfers between files: what a copy lands, and what a transfer to S lands in its last clock (R176).
-/
namespace Sys2Proof.Machine

/-! ## The form of a transfer -/

/-- What the transfers of VA and VB share: their form, file, mask and result. -/
structure XferOp (i : Instr) (k : Kind) (own : RFile) (mk : Mask) (xf : XferForm) (df : RFile) (vd : BitVec 6) (oa : Sel) : Prop where
  exec_eq : ∀ s, exec i s = runXfer i k xf vd oa s
  ownFile_eq : i.ownFile = own
  maskOf_eq : i.maskOf = mk
  result_eq : i.result = some (df, 2)
  pairDest_eq : i.pairDest = false
  isBallot_eq : i.isBallot = (xf == .ballot)
  toS_of_ne_copy : xf ≠ .copy → df = .s

theorem XferForm.dest_of_ok {own df : RFile} {xf : XferForm} (h : xf.ok own df = true) (hne : xf ≠ .copy) : df = .s := by
  cases xf with
  | copy => exact absurd rfl hne
  | first | ballot => exact beq_iff_eq.mp h
  | first64 => exact beq_iff_eq.mp ((Bool.and_eq_true _ _).mp h).1

theorem XferOp.of_wf {i : Instr} {k : Kind} {own : RFile} {mk : Mask} {xf : XferForm} {df : RFile} {vd : BitVec 6} {oa : Sel}
    (h : (i = .vaXfer mk xf df vd oa ∧ k = .va ∧ own = .va) ∨ (i = .vbXfer mk xf df vd oa ∧ k = .vb ∧ own = .vb))
    (hwf : i.wf = true) : XferOp i k own mk xf df vd oa := by
  rcases h with ⟨rfl, rfl, rfl⟩ | ⟨rfl, rfl, rfl⟩
  · have hok : xf.ok .va df = true := by
      simp only [Instr.wf, Bool.and_eq_true] at hwf
      obtain ⟨⟨hok, -⟩, -⟩ := hwf
      exact hok
    exact ⟨fun _ => rfl, rfl, by cases mk <;> rfl, rfl, rfl, by cases xf <;> rfl, XferForm.dest_of_ok hok⟩
  · have hok : xf.ok .vb df = true := by
      simp only [Instr.wf, Bool.and_eq_true] at hwf
      obtain ⟨⟨-, hok⟩, -⟩ := hwf
      exact hok
    exact ⟨fun _ => rfl, rfl, by cases mk <;> rfl, rfl, rfl, by cases xf <;> rfl, XferForm.dest_of_ok hok⟩

/-! ## What a transfer to S is formed of -/

/-- The first of the enabled lanes is the lowest. -/
theorem Env.firstLane_head (e : Env) (mk : Mask) (f : Nat → BitVec 128) :
    e.FirstLane mk f (((lanesAll e.t mk).head?.map f).getD 0) := by
  rw [lanesAll_eq_filter, List.head?_filter]
  cases h : (List.range e.t.width).find? (enabled e.t mk) with
  | none =>
    rw [List.find?_range_eq_none] at h
    exact .inr ⟨fun l hl => by simpa using h l hl, rfl⟩
  | some l =>
    obtain ⟨hon, hl, hlow⟩ := List.find?_range_eq_some.mp h
    exact .inl ⟨l, List.mem_range.mp hl, hon, fun j hj => by simpa using hlow j hj, rfl⟩

/-- Bit j of mask word n is that of lane 64n + j. -/
theorem getLsbD_ballotWords (t : Team) (mk : Mask) (f : Nat → Lane) (n : Nat) {j : Nat} (hj : j < 64) :
    ((ballotWords t (lanesAll t mk) f).getD n 0).getLsbD j = true ↔
      64 * n + j < 32 * 2 ^ t.wlog ∧ enabled t mk (64 * n + j) = true ∧ f (64 * n + j) ≠ 0 := by
  have hpass : t.passes = 2 ^ t.wlog := rfl
  have hwidth : t.width = 32 * 2 ^ t.wlog := rfl
  rw [ballotWords, List.getD_eq_getElem?_getD, List.getElem?_map]
  rcases Nat.lt_or_ge n ((t.passes + 1) / 2) with hn | hn
  · rw [List.getElem?_range hn, Option.map_some, Option.getD_some, getLsbD_foldl_or_bit _ _ _ hj]
    simp only [BitVec.ofNat_eq_ofNat, BitVec.getLsbD_zero, Bool.false_eq_true, false_or, List.mem_filter, mem_lanesAll, Bool.and_eq_true,
      beq_iff_eq, bne_iff_ne, hwidth]
    constructor
    · rintro ⟨l, ⟨⟨hl, hon⟩, hw, hv⟩, hbit⟩
      obtain rfl : l = 64 * n + j := by omega
      exact ⟨hl, hon, hv⟩
    · rintro ⟨hl, hon, hv⟩
      exact ⟨_, ⟨⟨hl, hon⟩, by omega, hv⟩, by omega⟩
  · rw [List.getElem?_eq_none (by simpa using hn)]
    refine iff_of_false (by simp) fun h => ?_
    omega

section
variable {s : State} {x : Slot} {i : Instr} {k : Kind} {own : RFile} {mk : Mask} {xf : XferForm} {df : RFile} {vd : BitVec 6} {oa : Sel}
  (hop : XferOp i k own mk xf df vd oa)
include hop

/-- A transfer to S takes effect only at its commit. -/
theorem XferOp.exec_toS (hne : xf ≠ .copy) (s : State) :
    exec i s = runLanes i s (fun _ => true) (fun _ _ s => s) fun e s => e.toS i k xf vd oa s := by
  rw [hop.exec_eq]
  cases xf with
  | copy => exact absurd rfl hne
  | first | first64 | ballot => rfl

theorem XferOp.result_toS (hne : xf ≠ .copy) : i.result = some (.s, 2) := by rw [hop.result_eq, hop.toS_of_ne_copy hne]

/-- A copy lands each enabled lane. -/
theorem XferOp.lanesRow_copy (e : Env) (hxf : xf = .copy) :
    LanesRow e i k df vd 2 false (fun l => (e.lane own oa l).setWidth 128) fun _ => 0 := by
  subst hxf
  exact .of_runInt (fun s => hop.exec_eq s) (fun l => by rw [hop.ownFile_eq]) hop.result_eq hop.pairDest_eq hop.isBallot_eq

theorem XferOp.toS_first (hxf : xf = .first) : ∃ v q, x.e.FirstLane mk (fun l => (x.e.lane own oa l).setWidth 128) v ∧
    x.e.toS i k xf vd oa x.e.s = x.lands i k .s vd.toNat 2 v q := by
  subst hxf
  refine ⟨_, (lanesAll x.e.t mk).take 1 |>.any fun l => x.e.laneP oa l, x.e.firstLane_head mk _, ?_⟩
  rw [Env.toS, hop.maskOf_eq, hop.ownFile_eq]
  exact State.landScalar_eq (hop.result_toS (by decide)) hop.pairDest_eq hop.isBallot_eq

theorem XferOp.toS_first64 (hxf : xf = .first64) : ∃ v, x.e.FirstLane mk (fun l => (x.e.pair oa l).setWidth 128) v ∧
    x.e.toS i k xf vd oa x.e.s = x.lands i k .s vd.toNat 2 v false := by
  subst hxf
  refine ⟨_, x.e.firstLane_head mk _, ?_⟩
  rw [Env.toS, hop.maskOf_eq]
  exact State.landScalar_eq (hop.result_toS (by decide)) hop.pairDest_eq hop.isBallot_eq

theorem XferOp.toS_ballot (hxf : xf = .ballot) : ∃ (w : Nat → Word) (q : Bool),
    (∀ n j, j < 64 → ((w n).getLsbD j = true ↔
      64 * n + j < 32 * 2 ^ x.e.t.wlog ∧ enabled x.e.t mk (64 * n + j) = true ∧ x.e.lane own oa (64 * n + j) ≠ 0)) ∧
    x.e.toS i k xf vd oa x.e.s = x.e.s.updTeam x.e.z fun t => t.addLanding
      { due := x.e.c.t + 2 + (if i.readsQueue then 3 else 0), file := .s, reg := vd.toNat, pair := false, bal := true,
        vals := (List.range ((2 ^ x.e.t.wlog + 1) / 2)).map fun n => ⟨n, (w n).setWidth 128, q⟩, flags := 0, pend := none,
        lanes := [], key := some (landKey x.e.slot k) } := by
  subst hxf
  refine ⟨fun n => (ballotWords x.e.t (lanesAll x.e.t mk) (x.e.lane own oa)).getD n 0,
    (lanesAll x.e.t mk).any fun l => x.e.laneP oa l,
    fun n j hj => getLsbD_ballotWords x.e.t mk _ n hj, ?_⟩
  have hlen : (ballotWords x.e.t (lanesAll x.e.t mk) (x.e.lane own oa)).length = (2 ^ x.e.t.wlog + 1) / 2 := by
    rw [ballotWords, List.length_map, List.length_range]
    rfl
  have hbal : i.isBallot = true := hop.isBallot_eq
  simp only [Env.toS, hop.maskOf_eq, hop.ownFile_eq, hlen, State.landLanes, hop.result_toS (by decide), State.land, Env.landing, Instr.qx,
    hop.pairDest_eq, hbal]

end

/-- Settles O32: a copy lands lanes, and a transfer to S lands its value or its words in its last clock. -/
theorem vectorTransfers : Obligations.VectorTransfers := by
  intro s i x k own mk xf df vd oa p hi hwf h
  have hop := XferOp.of_wf hi hwf
  have hlast (hne : xf ≠ .copy) (hl : x.lastClock i) : exec i s = .next (x.doneIn (x.e.toS i k xf vd oa x.e.s)) := by
    rw [hop.exec_toS hne, runLanes_last h hl fun _ => rfl]
  refine ⟨fun hxf => (hop.lanesRow_copy x.e hxf).exec_next h p, fun hne hin hl => ?_, fun hxf hl => ?_, fun hxf hl => ?_,
    fun hxf hl => ?_⟩
  · rw [hop.exec_toS hne, runLanes_pass h hin fun _ => rfl, hl]
    rfl
  · obtain ⟨v, q, hv, hto⟩ := hop.toS_first hxf
    exact ⟨v, q, hv, by rw [hlast (by rw [hxf]; decide) hl, hto]⟩
  · obtain ⟨v, hv, hto⟩ := hop.toS_first64 hxf
    exact ⟨v, hv, by rw [hlast (by rw [hxf]; decide) hl, hto]⟩
  · obtain ⟨w, q, hw, hto⟩ := hop.toS_ballot hxf
    exact ⟨w, q, hw, by rw [hlast (by rw [hxf]; decide) hl, hto]⟩

end Sys2Proof.Machine
end

section
/-!
PROOF. FP32 patterns in the order of their values: the pattern after input flush, and its place (R98, R110, R160).
-/
namespace Sys2Proof.Machine

/-! ## Input flush of a pattern (R110) -/

/-- The pattern of an operand after input flush: a subnormal one becomes the zero of its sign. -/
def readBits (md : Modes) (a : Lane) : Lane :=
  if md.if32 = true ∧ a.toNat % 2 ^ 31 < 2 ^ 23 then a &&& 0x80000000#32 else a

/-- Without input flush an operand is read as it stands. -/
theorem read_unflushed {md : Modes} (h : md.if32 = false) (b : Nat) : fp32.read md b = fp32.dec b := by
  have hf : fp32.flushIn md = false := h
  unfold Fmt.read
  simp only [hf, Bool.false_and, Bool.false_eq_true, if_false]
  split
  · next h => exact h.symm
  · rfl

theorem dec_subnormal32 {a : Lane} (h : a.toNat % 2 ^ 31 < 2 ^ 23) : fp32.dec a.toNat = .fin (a.getLsbD 31) (a.toNat % 2 ^ 31) (-149) := by
  have hx : a.toNat / 2 ^ 23 % 2 ^ 8 = 0 := by omega
  rw [dec_fp32, hx, show a.toNat % 2 ^ 23 = a.toNat % 2 ^ 31 by omega]
  rfl

theorem dec_normal32 {a : Lane} (hlo : 2 ^ 23 ≤ a.toNat % 2 ^ 31) (hhi : a.toNat % 2 ^ 31 < 2 ^ 31 - 2 ^ 23) :
    fp32.dec a.toNat = .fin (a.getLsbD 31) (a.toNat % 2 ^ 23 + 2 ^ 23) (fp32.lastPlace (a.toNat / 2 ^ 23 % 2 ^ 8)) :=
  (read_unflushed (md := plainModes) rfl _).symm.trans (read_normal32 _ hlo hhi)

theorem dec_inf32 {a : Lane} (h : a.toNat % 2 ^ 31 = 2 ^ 31 - 2 ^ 23) : fp32.dec a.toNat = .inf (a.getLsbD 31) :=
  (read_unflushed (md := plainModes) rfl _).symm.trans (read_inf32 _ h)

theorem dec_nan32 {a : Lane} (h : nan32 a) : fp32.dec a.toNat = .nan (a.getLsbD 31) (a.getLsbD 22) (a.toNat % 2 ^ 22) :=
  (read_unflushed (md := plainModes) rfl _).symm.trans (read_nan32 _ h)

theorem getLsbD_and_signBit (a : Lane) : (a &&& 0x80000000#32).getLsbD 31 = a.getLsbD 31 := by
  rw [BitVec.getLsbD_and, show (0x80000000#32).getLsbD 31 = true by decide, Bool.and_true]

theorem and_signBit_eq (a : Lane) : a &&& 0x80000000#32 = BitVec.ofNat 32 (fp32.signBits (a.getLsbD 31)) := by
  rw [show (0x80000000#32 : Lane) = BitVec.twoPow 32 31 by decide, BitVec.and_twoPow]
  cases a.getLsbD 31 <;> rfl

theorem and_signBit_magnitude (a : Lane) : (a &&& 0x80000000#32).toNat % 2 ^ 31 = 0 := by
  rw [and_signBit_eq]
  cases a.getLsbD 31 <;> rfl

section
variable (md : Modes) (a : Lane)

/-- What an operand reads as is the value of its pattern after input flush. -/
theorem read_eq_dec : fp32.read md a.toNat = fp32.dec (readBits md a).toNat := by
  unfold readBits
  split
  case isTrue h =>
    obtain ⟨hfl, hsub⟩ := h
    have hf : fp32.flushIn md = true := hfl
    have hm : decide (a.toNat % 2 ^ 31 < 2 ^ (fp32.p - 1)) = true := decide_eq_true hsub
    rw [dec_subnormal32 (by rw [and_signBit_magnitude]; decide), and_signBit_magnitude, getLsbD_and_signBit]
    simp only [Fmt.read, dec_subnormal32 hsub, hf, hm, Bool.and_self, if_true]
  case isFalse h =>
    rcases Bool.eq_false_or_eq_true md.if32 with hfl | hfl
    · have hbig : 2 ^ 23 ≤ a.toNat % 2 ^ 31 := Nat.not_lt.mp fun hsub => h ⟨hfl, hsub⟩
      rcases lt_trichotomy (a.toNat % 2 ^ 31) (2 ^ 31 - 2 ^ 23) with hu | hu | hu
      · rw [read_normal32 md hbig hu, dec_normal32 hbig hu]
      · rw [read_inf32 md hu, dec_inf32 hu]
      · rw [read_nan32 md hu, dec_nan32 hu]
    · exact read_unflushed hfl _

theorem sign_readBits : (readBits md a).getLsbD 31 = a.getLsbD 31 := by
  unfold readBits
  split
  · exact getLsbD_and_signBit a
  · rfl

theorem nan32_readBits : nan32 (readBits md a) ↔ nan32 a := by
  unfold readBits
  split
  case isTrue h =>
    refine iff_of_false ?_ ?_
    · rw [nan32, and_signBit_magnitude]
      decide
    · rw [nan32]
      omega
  case isFalse => rfl

theorem sign_dec32 : (fp32.dec a.toNat).sign = a.getLsbD 31 := by
  rw [dec_fp32, Fmt.fieldVal]
  split
  · split <;> rfl
  · split <;> rfl

theorem sign_read32 : (fp32.read md a.toNat).sign = a.getLsbD 31 := by
  rw [read_eq_dec, sign_dec32, sign_readBits]

variable {md a}

theorem flushedBits_of_fin {s : Bool} {m : Nat} {e : Int} (h : fp32.read md a.toNat = .fin s m e) :
    flushedBits md a = if m = 0 then BitVec.ofNat 32 (fp32.signBits s) else a := by
  cases m <;> simp [flushedBits, h]

/-- A pattern that is read as it stands is its own flushed pattern. -/
theorem flushedBits_of_read_eq_dec (h : fp32.read md a.toNat = fp32.dec a.toNat) : flushedBits md a = a := by
  rcases Nat.lt_or_ge (a.toNat % 2 ^ 31) (2 ^ 23) with hsub | hbig
  · rw [flushedBits_of_fin (h.trans (dec_subnormal32 hsub))]
    split
    case isTrue hzero =>
      have hbits := ofNat_signBits_add a
      rwa [hzero, Nat.add_zero] at hbits
    case isFalse => rfl
  · rcases lt_trichotomy (a.toNat % 2 ^ 31) (2 ^ 31 - 2 ^ 23) with hu | hu | hu
    · rw [flushedBits_of_fin (h.trans (dec_normal32 hbig hu)), if_neg (by omega)]
    · simp only [flushedBits, h, dec_inf32 hu]
    · simp only [flushedBits, h, dec_nan32 hu]

/-- The pattern that the model makes of an operand's value is its pattern after input flush. -/
theorem flushedBits_eq (md : Modes) (a : Lane) : flushedBits md a = readBits md a := by
  have hread := read_eq_dec md a
  unfold readBits at hread ⊢
  split
  case isTrue h =>
    have hzero : (a &&& 0x80000000#32).toNat % 2 ^ 31 < 2 ^ 23 := by rw [and_signBit_magnitude]; decide
    rw [if_pos h, dec_subnormal32 hzero, and_signBit_magnitude, getLsbD_and_signBit] at hread
    rw [flushedBits_of_fin hread, if_pos rfl, and_signBit_eq]
  case isFalse h =>
    rw [if_neg h] at hread
    exact flushedBits_of_read_eq_dec hread

end

/-! ## The order of values (R160) -/

/-- The magnitude of a number's pattern u, in units of 2^-149. -/
def mag32 (u : Nat) : Nat := if u < 2 ^ 23 then u else (u % 2 ^ 23 + 2 ^ 23) * 2 ^ (u / 2 ^ 23 - 1)

theorem mag32_strictMono : StrictMono mag32 := by
  refine strictMono_nat_of_lt_succ fun u => ?_
  unfold mag32
  rcases Nat.lt_or_ge u (2 ^ 23) with hsub | hnorm
  · rw [if_pos hsub]
    split
    · exact Nat.lt_succ_self u
    · obtain rfl : u = 2 ^ 23 - 1 := by omega
      decide
  · rw [if_neg (by omega), if_neg (by omega)]
    rcases Nat.lt_or_ge (u % 2 ^ 23 + 1) (2 ^ 23) with hlt | hge
    · rw [show (u + 1) / 2 ^ 23 = u / 2 ^ 23 by omega, show (u + 1) % 2 ^ 23 = u % 2 ^ 23 + 1 by omega]
      exact Nat.mul_lt_mul_of_pos_right (by omega) (by positivity)
    · -- a carry into the exponent field
      obtain ⟨E, hE⟩ : ∃ E, u / 2 ^ 23 = E + 1 := ⟨u / 2 ^ 23 - 1, by omega⟩
      rw [show (u + 1) / 2 ^ 23 = E + 2 by omega, show (u + 1) % 2 ^ 23 = 0 by omega, show u % 2 ^ 23 = 2 ^ 23 - 1 by omega, hE,
        Nat.add_sub_cancel, show E + 2 - 1 = E + 1 by omega, pow_succ 2 E]
      have := Nat.two_pow_pos E
      omega

/-- Signed numbers are ordered as their images under an increasing function that keeps 0. -/
theorem signedInt_lt_iff {g : Nat → Nat} (hg : StrictMono g) (h0 : g 0 = 0) (s t : Bool) (u v : Nat) :
    signedInt s (g u) < signedInt t (g v) ↔ signedInt s u < signedInt t v := by
  have huv := hg.lt_iff_lt (a := u) (b := v)
  have hvu := hg.lt_iff_lt (a := v) (b := u)
  have hu := hg.lt_iff_lt (a := 0) (b := u)
  have hv := hg.lt_iff_lt (a := 0) (b := v)
  cases s <;> cases t <;> simp only [signedInt, if_true, Bool.false_eq_true, if_false] <;> omega

/-- A finite pattern's value is its magnitude. -/
theorem dec_finite32 {a : Lane} (h : a.toNat % 2 ^ 31 < 2 ^ 31 - 2 ^ 23) :
    ∃ m e, fp32.dec a.toNat = .fin (a.getLsbD 31) m e ∧ dyVal m e = dyVal (mag32 (a.toNat % 2 ^ 31)) (-149) := by
  rcases Nat.lt_or_ge (a.toNat % 2 ^ 31) (2 ^ 23) with hsub | hnorm
  · exact ⟨_, _, dec_subnormal32 hsub, by rw [mag32, if_pos hsub]⟩
  · have hle : -149 ≤ fp32.lastPlace (a.toNat / 2 ^ 23 % 2 ^ 8) := by simp only [Fmt.lastPlace, fp32]; omega
    have hexp : (fp32.lastPlace (a.toNat / 2 ^ 23 % 2 ^ 8) - -149).toNat = a.toNat % 2 ^ 31 / 2 ^ 23 - 1 := by
      simp only [Fmt.lastPlace, fp32]
      omega
    refine ⟨_, _, dec_normal32 hnorm h, ?_⟩
    rw [dyVal_of_le _ hle, hexp, mag32, if_neg (by omega), show a.toNat % 2 ^ 31 % 2 ^ 23 = a.toNat % 2 ^ 23 by omega, dyVal]

/-- A number in units of 2^lo, from what it is in units of 2^c. -/
theorem scaled_mul_zpow {s : Bool} {m n : Nat} {e lo c : Int} (hle : lo ≤ e) (h : dyVal m e = dyVal n c) :
    (scaled s m e lo : ℚ) * 2 ^ lo = signedInt s n * 2 ^ c := by
  have hval := dyVal_of_le m hle
  rw [h, dyVal] at hval
  push_cast at hval
  cases s with
  | false => simpa [scaled, signedInt] using hval.symm
  | true => simpa [scaled, signedInt] using hval.symm

/-- Two numbers in a common unit 2^c are ordered as integers. -/
theorem ltFV_fin_iff {s t : Bool} {m n u v : Nat} {e k c : Int} (hm : dyVal m e = dyVal u c) (hn : dyVal n k = dyVal v c) :
    ltFV (.fin s m e) (.fin t n k) = true ↔ signedInt s u < signedInt t v := by
  have hpos (z : Int) : (0 : ℚ) < 2 ^ z := by positivity
  have hx := scaled_mul_zpow (s := s) (min_le_left e k) hm
  have hy := scaled_mul_zpow (s := t) (min_le_right e k) hn
  rw [ltFV, decide_eq_true_iff, ← Int.cast_lt (R := ℚ), ← mul_lt_mul_iff_left₀ (hpos (min e k)), hx, hy,
    mul_lt_mul_iff_left₀ (hpos c), Int.cast_lt]

/-- The place of a pattern in the order of values. -/
def orderKey (a : Lane) : Int := signedInt (a.getLsbD 31) (a.toNat % 2 ^ 31)

theorem orderKey_inf {a : Lane} (h : a.toNat % 2 ^ 31 = 2 ^ 31 - 2 ^ 23) : orderKey a = signedInt (a.getLsbD 31) (2 ^ 31 - 2 ^ 23) := by
  rw [orderKey, h]

section
variable (s t : Bool) {u v : Nat} (h : v < u)
include h

theorem signedInt_greater_lt_iff : signedInt s u < signedInt t v ↔ s = true := by
  cases s <;> cases t <;> simp [signedInt] <;> omega

theorem signedInt_lt_greater_iff : signedInt s v < signedInt t u ↔ (!t) = true := by
  cases s <;> cases t <;> simp [signedInt] <;> omega

end

/-- The values of two patterns that are no NaN are ordered as the patterns. -/
theorem ltFV_dec {a b : Lane} (ha : ¬nan32 a) (hb : ¬nan32 b) :
    ltFV (fp32.dec a.toNat) (fp32.dec b.toNat) = true ↔ orderKey a < orderKey b := by
  unfold nan32 at ha hb
  rcases (Nat.not_lt.mp ha).lt_or_eq with hfa | hia <;> rcases (Nat.not_lt.mp hb).lt_or_eq with hfb | hib
  · obtain ⟨m, e, hda, hm⟩ := dec_finite32 hfa
    obtain ⟨n, k, hdb, hn⟩ := dec_finite32 hfb
    rw [hda, hdb, ltFV_fin_iff hm hn, signedInt_lt_iff mag32_strictMono rfl]
    rfl
  · obtain ⟨m, e, hda, -⟩ := dec_finite32 hfa
    rw [hda, dec_inf32 hib, orderKey_inf hib]
    exact (signedInt_lt_greater_iff _ _ hfa).symm
  · obtain ⟨n, k, hdb, -⟩ := dec_finite32 hfb
    rw [hdb, dec_inf32 hia, orderKey_inf hia]
    exact (signedInt_greater_lt_iff _ _ hfb).symm
  · rw [dec_inf32 hia, dec_inf32 hib, orderKey_inf hia, orderKey_inf hib]
    cases a.getLsbD 31 <;> cases b.getLsbD 31 <;> decide

/-- The place of an operand in the order of values after input flush. -/
def readKey (md : Modes) (a : Lane) : Int := signedInt (a.getLsbD 31) ((readBits md a).toNat % 2 ^ 31)

section
variable (md : Modes) {a b : Lane}

theorem ltFV_read (ha : ¬nan32 a) (hb : ¬nan32 b) :
    ltFV (fp32.read md a.toNat) (fp32.read md b.toNat) = true ↔ readKey md a < readKey md b := by
  rw [read_eq_dec, read_eq_dec, ltFV_dec ((nan32_readBits md a).not.mpr ha) ((nan32_readBits md b).not.mpr hb), orderKey, orderKey,
    sign_readBits, sign_readBits]
  rfl

theorem not_ltFV_read (ha : ¬nan32 a) (hb : ¬nan32 b) :
    (!ltFV (fp32.read md a.toNat) (fp32.read md b.toNat)) = true ↔ readKey md b ≤ readKey md a := by
  rw [Bool.not_eq_true', Bool.eq_false_iff, ne_eq, ltFV_read md ha hb, not_lt]

theorem eqFV_read (ha : ¬nan32 a) (hb : ¬nan32 b) :
    eqFV (fp32.read md a.toNat) (fp32.read md b.toNat) = true ↔ readKey md a = readKey md b := by
  rw [eqFV, Bool.and_eq_true, not_ltFV_read md ha hb, not_ltFV_read md hb ha, and_comm, ← le_antisymm_iff]

end

end Sys2Proof.Machine
end

section
/-!
PROOF. FP32 comparisons, minima, maxima and classes: what each operation makes of two patterns and of one (R112, R160, R161).
-/
namespace Sys2Proof.Machine

/-! ## va.fcmp (R161) -/

theorem truth_ite {n : Nat} {c : Bool} {p : Prop} (h : c = true ↔ p) : Rule.Truth p (if c then (1 : BitVec n) else 0) :=
  ⟨fun hp => if_pos (h.mpr hp), fun hp => if_neg (h.not.mpr hp)⟩

/-- A condition of two operands, given that both are numbers or not, and their places in the order of values. -/
def fcmpRule (c : FCond) (num : Prop) (x y : Int) : Prop :=
  match c with
  | .eq => num ∧ x = y
  | .ne => ¬(num ∧ x = y)
  | .lt => num ∧ x < y
  | .le => num ∧ x ≤ y
  | .gt => num ∧ y < x
  | .ge => num ∧ y ≤ x
  | .un => ¬num
  | .ord => num

/-- The conditions that raise NV for any NaN. -/
def fcmpOrdered (c : FCond) : Bool :=
  match c with
  | .lt | .le | .gt | .ge => true
  | .eq | .ne | .un | .ord => false

theorem fcmpOrdered_iff (c : FCond) : fcmpOrdered c = true ↔ c ∈ [FCond.lt, .le, .gt, .ge] := by cases c <;> decide

section
variable (md : Modes) (a b : Lane)

theorem fcmp32_fst_truth (c : FCond) :
    Rule.Truth (fcmpRule c (¬nan32 a ∧ ¬nan32 b) (readKey md a) (readKey md b)) (fcmp32 md c a b).1 := by
  have hnan : ((fp32.read md a.toNat).isNan || (fp32.read md b.toNat).isNan) = true ↔ ¬(¬nan32 a ∧ ¬nan32 b) := by
    rw [isNan_or_read32, not_and_or, not_not, not_not]
  have hnum : (!((fp32.read md a.toNat).isNan || (fp32.read md b.toNat).isNan)) = true ↔ ¬nan32 a ∧ ¬nan32 b := by
    rw [Bool.not_eq_true', Bool.eq_false_iff, ne_eq, hnan, not_not]
  have hand {r : Bool} {p : Prop} (h : ¬nan32 a ∧ ¬nan32 b → (r = true ↔ p)) :
      (!((fp32.read md a.toNat).isNan || (fp32.read md b.toNat).isNan) && r) = true ↔ (¬nan32 a ∧ ¬nan32 b) ∧ p := by
    rw [Bool.and_eq_true, hnum]
    exact and_congr_right h
  cases c with
  | eq => exact truth_ite (hand fun h => eqFV_read md h.1 h.2)
  | ne =>
    refine truth_ite ?_
    rw [fcmpRule, ← hand fun h => eqFV_read md h.1 h.2, Bool.not_eq_true, Bool.or_eq_true, Bool.and_eq_false_iff, Bool.not_eq_false',
      Bool.not_eq_true']
  | lt => exact truth_ite (hand fun h => ltFV_read md h.1 h.2)
  | le => exact truth_ite (hand fun h => not_ltFV_read md h.2 h.1)
  | gt => exact truth_ite (hand fun h => ltFV_read md h.2 h.1)
  | ge => exact truth_ite (hand fun h => not_ltFV_read md h.1 h.2)
  | un => exact truth_ite hnan
  | ord => exact truth_ite hnum

theorem fcmp32_snd (c : FCond) : (fcmp32 md c a b).2 =
    if (fcmpOrdered c && ((fp32.read md a.toNat).isNan || (fp32.read md b.toNat).isNan)) || (fp32.read md a.toNat).isSnan ||
      (fp32.read md b.toNat).isSnan then 1 else 0 := by cases c <;> rfl

theorem fcmp32_invalid_iff (c : FCond) :
    ((fcmpOrdered c && ((fp32.read md a.toNat).isNan || (fp32.read md b.toNat).isNan)) || (fp32.read md a.toNat).isSnan ||
      (fp32.read md b.toNat).isSnan) = true ↔
    (snan32 a ∨ snan32 b) ∨ (c ∈ [FCond.lt, .le, .gt, .ge] ∧ ¬(¬nan32 a ∧ ¬nan32 b)) := by
  rw [Bool.or_eq_true, Bool.or_eq_true, Bool.and_eq_true, isNan_or_read32, isSnan_read32, isSnan_read32, fcmpOrdered_iff, or_assoc, or_comm,
    not_and_or, not_not, not_not]

end

/-! ## va.fmin and va.fmax (R160) -/

section
variable (md : Modes) (mx : Bool) {a b : Lane}

theorem fminmax32_snd : (fminmax32 md mx a b).2 = snanFlag [fp32.read md a.toNat, fp32.read md b.toNat] := by
  simp only [fminmax32, apply_ite Prod.snd, ite_self]

theorem fminmax32_both_nan (ha : nan32 a) (hb : nan32 b) :
    (fminmax32 md mx a b).1 = if md.level1 then 0x7FC00000 else a ||| 0x00400000 := by
  have hpick := pickNaN_fp32 md (.inl ha : nan32 a ∨ nan32 b)
  rw [if_pos ha] at hpick
  simp only [fminmax32, (isNan_read32 md a).mpr ha, (isNan_read32 md b).mpr hb, Bool.and_self, if_true]
  exact hpick

theorem fminmax32_left_nan (ha : nan32 a) (hb : ¬nan32 b) : (fminmax32 md mx a b).1 = readBits md b := by
  have hb := Bool.eq_false_iff.mpr ((isNan_read32 md b).not.mpr hb)
  simp only [fminmax32, (isNan_read32 md a).mpr ha, hb, Bool.and_false, Bool.false_eq_true, if_false, if_true, flushedBits_eq]

theorem fminmax32_right_nan (ha : ¬nan32 a) (hb : nan32 b) : (fminmax32 md mx a b).1 = readBits md a := by
  have ha := Bool.eq_false_iff.mpr ((isNan_read32 md a).not.mpr ha)
  simp only [fminmax32, (isNan_read32 md b).mpr hb, ha, Bool.false_and, Bool.false_eq_true, if_false, if_true, flushedBits_eq]

/-- Of two numbers, the one before the other in the order of values, or the equal ones' by their signs. -/
theorem fminmax32_numbers (ha : ¬nan32 a) (hb : ¬nan32 b) : (fminmax32 md mx a b).1 =
    if readKey md a < readKey md b then readBits md (if mx then b else a)
    else if readKey md b < readKey md a then readBits md (if mx then a else b)
    else if a.getLsbD 31 = b.getLsbD 31 ∨ md.level1 = true then readBits md a
    else if mx then 0 else 0x80000000 := by
  have hna := Bool.eq_false_iff.mpr ((isNan_read32 md a).not.mpr ha)
  have hnb := Bool.eq_false_iff.mpr ((isNan_read32 md b).not.mpr hb)
  have hzero : BitVec.ofNat 32 (fp32.signBits (!mx)) = if mx then 0 else 0x80000000 := by cases mx <;> rfl
  simp only [fminmax32, hna, hnb, Bool.and_self, Bool.false_eq_true, if_false, apply_ite Prod.fst, ltFV_read md ha hb, ltFV_read md hb ha,
    flushedBits_eq, sign_read32, Bool.or_eq_true, beq_iff_eq, hzero]

end

/-! ## va.fcls (R161) -/

section
variable {a : Lane}

theorem fcls32_inf (h : a.toNat % 2 ^ 31 = 2 ^ 31 - 2 ^ 23) : fcls32 a = if a.getLsbD 31 then 0x001 else 0x080 := by
  rw [fcls32, dec_inf32 h]
  cases a.getLsbD 31 <;> rfl

theorem fcls32_nan (h : nan32 a) : fcls32 a = if a.getLsbD 22 then 0x200 else 0x100 := by
  rw [fcls32, dec_nan32 h]
  cases a.getLsbD 22 <;> rfl

theorem fcls32_fin {s : Bool} {m : Nat} {e : Int} (h : fp32.dec a.toNat = .fin s m e) :
    fcls32 a = if m = 0 then (if s then 0x008 else 0x010) else if m < 2 ^ 23 then (if s then 0x004 else 0x020)
      else if s then 0x002 else 0x040 := by
  rw [fcls32, h]
  cases m with
  | zero => cases s <;> rfl
  | succ n =>
    rw [if_neg (Nat.succ_ne_zero n)]
    rcases Nat.lt_or_ge (n + 1) (2 ^ 23) with hlt | hge
    · cases s <;> simp only [hlt, if_true] <;> rfl
    · cases s <;> simp only [Nat.not_lt.mpr hge, if_false] <;> rfl

theorem fcls32_zero (h : a.toNat % 2 ^ 31 = 0) : fcls32 a = if a.getLsbD 31 then 0x008 else 0x010 := by
  rw [fcls32_fin (dec_subnormal32 (by omega)), if_pos h]

theorem fcls32_subnormal (hlo : 0 < a.toNat % 2 ^ 31) (hhi : a.toNat % 2 ^ 31 < 2 ^ 23) :
    fcls32 a = if a.getLsbD 31 then 0x004 else 0x020 := by
  rw [fcls32_fin (dec_subnormal32 hhi), if_neg hlo.ne', if_pos hhi]

theorem fcls32_normal (hlo : 2 ^ 23 ≤ a.toNat % 2 ^ 31) (hhi : a.toNat % 2 ^ 31 < 2 ^ 31 - 2 ^ 23) :
    fcls32 a = if a.getLsbD 31 then 0x002 else 0x040 := by
  rw [fcls32_fin (dec_normal32 hlo hhi), if_neg (by omega), if_neg (by omega)]

theorem negative_of_ge (h : 2 ^ 31 ≤ a.toNat) : a.getLsbD 31 = true := by
  have := a.isLt
  rw [sign32_eq]
  exact decide_eq_true (by omega)

theorem positive_of_lt (h : a.toNat < 2 ^ 31) : a.getLsbD 31 = false := by
  rw [sign32_eq]
  exact decide_eq_false (by omega)

theorem getLsbD_22_eq (a : Lane) : a.getLsbD 22 = decide (a.toNat / 2 ^ 22 % 2 = 1) := Nat.testBit_eq_decide_div_mod_eq

theorem fcls32_signalling (h : nan32 a) (hq : a.toNat / 2 ^ 22 % 2 = 0) : fcls32 a = 0x100 := by
  rw [fcls32_nan h, getLsbD_22_eq, decide_eq_false (by omega)]
  rfl

theorem fcls32_quiet (h : nan32 a) (hq : a.toNat / 2 ^ 22 % 2 = 1) : fcls32 a = 0x200 := by
  rw [fcls32_nan h, getLsbD_22_eq, decide_eq_true hq]
  rfl

/-- The class of every range of patterns. -/
theorem fcls32_class {v lo hi : Nat} (h : (v, lo, hi) ∈ [(0x001, 0xFF800000, 0xFF800000), (0x002, 0x80800000, 0xFF7FFFFF),
      (0x004, 0x80000001, 0x807FFFFF), (0x008, 0x80000000, 0x80000000), (0x010, 0x00000000, 0x00000000), (0x020, 0x00000001, 0x007FFFFF),
      (0x040, 0x00800000, 0x7F7FFFFF), (0x080, 0x7F800000, 0x7F800000), (0x100, 0x7F800001, 0x7FBFFFFF), (0x100, 0xFF800001, 0xFFBFFFFF),
      (0x200, 0x7FC00000, 0x7FFFFFFF), (0x200, 0xFFC00000, 0xFFFFFFFF)]) (hlo : lo ≤ a.toNat) (hhi : a.toNat ≤ hi) :
    fcls32 a = BitVec.ofNat 32 v := by
  simp only [List.mem_cons, List.not_mem_nil, or_false, Prod.mk.injEq] at h
  rcases h with h | h | h | h | h | h | h | h | h | h | h | h <;> obtain ⟨rfl, rfl, rfl⟩ := h
  · rw [fcls32_inf (by omega), negative_of_ge (by omega)]; rfl
  · rw [fcls32_normal (by omega) (by omega), negative_of_ge (by omega)]; rfl
  · rw [fcls32_subnormal (by omega) (by omega), negative_of_ge (by omega)]; rfl
  · rw [fcls32_zero (by omega), negative_of_ge (by omega)]; rfl
  · rw [fcls32_zero (by omega), positive_of_lt (by omega)]; rfl
  · rw [fcls32_subnormal (by omega) (by omega), positive_of_lt (by omega)]; rfl
  · rw [fcls32_normal (by omega) (by omega), positive_of_lt (by omega)]; rfl
  · rw [fcls32_inf (by omega), positive_of_lt (by omega)]; rfl
  · exact fcls32_signalling (by rw [nan32]; omega) (by omega)
  · exact fcls32_signalling (by rw [nan32]; omega) (by omega)
  · exact fcls32_quiet (by rw [nan32]; omega) (by omega)
  · exact fcls32_quiet (by rw [nan32]; omega) (by omega)

end

/-- Settles O36: two numbers compare as their places in the order of values, a NaN by the rule of each operation, and a class is a range of
patterns. -/
theorem floatComparisons : Obligations.FloatComparisons := by
  intro md a b read nan sig key num is
  have hfcmp (c : FCond) : Rule.Truth (fcmpRule c num (key a) (key b)) (fcmp32 md c a b).1 := fcmp32_fst_truth md a b c
  refine ⟨⟨hfcmp .eq, hfcmp .ne, hfcmp .lt, hfcmp .le, hfcmp .gt, hfcmp .ge, hfcmp .un, hfcmp .ord⟩,
    fun c => ⟨fun h => ?_, fun h => ?_⟩, fun mx => ?_, fun v lo hi h hlo hhi => fcls32_class h hlo hhi⟩
  · rw [fcmp32_snd, if_pos ((fcmp32_invalid_iff md a b c).mpr h)]
  · rw [fcmp32_snd, if_neg ((fcmp32_invalid_iff md a b c).not.mpr h)]
  · obtain ⟨hone, hzero⟩ := snanFlag_pair md a b
    have hnumbers (hn : num) : (fminmax32 md mx a b).1 = if key a < key b then read (if mx then b else a)
        else if key b < key a then read (if mx then a else b)
        else if a.getLsbD 31 = b.getLsbD 31 ∨ md.level1 = true then read a
        else if mx then 0 else 0x80000000 := fminmax32_numbers md mx hn.1 hn.2
    rw [fminmax32_snd]
    refine ⟨hone.mpr, hzero.mpr, fun hn h => ?_, fun hn h => ?_, fun hn h hs => ?_, fun hn h hs hl => ?_, fminmax32_left_nan md mx,
      fminmax32_right_nan md mx, fminmax32_both_nan md mx⟩
    · rw [hnumbers hn, if_pos h]
    · rw [hnumbers hn, if_neg h.not_gt, if_pos h]
    · rw [hnumbers hn, if_neg h.not_lt, if_neg h.not_gt, if_pos hs]
    · rw [hnumbers hn, if_neg h.not_lt, if_neg h.not_gt, if_neg (by rw [hl]; simpa using hs)]

end Sys2Proof.Machine
end

section
/-!
PROOF. Address arithmetic and transfers of MU (R193), and the addresses of accesses with the checks of a block, bench or global one (R179
to R182, R188).
-/
namespace Sys2Proof.Machine

/-! ## Scalar results (R32, R193) -/

/-- A scalar operation whose effect is its landing. -/
theorem runScalar_lands {i : Instr} {s : State} {x : Slot} {k : Kind} {fl : RFile} {reg lat : Nat} {f : Env → BitVec 128} {q : Env → Bool}
    (h : s.runningSlot i = some x) (hq : x.e.queueReady i = true) (hr : i.result = some (fl, lat)) (hp : i.pairDest = false)
    (hb : i.isBallot = false) :
    runScalar i s (fun _ => true) (fun e s => s.landScalar e i k reg (f e) (q e)) =
      .next (x.doneIn (x.lands i k fl reg lat (f x.e) (q x.e))) := by
  rw [runScalar_done h hq rfl, State.landScalar_eq hr hp hb]

/-- Settles O43: the scalar forms land one value, the per-lane transfer one for every enabled lane. -/
theorem muRegisters : Obligations.MuRegisters := by
  refine fun s i x h => ⟨fun hq => ⟨?_, ?_, ?_⟩, ?_⟩
  · rintro md ab oa rfl
    show execMuAdda md ab oa s = _
    unfold execMuAdda
    rw [runScalar_lands h hq rfl rfl rfl, Rule.add_eq]
    rfl
  · rintro md oa rfl
    show execMuMova md oa s = _
    unfold execMuMova
    rw [runScalar_lands h hq rfl rfl rfl]
  · rintro md oa rfl
    show execMuXfer md oa s = _
    unfold execMuXfer
    rw [runScalar_lands h hq rfl rfl rfl]
  · rintro mk df md oa p rfl -
    have hrow : LanesRow x.e (.muXferPerLane mk df md oa) .mu df md 2 false (fun l => (x.e.lane .vm oa l).setWidth 128) fun _ => 0 :=
      .of_runInt (g := fun e l => e.lane .vm oa l) (fun _ => rfl) (fun _ => rfl) rfl rfl rfl
    exact hrow.exec_next h p

/-! ## Addresses (R179, R188) -/

/-- A number with bits 21:19 exchanged. -/
theorem nat_xor_field (n b : Nat) (hb : b < 8) : n ^^^ b * 2 ^ 19 = n - n / 2 ^ 19 % 8 * 2 ^ 19 + (n / 2 ^ 19 % 8 ^^^ b) * 2 ^ 19 := by
  have hlow : (n ^^^ b * 2 ^ 19) % 2 ^ 19 = n % 2 ^ 19 := by
    rw [Nat.xor_mod_two_pow, Nat.mul_mod_left, Nat.xor_zero]
  have hhigh : (n ^^^ b * 2 ^ 19) / 2 ^ 19 = n / 2 ^ 19 ^^^ b := by
    rw [Nat.xor_div_two_pow, Nat.mul_div_cancel _ (by decide)]
  have hfield : (n / 2 ^ 19 ^^^ b) % 2 ^ 3 = n / 2 ^ 19 % 8 ^^^ b := by
    rw [Nat.xor_mod_two_pow, Nat.mod_eq_of_lt (a := b) hb]
  have habove : (n / 2 ^ 19 ^^^ b) / 2 ^ 3 = n / 2 ^ 19 / 8 := by
    rw [Nat.xor_div_two_pow, Nat.div_eq_of_lt hb, Nat.xor_zero]
  omega

/-- mu.ldr's address: its core bits exchanged with the low bits of OB (R188). -/
theorem benchXor_toNat (a : Word) (b : Lane) :
    (benchXor a b).toNat = a.toNat - a.toNat / 2 ^ 19 % 8 * 2 ^ 19 + (a.toNat / 2 ^ 19 % 8 ^^^ b.toNat % 8) * 2 ^ 19 := by
  have hbits : ((b.setWidth 64 &&& 7) : Word).toNat = b.toNat % 8 := by
    rw [BitVec.toNat_and, BitVec.toNat_setWidth, Nat.mod_eq_of_lt (by omega)]
    exact Nat.and_two_pow_sub_one_eq_mod b.toNat 3
  have hshift : (((b.setWidth 64 &&& 7) : Word) <<< 19).toNat = b.toNat % 8 * 2 ^ 19 := by
    rw [BitVec.toNat_shiftLeft, hbits, Nat.shiftLeft_eq, Nat.mod_eq_of_lt (by omega)]
  rw [benchXor, BitVec.toNat_xor, hshift, nat_xor_field _ _ (by omega)]

/-- An operand without a register or a queue entry, in an address position, is its value. -/
theorem Env.laneAddr_of_const (e : Env) (ab : BitVec 5) {x : Sel} {j : BitVec 2} {c : BitVec 5} (hx : x ∈ [.imm j, .whole, .const c])
    (l : Nat) : e.laneAddr ab x l = e.base ab + e.scalar .vm x + BitVec.ofNat 64 (4 * l) := by
  simp only [List.mem_cons, List.not_mem_nil, or_false] at hx
  rcases hx with rfl | rfl | rfl <;> rfl

theorem Env.scalarAddr_of_const (e : Env) (ab : BitVec 5) {x : Sel} {j : BitVec 2} {c : BitVec 5} (hx : x ∈ [.imm j, .whole, .const c]) :
    e.scalarAddr ab x = e.base ab + e.scalar .a x := by
  simp only [List.mem_cons, List.not_mem_nil, or_false] at hx
  rcases hx with rfl | rfl | rfl <;> rfl

/-! ## The checks of one address (R180, R182, R188) -/

/-- A tile of a core is allotted to a block of the team's address space (R188). -/
def Env.Owned (e : Env) (core tile : Nat) : Prop :=
  ∃ k y, (k, y) ∈ e.s.blocks ∧ y.core = core ∧ y.tile0 ≤ tile ∧ tile < y.tile0 + y.nt ∧ y.asid = e.t.asid ∧ y.settled = false

theorem Env.owned_iff (e : Env) (core tile : Nat) :
    (e.s.blocks.any fun x => x.2.core == core && decide (x.2.tile0 ≤ tile) && decide (tile < x.2.tile0 + x.2.nt) && x.2.asid == e.t.asid
      && !x.2.settled) = true ↔ e.Owned core tile := by
  simp only [List.any_eq_true, Bool.and_eq_true, beq_iff_eq, decide_eq_true_eq, Bool.not_eq_true', Prod.exists, Env.Owned, and_assoc]

theorem Env.place_misaligned (e : Env) (sp : Space) (acc : AccKind) {size : Nat} {a : Word} (h : a.toNat % size ≠ 0) :
    e.place sp acc size a = .bad 0x07 0 := if_pos h

section
variable (e : Env) (acc : AccKind) {size : Nat} {a : Word} (h : a.toNat % size = 0)
include h

theorem Env.place_block : e.place .block acc size a =
    if 8192 * e.b.nt < a.toNat + size then .bad 0x0A 0 else .ok (.spad (2 ^ 19 * e.b.core + 8192 * e.b.tile0 + a.toNat)) none := by
  have hkey : e.b.key a.toNat = 2 ^ 19 * e.b.core + 8192 * e.b.tile0 + a.toNat := by
    rw [Block.key, spadKey, Nat.mul_comm, Nat.add_assoc]
  rw [← hkey]
  exact if_neg (not_not.mpr h)

theorem Env.place_bench_range (hn : 2 ^ 22 ≤ a.toNat) : e.place .bench acc size a = .bad 0x0A 0 :=
  (if_neg (not_not.mpr h)).trans (if_pos hn)

theorem Env.place_bench_owned (hn : a.toNat < 2 ^ 22)
    (ho : e.Owned (coreOf e.z / 8 * 8 + a.toNat / 2 ^ 19) (a.toNat % 2 ^ 19 / 8192)) :
    e.place .bench acc size a = .ok (.spad (2 ^ 19 * (coreOf e.z / 8 * 8 + a.toNat / 2 ^ 19) + a.toNat % 2 ^ 19)) none := by
  refine (if_neg (not_not.mpr h)).trans ((if_neg (Nat.not_le.mpr hn)).trans ((if_pos ((e.owned_iff _ _).mpr ho)).trans ?_))
  rw [spadKey, Nat.mul_comm]

theorem Env.place_bench_stray (hn : a.toNat < 2 ^ 22)
    (ho : ¬e.Owned (coreOf e.z / 8 * 8 + a.toNat / 2 ^ 19) (a.toNat % 2 ^ 19 / 8192)) : e.place .bench acc size a = .bad 0x09 4 :=
  (if_neg (not_not.mpr h)).trans ((if_neg (Nat.not_le.mpr hn)).trans (if_neg fun ht => ho ((e.owned_iff _ _).mp ht)))

theorem Env.place_global_range (hn : 2 ^ 57 ≤ a.toNat) : e.place .global acc size a = .bad 0x09 1 :=
  (if_neg (not_not.mpr h)).trans (if_pos hn)

end

/-- Settles O38: the address of each operand form, and the checks of each space in their order. -/
theorem addressForms : Obligations.AddressForms := by
  intro e ab n j c l size a acc b
  refine ⟨(Rule.add_eq _ _).symm, (Rule.add_eq _ _).symm, fun x hx => ⟨?_, ?_⟩, (Rule.add_eq _ _).symm, benchXor_toNat a b,
    fun sp => e.place_misaligned sp acc, fun h => ⟨fun hn => ?_, fun hn => ?_, e.place_bench_range acc h, ?_, e.place_global_range acc h⟩⟩
  · rw [e.laneAddr_of_const ab hx, Rule.add_eq, Rule.add_eq, ← BitVec.add_assoc]
    rfl
  · rw [e.scalarAddr_of_const ab hx, Rule.add_eq]
    rfl
  · rw [e.place_block acc h, if_pos hn]
  · rw [e.place_block acc h, if_neg (Nat.not_lt.mpr hn)]
  · rintro hn _ _ rfl rfl
    refine ⟨e.place_bench_owned acc h hn, fun hno => e.place_bench_stray acc h hn ?_⟩
    rintro ⟨k, y, hy, hown⟩
    exact hno k y hy hown

end Sys2Proof.Machine
end

section
/-!
PROOF. Scratchpad atomics (R190 to R192, R376) and the units of MU (R198 to R210): an access is seen by the comparators of the core whose
scratchpad holds its place, or of the block's core, and the statements' premise speaks of the team's core only.
-/
namespace Sys2Proof.Machine

/-- The frame of an access keeps every register outside the lost-time array but those named. -/
theorem State.SlotFrame.regs_get {s u : State} {z off : Nat} {offs : List Nat} (h : s.SlotFrame u z offs)
    (hout : off < coreDbg (coreOf z) + 0x1000 ∨ coreDbg (coreOf z) + 0x1200 ≤ off) (hoff : off ∉ offs) : u.regs.get off = s.regs.get off := by
  obtain ⟨-, -, hregs, -⟩ := h
  exact hregs off hout hoff

theorem regs_get_ne_of_changesReg {s u : State} {i : Instr} {off : Nat} (hc : changesReg s i off = true) (hu : exec i s = .next u) :
    u.regs.get off ≠ s.regs.get off := by
  unfold changesReg at hc
  rw [hu] at hc
  exact bne_iff_ne.mp hc

/-- The hypotheses of the clause of mu.atms for pass 0, of the slot in strayPlace. -/
def strayAtomic (i : Instr) : Bool :=
  ((strayPlace i).runningSlot i).any fun x =>
    x.e.z == 0 && x.e.c.passes.head? == some 0 && (x.e.runPasses i).contains 0 && x.o.st == .pending && x.e.queueReady i && x.e.spadReady i

theorem strayAtomic_spec {i : Instr} (h : strayAtomic i = true) : ∃ x, (strayPlace i).runningSlot i = some x ∧ x.e.z = 0 ∧
    x.inPass i 0 ∧ x.e.spadReady i = true := by
  simp only [strayAtomic, Option.any_eq_true, Bool.and_eq_true, beq_iff_eq, List.contains_iff_mem] at h
  obtain ⟨x, hx, ⟨⟨⟨⟨hz, hp⟩, hm⟩, hst⟩, hq⟩, hr⟩ := h
  exact ⟨x, hx, hz, ⟨hp, hm, .inr ⟨hst, hq⟩⟩, hr⟩

/-- Refutes O41: mu.atms on a place in another core's scratchpad hits that core's comparator, whose record is no part of the frame. -/
theorem not_muScratchpadAtomics : ¬ Obligations.MuScratchpadAtomics := by
  rintro ⟨-, hpass⟩
  obtain ⟨x, hx, hz, hin, hr⟩ := strayAtomic_spec (i := .muAtms none .add 9 0 (.const 0) (.const 1) ⟨0, 0, .core⟩) (by decide +kernel)
  have hwatch : (strayPlace (.muAtms none .add 9 0 (.const 0) (.const 1) ⟨0, 0, .core⟩)).Unwatched (coreOf x.e.z) := by
    rw [hz]
    unfold State.Unwatched
    decide +kernel
  obtain ⟨u, t', vals, hu, hframe, -⟩ :=
    hpass _ _ x none .add 9 0 (.const 0) (.const 1) ⟨0, 0, .core⟩ 0 _ rfl hx hwatch (by decide +kernel) hin (fun _ => hr) rfl
  rw [hz] at hframe
  exact regs_get_ne_of_changesReg (off := coreDbg 1 + 0x180) (by decide +kernel) hu (hframe.regs_get (.inr (by decide)) (by decide))

/-- The hypotheses of the clause of mu.cprog, of the slot in strayBlock. -/
def strayProg (i : Instr) (ab : BitVec 5) (oa : Sel) : Bool :=
  ((strayBlock i).runningSlot i).any fun x =>
    x.e.z == 0 && x.e.queueReady i && x.e.predsReady i && x.e.b.readReady (x.e.scalarAddr ab oa).toNat 128 &&
      x.e.t.locFree (x.e.opId i) (.spad (2 ^ 19 * x.e.b.core + 8192 * x.e.b.tile0 + (x.e.scalarAddr ab oa).toNat)) 128

theorem strayProg_spec {i : Instr} {ab : BitVec 5} {oa : Sel} (h : strayProg i ab oa = true) : ∃ x, (strayBlock i).runningSlot i = some x ∧
    x.e.z = 0 ∧ x.e.queueReady i = true ∧ x.e.predsReady i = true ∧ x.e.b.readReady (x.e.scalarAddr ab oa).toNat 128 = true ∧
    x.e.t.locFree (x.e.opId i) (.spad (2 ^ 19 * x.e.b.core + 8192 * x.e.b.tile0 + (x.e.scalarAddr ab oa).toNat)) 128 = true := by
  simp only [strayProg, Option.any_eq_true, Bool.and_eq_true, beq_iff_eq] at h
  obtain ⟨x, hx, ⟨⟨⟨hz, hq⟩, hp⟩, hr⟩, hl⟩ := h
  exact ⟨x, hx, hz, hq, hp, hr, hl⟩

/-- Refutes O46: mu.cprog of a block recorded in another core hits that core's comparator, whose record is no part of the frame. -/
theorem not_muUnits : ¬ Obligations.MuUnits := by
  intro hall
  obtain ⟨x, hx, hz, hq, hp, hr, hl⟩ := strayProg_spec (i := .muCprog 0 0 (.const 0) ⟨0, 0, .core⟩) (ab := 0) (oa := .const 0) (by decide +kernel)
  have hwatch : (strayBlock (.muCprog 0 0 (.const 0) ⟨0, 0, .core⟩)).Unwatched (coreOf x.e.z) := by
    rw [hz]
    unfold State.Unwatched
    decide +kernel
  obtain ⟨hcprog, -⟩ := hall _ _ x hx hq hwatch
  obtain ⟨u, t', hu, hframe, -⟩ := hcprog 0 0 (.const 0) ⟨0, 0, .core⟩ _ _ rfl rfl rfl hp hr hl
  rw [hz] at hframe
  exact regs_get_ne_of_changesReg (off := coreDbg 1 + 0x180) (by decide +kernel) hu (hframe.regs_get (.inr (by decide)) List.not_mem_nil)

end Sys2Proof.Machine
end

section
/-!
PROOF. The memory system: ports (R273), recalls (R246), miss-status entries (R264), replies and completions (R183, R185), tasks (R209),
walks (R284) and banks (R258).
-/
namespace Sys2Proof.Machine

/-! ## Ports and recalls (R246, R273) -/

theorem State.reachLine_free {s : State} {z line : Nat} {t : Team} {o : MemOp} (h : s.ownersFor z o.id line = []) :
    s.reachLine z t o line = s.serveLine z t o line false := by
  simp only [State.reachLine, h, List.isEmpty_nil, if_true]

theorem State.reachLine_owned {s : State} {z line : Nat} {t : Team} {o : MemOp} (h : s.ownersFor z o.id line ≠ []) :
    s.reachLine z t o line = { s with recalls := s.recalls ++ [⟨line, z, o.id, s.ownersFor z o.id line⟩] } := by
  simp only [State.reachLine, List.isEmpty_eq_false_iff.mpr h, Bool.false_eq_true, if_false]

/-- A port in its slot lets its oldest ready request reach its line, and is taken for as many slots as the line has sectors. -/
theorem exec_portSlotService {s : State} {core bank z line : Nat} {t : Team} {o : MemOp}
    (hslot : s.clock % 32 = (core % 128 + bank % 128) % 32) (hat : (s.portAt.get (portNo core bank)).toNat ≤ s.clock)
    (hnext : s.portNext core bank = some (z, t, o, line)) : exec (.portSlotService core bank) s =
      .next (State.reachLine { s with portAt := s.portAt.set (portNo core bank) (BitVec.ofNat 64 (s.clock + 32 * (o.slots line - 1) + 1)) }
        z t o line) := by
  have hnow : s.slotNow core bank = true := beq_iff_eq.mpr hslot
  show execPortSlotService core bank s = _
  unfold execPortSlotService
  simp only [hnow, hnext, decide_eq_false (Nat.not_lt.mpr hat), Bool.not_true, Bool.or_self, Bool.false_eq_true, if_false]

/-- The oldest recall of a line that no copy it waits for owns any more. -/
theorem exec_ownershipRecall {s : State} {line z : Nat} {r : Recall} {rest : List Recall} {t : Team} {o : MemOp}
    (hrec : s.recalls = r :: rest) (hline : r.line = line) (hz : r.z < hostZ) (hfree : ∀ c ∈ r.copies, c ∉ s.ownedLine line)
    (hop : s.findOp r.op = some (z, t, o)) :
    exec (.ownershipRecall line) s = .next ((State.serveLine { s with recalls := rest } z t o line false).lineTurn line) := by
  have hfirst : (s.recalls.findIdx? fun r => r.line == line && decide (r.z < hostZ) && r.copies.all fun c => !(s.ownedLine line).contains c)
      = some 0 := by
    rw [hrec, List.findIdx?_cons, if_pos]
    simpa [hline, hz] using hfree
  have hhead : s.recalls[0]? = some r := by rw [hrec]; rfl
  have herase : s.recalls.eraseIdx 0 = rest := by rw [hrec]; rfl
  have hop' : State.findOp { s with recalls := rest } r.op = some (z, t, o) := hop
  show execOwnershipRecall line s = _
  unfold execOwnershipRecall
  simp only [hfirst, hhead, herase, hop']

/-! ## Replies and completions (R183, R185) -/

section
variable {s : State} {id z : Nat} {t : Team} {o : MemOp} (hf : s.findOp id = some (z, t, o)) (ha : o.accs = [])
include hf ha

/-- With every access made, none is to be asked of another device. -/
theorem State.performFar_noAccess (y : Nat) : s.performFar y id = s := by
  unfold State.performFar
  simp only [hf, ha]
  rfl

/-- With every access made, none is to be served from an L1. -/
theorem State.performHits_noAccess (y : Nat) : s.performHits y id = s := by
  have hlines : o.lines = [] := by rw [MemOp.lines, ha]; rfl
  unfold State.performHits
  simp only [hf, hlines, List.foldl_nil, ite_self]

theorem exec_loadReply (hk : o.kind = .load) (harr : o.arrived = false) (hd : o.done = false) (hi : o.issued = true) (hg : o.got ≠ [])
    (hr : o.readyAt ≤ s.clock) : exec (.loadReply id) s =
      .next (((s.reply z id o.got).releaseMse z id).updTeam z fun t => t.updOp id fun o => { o with arrived := true }) := by
  have htget : (OpKind.load == OpKind.tget) = false := by decide
  show execLoadReply id s = _
  unfold execLoadReply
  simp only [hf, State.performFar_noAccess hf ha, State.performHits_noAccess hf ha, harr, hd, hi, ha, hk, htget,
    List.isEmpty_eq_false_iff.mpr hg, decide_eq_true hr, List.isEmpty_nil, Bool.or_self,
    Bool.and_self, Bool.not_false, Bool.false_eq_true, if_false, if_true,
    beq_self_eq_true]

theorem exec_operationCompletion_store (hk : o.kind = .store) (hd : o.done = false) (hi : o.issued = true) (hr : o.readyAt ≤ s.clock)
    (hv : ∀ w ∈ s.views, w.op ≠ id) : exec (.operationCompletion id) s =
      .next (((s.performViews (coreOf z) id 4).releaseMse z id).updTeam z fun t => t.complete id 4) := by
  have hmay : s.mayComplete z t o = true := by
    simp only [State.mayComplete, hi, hd, hk, ha, decide_eq_true hr, List.isEmpty_nil, Bool.not_false, Bool.and_self]
  have hwidth : s.doneWidth id o.scp = 4 := by
    rw [State.doneWidth, if_neg]
    simpa using hv
  have hkind : (OpKind.store == OpKind.mpost) = false := by decide
  show execOperationCompletion id s = _
  unfold execOperationCompletion
  simp only [hf, hd, hk, hi, hmay, hwidth, hkind, State.performFar_noAccess hf ha, beq_self_eq_true, Bool.and_self, Bool.not_true,
    Bool.false_eq_true, if_false, if_true]

end

/-! ## Tasks and walks (R209, R284) -/

theorem exec_taskPostAccept {s u : State} {id z : Nat} {t : Team} {o : MemOp} (hf : s.findOp id = some (z, t, o)) (hk : o.kind = .cpost)
    (hd : o.done = false) (hi : o.issued = true) (hp : t.predsDone o.preds o.scp = true)
    (hu : s.taskPost t.launch o.data o.dataP = some u) :
    exec (.taskPostAccept id) s = .next (u.updTeam z fun t => t.complete id 4) := by
  have hkind : (OpKind.cpost != OpKind.cpost) = false := by decide
  show execTaskPostAccept id s = _
  unfold execTaskPostAccept
  simp only [hf, hk, hkind, hd, hi, hp, hu, Bool.not_true, Bool.or_self, Bool.false_eq_true, if_false]

theorem exec_translationWalk {s : State} {core z : Nat} {asid : BitVec 16} {va : Word} {acc : AccKind} {t : Team} {w : WalkRes}
    (ht : s.teams.find? (fun x => coreOf x.1 == core && x.2.asid == asid) = some (z, t)) (hva : va.toNat < 2 ^ 57)
    (hw : s.walk (core / 128) asid va.toNat 4 t.root = .ok w) (ha : w.e.allow acc = none) :
    exec (.translationWalk core asid va acc) s = .next (s.useXlat core w) := by
  show execTranslationWalk core asid va acc s = _
  unfold execTranslationWalk
  simp only [ht, hw, ha, Nat.not_le.mpr hva, Option.isNone_none, if_false, if_true]

/-! ## Banks (R258) -/

/-- A bank's only requester is chosen; nothing is denied, and its own rows are served, not those of a remote access. -/
theorem exec_bankArbitration {s : State} {core bank r : Nat} {c : CoreSt} (hc : s.cores.get? core = some c)
    (hp : s.pendingAt core bank c = [r]) (hrow : ∃ x ∈ c.breq, x.1 = bank ∧ x.2.1 = r)
    (hat : c.bankAt.get bank ≠ BitVec.ofNat 64 (s.clock + 1)) (hch : s.bankChoice core bank c [r] = some r)
    (hw : s.wholeAt core bank c r = true) : exec (.bankArbitration core bank) s = .next (s.updCore core fun c' => { c' with
      bankAt := c'.bankAt.set bank (BitVec.ofNat 64 (s.clock + 1)), deny := c.deny.set (8 * bank + r) 0,
      bank := c'.bank.put bank (r :: (c'.bank.getD bank []).filter fun x => x != r), breq := takeRows c'.breq bank r }) := by
  have hwon : (s.bankChoice core bank c [r]).filter (fun r => s.wholeAt core bank c r) = some r := by
    rw [hch, Option.filter_some, if_pos hw]
  have hlost : [r].filter (fun r' => some r' != some r) = [] := by simp
  have hown : (c.breq.all fun x => !(x.1 == bank && some x.2.1 == some r)) = false := by
    obtain ⟨x, hx, hb, hr⟩ := hrow
    exact List.all_eq_false.mpr ⟨x, hx, by simp [hb, hr]⟩
  show execBankArbitration core bank s = _
  unfold execBankArbitration
  simp only [hc, hp, hwon, hlost, hown, beq_eq_false_iff_ne.mpr hat, List.isEmpty_cons, List.foldl_nil, List.any_nil, Option.map_some,
    Option.getD_some, Bool.or_self, Bool.false_and, Bool.false_eq_true, if_false]

/-- Settles O51: one equation per step of the memory system. -/
theorem memorySystemSteps : Obligations.MemorySystemSteps := by
  refine ⟨?_, ?_, fun s core n => rfl, fun s id z t o hf hk harr hd hi ha => exec_loadReply hf ha hk harr hd hi,
    fun s id z t o hf hk hd hi ha => exec_operationCompletion_store hf ha hk hd hi, fun s u id z t o => exec_taskPostAccept,
    fun s core asid va acc z t w => exec_translationWalk, fun s core bank r c => exec_bankArbitration⟩
  · rintro s _ core bank z line t o hslot hat hnext rfl
    rw [exec_portSlotService hslot hat hnext]
    exact ⟨fun h => congrArg _ (State.reachLine_free h), fun h => congrArg _ (State.reachLine_owned h)⟩
  · exact fun s line z r rest t o => exec_ownershipRecall

end Sys2Proof.Machine
end

section
/-!
PROOF. Global and bench-remote operations (R183, R185, R188 to R190): what a pass hands to the memory system, and the issue after the last.
-/
namespace Sys2Proof.Machine

/-! ## An operation that has issued (R39, R183) -/

/-- Every operation of a number in the team's list has issued. -/
def Team.IssuedOp (t : Team) (id : Nat) : Prop := ∀ o ∈ t.ops, o.id = id → o.issued = true

theorem Team.issuedOp_orderAfter (t : Team) (id : Nat) : (t.orderAfter id).IssuedOp id := by
  unfold Team.orderAfter
  split
  case h_1 hnone =>
    intro o ho hid
    exact absurd (beq_iff_eq.mpr hid) (List.find?_eq_none.mp hnone o ho)
  case h_2 =>
    intro o ho hid
    obtain ⟨p, -, rfl⟩ := List.mem_map.mp ho
    by_cases hp : p.id = id
    · simp [hp]
    · exact absurd hid (by simp [hp])

/-- What D counts keeps its number, and that it has issued. -/
theorem Team.mem_countDone_go {l : List MemOp} {stuck : List Nat} {d : SMap 16} {o : MemOp} (h : o ∈ (Team.countDone.go l stuck d).2) :
    ∃ p ∈ l, o.id = p.id ∧ o.issued = p.issued := by
  induction l generalizing stuck d with
  | nil => exact absurd h List.not_mem_nil
  | cons a r ih =>
    have hrest {stuck : List Nat} {d : SMap 16} (h : o ∈ (Team.countDone.go r stuck d).2) :
        ∃ p ∈ a :: r, o.id = p.id ∧ o.issued = p.issued := by
      obtain ⟨p, hp, heq⟩ := ih h
      exact ⟨p, List.mem_cons_of_mem _ hp, heq⟩
    unfold Team.countDone.go at h
    split at h
    · rcases List.mem_cons.mp h with rfl | h
      · exact ⟨o, List.mem_cons_self, rfl, rfl⟩
      · exact hrest h
    · split at h
      · rcases List.mem_cons.mp h with rfl | h
        · exact ⟨a, List.mem_cons_self, rfl, rfl⟩
        · exact hrest h
      · rcases List.mem_cons.mp h with rfl | h
        · exact ⟨o, List.mem_cons_self, rfl, rfl⟩
        · exact hrest h

theorem Team.IssuedOp.complete {t : Team} {id : Nat} (h : t.IssuedOp id) (perf : Nat) : (t.complete id perf).IssuedOp id := by
  intro o ho hid
  obtain ⟨p, hp, hpid, hpi⟩ := Team.mem_countDone_go (List.mem_filter.mp ho).1
  obtain ⟨q, hq, rfl⟩ := List.mem_map.mp hp
  by_cases hqid : q.id = id
  · simpa [hpi, hqid] using h q hq hqid
  · exact absurd (hpid.symm.trans hid) (by simp [hqid])

/-! ## The word in progress of a team that hands accesses over -/

/-- A change of a team that leaves its word in progress. -/
def Team.KeepsWord (t u : Team) : Prop := u.ctx = t.ctx

theorem Team.keepsWord_addLanding (t : Team) (l : Landing) : t.KeepsWord (t.addLanding l) := by
  rw [Team.KeepsWord, Team.addLanding_eq]

theorem Team.keepsWord_orderAfter (t : Team) (id : Nat) : t.KeepsWord (t.orderAfter id) := by
  unfold Team.KeepsWord Team.orderAfter
  split
  · rfl
  · split <;> rfl

theorem OnTeam.keepsWord_refl (s : State) (z : Nat) : OnTeam Team.KeepsWord s z s := OnTeam.refl (r := Team.KeepsWord) (fun _ => rfl) s z

theorem OnTeam.keepsWord_trans {s t u : State} {z : Nat} (h : OnTeam Team.KeepsWord s z t) (h' : OnTeam Team.KeepsWord t z u) :
    OnTeam Team.KeepsWord s z u := OnTeam.trans (r := Team.KeepsWord) (fun hab hbc => Eq.trans hbc hab) h h'

theorem OnTeam.keepsWord_handOver (s : State) (e : Env) (i : Instr) (l : List Access) : OnTeam Team.KeepsWord s e.z (s.handOver e i l) :=
  ⟨_, rfl, fun _ => rfl⟩

theorem OnTeam.keepsWord_land (s : State) (z : Nat) (l : Landing) : OnTeam Team.KeepsWord s z (s.land z l) :=
  ⟨_, rfl, fun t => t.keepsWord_addLanding l⟩

/-- The empty landing of an operation that executes no pass. -/
theorem OnTeam.keepsWord_landLanes (s : State) (e : Env) (i : Instr) (k : Kind) (reg : Nat) (vals : List LaneVal) (flags : FFlags) :
    OnTeam Team.KeepsWord s e.z (s.landLanes e i k reg vals flags) := by
  unfold State.landLanes
  split
  · exact .keepsWord_refl ..
  · exact .keepsWord_land ..

/-- Accesses handed over with the landing of the operation's result, which waits for their reply (R185). -/
def State.handAwaited (s : State) (e : Env) (i : Instr) (reg : Nat) (l : List Access) : State :=
  match i.result with
  | none => s
  | some (fl, lat) => (s.handOver e i l).land e.z (e.awaited i .mu fl reg lat (e.opId i) (l.map Access.lane))

theorem State.handAwaited_eq {s : State} {e : Env} {i : Instr} {reg lat : Nat} {fl : RFile} (hr : i.result = some (fl, lat))
    (l : List Access) : s.handAwaited e i reg l =
      (s.handOver e i l).land e.z (e.awaited i .mu fl reg lat (e.opId i) (l.map Access.lane)) := by
  unfold State.handAwaited
  rw [hr]

theorem OnTeam.keepsWord_handAwaited (s : State) (e : Env) (i : Instr) (reg : Nat) (l : List Access) :
    OnTeam Team.KeepsWord s e.z (s.handAwaited e i reg l) := by
  unfold State.handAwaited
  split
  · exact .keepsWord_refl ..
  · exact (OnTeam.keepsWord_handOver s e i l).keepsWord_trans (.keepsWord_land ..)

/-- What a load and an atomic share: each pass hands over the accesses acc of its enabled lanes, and the result waits for the reply. -/
def runAwaited (i : Instr) (md : BitVec 6) (acc : Env → Nat → Option Access) (s : State) : Host.Outcome State Fault Refusal :=
  runLanes i s (fun _ => true) (fun e p s => s.handAwaited e i md.toNat ((lanesIn e.t i.maskOf p).filterMap (acc e)))
    fun e s => (if (e.runPasses i).isEmpty then s.landLanes e i .mu md.toNat [] 0 else s).handedOver e i

theorem runFarLoad_eq (i : Instr) (md : BitVec 6) (s : State) :
    runFarLoad i md s = runAwaited i md (fun e l => e.access i l 4 0 false 0) s := rfl

theorem runFarAtomic_eq (i : Instr) (md : BitVec 6) (ob : Sel) (s : State) : runFarAtomic i md ob s =
    runAwaited i md (fun e l => e.access i l 4 ((e.lane .vm ob l).setWidth 64) (e.laneP ob l) (e.casVal md l)) s := rfl

/-! ## Completion of the issue (R183) -/

/-- A slot that issues its operation and commits, after changes that leave its word, has completed its issue. -/
theorem Slot.Completes.of_issue {s v : State} {i : Instr} {x : Slot} {g : Team → Team} (h : s.runningSlot i = some x)
    (hv : OnTeam Team.KeepsWord x.e.s x.e.z v) (hword : ∀ t : Team, t.KeepsWord (g t)) (hop : ∀ t, (g t).IssuedOp (x.e.opId i))
    (hx : exec i s = .next (x.doneIn (v.updTeam x.e.z g))) : x.Completes i s := by
  obtain ⟨f, rfl, hf⟩ := hv
  obtain ⟨ht, -, hc, hk, -, -⟩ := State.runningSlot_env h
  rw [State.updTeam_updTeam, Slot.doneIn, State.updTeam_setSt] at hx
  refine ⟨_, (g (f x.e.t)).setOpSt x.k .done, hx, ?_, ?_, fun o ho => ?_⟩
  · simp [State.updTeam, AL.get?_upd_eq, ht]
  · have hctx : (g (f x.e.t)).ctx = some x.e.c := ((hword _).trans (hf _)).trans hc
    simp [Team.setOpSt, hctx, hk]
  · exact hop (f x.e.t) o (List.mem_of_find?_eq_some ho) (by simpa using List.find?_some ho)

/-- The issue after the last pass: complete at once when the operation has made no access. -/
def Env.issueOp (e : Env) (i : Instr) (t : Team) : Team :=
  let t := t.orderAfter (e.opId i)
  if t.ops.any fun o => o.id == e.opId i && o.accs.isEmpty && o.got.isEmpty && o.perf == 0 && (e.runPasses i).isEmpty then
    t.complete (e.opId i) 4
  else t

theorem State.handedOver_eq (s : State) (e : Env) (i : Instr) : s.handedOver e i = s.updTeam e.z (e.issueOp i) := rfl

theorem Env.keepsWord_issueOp (e : Env) (i : Instr) (t : Team) : t.KeepsWord (e.issueOp i t) := by
  unfold Env.issueOp
  dsimp only
  split
  · exact t.keepsWord_orderAfter (e.opId i)
  · exact t.keepsWord_orderAfter (e.opId i)

theorem Env.issuedOp_issueOp (e : Env) (i : Instr) (t : Team) : (e.issueOp i t).IssuedOp (e.opId i) := by
  unfold Env.issueOp
  dsimp only
  split
  · exact (t.issuedOp_orderAfter (e.opId i)).complete 4
  · exact t.issuedOp_orderAfter (e.opId i)

/-- An operation that has executed a pass only issues. -/
theorem Env.issueOp_of_pass {e : Env} {i : Instr} {p : Nat} (hp : p ∈ e.runPasses i) : e.issueOp i = fun t => t.orderAfter (e.opId i) := by
  have hne : (e.runPasses i).isEmpty = false := List.isEmpty_eq_false_iff.mpr (List.ne_nil_of_mem hp)
  funext t
  simp [Env.issueOp, hne]

/-- In the clock in which a per-lane operation may commit, it commits. -/
theorem Slot.commits_of_lastClock {x : Slot} {i : Instr} (h : x.lastClock i) : x.commits i = true := by
  obtain ⟨-, hfree, hq, hw⟩ := h
  simp only [Slot.commits, Bool.and_eq_true, List.all_eq_true, Option.any_eq_true, decide_eq_true_eq, Bool.or_eq_true, Bool.not_eq_true',
    List.isEmpty_iff]
  refine ⟨⟨hq, hfree⟩, ?_⟩
  cases hcw : commitsWhole i with
  | false => exact .inl rfl
  | true => exact .inr (hw hcw)

/-- A per-lane operation in that clock: its pass of the clock, if it has one, and its commit. -/
theorem runLanes_lastClock {i : Instr} {s : State} {x : Slot} {ready : Env → Bool} {eff : Env → Nat → State → State}
    {fin : Env → State → State} (h : s.runningSlot i = some x) (hl : x.lastClock i) (hr : x.o.st = .pending → ready x.e = true) :
    ∃ v, (v = x.e.s ∨ ∃ p, v = eff x.e p x.e.s) ∧ runLanes i s ready eff fin = .next (x.doneIn (fin x.e v)) := by
  have hrun : runLanes i s ready eff fin = .next (x.laneClock i eff fin) := by
    unfold runLanes
    rw [runSlot_runs _ h]
    rcases hl.1 with hp | ⟨hp, hq⟩
    · simp only [hp]
    · simp only [hp, hq, hr hp, Bool.and_self, if_true]
  unfold Slot.laneClock at hrun
  rw [if_pos (Slot.commits_of_lastClock hl)] at hrun
  refine ⟨_, ?_, hrun⟩
  split
  · exact .inl rfl
  · split
    · exact .inr ⟨_, rfl⟩
    · exact .inl rfl

/-- A per-lane operation whose passes and commit leave its word, and that issues as it commits. -/
theorem Slot.Completes.of_lanes {s : State} {i : Instr} {x : Slot} {eff : Env → Nat → State → State} {fin : Env → State → State}
    (hexec : exec i s = runLanes i s (fun _ => true) eff fun e s => (fin e s).handedOver e i)
    (heff : ∀ p s, OnTeam Team.KeepsWord s x.e.z (eff x.e p s)) (hfin : ∀ s, OnTeam Team.KeepsWord s x.e.z (fin x.e s))
    (h : s.runningSlot i = some x) (hl : x.lastClock i) : x.Completes i s := by
  obtain ⟨v, hv, hrun⟩ := runLanes_lastClock (ready := fun _ => true) (eff := eff) (fin := fun e s => (fin e s).handedOver e i) h hl
    fun _ => rfl
  have hvw : OnTeam Team.KeepsWord x.e.s x.e.z v := by
    rcases hv with rfl | ⟨p, rfl⟩
    · exact .keepsWord_refl ..
    · exact heff p _
  exact Slot.Completes.of_issue h (hvw.keepsWord_trans (hfin v)) (x.e.keepsWord_issueOp i) (x.e.issuedOp_issueOp i)
    (hexec.trans (hrun.trans (by rw [State.handedOver_eq])))

section
variable {s : State} {i : Instr} {x : Slot} (h : s.runningSlot i = some x) (hl : x.lastClock i)
include h hl

theorem Slot.Completes.of_awaited {md : BitVec 6} {acc : Env → Nat → Option Access} (hexec : exec i s = runAwaited i md acc s) :
    x.Completes i s := by
  refine Slot.Completes.of_lanes hexec (fun _ _ => .keepsWord_handAwaited ..) (fun s => ?_) h hl
  split
  · exact .keepsWord_landLanes ..
  · exact .keepsWord_refl ..

theorem Slot.Completes.of_farLoad {md : BitVec 6} (hexec : exec i s = runFarLoad i md s) : x.Completes i s :=
  .of_awaited h hl (hexec.trans (runFarLoad_eq ..))

theorem Slot.Completes.of_farAtomic {md : BitVec 6} {ob : Sel} (hexec : exec i s = runFarAtomic i md ob s) : x.Completes i s :=
  .of_awaited h hl (hexec.trans (runFarAtomic_eq ..))

theorem Slot.Completes.of_farStore {data : Sel} (hexec : exec i s = runFarStore i data s) : x.Completes i s :=
  Slot.Completes.of_lanes (fin := fun _ s => s) hexec (fun _ _ => .keepsWord_handOver ..) (fun _ => .keepsWord_refl ..) h hl

end

end Sys2Proof.Machine
end

section
/-!
PROOF. The clocks of global and bench-remote operations (R183, R185, R188 to R190): each pass hands over its accesses, and a load's or an
atomic's landing waits for the reply.
-/
namespace Sys2Proof.Machine

/-! ## What a pass hands over (R183, R185) -/

/-- A team whose operation has been handed accesses in the clock of a slot's view. -/
def Env.handed (e : Env) (i : Instr) (l : List Access) (t : Team) : Team :=
  t.updOp (e.opId i) fun o => { o with accs := o.accs ++ l, sentAt := e.s.clock }

theorem Env.handOver_eq (e : Env) (i : Instr) (l : List Access) : e.s.handOver e i l = e.s.updTeam e.z (e.handed i l) := rfl

/-- That team with the landing that waits for the reply to them (R185). -/
def Env.handedAwaited (e : Env) (i : Instr) (fl : RFile) (reg : Nat) (l : List Access) (t : Team) : Team :=
  (e.handed i l t).addLanding
    { due := e.c.t + 24 + (if i.readsQueue then 3 else 0), file := fl, reg := reg, pair := false, bal := false, vals := [], flags := 0,
      pend := some (e.opId i), lanes := l.map Access.lane, key := some (landKey e.slot .mu) }

theorem Env.handOver_land_eq {e : Env} {i : Instr} (hp : i.pairDest = false) (hb : i.isBallot = false) (fl : RFile) (reg : Nat)
    (l : List Access) : (e.s.handOver e i l).land e.z (e.awaited i .mu fl reg 24 (e.opId i) (l.map Access.lane)) =
      e.s.updTeam e.z (e.handedAwaited i fl reg l) := by
  rw [Env.handOver_eq, State.land, State.updTeam_updTeam]
  simp only [Env.awaited, Env.landing, Instr.qx, hp, hb]
  rfl

theorem Env.lane_of_access {e : Env} {i : Instr} {l size : Nat} {v : Word} {p : Bool} {c : Lane} {a : Access}
    (h : e.access i l size v p c = some a) : a.lane = l := by
  obtain ⟨q, -, rfl⟩ := Option.map_eq_some_iff.mp h
  rfl

/-- A slot's clock of pass p changes its team by f: the operation goes on, or after its last pass issues and has committed (R84, R183). -/
def Slot.PassClock (x : Slot) (i : Instr) (s : State) (p : Nat) (f : Team → Team) : Prop :=
  (x.inPass i p → x.last i p = false → exec i s = .next ((x.e.s.updTeam x.e.z f).setSt x.e.z x.k .running)) ∧
    (x.inPass i p → x.last i p = true →
      exec i s = .next (x.doneIn (x.e.s.updTeam x.e.z fun t => (f t).orderAfter (x.e.opId i))))

section
variable {s : State} {i : Instr} {x : Slot} (h : s.runningSlot i = some x)
include h

/-- The clocks of an operation whose commit, after a pass, only issues it. -/
theorem Slot.passClock_of_lanes {p : Nat} {eff : Env → Nat → State → State} {fin : Env → State → State} {f : Team → Team}
    (hexec : exec i s = runLanes i s (fun _ => true) eff fun e s => (fin e s).handedOver e i)
    (heff : eff x.e p x.e.s = x.e.s.updTeam x.e.z f) (hfin : p ∈ x.e.runPasses i → ∀ v, fin x.e v = v) : x.PassClock i s p f := by
  refine ⟨fun hin hlast => ?_, fun hin hlast => ?_⟩
  · rw [hexec, runLanes_pass h hin fun _ => rfl, hlast, heff]
    rfl
  · have hmem : p ∈ x.e.runPasses i := hin.2.1
    rw [hexec, runLanes_pass h hin fun _ => rfl, if_pos hlast, heff, hfin hmem, State.handedOver_eq, Env.issueOp_of_pass hmem,
      State.updTeam_updTeam]

theorem Slot.passClock_of_awaited {p : Nat} {fl : RFile} {md : BitVec 6} {acc : Env → Nat → Option Access}
    (hexec : exec i s = runAwaited i md acc s) (hr : i.result = some (fl, 24)) (hp : i.pairDest = false) (hb : i.isBallot = false) :
    x.PassClock i s p (x.e.handedAwaited i fl md.toNat ((lanesIn x.e.t i.maskOf p).filterMap (acc x.e))) := by
  refine Slot.passClock_of_lanes h hexec ?_ fun hmem v => ?_
  · rw [State.handAwaited_eq hr, Env.handOver_land_eq hp hb]
  · exact if_neg fun he => List.ne_nil_of_mem hmem (List.isEmpty_iff.mp he)

theorem Slot.passClock_of_farLoad {p : Nat} {fl : RFile} {md : BitVec 6} (hexec : exec i s = runFarLoad i md s)
    (hr : i.result = some (fl, 24)) (hp : i.pairDest = false) (hb : i.isBallot = false) :
    x.PassClock i s p (x.e.handedAwaited i fl md.toNat ((lanesIn x.e.t i.maskOf p).filterMap fun l => x.e.access i l 4 0 false 0)) :=
  Slot.passClock_of_awaited (acc := fun e l => e.access i l 4 0 false 0) h (hexec.trans (runFarLoad_eq ..)) hr hp hb

theorem Slot.passClock_of_farAtomic {p : Nat} {fl : RFile} {md : BitVec 6} {ob : Sel} (hexec : exec i s = runFarAtomic i md ob s)
    (hr : i.result = some (fl, 24)) (hp : i.pairDest = false) (hb : i.isBallot = false) :
    x.PassClock i s p (x.e.handedAwaited i fl md.toNat ((lanesIn x.e.t i.maskOf p).filterMap fun l =>
      x.e.access i l 4 ((x.e.lane .vm ob l).setWidth 64) (x.e.laneP ob l) (x.e.casVal md l))) :=
  Slot.passClock_of_awaited (acc := fun e l => e.access i l 4 ((e.lane .vm ob l).setWidth 64) (e.laneP ob l) (e.casVal md l)) h
    (hexec.trans (runFarAtomic_eq ..)) hr hp hb

theorem Slot.passClock_of_farStore {p : Nat} {data : Sel} (hexec : exec i s = runFarStore i data s) :
    x.PassClock i s p (x.e.handed i ((lanesIn x.e.t i.maskOf p).filterMap fun l =>
      x.e.access i l 4 ((x.e.lane .vm data l).setWidth 64) (x.e.laneP data l) 0)) :=
  Slot.passClock_of_lanes (fin := fun _ s => s) h hexec rfl fun _ _ => rfl

end

/-! ## The 64-bit load and store (R189) -/

section
variable {s : State} {x : Slot} {md : BitVec 6} {ab : BitVec 5} {oa : Sel} {st : Strm}

theorem exec_muLdga {a : Access} (h : s.runningSlot (.muLdga md ab oa st) = some x) (hq : x.e.queueReady (.muLdga md ab oa st) = true)
    (ha : x.e.access (.muLdga md ab oa st) 0 8 0 false 0 = some a) :
    exec (.muLdga md ab oa st) s = .next (x.doneIn (((x.e.s.handOver x.e (.muLdga md ab oa st) [a]).land x.e.z
      (x.e.awaited (.muLdga md ab oa st) .mu .a md.toNat 24 (x.e.opId (.muLdga md ab oa st)) [0])).updTeam x.e.z fun t =>
        t.orderAfter (x.e.opId (.muLdga md ab oa st)))) := by
  show execMuLdga md ab oa st s = _
  unfold execMuLdga
  rw [runScalar_done h hq rfl, ha]
  rfl

theorem exec_muLdga_noPlace (h : s.runningSlot (.muLdga md ab oa st) = some x) (hq : x.e.queueReady (.muLdga md ab oa st) = true)
    (ha : x.e.access (.muLdga md ab oa st) 0 8 0 false 0 = none) :
    exec (.muLdga md ab oa st) s =
      .next (x.doneIn (x.e.s.updTeam x.e.z fun t => t.orderAfter (x.e.opId (.muLdga md ab oa st)))) := by
  show execMuLdga md ab oa st s = _
  unfold execMuLdga
  rw [runScalar_done h hq rfl, ha]
  rfl

theorem exec_muStga {a : Access} (h : s.runningSlot (.muStga md ab oa st) = some x) (hq : x.e.queueReady (.muStga md ab oa st) = true)
    (ha : x.e.access (.muStga md ab oa st) 0 8 (x.e.t.a.get md.toNat) false 0 = some a) :
    exec (.muStga md ab oa st) s = .next (x.doneIn ((x.e.s.handOver x.e (.muStga md ab oa st) [a]).updTeam x.e.z fun t =>
      t.orderAfter (x.e.opId (.muStga md ab oa st)))) := by
  show execMuStga md ab oa st s = _
  unfold execMuStga
  rw [runScalar_done h hq rfl, ha]

theorem exec_muStga_noPlace (h : s.runningSlot (.muStga md ab oa st) = some x) (hq : x.e.queueReady (.muStga md ab oa st) = true)
    (ha : x.e.access (.muStga md ab oa st) 0 8 (x.e.t.a.get md.toNat) false 0 = none) :
    exec (.muStga md ab oa st) s =
      .next (x.doneIn (x.e.s.updTeam x.e.z fun t => t.orderAfter (x.e.opId (.muStga md ab oa st)))) := by
  show execMuStga md ab oa st s = _
  unfold execMuStga
  rw [runScalar_done h hq rfl, ha]

theorem Slot.Completes.muLdga (h : s.runningSlot (.muLdga md ab oa st) = some x) (hq : x.e.queueReady (.muLdga md ab oa st) = true) :
    x.Completes (.muLdga md ab oa st) s := by
  cases ha : x.e.access (.muLdga md ab oa st) 0 8 0 false 0 with
  | none => exact .of_issue h (.keepsWord_refl ..) (·.keepsWord_orderAfter _) (·.issuedOp_orderAfter _) (exec_muLdga_noPlace h hq ha)
  | some a =>
    exact .of_issue h ((OnTeam.keepsWord_handOver ..).keepsWord_trans (.keepsWord_land ..)) (·.keepsWord_orderAfter _)
      (·.issuedOp_orderAfter _) (exec_muLdga h hq ha)

theorem Slot.Completes.muStga (h : s.runningSlot (.muStga md ab oa st) = some x) (hq : x.e.queueReady (.muStga md ab oa st) = true) :
    x.Completes (.muStga md ab oa st) s := by
  cases ha : x.e.access (.muStga md ab oa st) 0 8 (x.e.t.a.get md.toNat) false 0 with
  | none => exact .of_issue h (.keepsWord_refl ..) (·.keepsWord_orderAfter _) (·.issuedOp_orderAfter _) (exec_muStga_noPlace h hq ha)
  | some a =>
    exact .of_issue h (.keepsWord_handOver ..) (·.keepsWord_orderAfter _) (·.issuedOp_orderAfter _) (exec_muStga h hq ha)

end

/-! ## The prefetch (R189; log entry 58) -/

/-- A prefetch that is dropped at once: the pool is full, or the address is out of range or another device's. -/
def Env.dropsPrefetch (e : Env) (va : Nat) : Prop :=
  3072 ≤ e.s.missUsed (coreOf e.z) ∨ 2 ^ 57 ≤ va ∨ (e.s.remoteNode e.t va).isSome = true

theorem Env.dropsPrefetch_iff (e : Env) (va : Nat) :
    (decide (3072 ≤ e.s.missUsed (coreOf e.z)) || decide (2 ^ 57 ≤ va) || (e.s.remoteNode e.t va).isSome) = true ↔ e.dropsPrefetch va := by
  simp only [Bool.or_eq_true, decide_eq_true_eq, Env.dropsPrefetch, or_assoc]

/-- The sector of an address that a prefetch has translated is filled in its core's L1, unless its page is not cached there. -/
def Env.prefetched (e : Env) (w : WalkRes) (pa : Nat) : State :=
  let u := e.s.useXlat (coreOf e.z) w
  if w.e.nc = true ∨ isHbm pa = false then u
  else (if u.l1Hit (coreOf e.z) pa then u
    else (u.refetch (coreOf e.z) pa 1 w.e.attr).l2Range (coreOf e.z) pa 1 w.e.attr false).l1Fill (coreOf e.z) pa

section
variable {s : State} {x : Slot} {ab : BitVec 5} {oa : Sel} {st : Strm} (h : s.runningSlot (.muPfg ab oa st) = some x)
  (hq : x.e.queueReady (.muPfg ab oa st) = true)
include h hq

theorem exec_muPfg_dropped (hd : x.e.dropsPrefetch (x.e.scalarAddr ab oa).toNat) : exec (.muPfg ab oa st) s =
    .next (x.doneIn (x.e.s.updTeam x.e.z fun t => t.orderAfter (x.e.opId (.muPfg ab oa st)))) := by
  show execMuPfg ab oa st s = _
  unfold execMuPfg
  rw [runScalar_done h hq rfl]
  dsimp only
  rw [if_pos ((x.e.dropsPrefetch_iff _).mpr hd)]

variable (hd : ¬x.e.dropsPrefetch (x.e.scalarAddr ab oa).toNat)
include hd

theorem exec_muPfg_fails {er : XErr}
    (ht : x.e.s.translate (coreOf x.e.z) x.e.t.asid x.e.t.root (x.e.scalarAddr ab oa).toNat .read = .error er) : exec (.muPfg ab oa st) s =
    .next (x.doneIn (x.e.s.updTeam x.e.z fun t => t.orderAfter (x.e.opId (.muPfg ab oa st)))) := by
  show execMuPfg ab oa st s = _
  unfold execMuPfg
  rw [runScalar_done h hq rfl]
  dsimp only
  rw [if_neg ((x.e.dropsPrefetch_iff _).not.mpr hd), ht]

theorem exec_muPfg_fills {w : WalkRes} {pa : Nat}
    (ht : x.e.s.translate (coreOf x.e.z) x.e.t.asid x.e.t.root (x.e.scalarAddr ab oa).toNat .read = .ok (w, pa)) :
    exec (.muPfg ab oa st) s =
      .next (x.doneIn ((x.e.prefetched w pa).updTeam x.e.z fun t => t.orderAfter (x.e.opId (.muPfg ab oa st)))) := by
  have hnc : (w.e.nc || !isHbm pa) = true ↔ w.e.nc = true ∨ isHbm pa = false := by rw [Bool.or_eq_true, Bool.not_eq_true']
  show execMuPfg ab oa st s = _
  unfold execMuPfg Env.prefetched
  rw [runScalar_done h hq rfl]
  dsimp only
  rw [if_neg ((x.e.dropsPrefetch_iff _).not.mpr hd), ht]
  simp only [hnc]

end

/-! ## Completion of the issue of the ten forms (R183) -/

theorem Slot.lastClock_of_mayCommit {x : Slot} {i : Instr} {ready : Bool} (hp : i.perLane = true) (h : x.mayCommit i ready) :
    x.lastClock i := by
  rw [Slot.mayCommit, if_pos hp] at h
  exact h.1

theorem Slot.queueReady_of_mayCommit {x : Slot} {i : Instr} {ready : Bool} (hp : i.perLane = false) (h : x.mayCommit i ready) :
    x.e.queueReady i = true := by
  rw [Slot.mayCommit, hp, if_neg Bool.false_ne_true] at h
  exact h.1

/-- Settles O42: each form completes its issue, and its clocks hand over the accesses of their passes. -/
theorem muFarOperations : Obligations.MuFarOperations := by
  refine ⟨?_, ?_⟩
  · rintro s x i mk af fl md ab oa ob st (rfl | rfl | rfl | rfl | rfl | rfl | rfl | rfl | rfl | rfl) h hm
    · exact .of_farLoad h (Slot.lastClock_of_mayCommit rfl hm) rfl
    · exact .of_farLoad h (Slot.lastClock_of_mayCommit rfl hm) rfl
    · exact .muLdga h (Slot.queueReady_of_mayCommit rfl hm)
    · exact .of_farStore h (Slot.lastClock_of_mayCommit rfl hm) rfl
    · exact .of_farStore h (Slot.lastClock_of_mayCommit rfl hm) rfl
    · exact .muStga h (Slot.queueReady_of_mayCommit rfl hm)
    · exact .of_farAtomic h (Slot.lastClock_of_mayCommit rfl hm) rfl
    · exact .of_farLoad h (Slot.lastClock_of_mayCommit rfl hm) rfl
    · exact .of_farStore h (Slot.lastClock_of_mayCommit rfl hm) rfl
    · exact .of_farAtomic h (Slot.lastClock_of_mayCommit rfl hm) rfl
  · intro s i x p fl md data mk st h _
    dsimp only
    refine ⟨?_, ?_, ?_, ?_, ?_, ?_⟩
    · rintro ⟨ab, oa, ob, rfl | rfl | rfl⟩
      · exact Slot.passClock_of_farLoad h rfl rfl rfl rfl
      · exact Slot.passClock_of_farLoad h rfl rfl rfl rfl
      · exact Slot.passClock_of_farLoad h rfl rfl rfl rfl
    · rintro ⟨ab, oa, ob, ⟨rfl, rfl⟩ | ⟨rfl, rfl⟩ | ⟨rfl, rfl⟩⟩
      · exact Slot.passClock_of_farStore h rfl
      · exact Slot.passClock_of_farStore h rfl
      · exact Slot.passClock_of_farStore h rfl
    · rintro ⟨ab, oa, af, rfl, rfl | rfl⟩
      · exact Slot.passClock_of_farAtomic h rfl rfl rfl rfl
      · exact Slot.passClock_of_farAtomic h rfl rfl rfl rfl
    · rintro ⟨ab, oa, rfl, rfl⟩ hq a ha
      have hlanes : [0] = [a].map Access.lane := by rw [List.map_singleton, Env.lane_of_access ha]
      rw [exec_muLdga h hq ha, hlanes, Env.handOver_land_eq rfl rfl, State.updTeam_updTeam]
      rfl
    · rintro ⟨ab, oa, rfl⟩ hq a ha
      rw [exec_muStga h hq ha, Env.handOver_eq, State.updTeam_updTeam]
      rfl
    · rintro ab oa va rfl rfl hq
      exact ⟨exec_muPfg_dropped h hq, fun hd => ⟨fun er => exec_muPfg_fails h hq hd, fun w pa => exec_muPfg_fills h hq hd⟩⟩

end Sys2Proof.Machine
end

section
/-!
PROOF. The machine right after reset (R269, R406, R410, R415).
-/
namespace Sys2Proof.Machine

/-! ## The registers at reset -/

/-- A store that holds one value at some keys and nothing else reads that value there. -/
theorem SMap.get_map_const_mem {w : Nat} (f : Nat → Nat) (v : BitVec w) {l : List Nat} {k : Nat} (h : k ∈ l) :
    SMap.get (l.map fun i => (f i, v)) (f k) = v := by
  induction l with
  | nil => cases h
  | cons i l ih =>
    simp only [List.map_cons, SMap.get]
    split
    · rfl
    · exact ih ((List.mem_cons.mp h).resolve_left fun hk => ‹¬_› (congrArg f hk.symm))

/-- It reads 0 elsewhere. -/
theorem SMap.get_map_const_not_mem {w : Nat} (f : Nat → Nat) (v : BitVec w) {l : List Nat} {j : Nat} (h : ∀ k ∈ l, j ≠ f k) :
    SMap.get (l.map fun i => (f i, v)) j = 0 := by
  induction l with
  | nil => rfl
  | cons i l ih =>
    obtain ⟨hi, hl⟩ := List.forall_mem_cons.mp h
    simp only [List.map_cons, SMap.get, if_neg hi.symm, ih hl]

theorem reset_reg_mac : State.reset.reg 0x100 = stationMac.setWidth 64 := rfl

theorem stationMac_ne_zero : stationMac ≠ 0 := by
  unfold stationMac
  split
  · decide
  · assumption

theorem setWidth_stationMac_ne_zero : stationMac.setWidth 64 ≠ 0 := by
  have h := stationMac_ne_zero
  bv_omega

/-- A register other than NET.MAC is looked up among the way masks. -/
theorem reset_reg_of_ne {off : Nat} (h : off ≠ 0x100) :
    State.reset.reg off = SMap.get ((List.range 128).map fun k => (0x110000 + 8 * k, (0xFFFF : Word))) off := by
  show SMap.get resetRegs off = _
  rw [resetRegs, SMap.get, if_neg h.symm]

theorem reset_reg_wmask {k : Nat} (h : k < 128) : State.reset.reg (0x110000 + 8 * k) = 0xFFFF := by
  rw [reset_reg_of_ne (by omega)]
  exact SMap.get_map_const_mem (fun k => 0x110000 + 8 * k) 0xFFFF (List.mem_range.mpr h)

theorem reset_reg_eq_zero {off : Nat} (hmac : off ≠ 0x100) (hwm : ∀ k, k < 128 → off ≠ 0x110000 + 8 * k) : State.reset.reg off = 0 := by
  rw [reset_reg_of_ne hmac]
  exact SMap.get_map_const_not_mem (fun k => 0x110000 + 8 * k) 0xFFFF fun k hk => hwm k (List.mem_range.mp hk)

/-- Every store is empty at reset. -/
theorem State.reset_isCanonical : State.reset.Canonical := ⟨rfl, rfl, rfl, rfl, rfl, rfl⟩

/-- Settles O58: the units are empty as written; a register is looked up in the two groups of the reset values. -/
theorem resetState : Obligations.ResetState := by
  refine ⟨rfl, rfl, rfl, rfl, rfl, rfl, ?_, ?_, fun k hk => reset_reg_wmask hk, fun off hmac hwm => reset_reg_eq_zero hmac hwm,
    fun a => ⟨SMap.get_nil a, SMap.get_nil a⟩, State.reset_isCanonical⟩
  · exact reset_reg_eq_zero (by decide) fun k _ => by omega
  · rw [reset_reg_mac]
    exact setWidth_stationMac_ne_zero

end Sys2Proof.Machine
end

section
/-!
PROOF. The memory configuration: the address-range table (R268), way-masks (R269, R270), invalidation (R285), dirty-page filters (R287),
fusion (R263), scrub reads (R288 to R290), and writes of plain registers (R406, R407, R415).
-/
namespace Sys2Proof.Machine

/-! ## The address-range table -/

/-- An accepted GO: the staged entry is sound and no commit runs. -/
theorem State.artctlWrite_go {s s' : State} {v : Word} {i : Nat} (hgo : v.getLsbD 8 = true) (herr : v.getLsbD 10 = false)
    (hi : i = v.toNat % 64) (hs : s' = s.putReg artctlOff 0 6 v.toNat) (hbusy : (s'.reg artctlOff).getLsbD 9 = false)
    (hart : artValid (s'.reg (memBase + 0x20000 + 16 * i)) (s'.reg (memBase + 0x20008 + 16 * i)) = true) :
    s.artctlWrite v = ((s'.putReg artctlOff 9 1 1).putReg artctlOff 10 1 0).putReg artctlOff 32 6 i := by
  subst hi hs
  unfold State.artctlWrite
  dsimp only
  rw [herr, if_neg Bool.false_ne_true, hgo, if_neg (by decide), hbusy, hart]
  rfl

/-- A commit that runs ends: the staged entry is installed, and the lines of both ranges leave the caches. -/
theorem exec_artCommitComplete {s : State} {i : Nat} (hbusy : (s.reg artctlOff).getLsbD 9 = true) (hi : i = s.regBits artctlOff 32 6) :
    ∃ u, exec .artCommitComplete s = .next u ∧ u.regs = (s.putReg artctlOff 9 1 0).regs ∧
      u.artNow = (s.artNow.set (16 * i) (s.reg (memBase + 0x20000 + 16 * i))).set (16 * i + 8) (s.reg (memBase + 0x20008 + 16 * i)) ∧
      { u with regs := s.regs, artNow := s.artNow, cores := s.cores, l2 := s.l2 } = s := by
  subst hi
  refine ⟨_, rfl, ?_⟩
  rw [hbusy]
  exact ⟨rfl, rfl, rfl⟩

/-! ## Way-masks -/

/-- An accepted write: no conversion of the slice runs, and two ways or more go on caching. -/
theorem State.wmaskWrite_accepted {s : State} {k x : Nat} {v : Word} (hbusy : (s.reg (wmaskOff k)).getLsbD 32 = false)
    (herr : v.getLsbD 33 = false) (htwo : 2 ≤ (bitList 16 (v.toNat % 2 ^ 16)).length)
    (hx : x = (s.reg (wmaskOff k)).toNat % 2 ^ 16 ^^^ v.toNat % 2 ^ 16) :
    s.wmaskWrite k v = { ((((s.putReg (wmaskOff k) 0 16 v.toNat).putReg (wmaskOff k) 16 16 x).putReg (wmaskOff k) 32 1
        (if x = 0 then 0 else 1)).putReg (wmaskOff k) 33 1 0) with
      wayNow := s.wayNow.set k (s.wayNow.get k &&& ~~~(BitVec.ofNat 16 x)),
      holds := s.holds ++ (bitList 16 x).map fun w => 16 * k + w } := by
  subst hx
  have hfew : ¬ ((s.reg (wmaskOff k)).getLsbD 32 || decide ((bitList 16 (v.toNat % 2 ^ 16)).length < 2)) = true := by
    rw [hbusy, Bool.false_or, decide_eq_true_iff]
    omega
  unfold State.wmaskWrite
  dsimp only
  rw [herr, if_neg Bool.false_ne_true, if_neg hfew]
  rfl

/-- A way's bytes read 0 again and no others. -/
theorem State.zeroWay_mem (s : State) (base : Nat) :
    (s.zeroWay base).mem = s.mem.keep fun a => decide (a < base ∨ base + 2 ^ 17 ≤ a) := by
  unfold State.zeroWay
  dsimp only
  congr 1
  funext a
  rw [Bool.eq_iff_iff]
  simp only [Nat.div_one, Bool.not_eq_true', Bool.and_eq_false_iff, decide_eq_false_iff_not, decide_eq_true_eq]
  omega

/-- A conversion that no access holds up ends. -/
theorem exec_wayConversionComplete {s : State} {k way : Nat} (hway : way < 16) (hbit : (s.reg (wmaskOff k)).getLsbD (16 + way) = true)
    (huse : s.wayInUse k way = false) :
    ∃ u, exec (.wayConversionComplete k way) s = .next u ∧ u.holds = s.holds.filter (fun h => h != 16 * k + way) ∧
      u.mem = s.mem.keep (fun a => decide (a < 2 ^ 51 + 2 ^ 21 * k + 2 ^ 17 * way ∨ 2 ^ 51 + 2 ^ 21 * k + 2 ^ 17 * way + 2 ^ 17 ≤ a)) ∧
      { u with mem := s.mem, memP := s.memP, cores := s.cores, holds := s.holds, wayNow := s.wayNow, l2 := s.l2, regs := s.regs } = s := by
  have hgo : ¬ (!(s.reg (wmaskOff k)).getLsbD (16 + way) || decide (16 ≤ way) || s.wayInUse k way) = true := by
    simpa [hbit, huse] using hway
  rw [← State.zeroWay_mem]
  refine ⟨_, rfl, ?_⟩
  dsimp only
  rw [if_neg hgo]
  split <;> split <;> exact ⟨rfl, rfl, rfl⟩

/-! ## Invalidation -/

/-- An accepted GO: none runs, and NLOG is one of R285's. -/
theorem State.invctlWrite_go {s s' : State} {v : Word} (hgo : v.getLsbD 24 = true) (herr : v.getLsbD 26 = false)
    (hs : s' = s.putReg invctlOff 0 24 v.toNat) (hbusy : (s'.reg invctlOff).getLsbD 25 = false) (hn : v.toNat / 2 ^ 16 % 64 ≤ 45) :
    s.invctlWrite v = ((s'.putReg invctlOff 25 1 1).putReg invctlOff 32 24 v.toNat).setReg invRunOff
      (BitVec.ofNat 64 (s'.regBits (memBase + 0x30000) 12 45)) := by
  subst hs
  have hfree : ¬ (((s.putReg invctlOff 0 24 v.toNat).reg invctlOff).getLsbD 25 || decide (45 < v.toNat / 2 ^ 16 % 64)) = true := by
    rw [hbusy, Bool.false_or, decide_eq_true_iff]
    omega
  unfold State.invctlWrite
  dsimp only
  rw [herr, if_neg Bool.false_ne_true, hgo, if_neg (by decide), if_neg hfree]

theorem exec_invalidationComplete {s : State} (hbusy : (s.reg invctlOff).getLsbD 25 = true) (hfree : s.invBusy = false) :
    exec .invalidationComplete s = .next { (s.putReg invctlOff 25 1 0) with
      cores := s.cores.map fun x => (x.1, { x.2 with tlb := x.2.tlb.filter fun e => !(s.invAsid e.asid && s.invPages e.vpn e.pages) }),
      walkers := s.walkers.map fun x => (x.1, x.2.filter fun e =>
        !(s.invAsid e.asid && s.invPages (e.va * 2 ^ (9 * e.k)) (2 ^ (9 * e.k)))) } := by
  refine congrArg Host.Outcome.next ?_
  rw [hbusy, hfree]
  exact if_neg (by decide)

/-! ## Dirty-page filters -/

theorem exec_filterEmptied {s : State} (hgo : (s.reg dtctlOff).getLsbD 1 = true) :
    exec .filterEmptied s = .next { (s.putReg dtctlOff 1 1 0) with dfilter := [] } := by
  refine congrArg Host.Outcome.next ?_
  rw [hgo]
  exact if_neg (by decide)

/-! ## Fusion -/

/-- The fused benches after one bench's change. -/
theorem mem_fused_after {bench y : Nat} (on : Bool) (l : List Nat) :
    y ∈ (if on then bench :: l.filter fun b => b != bench else l.filter fun b => b != bench) ↔
      if y = bench then on = true else y ∈ l := by
  by_cases hy : y = bench <;> cases on <;> simp [hy]

/-- A change that no load of the bench holds up takes effect. -/
theorem exec_fusionChange {s : State} {bench : Nat} {on : Bool} (h : s.fusing.get? bench = some on) (hl : s.benchLoads bench = false) :
    ∃ u, exec (.fusionChange bench) s = .next u ∧ (bench ∈ u.fused ↔ on = true) ∧ (∀ y, y ≠ bench → (y ∈ u.fused ↔ y ∈ s.fused)) ∧
      u.fusing = s.fusing.del bench ∧ (∀ x ∈ u.cores, x.1 / 8 = bench → x.2.l1 = []) ∧
      { u with fused := s.fused, fusing := s.fusing, cores := s.cores } = s := by
  refine ⟨_, rfl, ?_⟩
  simp only [h, hl, Bool.false_eq_true, if_false]
  refine ⟨(mem_fused_after on s.fused).trans (by rw [if_pos rfl]), fun y hy => (mem_fused_after on s.fused).trans (by rw [if_neg hy]), trivial,
    fun x hx hb => ?_, trivial⟩
  obtain ⟨y, -, rfl⟩ := List.mem_map.mp hx
  split at hb
  · rw [if_pos ‹_›]
  · exact absurd hb ‹_›

/-! ## Plain registers -/

/-- What a platform register keeps of a write by a master that may write it. -/
theorem State.sysWrite_plain {s : State} {m : Master} {off : Nat} {v : Word} {r : RegRule} (hr : regRule off = some r) (hoff : off < 0x100000)
    (hm : m = .host → off < 0x100 ∨ 0x128 ≤ off) : s.sysWrite m off v = some (s.plainWrite off r v) := by
  have hserved : s.served off = true := by simp [State.served, hr, hoff]
  have hhost : ¬ (!s.served off || (m == .host && decide (0x100 ≤ off) && decide (off < 0x128))) = true := by
    rw [hserved, Bool.not_true, Bool.false_or, Bool.and_eq_true, Bool.and_eq_true, beq_iff_eq, decide_eq_true_iff, decide_eq_true_iff]
    intro ⟨⟨hh, hlo⟩, hhi⟩
    have := hm hh
    omega
  unfold State.sysWrite
  rw [if_neg hhost, hr]
  exact if_pos hoff

/-- The host port has no access to the network registers (R415). -/
theorem State.sysWrite_host_net {s : State} {off : Nat} {v : Word} (hlo : 0x100 ≤ off) (hhi : off < 0x128) :
    s.sysWrite .host off v = none := by
  unfold State.sysWrite
  exact if_pos (by simp [hlo, hhi])

theorem exec_systemRegisterWrite_of_some {s u : State} {m : Master} {off : Nat} {v : Word} (h : s.sysWrite m off v = some u) :
    exec (.systemRegisterWrite m off v) s = .next u := congrArg (fun x : Option State => Host.Outcome.next (x.getD s)) h

theorem exec_systemRegisterWrite_of_none {s : State} {m : Master} {off : Nat} {v : Word} (h : s.sysWrite m off v = none) :
    exec (.systemRegisterWrite m off v) s = .next s := congrArg (fun x : Option State => Host.Outcome.next (x.getD s)) h

/-- A write of a network register is a write of a system register. -/
theorem exec_netcfgWrite {s : State} {m : Master} {off : Nat} {v : Word} (hlo : 0x100 ≤ off) (hhi : off < 0x128) :
    exec (.netcfgWrite m off v) s = exec (.systemRegisterWrite m off v) s :=
  congrArg Host.Outcome.next (if_pos (by simp [hlo, hhi]))

/-- Settles O52: each step takes the branch that its hypotheses leave. -/
theorem memoryConfigurationSteps : Obligations.MemoryConfigurationSteps := by
  refine ⟨fun s s' v i hgo herr hi hs hbusy hart => congrArg Host.Outcome.next (State.artctlWrite_go hgo herr hi hs hbusy hart),
    fun s i hbusy hi => exec_artCommitComplete hbusy hi,
    fun s k x v hbusy herr htwo hx => congrArg Host.Outcome.next (State.wmaskWrite_accepted hbusy herr htwo hx),
    fun s k way hway hbit huse => exec_wayConversionComplete hway hbit huse,
    fun s s' v hgo herr hs hbusy hn => congrArg Host.Outcome.next (State.invctlWrite_go hgo herr hs hbusy hn),
    fun s hbusy hfree => exec_invalidationComplete hbusy hfree,
    fun s => ⟨rfl, fun hgo => exec_filterEmptied hgo⟩,
    fun s bench on h hl => exec_fusionChange h hl,
    fun s addr => ⟨rfl, rfl, rfl⟩,
    fun s m off v r hr hoff => ⟨fun hm => exec_systemRegisterWrite_of_some (State.sysWrite_plain hr hoff hm), fun hlo hhi => ⟨?_, ?_, ?_⟩⟩⟩
  · rw [exec_netcfgWrite hlo hhi]
    exact exec_systemRegisterWrite_of_some (State.sysWrite_plain hr hoff nofun)
  · rw [exec_netcfgWrite hlo hhi]
    exact exec_systemRegisterWrite_of_none (State.sysWrite_host_net hlo hhi)
  · exact exec_systemRegisterWrite_of_none (State.sysWrite_host_net hlo hhi)

end Sys2Proof.Machine
end

section
/-!
PROOF. Every step keeps the canonical form of the stores (R260, R288). Each function of the model has one lemma: of a state with
canonical stores it makes one with canonical stores. A function that writes no store leaves the stores the very same terms, so its lemma
is its hypothesis; the others are put together from the lemmas of the functions they call, and in the end from those of this part.
-/
namespace Sys2Proof.Machine

/-! ## What an answer that holds a state says -/

/-- The state that comes with a result, if there is one, is canonical. -/
def OkCanonical {ε α : Type} (r : Except ε (State × α)) : Prop := ∀ p, r = .ok p → p.1.Canonical

/-- The state that is a result, if there is one, is canonical. -/
def OkState {ε : Type} (r : Except ε State) : Prop := ∀ u, r = .ok u → u.Canonical

/-- The state that comes with an answer, if there is one, is canonical. -/
def SomeCanonical {α : Type} (r : Option (State × α)) : Prop := ∀ p, r = some p → p.1.Canonical

/-- The state that is an answer, if there is one, is canonical. -/
def SomeState (r : Option State) : Prop := ∀ u, r = some u → u.Canonical

/-- A step that goes on leaves a canonical state. -/
def NextCanonical (r : Host.Outcome State Fault Refusal) : Prop := ∀ u, r = .next u → u.Canonical

section

variable {s u : State} {α β ε : Type}

theorem OkCanonical.ok {a : α} (h : u.Canonical) : OkCanonical (.ok (u, a) : Except ε (State × α)) := by
  rintro _ ⟨⟩
  exact h

theorem OkCanonical.error {e : ε} : OkCanonical (.error e : Except ε (State × α)) := nofun

theorem OkState.ok (h : u.Canonical) : OkState (.ok u : Except ε State) := by
  rintro _ ⟨⟩
  exact h

theorem OkState.error {e : ε} : OkState (.error e : Except ε State) := nofun

theorem SomeCanonical.some {a : α} (h : u.Canonical) : SomeCanonical (.some (u, a)) := by
  rintro _ ⟨⟩
  exact h

theorem SomeCanonical.none : SomeCanonical (none : Option (State × α)) := nofun

theorem SomeState.some (h : u.Canonical) : SomeState (.some u) := by
  rintro _ ⟨⟩
  exact h

theorem SomeState.none : SomeState none := nofun

theorem SomeState.map {f : α → State} {o : Option α} (h : ∀ a, (f a).Canonical) : SomeState (o.map f) := by
  cases o with
  | none => exact .none
  | some a => exact .some (h a)

theorem NextCanonical.next (h : u.Canonical) : NextCanonical (.next u) := by
  rintro _ ⟨⟩
  exact h

theorem NextCanonical.fault {r : Fault} : NextCanonical (.fault r) := nofun

theorem State.Canonical.of_eq {p : State × α} {a : α} (h : p.1.Canonical) (hp : p = (u, a)) : u.Canonical := by
  subst hp
  exact h

theorem State.Canonical.of_ok {r : Except ε (State × α)} {a : α} (h : OkCanonical r) (hr : r = .ok (u, a)) : u.Canonical := h _ hr

theorem State.Canonical.of_okState {r : Except ε State} (h : OkState r) (hr : r = .ok u) : u.Canonical := h _ hr

theorem State.Canonical.of_some {r : Option (State × α)} {a : α} (h : SomeCanonical r) (hr : r = some (u, a)) : u.Canonical := h _ hr

theorem State.Canonical.of_someState {r : Option State} (h : SomeState r) (hr : r = some u) : u.Canonical := h _ hr

/-- A state with the stores of a canonical one is canonical. -/
theorem State.Canonical.of_stores (h : s.Canonical) (hmem : u.mem = s.mem) (hmemP : u.memP = s.memP) (hspad : u.spad = s.spad)
    (hspadP : u.spadP = s.spadP) (hacc : u.acc = s.acc) (haccP : u.accP = s.accP) : u.Canonical := by
  unfold State.Canonical
  rw [hmem, hmemP, hspad, hspadP, hacc, haccP]
  exact h

theorem State.Canonical.ite {c : Prop} [Decidable c] (hs : s.Canonical) (hu : u.Canonical) : (if c then s else u).Canonical := by
  split
  · exact hs
  · exact hu

theorem State.Canonical.foldl {f : State → β → State} {l : List β} (hf : ∀ s b, s.Canonical → (f s b).Canonical) (h : s.Canonical) :
    (l.foldl f s).Canonical := foldl_keeps State.Canonical f hf l s h

/-- A fold over a state with what it gathers. -/
theorem State.Canonical.foldl_fst {f : State × α → β → State × α} {l : List β} {p : State × α}
    (hf : ∀ p b, p.1.Canonical → (f p b).1.Canonical) (h : p.1.Canonical) : (l.foldl f p).1.Canonical :=
  foldl_keeps (fun p => p.1.Canonical) f hf l p h

theorem State.Canonical.getD {o : Option State} (ho : SomeState o) (h : s.Canonical) : (o.getD s).Canonical := by
  cases o with
  | none => exact h
  | some u => exact ho u rfl

/-- A fold that stops where a step has no answer. -/
theorem SomeState.foldl_bind {f : State → β → Option State} {l : List β} (hf : ∀ s b, s.Canonical → SomeState (f s b)) (h : s.Canonical) :
    SomeState (l.foldl (fun a b => a.bind fun s => f s b) (Option.some s)) :=
  foldl_keeps SomeState _ (fun a b ha => by
    cases a with
    | none => exact .none
    | some u => exact hf u b (ha u rfl)) _ _ (.some h)

theorem SomeCanonical.foldl_bind {f : State × α → β → Option (State × α)} {l : List β} {a : α}
    (hf : ∀ p b, p.1.Canonical → SomeCanonical (f p b)) (h : s.Canonical) :
    SomeCanonical (l.foldl (fun a b => a.bind fun p => f p b) (Option.some (s, a))) :=
  foldl_keeps SomeCanonical _ (fun a b ha => by
    cases a with
    | none => exact .none
    | some p => exact hf p b (ha p rfl)) _ _ (.some h)

/-! ## The operations that write a store -/

theorem State.Canonical.writeMem {pa : Nat} {l : List Byte} {p : Bool} (h : s.Canonical) : (s.writeMem pa l p).Canonical :=
  s.writeMem_canonical pa l p h

theorem State.Canonical.writeSpad {k : Nat} {l : List Byte} {p : Bool} (h : s.Canonical) : (s.writeSpad k l p).Canonical :=
  s.writeSpad_canonical k l p h

theorem State.Canonical.setAccElem {k : Nat} {v : Lane} {p : Bool} (h : s.Canonical) : (s.setAccElem k v p).Canonical :=
  s.setAccElem_canonical k v p h

theorem State.Canonical.zeroWay {base : Nat} (h : s.Canonical) : (s.zeroWay base).Canonical := s.zeroWay_canonical base h

theorem State.Canonical.clearAllot {core tile0 nt : Nat} {accs : List Nat} (h : s.Canonical) : (s.clearAllot core tile0 nt accs).Canonical :=
  s.clearAllot_canonical core tile0 nt accs h

/-- A byte of memory written. -/
theorem State.Canonical.setMem (k : Nat) (v : Byte) (h : s.Canonical) : State.Canonical { s with mem := s.mem.set k v } :=
  ⟨SMap.wf_set h.1 k v, h.2⟩

/-- The poison of a granule of memory written. -/
theorem State.Canonical.setMemP (k : Nat) (v : BitVec 1) (h : s.Canonical) : State.Canonical { s with memP := s.memP.set k v } :=
  ⟨h.1, SMap.wf_set h.2.1 k v, h.2.2⟩

/-- The poison of a granule of a scratchpad written. -/
theorem State.Canonical.setSpadP (k : Nat) (v : BitVec 1) (h : s.Canonical) : State.Canonical { s with spadP := s.spadP.set k v } :=
  ⟨h.1, h.2.1, h.2.2.1, SMap.wf_set h.2.2.2.1 k v, h.2.2.2.2⟩

/-- The poison of an accumulator element written. -/
theorem State.Canonical.setAccP (k : Nat) (v : BitVec 1) (h : s.Canonical) : State.Canonical { s with accP := s.accP.set k v } :=
  ⟨h.1, h.2.1, h.2.2.1, h.2.2.2.1, h.2.2.2.2.1, SMap.wf_set h.2.2.2.2.2 k v⟩

theorem State.Canonical.clearCovered {l : List (Nat × Nat × Bool)} (h : s.Canonical) : (s.clearCovered l).Canonical := by
  unfold State.clearCovered
  exact .foldl (fun s g h => .ite (.setMemP g 0 h) h) h

theorem State.Canonical.useXlat {core : Nat} {w : WalkRes} (h : s.Canonical) : (s.useXlat core w).Canonical := by
  unfold State.useXlat
  cases w.setA with
  | none => exact h
  | some a => exact .setMem (a + 1) _ h

end

end Sys2Proof.Machine
end

section
/-!
PROOF. Memory, registers, counters, traces and the links of the fabric keep the stores canonical.
-/
namespace Sys2Proof.Machine

variable {s : State}

theorem State.Canonical.setReg {off : Nat} {v : Word} (h : s.Canonical) : (s.setReg off v).Canonical := h

theorem State.Canonical.l1Fill {core pa : Nat} (h : s.Canonical) : (s.l1Fill core pa).Canonical := h

theorem State.Canonical.l2Touch {slice pa : Nat} {write : Bool} (h : s.Canonical) : (s.l2Touch slice pa write).Canonical := by
  unfold State.l2Touch
  extract_lets
  split
  · exact h
  · split
    · exact h
    · split <;> exact h

theorem State.Canonical.l2Range {core pa n : Nat} {attr : PageAttr} {write : Bool} (h : s.Canonical) : (s.l2Range core pa n attr write).Canonical :=
  .ite h (.foldl (fun _ _ h => .ite (.l2Touch h) h) h)

theorem State.Canonical.dropViews {pa n : Nat} (h : s.Canonical) : (s.dropViews pa n).Canonical := .ite h h

theorem State.Canonical.seeAll {core pa n : Nat} (h : s.Canonical) : (s.seeAll core pa n).Canonical := h

theorem State.Canonical.pushView {core op pa : Nat} {attr : PageAttr} {old new : List Byte} {own : Bool} (h : s.Canonical) :
    (s.pushView core op pa attr old new own).Canonical := .ite h (.ite (.seeAll h) h)

theorem State.Canonical.advanceViews {core pa n : Nat} (h : s.Canonical) : (s.advanceViews core pa n).Canonical := h

theorem State.Canonical.refetch {core pa n : Nat} {attr : PageAttr} (h : s.Canonical) : (s.refetch core pa n attr).Canonical := .ite (.seeAll h) h

theorem State.Canonical.updTeam {z : Nat} {f : Team → Team} (h : s.Canonical) : (s.updTeam z f).Canonical := h

theorem State.Canonical.updBlock {k : Nat} {f : Block → Block} (h : s.Canonical) : (s.updBlock k f).Canonical := h

theorem State.Canonical.updCore {k : Nat} {f : CoreSt → CoreSt} (h : s.Canonical) : (s.updCore k f).Canonical := h

theorem State.Canonical.updPart {k : Nat} {f : Machine.Part → Machine.Part} (h : s.Canonical) : (s.updPart k f).Canonical := h

theorem State.Canonical.takeTurn {key rank : Nat} (h : s.Canonical) : (s.takeTurn key rank).Canonical := h

theorem State.Canonical.emit {o : Out} (h : s.Canonical) : (s.emit o).Canonical := .ite h (.ite h h)

theorem State.Canonical.sendPkt {n typ len : Nat} {addr : Word} {arg : Nat} {payload : List Byte} (h : s.Canonical) :
    (s.sendPkt n typ len addr arg payload).Canonical := .ite h (.emit h)

theorem State.Canonical.sendAck {n arg : Nat} (h : s.Canonical) : (s.sendAck n arg).Canonical := .ite h (.emit h)

theorem State.Canonical.sendIrq {n vec : Nat} (h : s.Canonical) : (s.sendIrq n vec).Canonical := .ite h (.sendPkt h)

theorem State.Canonical.tenantIrq {tenant vec : Nat} (h : s.Canonical) : (s.tenantIrq tenant vec).Canonical := by
  unfold State.tenantIrq
  split
  · exact .sendIrq h
  · exact h

theorem State.Canonical.platformEvent {bit : Nat} (h : s.Canonical) : (s.platformEvent bit).Canonical :=
  .ite h (.foldl (fun _ _ h => .ite (.sendIrq h) h) h)

theorem State.Canonical.putReg {off lo n v : Nat} (h : s.Canonical) : (s.putReg off lo n v).Canonical := .setReg h

theorem State.Canonical.satReg {off lo n k : Nat} (h : s.Canonical) : (s.satReg off lo n k).Canonical := .putReg h

theorem State.Canonical.ringPut {core : Nat} {l : List (List Byte)} (h : s.Canonical) : (s.ringPut core l).Canonical :=
  .foldl (fun _ _ h => .putReg (.writeMem h)) h

theorem State.Canonical.trace {core typ part slot extra : Nat} {soa : Word} (h : s.Canonical) :
    (s.trace core typ part slot extra soa).Canonical := by
  unfold State.trace
  extract_lets
  split
  · exact h
  · exact .ite h (.ite (.updCore (.satReg h)) (.updCore (.ringPut h)))

theorem State.Canonical.count {core code part : Nat} {tmode : Bool} {n : Nat} (h : s.Canonical) : (s.count core code part tmode n).Canonical :=
  .updCore h

theorem State.Canonical.countTeam {z code n : Nat} (h : s.Canonical) : (s.countTeam z code n).Canonical := .count h

theorem State.Canonical.capture {asid : BitVec 16} {pa : Nat} (h : s.Canonical) : (s.capture asid pa).Canonical :=
  .ite h (.ite (.putReg h) (.writeMem (.writeMem h)))

theorem State.Canonical.writeAs {asid : BitVec 16} {pa : Nat} {l : List Byte} {p : Bool} (h : s.Canonical) : (s.writeAs asid pa l p).Canonical :=
  .writeMem (.capture h)

theorem State.Canonical.signAtomic {asid : BitVec 16} {addr : Nat} {old : BitVec 32} (h : s.Canonical) : (s.signAtomic asid addr old).Canonical :=
  .ite (.setReg h) h

theorem State.Canonical.signTeam {t : Team} (h : s.Canonical) : (s.signTeam t).Canonical := .ite (.setReg h) h

theorem State.Canonical.updPort {p : Nat} {f : Port → Port} (h : s.Canonical) : (s.updPort p f).Canonical := h

theorem State.Canonical.sendFlits {p : Nat} (h : s.Canonical) : (s.sendFlits p).Canonical := .ite h (.foldl (fun _ _ h => .ite h (.updPort h)) h)

theorem State.Canonical.sendNak {p : Nat} (h : s.Canonical) : (s.sendNak p).Canonical := h

theorem State.Canonical.sendIdle {p : Nat} (h : s.Canonical) : (s.sendIdle p).Canonical := h

theorem State.Canonical.queuePkt {p : Nat} {k : FabPkt} {front : Bool} (h : s.Canonical) : (s.queuePkt p k front).Canonical := .updPort h

theorem State.Canonical.farAnswer {num : Nat} {x : Option Nat} {data : List Byte} {q : BitVec 64} (h : s.Canonical) :
    (s.farAnswer num x data q).Canonical := by
  unfold State.farAnswer
  split
  · exact h
  · extract_lets _ s1 _
    have h1 : s1.Canonical := h
    split
    · exact .updTeam h1
    · exact h1
    · exact h1
    · exact .updTeam h1
    · exact h1
    · exact h1

theorem State.Canonical.lostPacket {hd : FabHead} (h : s.Canonical) : (s.lostPacket hd).Canonical :=
  .ite (.farAnswer (.platformEvent h)) (.platformEvent h)

theorem State.Canonical.dropLost {r : FarReq} (h : s.Canonical) : (s.dropLost r).Canonical := .ite (.farAnswer (.platformEvent h)) h

theorem State.Canonical.sendFab {k : FabPkt} {front : Bool} (h : s.Canonical) : (s.sendFab k front).Canonical := by
  unfold State.sendFab
  extract_lets
  split
  · exact .queuePkt h
  · exact .lostPacket h

theorem State.Canonical.sendNew {hd : FabHead} {data : List Byte} {k : Nat} (h : s.Canonical) : (s.sendNew hd data k).Canonical := .sendFab h

theorem State.Canonical.sendAsk {hd : FabHead} {data : List Byte} {k : Nat} {z : Option Nat} {op : Nat} {accs : List Access} (h : s.Canonical) :
    (s.sendAsk hd data k z op accs).Canonical := .sendNew h

theorem State.Canonical.sendProbe {node : Nat} {set : BitVec 16} {line : Nat} {acc : AccKind} {z : Option Nat} {op : Nat} (h : s.Canonical) :
    (s.sendProbe node set line acc z op).Canonical := .sendAsk h

theorem State.Canonical.sendBarrier {node : Nat} {release : Bool} {set : Nat} (h : s.Canonical) : (s.sendBarrier node release set).Canonical :=
  .sendNew h

theorem State.Canonical.portDown {p : Nat} (h : s.Canonical) : (s.portDown p).Canonical :=
  .foldl (fun _ _ h => .sendFab h) (.foldl (fun _ _ h => .sendFab h) (.updPort h))

theorem State.Canonical.retrain {p : Nat} (h : s.Canonical) : (s.retrain p).Canonical := .ite (.updPort h) (.portDown (.updPort h))

theorem State.Canonical.replayFlits {p : Nat} (h : s.Canonical) : (s.replayFlits p).Canonical :=
  .ite (.satReg (.updPort h)) (.retrain (.satReg (.updPort h)))

end Sys2Proof.Machine
end

section
/-!
PROOF. Accesses through a translation, traps, the fetch of words, and what an operation of a slot does to the state keep the stores
canonical.
-/
namespace Sys2Proof.Machine

variable {s : State}

theorem OkState.writeVa_go {core : Nat} {asid : BitVec 16} {root : Nat} {p : Bool} {n va : Nat} {l : List Byte} (h : s.Canonical) :
    OkState (State.writeVa.go core asid root p n s va l) := by
  induction n generalizing s va l with
  | zero => exact .ok h
  | succ n ih =>
    unfold State.writeVa.go
    split
    · exact .ok h
    · extract_lets
      split
      · exact .error
      · exact ih (.writeMem (.dropViews (.useXlat h)))

theorem OkState.writeVa {core : Nat} {asid : BitVec 16} {root va : Nat} {l : List Byte} {p : Bool} (h : s.Canonical) :
    OkState (s.writeVa core asid root va l p) := .writeVa_go h

theorem OkState.writeFrame {core : Nat} {asid : BitVec 16} {root va : Nat} {l : List Byte} {p : Bool} (h : s.Canonical) :
    OkState (s.writeFrame core asid root va l p) := by
  unfold State.writeFrame
  extract_lets
  split
  · exact .error
  · exact .writeVa h

theorem OkCanonical.readVa_go {core : Nat} {asid : BitVec 16} {root k va n : Nat} (h : s.Canonical) :
    OkCanonical (State.readVa.go core asid root k s va n) := by
  induction k generalizing s va n with
  | zero => exact .ok h
  | succ k ih =>
    unfold State.readVa.go
    split
    · exact .ok h
    · extract_lets
      split
      · exact .error
      · split
        · exact .error
        · extract_lets s1
          split
          · exact .error
          · next hu => exact .ok (.of_ok (ih (.l2Range (.refetch (.useXlat h)))) hu)

theorem OkCanonical.readVa {core : Nat} {asid : BitVec 16} {root va n : Nat} (h : s.Canonical) : OkCanonical (s.readVa core asid root va n) :=
  .readVa_go h

theorem State.Canonical.postEvent {code z : Nat} {word0 : Word} (h : s.Canonical) : (s.postEvent code z word0).Canonical := by
  unfold State.postEvent
  split <;> exact h

theorem State.Canonical.haltTeam {z code : Nat} {nest : Bool} {hd : FrameHead} (h : s.Canonical) : (s.haltTeam z code nest hd).Canonical :=
  .postEvent (.updTeam h)

theorem State.Canonical.abandonRefill {z : Nat} (h : s.Canonical) : (s.abandonRefill z).Canonical := .updPart h

theorem State.Canonical.afterTrap {z : Nat} {t : Team} {hd : FrameHead} (h : s.Canonical) : (s.afterTrap z t hd).Canonical :=
  .ite (.updTeam (.putReg (.trace (.count h)))) (.trace (.count h))

theorem State.Canonical.takeTrap {z : Nat} {f : Flt} (h : s.Canonical) : (s.takeTrap z f).Canonical := by
  unfold State.takeTrap
  split
  · exact h
  extract_lets _ _ s1 _ _ _ _ res
  have h1 : s1.Canonical := .abandonRefill (.updTeam h)
  have hres : OkState res := foldl_keeps OkState _ (fun r x hr => by
    cases r with
    | error e => exact .error
    | ok u => exact .writeFrame (hr u rfl)) _ _ (.ok h1)
  clear_value res
  split
  · exact .haltTeam h1
  split
  · exact .haltTeam h1
  split
  · exact .haltTeam h1
  · exact .afterTrap (.updTeam (hres _ rfl))

theorem State.Canonical.countSoft {leaf structure_ : Nat} {corrected : Bool} (h : s.Canonical) : (s.countSoft leaf structure_ corrected).Canonical :=
  .ite (.platformEvent (.setReg h)) (.setReg h)

theorem OkCanonical.fetchBytes {core : Nat} {sys : Bool} {asid : BitVec 16} {root va n : Nat} (h : s.Canonical) :
    OkCanonical (s.fetchBytes core sys asid root va n) := by
  unfold State.fetchBytes
  split
  · split
    · exact .error
    · split
      · exact .error
      · exact .ok (.l2Range h)
  · split
    · exact .error
    · split
      · exact .error
      · exact .ok (.l2Range (.refetch (.useXlat h)))

theorem OkCanonical.parcel {z : Nat} {t : Team} {va : Nat} (h : s.Canonical) : OkCanonical (s.parcel z t va) := by
  unfold State.parcel
  split
  · exact .error
  · next hu => exact .ok (.of_ok (.fetchBytes h) hu)

theorem State.Canonical.lookParcel {z : Nat} {t : Team} {va : Nat} (h : s.Canonical) : (s.lookParcel z t va).1.Canonical := by
  unfold State.lookParcel
  split
  · exact h
  next u p hu =>
  have hu : u.Canonical := .of_ok (.parcel h) hu
  extract_lets
  split
  · exact hu
  · split
    · exact hu
    · extract_lets
      split
      · exact hu
      · split
        · exact hu
        · split
          · exact hu
          · split
            · exact .countSoft hu
            · split <;> exact hu

theorem OkCanonical.immParcels {z : Nat} {t : Team} {idx n va : Nat} (h : s.Canonical) : OkCanonical (s.immParcels z t idx n va) := by
  induction n generalizing s va with
  | zero => exact .ok h
  | succ n ih =>
    unfold State.immParcels
    split
    · exact .error
    · next hu =>
      split
      · exact .error
      · split
        · exact .error
        · next hv => exact .ok (.of_ok (ih (.of_ok (.parcel h) hu)) hv)

theorem State.Canonical.requestRefill {z : Nat} {t : Team} {idx : Nat} (h : s.Canonical) : (s.requestRefill z t idx).Canonical := .updPart h

theorem State.Canonical.countL1 {core : Nat} {l : List (Nat × Place)} (h : s.Canonical) : (s.countL1 core l).Canonical := .count (.count h)

theorem State.Canonical.updCtx {z : Nat} {f : Ctx → Ctx} (h : s.Canonical) : (s.updCtx z f).Canonical := .updTeam h

theorem State.Canonical.updOpSt {z k : Nat} {f : OpSt → OpSt} (h : s.Canonical) : (s.updOpSt z k f).Canonical := .updCtx h

theorem State.Canonical.setSt {z k : Nat} {st : OpStatus} (h : s.Canonical) : (s.setSt z k st).Canonical := .updOpSt h

theorem State.Canonical.fixPlaces {x : Slot} (h : s.Canonical) : (s.fixPlaces x).Canonical := by
  unfold State.fixPlaces
  split
  · exact h
  · exact .updOpSt (.foldl (fun _ _ h => .useXlat h) h)

theorem State.Canonical.zeroTripLook {z slot : Nat} {le : Word} (h : s.Canonical) : (s.zeroTripLook z slot le).Canonical := by
  unfold State.zeroTripLook
  split
  · exact h
  · split
    · next hu => exact .takeTrap (.of_eq (.lookParcel h) hu)
    · next hu => exact .updTeam (.of_eq (.lookParcel h) hu)
    · next hu => exact .updTeam (.requestRefill (.of_eq (.lookParcel h) hu))

theorem State.Canonical.askProbes {z : Nat} {l : List (Nat × AccKind)} (h : s.Canonical) : (s.askProbes z l).Canonical := by
  unfold State.askProbes
  refine .foldl (fun s x h => ?_) h
  split
  · exact h
  · exact .ite h (.sendProbe (.updTeam h))

theorem State.Canonical.stopWord {z slot : Nat} {x : Stop} (h : s.Canonical) : (s.stopWord z slot x).Canonical := by
  unfold State.stopWord
  split
  · exact .takeTrap h
  · exact .zeroTripLook h
  · exact .askProbes h
  · exact h

theorem State.Canonical.inTurn {x : Slot} {i : Instr} {act : Slot → State} (hact : ∀ x, x.e.s.Canonical → (act x).Canonical)
    (h : x.e.s.Canonical) : (x.inTurn i act).Canonical := .ite (.setSt h) (.ite h (hact x h))

theorem State.Canonical.laneClock {x : Slot} {i : Instr} {eff : Env → Nat → State → State} {fin : Env → State → State}
    (heff : ∀ e p u, u.Canonical → (eff e p u).Canonical) (hfin : ∀ e u, u.Canonical → (fin e u).Canonical) (h : x.e.s.Canonical) :
    (x.laneClock i eff fin).Canonical := by
  unfold Slot.laneClock
  extract_lets s1
  have h1 : s1.Canonical := by
    dsimp only [s1]
    split
    · exact h
    · exact .ite (heff _ _ _ h) h
  exact .ite (.setSt (hfin _ _ h1)) (.setSt h1)

theorem State.Canonical.unblock {x : Slot} {i : Instr} {fin : Env → State → State} (hfin : ∀ e u, u.Canonical → (fin e u).Canonical)
    (h : x.e.s.Canonical) : (x.unblock i fin).Canonical := .ite (.setSt (hfin _ _ h)) (.setSt (.updPart (.updCtx h)))

theorem State.Canonical.land {z : Nat} {l : Landing} (h : s.Canonical) : (s.land z l).Canonical := .updTeam h

theorem State.Canonical.landScalar {e : Env} {i : Instr} {k : Kind} {reg : Nat} {v : BitVec 128} {p : Bool} (h : s.Canonical) :
    (s.landScalar e i k reg v p).Canonical := by
  unfold State.landScalar
  split
  · exact h
  · exact .land h

theorem State.Canonical.landLanes {e : Env} {i : Instr} {k : Kind} {reg : Nat} {vals : List LaneVal} {flags : FFlags} (h : s.Canonical) :
    (s.landLanes e i k reg vals flags).Canonical := by
  unfold State.landLanes
  split
  · exact h
  · exact .land h

theorem State.Canonical.triggerBench {bench cause : Nat} (h : s.Canonical) : (s.triggerBench bench cause).Canonical := .ite h h

theorem State.Canonical.watchHit {s before : State} {a : Watched} {w byte : Nat} (h : s.Canonical) : (s.watchHit before a w byte).Canonical := by
  unfold State.watchHit
  extract_lets _ _ _ _ _ _ _ s1 s2 s3 _ _
  have h1 : s1.Canonical := .ite (.satReg h) h
  have h2 : s2.Canonical := .ite h1 (.setReg (.setReg (.setReg (.setReg (.setReg (.setReg (.takeTurn h1)))))))
  have h3 : s3.Canonical := .trace h2
  exact .ite (.updTeam h3) (.ite (.updTeam h3) (.ite (.triggerBench h3) h3))

theorem State.Canonical.watch {before : State} {a : Watched} (h : s.Canonical) : (s.watch before a).1.Canonical := by
  unfold State.watch
  refine .foldl_fst (fun x w h => ?_) h
  split
  · exact .watchHit h
  · exact h

theorem State.Canonical.shareDone {n : Nat} {l : Launch} (h : s.Canonical) : (s.shareDone n l).Canonical := by
  unfold State.shareDone
  split
  · exact .ite h (.ite h (.sendBarrier h))
  · exact h

theorem State.Canonical.checkRelease {blk level : Nat} (h : s.Canonical) : (s.checkRelease blk level).Canonical := by
  unfold State.checkRelease
  split
  · exact h
  · split
    · exact h
    · split
      · exact .ite h h
      · split
        · exact .shareDone h
        · extract_lets
          split
          · exact h
          · exact .ite h h

theorem State.Canonical.barCount {blk level : Nat} {fin : Bool} (h : s.Canonical) : (s.barCount blk level fin).Canonical := by
  unfold State.barCount
  split
  · exact h
  · extract_lets s1
    have h1 : s1.Canonical := by
      dsimp only [s1]
      split
      · exact h
      · split
        · exact h
        · split
          · exact h
          · split
            · split
              · exact h
              · exact .putReg h
            · exact h
    exact .checkRelease h1

theorem State.Canonical.barStep {z level : Nat} (h : s.Canonical) : (s.barStep z level).1.Canonical := by
  unfold State.barStep
  split
  · exact h
  · extract_lets _ _ _ s1
    have h1 : s1.Canonical := .barCount (.updTeam h)
    split
    · split
      · exact .updTeam h
      · exact h
    · split
      · split
        · split
          · exact .updTeam h1
          · exact h1
        · exact h
      · split
        · split
          · exact .updTeam h1
          · exact h1
        · exact h

theorem State.Canonical.freeWindow {z : Nat} (h : s.Canonical) : (s.freeWindow z).Canonical := .updPart h

theorem State.Canonical.removeBlock {blk : Nat} (h : s.Canonical) : (s.removeBlock blk).Canonical := by
  unfold State.removeBlock
  split
  · exact h
  · exact .foldl (fun _ _ h => h) h

theorem State.Canonical.switchStop {blk k : Nat} (h : s.Canonical) : (s.switchStop blk k).Canonical := by
  unfold State.switchStop
  split
  · exact h
  · exact .removeBlock (.foldl (fun _ _ h => .signTeam h) (.satReg h))

theorem State.Canonical.withdrawSwitch {blk : Nat} (h : s.Canonical) : (s.withdrawSwitch blk).Canonical := .updBlock h

theorem State.Canonical.swptStep {z : Nat} {k : Word} (h : s.Canonical) : (s.swptStep z k).1.Canonical := by
  unfold State.swptStep
  split
  · exact h
  · split
    · exact h
    · split
      · exact h
      · split
        · exact .withdrawSwitch h
        · split
          · extract_lets _ s1
            have h1 : s1.Canonical := .updBlock (.updTeam h)
            split
            · exact .switchStop h1
            · exact h1
          · exact h

theorem State.Canonical.endTeam {z : Nat} (h : s.Canonical) : (s.endTeam z).Canonical := by
  unfold State.endTeam
  split
  · exact h
  · extract_lets s1 s2 s3 s4
    have h1 : s1.Canonical := .abandonRefill (.updTeam h)
    have h2 : s2.Canonical := .getD (.map fun _ => .ite h1 (.withdrawSwitch h1)) h1
    have h3 : s3.Canonical := .signTeam h2
    have h4 : s4.Canonical := .foldl (fun _ _ h => .barCount h) h3
    exact .freeWindow h4

theorem State.Canonical.performViews {core id width : Nat} (h : s.Canonical) : (s.performViews core id width).Canonical := h

theorem State.Canonical.loseTime {core req bank n : Nat} (h : s.Canonical) : (s.loseTime core req bank n).Canonical := .count (.satReg (.updCore h))

theorem State.Canonical.postRows {core req : Nat} {l : List (Nat × Nat)} (h : s.Canonical) : (s.postRows core req l).Canonical :=
  .ite (.loseTime (.updCore h)) (.updCore h)

theorem State.Canonical.watchOp {before : State} {z id : Nat} {a : Watched} (h : s.Canonical) : (s.watchOp before z id a).Canonical :=
  .updTeam (.watch h)

theorem State.Canonical.watchFar {z id : Nat} {a : Watched} (h : s.Canonical) : (s.watchFar z id a).Canonical :=
  .ite (.watchOp h) (.setReg (.watchOp h))

theorem State.Canonical.slotDone {e : Env} {i : Instr} (h : s.Canonical) : (s.slotDone e i).Canonical := .updTeam h

theorem State.Canonical.spadLoad {e : Env} {i : Instr} {k n : Nat} (h : s.Canonical) : (s.spadLoad e i k n).1.Canonical := .watchOp h

theorem State.Canonical.spadStore {e : Env} {i : Instr} {k : Nat} {l : List Byte} {p : Bool} (h : s.Canonical) : (s.spadStore e i k l p).Canonical :=
  .watchOp (.writeSpad h)

theorem State.Canonical.handOver {e : Env} {i : Instr} {l : List Access} (h : s.Canonical) : (s.handOver e i l).Canonical := .updTeam h

theorem State.Canonical.handedOver {e : Env} {i : Instr} (h : s.Canonical) : (s.handedOver e i).Canonical := .updTeam h

theorem State.Canonical.applyAdvance {x : Slot} {qs : QSide} {qh : BitVec 3} {oa : Sel} (h : s.Canonical) :
    (s.applyAdvance x qs qh oa).Canonical := by
  unfold State.applyAdvance
  split
  · exact h
  · split
    · exact .setSt (.updBlock h)
    · exact .takeTrap h

theorem State.Canonical.writeReceive {z : Nat} {r : Receive} {m : Msg} (h : s.Canonical) : (s.writeReceive z r m).Canonical := by
  unfold State.writeReceive
  split
  · exact h
  · split
    · exact h
    · exact .updBlock (.postRows (.watchOp (.foldl (fun _ _ h => .writeSpad h) (.writeSpad h))))

theorem State.Canonical.enterReceive {z op : Nat} (h : s.Canonical) : (s.enterReceive z op).Canonical := by
  unfold State.enterReceive
  extract_lets s1
  have h1 : s1.Canonical := .updTeam h
  split
  · split
    · exact h1
    · split
      · exact h1
      · split
        · exact h1
        · exact .writeReceive (.updTeam (.updCore h1))
  · exact h1

theorem State.Canonical.keepReads {x : Slot} {i : Instr} (h : s.Canonical) : (s.keepReads x i).Canonical := .ite h (.updCtx h)

theorem State.Canonical.accept {x : Slot} {i : Instr} (h : s.Canonical) : (s.accept x i).Canonical :=
  .ite (.setSt (.updTeam (.updTeam h))) (.setSt (.updCore (.updBlock (.updTeam h))))

theorem State.Canonical.mapAcc {b : Block} {a : Nat} {f : Nat → Nat → Lane × Bool} (h : s.Canonical) : (s.mapAcc b a f).Canonical :=
  .foldl (fun _ _ h => .setAccElem h) h

theorem State.Canonical.runProduct {b : Block} {c : MCmd} {acc g0 g1 : Nat} (h : s.Canonical) : (s.runProduct b c acc g0 g1).Canonical := by
  unfold State.runProduct
  split
  · exact .mapAcc h
  · exact h

theorem State.Canonical.engineWrites {c : MCmd} {asid : BitVec 16} {l : List (Nat × List Byte × Bool)} (h : s.Canonical) :
    (s.engineWrites c asid l).Canonical := .foldl (fun _ _ h => .watchOp (.writeSpad h)) h

theorem State.Canonical.engineReads {b : Block} {c : MCmd} (h : s.Canonical) : (s.engineReads b c).Canonical := by
  unfold State.engineReads
  extract_lets
  split
  · exact .foldl (fun _ _ h => .watchOp h) (.foldl (fun _ _ h => .watchOp h) h)
  · exact .foldl (fun _ _ h => .watchOp h) h

theorem State.Canonical.runCommand {b : Block} {c : MCmd} {g1 : Nat} (h : s.Canonical) : (s.runCommand b c g1).Canonical := by
  unfold State.runCommand
  extract_lets
  split
  · exact .runProduct h
  · exact .runProduct h
  · exact .runProduct h
  · exact .engineWrites h
  · exact .engineWrites h
  · split
    · exact .mapAcc h
    · exact h
  · exact .mapAcc h
  · exact .mapAcc h
  · exact .mapAcc h
  · exact .mapAcc h
  · exact .mapAcc h
  · exact h

theorem State.Canonical.enroll {z : Nat} (h : s.Canonical) : (s.enroll z).Canonical := by
  unfold State.enroll
  split
  · exact h
  · refine .foldl (fun s x h => ?_) h
    split
    · exact h
    · split
      · exact h
      · extract_lets _ _ acc _ s1 s2 s3
        have h1 : s1.Canonical := by
          dsimp only [s1]
          clear_value acc
          split
          · exact .countL1 h
          · exact h
        have h2 : s2.Canonical := .updTeam h1
        have h3 : s3.Canonical := .updOpSt h2
        exact h3

theorem State.Canonical.beginWord {z : Nat} {e : Env} (h : s.Canonical) : (s.beginWord z e).Canonical := by
  unfold State.beginWord
  extract_lets _ _ s1 s2 s3 s4
  have h1 : s1.Canonical := .updTeam h
  have h2 : s2.Canonical := by
    dsimp only [s2]
    refine .foldl (fun s x h => ?_) h1
    split
    · exact h
    · exact .fixPlaces h
  have h3 : s3.Canonical := .ite (.takeTurn h2) h2
  have h4 : s4.Canonical := .enroll h3
  split
  · exact h4
  · extract_lets _ _ s5 s6 s7 s8
    have h5 : s5.Canonical := .updPart (.updCtx h4)
    have h6 : s6.Canonical := .countTeam h5
    have h7 : s7.Canonical := .ite (.countTeam h6) h6
    have h8 : s8.Canonical := .ite (.updTeam h7) h7
    exact .ite (.countTeam h8) h8

theorem State.Canonical.snapshot {z level : Nat} {t : Team} {pc : Word} (h : s.Canonical) : (s.snapshot z level t pc).Canonical :=
  .ite (.satReg h) (.ite (.updCore (.trace (.putReg (.writeMem h)))) (.trace (.putReg (.writeMem h))))

theorem State.Canonical.commitWord {z : Nat} (h : s.Canonical) : (s.commitWord z).Canonical := by
  unfold State.commitWord
  split
  · exact h
  · split
    · extract_lets _ _ _ _ _ _ s1 s2 _ s3 s4
      have h1 : s1.Canonical := .updTeam h
      have h2 : s2.Canonical := .ite (.updPart h1) h1
      have h3 : s3.Canonical := by
        dsimp only [s3]
        split
        · exact .ite (.snapshot h2) h2
        · exact h2
      have h4 : s4.Canonical := .ite (.updTeam h3) h3
      split
      · exact .endTeam h3
      · split
        · exact .takeTrap h4
        · exact .ite (.updTeam (.putReg h4)) h4
    · exact h

end Sys2Proof.Machine
end

section
/-!
PROOF. An operation of a slot keeps the stores canonical (R260, R288).
-/
namespace Sys2Proof.Machine

variable {s u : State}

theorem NextCanonical.runSlot {i : Instr} {act : Slot → State} (hact : ∀ x, x.e.s.Canonical → (act x).Canonical) (h : s.Canonical) :
    NextCanonical (runSlot i s act) := by
  unfold Machine.runSlot
  split
  · exact .fault
  · next x hx =>
    have hs : x.e.s = s := (State.slotOf_spec hx).2.1
    split
    · exact .next (.inTurn hact (hs ▸ h))
    · split
      · exact .next (.stopWord h)
      · split
        · next y hy =>
          have hys : y.e.s = s.fixPlaces x := (State.slotOf_spec hy).2.1
          exact .next (.inTurn hact (hys ▸ .fixPlaces h))
        · exact .next h

theorem NextCanonical.runScalar {i : Instr} {ready : Env → Bool} {eff : Env → State → State}
    (heff : ∀ e u, u.Canonical → (eff e u).Canonical) (h : s.Canonical) : NextCanonical (runScalar i s ready eff) :=
  .runSlot (fun _ hx => .ite (.setSt (heff _ _ hx)) (.setSt hx)) h

theorem NextCanonical.runLanes {i : Instr} {ready : Env → Bool} {eff : Env → Nat → State → State} {fin : Env → State → State}
    (heff : ∀ e p u, u.Canonical → (eff e p u).Canonical) (hfin : ∀ e u, u.Canonical → (fin e u).Canonical) (h : s.Canonical) :
    NextCanonical (runLanes i s ready eff fin) := by
  refine .runSlot (fun x hx => ?_) h
  split
  · exact .laneClock heff hfin hx
  · exact hx
  · exact .ite (.laneClock heff hfin hx) (.setSt hx)
  · exact .ite (.unblock hfin hx) hx

/-- What changes one team alone changes no store. -/
theorem OnTeam.canonical {r : Team → Team → Prop} {z : Nat} (hu : OnTeam r s z u) (h : s.Canonical) : u.Canonical := by
  obtain ⟨g, rfl, -⟩ := hu
  exact .updTeam h

theorem ScalarOnTeam.nextCanonical {i : Instr} {r : Team → Team → Prop} (hi : ScalarOnTeam i s r) (h : s.Canonical) :
    NextCanonical (exec i s) := by
  obtain ⟨ready, eff, hexec, heff⟩ := hi
  rw [hexec]
  exact .runScalar (fun e u hu => (heff e u).canonical hu) h

theorem LanesLand.nextCanonical {i : Instr} (hi : LanesLand i s) (h : s.Canonical) : NextCanonical (exec i s) := by
  obtain ⟨ready, eff, fin, hexec, heff, hfin⟩ := hi
  rw [hexec]
  exact .runLanes (fun e p u hu => (heff e p u).canonical hu) (fun e u hu => (hfin e u).canonical hu) h

theorem NextCanonical.execSuBar {lv : BitVec 3} (h : s.Canonical) : NextCanonical (execSuBar lv s) :=
  .runSlot (fun _ hx => .setSt (.barStep hx)) h

theorem NextCanonical.execSuSwpt {sa : Sel} (h : s.Canonical) : NextCanonical (execSuSwpt sa s) :=
  .runSlot (fun _ hx => .ite (.setSt (.swptStep hx)) (.setSt hx)) h

theorem NextCanonical.exec_su {i : Instr} (hk : i.kind = some .su) (h : s.Canonical) : NextCanonical (exec i s) := by
  by_cases hbar : ∃ lv, i = .suBar lv
  · obtain ⟨lv, rfl⟩ := hbar
    exact .execSuBar h
  by_cases hsw : ∃ sa, i = .suSwpt sa
  · obtain ⟨sa, rfl⟩ := hsw
    exact .execSuSwpt h
  exact (scalarOnTeam_of_su s hk (fun lv hi => hbar ⟨lv, hi⟩) fun sa hi => hsw ⟨sa, hi⟩).nextCanonical h

/-- The commit of a per-lane operation of MU: with no pass executed its landing has no lane. -/
theorem State.Canonical.landNone {e : Env} {i : Instr} {reg : Nat} (h : s.Canonical) :
    (if (e.runPasses i).isEmpty then s.landLanes e i .mu reg [] 0 else s).Canonical := .ite (.landLanes h) h

theorem NextCanonical.runSpadLoad {i : Instr} {md : BitVec 6} (h : s.Canonical) : NextCanonical (runSpadLoad i md s) :=
  .runLanes (fun _ _ _ h => .landLanes (.postRows (.foldl_fst (fun _ _ h => .spadLoad h) h))) (fun _ _ h => .slotDone (.landNone h)) h

theorem NextCanonical.runSpadStore {i : Instr} {data : Sel} (h : s.Canonical) : NextCanonical (runSpadStore i data s) :=
  .runLanes (fun _ _ _ h => .postRows (.foldl (fun _ _ h => .spadStore h) h)) (fun _ _ h => .slotDone h) h

theorem NextCanonical.execMuAtms {mk : Mask} {af : AtomFn} {md : BitVec 6} {ab : BitVec 5} {oa ob : Sel} {st : Strm} (h : s.Canonical) :
    NextCanonical (execMuAtms mk af md ab oa ob st s) := by
  unfold Machine.execMuAtms
  extract_lets i
  exact .runLanes (fun _ _ _ h => .landLanes (.countTeam (.postRows (.foldl_fst (fun _ _ h => .signAtomic (.watchOp (.writeSpad h))) h))))
    (fun _ _ h => .slotDone (.landNone h)) h

theorem NextCanonical.runFarLoad {i : Instr} {md : BitVec 6} (h : s.Canonical) : NextCanonical (runFarLoad i md s) := by
  refine .runLanes (fun e p u h => ?_) (fun _ _ h => .handedOver (.landNone h)) h
  extract_lets
  split
  · exact h
  · exact .land (.handOver h)

theorem NextCanonical.runFarStore {i : Instr} {data : Sel} (h : s.Canonical) : NextCanonical (runFarStore i data s) :=
  .runLanes (fun _ _ _ h => .handOver h) (fun _ _ h => .handedOver h) h

theorem NextCanonical.runFarAtomic {i : Instr} {md : BitVec 6} {ob : Sel} (h : s.Canonical) : NextCanonical (runFarAtomic i md ob s) := by
  refine .runLanes (fun e p u h => ?_) (fun _ _ h => .handedOver (.landNone h)) h
  extract_lets
  split
  · exact h
  · exact .land (.handOver h)

theorem NextCanonical.runTile {i : Instr} {oa : Sel} {f : BitVec 32 → BitVec 16 → BitVec 32} (h : s.Canonical) :
    NextCanonical (runTile i oa s f) := .runScalar (fun _ _ h => .updBlock h) h

theorem NextCanonical.execMuLdsa {md : BitVec 6} {ab : BitVec 5} {oa : Sel} {st : Strm} (h : s.Canonical) :
    NextCanonical (execMuLdsa md ab oa st s) := by
  unfold Machine.execMuLdsa
  extract_lets i
  refine .runScalar (fun e u h => ?_) h
  split
  · exact .slotDone h
  · exact .slotDone (.landScalar (.postRows (.spadLoad h)))

theorem NextCanonical.execMuStsa {md : BitVec 6} {ab : BitVec 5} {oa : Sel} {st : Strm} (h : s.Canonical) :
    NextCanonical (execMuStsa md ab oa st s) := by
  unfold Machine.execMuStsa
  extract_lets i
  refine .runScalar (fun e u h => ?_) h
  split
  · exact .slotDone h
  · exact .slotDone (.postRows (.spadStore h))

theorem NextCanonical.execMuLdga {md : BitVec 6} {ab : BitVec 5} {oa : Sel} {st : Strm} (h : s.Canonical) :
    NextCanonical (execMuLdga md ab oa st s) := by
  unfold Machine.execMuLdga
  extract_lets i
  refine .runScalar (fun e u h => .updTeam ?_) h
  split
  · exact .land (.handOver h)
  · exact h

theorem NextCanonical.execMuStga {md : BitVec 6} {ab : BitVec 5} {oa : Sel} {st : Strm} (h : s.Canonical) :
    NextCanonical (execMuStga md ab oa st s) := by
  unfold Machine.execMuStga
  extract_lets i
  refine .runScalar (fun e u h => .updTeam ?_) h
  split
  · exact .handOver h
  · exact h

theorem NextCanonical.execMuPfg {ab : BitVec 5} {oa : Sel} {st : Strm} (h : s.Canonical) : NextCanonical (execMuPfg ab oa st s) := by
  unfold Machine.execMuPfg
  extract_lets i
  refine .runScalar (fun e u h => .updTeam ?_) h
  split
  · exact h
  · split
    · extract_lets u1 u2
      have h1 : u1.Canonical := .useXlat h
      have h2 : u2.Canonical := .ite h1 (.l2Range (.refetch h1))
      exact .ite h1 (.l1Fill h2)
    · exact h

theorem NextCanonical.execMuQadv {qs : QSide} {qh : BitVec 3} {oa : Sel} (h : s.Canonical) : NextCanonical (execMuQadv qs qh oa s) := by
  unfold Machine.execMuQadv
  extract_lets i
  exact .runSlot (fun _ hx => .ite (.applyAdvance hx) (.setSt hx)) h

theorem NextCanonical.execMuCprog {cp : BitVec 4} {ab : BitVec 5} {oa : Sel} {st : Strm} (h : s.Canonical) :
    NextCanonical (execMuCprog cp ab oa st s) := by
  unfold Machine.execMuCprog
  extract_lets i
  exact .runScalar (fun _ _ h => .slotDone (.updBlock (.postRows (.watchOp h)))) h

theorem NextCanonical.execMuCopy {cp : BitVec 4} {oa ob : Sel} {st : Strm} (h : s.Canonical) : NextCanonical (execMuCopy cp oa ob st s) := by
  unfold Machine.execMuCopy
  extract_lets i
  refine .runScalar (fun e u h => ?_) h
  extract_lets u1 p preds lines c u2
  have h1 : u1.Canonical := .updTeam h
  have h2 : u2.Canonical := .updBlock h1
  exact .ite (.updTeam h1) (.ite (.updTeam h1) h2)

theorem NextCanonical.execMuMsend {ab : BitVec 5} {oa ob : Sel} {st : Strm} (h : s.Canonical) : NextCanonical (execMuMsend ab oa ob st s) := by
  unfold Machine.execMuMsend
  extract_lets i
  refine .runScalar (fun e u h => ?_) h
  extract_lets k n own m u1 u2 u3
  have h1 : u1.Canonical := .ite h (.watchOp h)
  have h3 : u3.Canonical := .updTeam (.postRows h1)
  exact h3

theorem NextCanonical.execMuMpost {ab : BitVec 5} {oa ob : Sel} {st : Strm} (h : s.Canonical) : NextCanonical (execMuMpost ab oa ob st s) := by
  unfold Machine.execMuMpost
  extract_lets i
  refine .runScalar (fun e u h => ?_) h
  extract_lets a u1 u2
  have h2 : u2.Canonical := .updTeam (.updBlock h)
  exact .ite (.updTeam (.enterReceive h2)) h2

theorem NextCanonical.execMuCpost {ab : BitVec 5} {oa : Sel} {st : Strm} (h : s.Canonical) : NextCanonical (execMuCpost ab oa st s) := by
  unfold Machine.execMuCpost
  extract_lets i
  exact .runScalar (fun _ _ h => .updTeam (.postRows (.watchOp h))) h

theorem NextCanonical.execMuTget {md : BitVec 6} {ab : BitVec 5} {oa : Sel} {st : Strm} (h : s.Canonical) :
    NextCanonical (execMuTget md ab oa st s) := by
  unfold Machine.execMuTget
  extract_lets i
  refine .runScalar (fun e u h => ?_) h
  split
  · exact h
  · exact .updTeam (.land (.handOver h))

theorem NextCanonical.execMuAdda {md : BitVec 6} {ab : BitVec 5} {oa : Sel} (h : s.Canonical) : NextCanonical (execMuAdda md ab oa s) := by
  unfold Machine.execMuAdda
  extract_lets i
  exact .runScalar (fun _ _ h => .landScalar h) h

theorem NextCanonical.execMuMova {md : BitVec 6} {oa : Sel} (h : s.Canonical) : NextCanonical (execMuMova md oa s) := by
  unfold Machine.execMuMova
  extract_lets i
  exact .runScalar (fun _ _ h => .landScalar h) h

theorem NextCanonical.execMuXfer {md : BitVec 6} {oa : Sel} (h : s.Canonical) : NextCanonical (execMuXfer md oa s) := by
  unfold Machine.execMuXfer
  extract_lets i
  exact .runScalar (fun _ _ h => .landScalar h) h

theorem NextCanonical.execMuTstat {md : BitVec 6} {oa : Sel} (h : s.Canonical) : NextCanonical (execMuTstat md oa s) := by
  unfold Machine.execMuTstat
  extract_lets i
  exact .runScalar (fun _ _ h => .landScalar h) h

theorem NextCanonical.execMuMprobe {md : BitVec 6} {oa : Sel} (h : s.Canonical) : NextCanonical (execMuMprobe md oa s) := by
  unfold Machine.execMuMprobe
  extract_lets i
  exact .runScalar (fun _ _ h => .landScalar h) h

theorem NextCanonical.execMuQbind {qh : BitVec 3} {md : BitVec 6} (h : s.Canonical) : NextCanonical (execMuQbind qh md s) :=
  .runScalar (fun _ _ h => .updBlock h) h

theorem NextCanonical.execMuQwait {qs : QSide} {qh : BitVec 3} {oa : Sel} (h : s.Canonical) : NextCanonical (execMuQwait qs qh oa s) :=
  .runScalar (fun _ _ h => h) h

theorem NextCanonical.execMuCwait {oa ob : Sel} (h : s.Canonical) : NextCanonical (execMuCwait oa ob s) := .runScalar (fun _ _ h => h) h

theorem NextCanonical.execMuTfull {oa : Sel} (h : s.Canonical) : NextCanonical (execMuTfull oa s) := .runTile h

theorem NextCanonical.execMuTgate {gate : Bool} {oa : Sel} (h : s.Canonical) : NextCanonical (execMuTgate gate oa s) := .runTile h

theorem NextCanonical.execMuTclr {oa : Sel} (h : s.Canonical) : NextCanonical (execMuTclr oa s) := .runTile h

theorem NextCanonical.exec_mu {i : Instr} (hk : i.kind = some .mu) (h : s.Canonical) : NextCanonical (exec i s) := by
  cases i with
  | muLds mk df md ab oa st => exact NextCanonical.runSpadLoad (i := .muLds mk df md ab oa st) (md := md) h
  | muGths mk df md ab ob st => exact NextCanonical.runSpadLoad (i := .muGths mk df md ab ob st) (md := md) h
  | muSts mk ab oa ob st => exact NextCanonical.runSpadStore (i := .muSts mk ab oa ob st) (data := ob) h
  | muScts mk ab oa ob st => exact NextCanonical.runSpadStore (i := .muScts mk ab oa ob st) (data := oa) h
  | muAtms => exact .execMuAtms h
  | muLdr mk df md ab oa ob st => exact NextCanonical.runFarLoad (i := .muLdr mk df md ab oa ob st) (md := md) h
  | muLdg mk df md ab oa st => exact NextCanonical.runFarLoad (i := .muLdg mk df md ab oa st) (md := md) h
  | muGthg mk df md ab ob st => exact NextCanonical.runFarLoad (i := .muGthg mk df md ab ob st) (md := md) h
  | muStr mk ab oa ob st => exact NextCanonical.runFarStore (i := .muStr mk ab oa ob st) (data := ob) h
  | muStg mk ab oa ob st => exact NextCanonical.runFarStore (i := .muStg mk ab oa ob st) (data := ob) h
  | muSctg mk ab oa ob st => exact NextCanonical.runFarStore (i := .muSctg mk ab oa ob st) (data := oa) h
  | muAtmr mk af md ab oa ob st => exact NextCanonical.runFarAtomic (i := .muAtmr mk af md ab oa ob st) (md := md) (ob := ob) h
  | muAtmg mk af md ab oa ob st => exact NextCanonical.runFarAtomic (i := .muAtmg mk af md ab oa ob st) (md := md) (ob := ob) h
  | muLdsa => exact .execMuLdsa h
  | muStsa => exact .execMuStsa h
  | muLdga => exact .execMuLdga h
  | muStga => exact .execMuStga h
  | muPfg => exact .execMuPfg h
  | muAdda => exact .execMuAdda h
  | muMova => exact .execMuMova h
  | muXfer => exact .execMuXfer h
  | muTstat => exact .execMuTstat h
  | muMprobe => exact .execMuMprobe h
  | muXferPerLane => exact (LanesLand.of_runVec (by dsimp only [exec]; rfl)).nextCanonical h
  | muQbind => exact .execMuQbind h
  | muQwait => exact .execMuQwait h
  | muCwait => exact .execMuCwait h
  | muQadv => exact .execMuQadv h
  | muTfull => exact .execMuTfull h
  | muTgate => exact .execMuTgate h
  | muTclr => exact .execMuTclr h
  | muCprog => exact .execMuCprog h
  | muCopy => exact .execMuCopy h
  | muMsend => exact .execMuMsend h
  | muMpost => exact .execMuMpost h
  | muCpost => exact .execMuCpost h
  | muTget => exact .execMuTget h
  | _ => cases hk

theorem NextCanonical.execXuFmt {fa : BitVec 3} {oa : Sel} {st : Strm} (h : s.Canonical) : NextCanonical (execXuFmt fa oa st s) := by
  unfold Machine.execXuFmt
  extract_lets i
  exact .runScalar (fun _ _ h => .slotDone (.landScalar (.postRows (.spadLoad h)))) h

theorem NextCanonical.runXu {i : Instr} (h : s.Canonical) : NextCanonical (runXu i s) :=
  .runSlot (fun _ hx => .ite (.setSt hx) (.ite (.accept hx) (.setSt (.keepReads hx)))) h

theorem NextCanonical.exec_xu {i : Instr} (hk : i.kind = some .xu) (h : s.Canonical) : NextCanonical (exec i s) := by
  cases i with
  | xuFmt => exact .execXuFmt h
  | xuMma | xuMmat | xuDist | xuTopk | xuAccst | xuAccld | xuAcczr | xuAccadd | xuAccmv | xuAccscl | xuAcctr => exact .runXu h
  | _ => cases hk

/-- A slot operation keeps the canonical form. -/
theorem NextCanonical.exec_slot {i : Instr} {k : Kind} (hk : i.kind = some k) (h : s.Canonical) : NextCanonical (exec i s) := by
  cases k with
  | su => exact .exec_su hk h
  | va => exact (lanesLand_of_va s hk).nextCanonical h
  | vb => exact (lanesLand_of_vb s hk).nextCanonical h
  | mu => exact .exec_mu hk h
  | xu => exact .exec_xu hk h

/-- The meaning a word gives an instruction is its meaning if a slot executes it; else no word is there to issue it. -/
theorem slotExec_eq (i : Instr) (s : State) : slotExec i s = if i.kind.isSome then exec i s else .fault .noWordIssuing := by
  cases i <;> rfl

theorem NextCanonical.slotExec {i : Instr} (h : s.Canonical) : NextCanonical (slotExec i s) := by
  rw [slotExec_eq]
  split
  · next hi => exact .exec_slot (Option.isSome_iff_exists.1 hi).choose_spec h
  · exact .fault

theorem State.Canonical.execOp {z k : Nat} (h : s.Canonical) : (s.execOp z k).Canonical := by
  unfold State.execOp
  extract_lets op
  clear_value op
  split
  · exact h
  · split
    · next s' hexec =>
      have h' : s'.Canonical := NextCanonical.slotExec (s := { s with cur := some z }) h s' hexec
      extract_lets _ s1
      have h1 : s1.Canonical := h'
      exact .ite (.countTeam h1) h1
    · exact h
    · exact h

end Sys2Proof.Machine
end

section
/-!
PROOF. The issue of words keeps the stores canonical (R66, R71, R83, R84).
-/
namespace Sys2Proof.Machine

variable {s : State}

theorem State.Canonical.queueRows {z : Nat} {p : Option Nat} (h : s.Canonical) : (s.queueRows z p).Canonical := by
  unfold State.queueRows
  split
  · exact h
  · exact .ite h (.postRows h)

theorem State.Canonical.queueWatch {z : Nat} {p : Option Nat} (h : s.Canonical) : (s.queueWatch z p).Canonical := by
  unfold State.queueWatch
  split
  · exact h
  · split
    · exact h
    · refine .foldl (fun s x h => ?_) h
      extract_lets
      split
      · exact h
      · refine .foldl (fun s x h => ?_) h
        split
        · exact .watchOp h
        · exact h

theorem State.Canonical.wordOver {z : Nat} (h : s.Canonical) : (s.wordOver z).Canonical := by
  unfold State.wordOver
  split
  · exact h
  · extract_lets _ _ _ s1 s2
    have h1 : s1.Canonical := .updTeam h
    have h2 : s2.Canonical := .ite (.updPart h) h
    exact .ite (.ite (.updPart (.updCtx h1)) (.updCtx h1)) (.ite (.commitWord h2) h2)

theorem State.Canonical.afterClock {z : Nat} (h : s.Canonical) : (s.afterClock z).Canonical := by
  unfold State.afterClock
  split
  · exact h
  · exact .ite (.wordOver (.updCtx h)) (.updCtx h)

theorem State.Canonical.wordClock {z : Nat} (h : s.Canonical) : (s.wordClock z).Canonical := by
  unfold State.wordClock
  split
  · exact .updPart h
  · extract_lets s1 s2 s3
    have h1 : s1.Canonical := .queueWatch (.queueRows h)
    have h2 : s2.Canonical := .ite h1 (.countTeam h1)
    have h3 : s3.Canonical := by
      dsimp only [s3]
      refine .foldl (fun s x h => ?_) h2
      split
      · exact .ite (.execOp h) h
      · exact h
    split
    · exact h3
    · exact .afterClock h3

theorem State.Canonical.issue {z : Nat} (h : s.Canonical) : (s.issue z).Canonical := by
  unfold State.issue
  split
  · exact h
  · split
    · exact .updTeam h
    · split
      · exact h
      · exact .wordClock (.beginWord h)
      · exact .stopWord (.updTeam h)

theorem SomeState.partClock {part : Nat} (h : s.Canonical) : SomeState (s.partClock part) := by
  unfold State.partClock
  split
  · exact .none
  · split
    · exact .none
    · split
      · exact .some (.wordClock h)
      · exact .map (fun _ => .issue h)

theorem NextCanonical.execTeamSelection {part : Nat} (h : s.Canonical) : NextCanonical (execTeamSelection part s) := by
  unfold Machine.execTeamSelection
  refine .next ?_
  split
  · exact h
  · split
    · exact h
    · next hu => exact .takeTurn (.takeTurn (.of_someState (.partClock h) hu))

theorem State.Canonical.stopTeam {z : Nat} {detail : BitVec 32} (h : s.Canonical) : (s.stopTeam z detail).Canonical := .abandonRefill (.updTeam h)

theorem State.Canonical.debugHalt {z words clocks : Nat} (h : s.Canonical) : (s.debugHalt z words clocks).Canonical := .trace (.setReg (.stopTeam h))

theorem State.Canonical.checkBreak {z : Nat} (h : s.Canonical) : (s.checkBreak z).Canonical := by
  unfold State.checkBreak
  split
  · exact h
  · split
    · exact h
    · split
      · exact h
      · split
        · exact h
        · extract_lets s1 _
          have h1 : s1.Canonical := .trace h
          exact .ite (.takeTrap (.updTeam h1)) (.ite (.debugHalt h1) (.ite (.debugHalt (.triggerBench h1)) h1))

theorem State.Canonical.gotWord {z : Nat} {t : Team} {idx : Nat} {w : Word3} (h : s.Canonical) : (s.gotWord z t idx w).Canonical := by
  unfold State.gotWord
  extract_lets
  split
  · exact .takeTrap (.updTeam h)
  · next hu => exact .checkBreak (.updTeam (.of_ok (.immParcels h) hu))

theorem NextCanonical.execWordFetch {z : Nat} (h : s.Canonical) : NextCanonical (execWordFetch z s) := by
  unfold Machine.execWordFetch
  refine .next ?_
  split
  · exact h
  · split
    · exact h
    · split
      · next hu => exact .takeTrap (.of_eq (.lookParcel h) hu)
      · next hu => exact .gotWord (.of_eq (.lookParcel h) hu)
      · next hu => exact .countTeam (.updTeam (.requestRefill (.of_eq (.lookParcel h) hu)))

theorem State.Canonical.refilled {z idx : Nat} {r : Except Flt Word3} (h : s.Canonical) : (s.refilled z idx r).Canonical := by
  unfold State.refilled
  split
  · exact h
  · split
    · exact h
    · split
      · split
        · exact .takeTrap h
        · exact .updTeam h
      · split
        · exact .takeTrap (.updTeam h)
        · exact .gotWord h

theorem State.Canonical.beginPrefetch {part : Nat} (h : s.Canonical) : (s.beginPrefetch part).Canonical := by
  unfold State.beginPrefetch
  split
  · exact h
  · split
    · exact h
    · exact .updPart (.updTeam h)

theorem NextCanonical.execDictRefill {part k : Nat} (h : s.Canonical) : NextCanonical (execDictRefill part k s) := by
  unfold Machine.execDictRefill
  refine .next ?_
  split
  · exact h
  split
  · exact .beginPrefetch h
  split
  · exact h
  extract_lets _ _ s1 _
  have h1 : s1.Canonical := .updPart h
  split
  · exact h
  split
  · exact .foldl (fun _ _ h => .refilled h) h1
  next hfetch =>
  have h2 := State.Canonical.of_ok (.fetchBytes h1) hfetch
  split
  · exact .foldl (fun _ _ h => .refilled h) (.count h2)
  · exact .foldl (fun _ _ h => .refilled h) (.updPart h2)

theorem NextCanonical.execLanding {z : Nat} (h : s.Canonical) : NextCanonical (execLanding z s) := .next (.updTeam h)

theorem State.Canonical.retrySlot {z k : Nat} (h : s.Canonical) : (s.retrySlot z k).Canonical := by
  unfold State.retrySlot
  extract_lets s1
  have h1 : s1.Canonical := .execOp h
  split
  · exact h1
  · exact .ite (.wordOver h1) h1

theorem State.Canonical.retryInTurn {z k : Nat} (h : s.Canonical) : (s.retryInTurn z k).Canonical :=
  .ite (.ite (.retrySlot h) (.takeTurn (.retrySlot h))) h

theorem NextCanonical.execXuAcceptance {core : Nat} (h : s.Canonical) : NextCanonical (execXuAcceptance core s) := by
  unfold Machine.execXuAcceptance
  refine .next ?_
  split
  · exact h
  · exact .retryInTurn h

theorem NextCanonical.execBlockedSlotCommit {z k : Nat} (h : s.Canonical) : NextCanonical (execBlockedSlotCommit z k s) := .next (.retryInTurn h)

theorem NextCanonical.execQueueHandleUpdate {core : Nat} (h : s.Canonical) : NextCanonical (execQueueHandleUpdate core s) := by
  unfold Machine.execQueueHandleUpdate
  refine .next ?_
  split
  · exact h
  · exact .retryInTurn h

end Sys2Proof.Machine
end

section
/-!
PROOF. Copies, matrix commands, traps, replies and the steps of the memory system keep the stores canonical.
-/
namespace Sys2Proof.Machine

variable {s : State}

theorem State.Canonical.pickPrior {c : Copy} {place : Nat} {l : List Byte} {q : Bool} (h : s.Canonical) :
    (s.pickPrior c place l q).1.Canonical := by
  unfold State.pickPrior
  split <;> exact h

theorem State.Canonical.copyAsk {c : Copy} {t : Team} {d a n : Nat} (h : s.Canonical) : (s.copyAsk c t d a n).Canonical := .sendAsk h

theorem State.Canonical.copySend {c : Copy} {t : Team} {d a : Nat} {l : List Byte} {q : Bool} (h : s.Canonical) :
    (s.copySend c t d a l q).Canonical := .sendAsk h

theorem OkCanonical.copyRead {c : Copy} {t : Team} {b : Block} {p : CpProg} {e : Nat} (h : s.Canonical) : OkCanonical (s.copyRead c t b p e) := by
  unfold State.copyRead
  extract_lets
  split
  · exact .ok h
  · split
    · extract_lets
      split
      · exact .error
      · exact .ok (.watchOp (.pickPrior h))
    · extract_lets
      split
      · exact .error
      · split
        · split
          · exact .error
          · split
            · exact .error
            · split
              · exact .ok (.watchFar h)
              · exact .error
        · split
          · exact .error
          · split
            · exact .error
            · exact .ok (.watchOp (.pickPrior (.advanceViews (.l2Range (.refetch (.useXlat h))))))

theorem OkCanonical.copyWrite {c : Copy} {t : Team} {b : Block} {p : CpProg} {e : Nat} {l : List Byte} {q : Bool} (h : s.Canonical) :
    OkCanonical (s.copyWrite c t b p e l q) := by
  unfold State.copyWrite
  extract_lets
  split
  · split
    · exact .error
    · exact .ok (.watchOp (.writeSpad h))
  · split
    · exact .error
    · split
      · split
        · exact .error
        · split
          · exact .ok (.watchFar (.copySend h))
          · exact .error
      · split
        · exact .error
        · split
          · exact .error
          · extract_lets s1 _ _
            have h1 : s1.Canonical := .useXlat h
            split
            · exact .error
            · split
              · exact .error
              · exact .ok (.watchOp (.pushView (.writeAs h1)))

theorem State.Canonical.copyRun {c : Copy} {t : Team} {b : Block} {p : CpProg} {u : Nat} {fin : Bool} {l : List Nat} {k : CopyUse}
    (h : s.Canonical) : (s.copyRun c t b p u fin l k).1.Canonical := by
  induction l generalizing s c k with
  | nil => exact h
  | cons e r ih =>
    unfold State.copyRun
    split
    · exact h
    next hread =>
    have h1 := State.Canonical.of_ok (.copyRead h) hread
    split
    · exact h1
    next hwrite =>
    have h2 := State.Canonical.of_ok (.copyWrite h1) hwrite
    extract_lets
    split
    · exact h2
    · exact ih h2

theorem State.Canonical.putCopy {c : Copy} (h : s.Canonical) : (s.putCopy c).Canonical := h

theorem State.Canonical.giveMse {c : Copy} (h : s.Canonical) : (s.giveMse c).Canonical := .ite h (.putCopy (.updCore h))

theorem State.Canonical.copyStep {c : Copy} {t : Team} {b : Block} (h : s.Canonical) : (s.copyStep c t b).1.Canonical := by
  unfold State.copyStep
  extract_lets _ s1 _ _ _ _ _ _ _ _ s2 s3
  have h1 : s1.Canonical := .giveMse h
  have h2 : s2.Canonical := .putCopy (.clearCovered (.copyRun h1))
  have h3 : s3.Canonical := .ite h2 (.postRows h2)
  split
  · exact h1
  · exact .count h3

theorem NextCanonical.execCopyChunkComplete {id : Nat} (h : s.Canonical) : NextCanonical (execCopyChunkComplete id s) := by
  unfold Machine.execCopyChunkComplete
  refine .next ?_
  split
  · exact h
  · split
    · exact h
    · split
      · next hu => exact .ite (.of_eq (.copyStep h) hu) (.updBlock (.of_eq (.copyStep h) hu))
      · next hu => exact .of_eq (.copyStep h) hu
      · next hu => exact .sendProbe (.putCopy (.of_eq (.copyStep h) hu))
      · next hu => exact .copyAsk (.of_eq (.copyStep h) hu)
      · exact h

theorem NextCanonical.execCopyCompletion {id : Nat} (h : s.Canonical) : NextCanonical (execCopyCompletion id s) := by
  unfold Machine.execCopyCompletion
  refine .next ?_
  split
  · exact h
  · split
    · exact h
    · exact .ite h (.updTeam (.updBlock (.giveMse h)))

theorem NextCanonical.execCopyFaultSuspend {id : Nat} (h : s.Canonical) : NextCanonical (execCopyFaultSuspend id s) := by
  unfold Machine.execCopyFaultSuspend
  refine .next ?_
  split
  · exact h
  · split
    · exact h
    · split
      · next s' _ _ _ _ hstep =>
        have h' : s'.Canonical := .of_eq (.copyStep h) hstep
        split
        · exact .updTeam (.postEvent h')
        · exact .updTeam (.putCopy h')
      · exact h
      · exact h
      · exact h
      · exact h

theorem State.Canonical.resumeWhere {p : Copy → Bool} (h : s.Canonical) : (s.resumeWhere p).Canonical := h

theorem State.Canonical.resumeCopies {z : Nat} (h : s.Canonical) : (s.resumeCopies z).Canonical := .resumeWhere h

theorem State.Canonical.updCmd {core id : Nat} {f : MCmd → MCmd} (h : s.Canonical) : (s.updCmd core id f).Canonical := .updCore h

theorem NextCanonical.execMatrixCommandBegin {core : Nat} (h : s.Canonical) : NextCanonical (execMatrixCommandBegin core s) := by
  unfold Machine.execMatrixCommandBegin
  refine .next ?_
  split
  · exact h
  · exact .ite h (.postRows (.postRows (.updCmd (.engineReads h))))

theorem State.Canonical.writeChunk {core : Nat} {c : MCmd} {b : Block} (h : s.Canonical) : (s.writeChunk core c b).Canonical :=
  .ite h (.updBlock (.updCmd (.engineWrites h)))

theorem NextCanonical.execMatrixCommandCompletion {core : Nat} (h : s.Canonical) : NextCanonical (execMatrixCommandCompletion core s) := by
  unfold Machine.execMatrixCommandCompletion
  refine .next ?_
  split
  · exact h
  · exact .ite (.ite (.writeChunk h) h) (.updTeam (.updBlock (.updCore (.runCommand h))))

theorem OkCanonical.readFrame {z : Nat} {t : Team} (h : s.Canonical) : OkCanonical (s.readFrame z t) := by
  unfold State.readFrame
  extract_lets rd
  have hrd : ∀ u off n, u.Canonical → OkCanonical (rd u off n) := by
    intro u off n hu
    dsimp only [rd]
    split
    · next hread => exact .ok (.of_ok (.readVa hu) hread)
    · exact .error
  split
  · exact .error
  next hhead =>
  have h1 := State.Canonical.of_ok (hrd _ _ _ h) hhead
  extract_lets
  split
  · exact .error
  split
  · exact .error
  next hds =>
  have h2 := State.Canonical.of_ok (hrd _ _ _ h1) hds
  extract_lets _ r
  have hr : OkCanonical r := foldl_keeps OkCanonical _ (fun a d ha => by
    cases a with
    | error e => exact .error
    | ok x =>
      dsimp only
      split
      · exact .error
      · next hrec => exact .ok (.of_ok (hrd _ _ _ (ha x rfl)) hrec)) _ _ (.ok h2)
  clear_value r
  split
  · exact .error
  split
  · exact .error
  · exact .ok (hr _ rfl)

theorem State.Canonical.traceResume {z : Nat} (h : s.Canonical) : (s.traceResume z).Canonical := by
  unfold State.traceResume
  split
  · exact h
  · exact .trace h

theorem NextCanonical.execEretResume {z : Nat} (h : s.Canonical) : NextCanonical (execEretResume z s) := by
  unfold Machine.execEretResume
  refine .next ?_
  split
  · exact h
  · split
    · exact h
    · extract_lets
      split
      · next hu => exact .traceResume (.resumeCopies (.updTeam (.of_ok (.readFrame h) hu)))
      · exact .takeTrap h
      · exact .takeTrap h
      · exact .takeTrap h
      · exact .takeTrap h

theorem NextCanonical.execTrapEntry {z : Nat} (h : s.Canonical) : NextCanonical (execTrapEntry z s) := by
  unfold Machine.execTrapEntry
  refine .next ?_
  split
  · exact h
  · split
    · exact h
    · split
      · exact h
      · exact .takeTrap (.updTeam h)

theorem State.Canonical.frameReply {z i : Nat} {t : Team} {l : Landing} (h : s.Canonical) : (s.frameReply z i t l).Canonical := by
  unfold State.frameReply
  extract_lets _ put s1
  have hput : ∀ u off b p, u.Canonical → (put u off b p).Canonical := by
    intro u off b p hu
    dsimp only [put]
    split
    · next hwrite => exact .of_okState (.writeVa hu) hwrite
    · exact hu
  have h1 : s1.Canonical := .foldl (fun u x hu => hput u _ _ _ hu) h
  split
  · next hread => exact hput _ _ _ _ (.of_ok (.readVa h1) hread)
  · exact h1

theorem State.Canonical.reply {z id : Nat} {vals : List LaneVal} (h : s.Canonical) : (s.reply z id vals).Canonical := by
  unfold State.reply
  split
  · exact h
  · extract_lets _ s1
    have h1 : s1.Canonical := .updTeam h
    split
    · exact h1
    · exact .ite (.frameReply h1) h1

theorem State.Canonical.dropQueued {b : Block} (h : s.Canonical) : (s.dropQueued b).Canonical := .updCore h

theorem NextCanonical.execBlockEnd {blk : Nat} (h : s.Canonical) : NextCanonical (execBlockEnd blk s) := by
  unfold Machine.execBlockEnd
  refine .next ?_
  split
  · exact h
  · exact .ite h (.removeBlock (.dropQueued h))

theorem SomeState.taskPost {n : Nat} {rec : List Byte} {p : Bool} (h : s.Canonical) : SomeState (s.taskPost n rec p) := by
  unfold State.taskPost
  split
  · exact .none
  · extract_lets
    split
    · exact .none
    · split
      · exact .none
      · next hwrite =>
        have h' := State.Canonical.of_okState (.writeVa h) hwrite
        exact .some h'

theorem State.Canonical.taskTake {n core : Nat} (h : s.Canonical) : (s.taskTake n core).1.Canonical := by
  unfold State.taskTake
  split
  · exact h
  · split
    · exact h
    · extract_lets
      split
      · exact h
      · exact .useXlat (core := noCore) h

theorem NextCanonical.execTaskPostAccept {id : Nat} (h : s.Canonical) : NextCanonical (execTaskPostAccept id s) := by
  unfold Machine.execTaskPostAccept
  refine .next ?_
  split
  · exact h
  · split
    · exact h
    · split
      · exact h
      · next hu => exact .updTeam (.of_someState (.taskPost h) hu)

theorem State.Canonical.performAccess {z : Nat} {t : Team} {o : MemOp} {hit : Bool} {a : Access} (h : s.Canonical) :
    (s.performAccess z t o hit a).Canonical := by
  unfold State.performAccess
  split
  · exact h
  · extract_lets _ _ s1 _ _ _ _ _ _ s2 s3
    have h1 : s1.Canonical := .seeAll h
    have h2 : s2.Canonical := .updCore (.writeAs h)
    have h3 : s3.Canonical := .advanceViews (.ite h (.refetch h))
    split
    · exact .updTeam (.countTeam (.signAtomic (.watchOp (.pushView (.writeAs h1)))))
    · exact .watchOp (.pushView h2)
    · exact .updTeam (.watchOp h3)

theorem State.Canonical.cacheLine {core : Nat} {o : MemOp} {hit : Bool} {l : List Access} (h : s.Canonical) : (s.cacheLine core o hit l).Canonical :=
  .foldl (fun _ _ h => .ite (.l1Fill (.ite (.l2Touch h) h)) (.ite (.l2Touch h) h)) h

theorem State.Canonical.serveLine {z : Nat} {t : Team} {o : MemOp} {line : Nat} {hit : Bool} (h : s.Canonical) :
    (s.serveLine z t o line hit).Canonical := by
  unfold State.serveLine
  extract_lets _ _ s1 s2
  have h1 : s1.Canonical := .foldl (fun _ _ h => .performAccess h) h
  have h2 : s2.Canonical := .ite (.clearCovered h1) h1
  exact .updTeam (.cacheLine h2)

theorem State.Canonical.reachLine {z : Nat} {t : Team} {o : MemOp} {line : Nat} (h : s.Canonical) : (s.reachLine z t o line).Canonical :=
  .ite (.serveLine h) h

theorem NextCanonical.execPortSlotService {core bank : Nat} (h : s.Canonical) : NextCanonical (execPortSlotService core bank s) := by
  unfold Machine.execPortSlotService
  refine .next ?_
  split
  · exact h
  · split
    · exact h
    · exact .reachLine h

theorem State.Canonical.lineTurn {line : Nat} (h : s.Canonical) : (s.lineTurn line).Canonical := .ite h h

theorem NextCanonical.execOwnershipRecall {line : Nat} (h : s.Canonical) : NextCanonical (execOwnershipRecall line s) := by
  unfold Machine.execOwnershipRecall
  refine .next ?_
  split
  · exact h
  · split
    · exact h
    · extract_lets s1 s2
      have h1 : s1.Canonical := h
      have h2 : s2.Canonical := by
        dsimp only [s2]
        split
        · exact h1
        · exact .serveLine h1
      exact .lineTurn h2

theorem State.Canonical.performRemote {z : Nat} {t : Team} {o : MemOp} {a : Access} (h : s.Canonical) : (s.performRemote z t o a).Canonical := by
  unfold State.performRemote
  split
  · exact h
  · extract_lets
    split
    · exact .updTeam (.countTeam (.signAtomic (.watchOp (.writeSpad h))))
    · exact .watchOp (.writeSpad h)
    · exact .updTeam (.watchOp h)

theorem State.Canonical.serveRemote {z : Nat} {t : Team} {o : MemOp} {l : List Access} (h : s.Canonical) : (s.serveRemote z t o l).Canonical :=
  .updTeam (.foldl (fun _ _ h => .performRemote h) h)

theorem NextCanonical.execBankArbitration {core bank : Nat} (h : s.Canonical) : NextCanonical (execBankArbitration core bank s) := by
  unfold Machine.execBankArbitration
  refine .next ?_
  split
  · exact h
  · extract_lets _ _ _ _ _ _ s1 s2 s3
    have h1 : s1.Canonical := .updCore h
    have h2 : s2.Canonical := .foldl (fun _ _ h => .loseTime h) h1
    have h3 : s3.Canonical := .ite (.takeTurn (.updCore h2)) h2
    split
    · exact h
    · split
      · exact h3
      · exact .serveRemote h3

theorem State.Canonical.releaseMse {z id : Nat} (h : s.Canonical) : (s.releaseMse z id).Canonical := by
  unfold State.releaseMse
  split
  · exact h
  · exact .updCore (.updTeam h)

theorem NextCanonical.execMissStatusRelease {core n : Nat} (h : s.Canonical) : NextCanonical (execMissStatusRelease core n s) := .next (.updCore h)

theorem State.Canonical.farRequest {z : Nat} {t : Team} {o : MemOp} {d line : Nat} {l : List Access} (h : s.Canonical) :
    (s.farRequest z t o d line l).Canonical := by
  unfold State.farRequest
  extract_lets _ s1 _ _ _ _
  have h1 : s1.Canonical := .foldl (fun _ _ h => .watchFar h) h
  split
  · exact .sendAsk h1
  · exact .sendAsk h1
  · exact .sendAsk h1

theorem State.Canonical.performFar {z id : Nat} (h : s.Canonical) : (s.performFar z id).Canonical := by
  unfold State.performFar
  split
  · exact h
  · exact .foldl (fun _ _ h => .farRequest h) h

theorem State.Canonical.performHits {z id : Nat} (h : s.Canonical) : (s.performHits z id).Canonical := by
  unfold State.performHits
  split
  · exact h
  · split
    · exact h
    · refine .foldl (fun s x h => ?_) h
      split
      · exact h
      · exact .ite (.serveLine h) h

theorem State.Canonical.performTget {z : Nat} {t : Team} {o : MemOp} (h : s.Canonical) : (s.performTget z t o).Canonical := by
  unfold State.performTget
  split
  · exact h
  · split
    · exact h
    · extract_lets _ _ s1
      have h1 : s1.Canonical := by
        dsimp only [s1]
        split
        · exact .taskTake (.takeTurn h)
        · exact .postRows (.watchOp (.writeSpad (.taskTake (.takeTurn h))))
      exact .updTeam h1

theorem NextCanonical.execLoadReply {id : Nat} (h : s.Canonical) : NextCanonical (execLoadReply id s) := by
  unfold Machine.execLoadReply
  refine .next ?_
  split
  · exact h
  · split
    · exact h
    · extract_lets s1
      have h1 : s1.Canonical := .ite (.performTget h) (.performHits (.performFar h))
      split
      · exact h1
      · exact .ite (.updTeam (.ite (.releaseMse (.reply h1)) (.reply h1))) h1

theorem NextCanonical.execOperationCompletion {id : Nat} (h : s.Canonical) : NextCanonical (execOperationCompletion id s) := by
  unfold Machine.execOperationCompletion
  refine .next ?_
  split
  · exact h
  · split
    · exact .ite h (.updTeam (.performViews h))
    · extract_lets s1
      have h1 : s1.Canonical := .ite (.performFar h) h
      split
      · exact h1
      · exact .ite h1 (.updTeam (.releaseMse (.performViews (.ite (.enterReceive h1) h1))))

theorem NextCanonical.execTranslationWalk {core : Nat} {asid : BitVec 16} {va : BitVec 64} {acc : AccKind} (h : s.Canonical) :
    NextCanonical (execTranslationWalk core asid va acc s) := by
  unfold Machine.execTranslationWalk
  refine .next ?_
  split
  · exact h
  · split
    · exact h
    · split
      · exact h
      · exact .ite (.useXlat h) h

theorem NextCanonical.execFusionChange {bench : Nat} (h : s.Canonical) : NextCanonical (execFusionChange bench s) := by
  unfold Machine.execFusionChange
  refine .next ?_
  split
  · exact h
  · exact .ite h h

theorem State.Canonical.artctlWrite {v : Word} (h : s.Canonical) : (s.artctlWrite v).Canonical := by
  unfold State.artctlWrite
  extract_lets s1 s2 _
  have h1 : s1.Canonical := .putReg h
  have h2 : s2.Canonical := .ite (.putReg h1) h1
  exact .ite h2 (.ite (.putReg h2) (.putReg (.putReg (.putReg h2))))

theorem NextCanonical.execArtctlGo {value : Word} (h : s.Canonical) : NextCanonical (execArtctlGo value s) := .next (.artctlWrite h)

theorem NextCanonical.execArtCommitComplete (h : s.Canonical) : NextCanonical (execArtCommitComplete s) := .next (.ite h h)

theorem State.Canonical.wmaskWrite {slice : Nat} {v : Word} (h : s.Canonical) : (s.wmaskWrite slice v).Canonical := by
  unfold State.wmaskWrite
  extract_lets _ _ s1 _ s2
  have h1 : s1.Canonical := .ite (.putReg h) h
  have h2 : s2.Canonical := .putReg (.putReg (.putReg (.putReg h1)))
  exact .ite (.putReg h1) (.of_stores h2 rfl rfl rfl rfl rfl rfl)

theorem NextCanonical.execWmaskWrite {slice : Nat} {value : Word} (h : s.Canonical) : NextCanonical (execWmaskWrite slice value s) :=
  .next (.wmaskWrite h)

theorem State.Canonical.dropLines {lines : List Nat} (h : s.Canonical) : (s.dropLines lines).Canonical := h

theorem NextCanonical.execWayConversionComplete {slice way : Nat} (h : s.Canonical) : NextCanonical (execWayConversionComplete slice way s) := by
  unfold Machine.execWayConversionComplete
  extract_lets _ _ _ s1 s2 s3 s4
  have h1 : s1.Canonical := .zeroWay h
  have h2 : s2.Canonical := .ite (.dropLines h1) h1
  have h3 : s3.Canonical := h2
  have h4 : s4.Canonical := .putReg h3
  exact .next (.ite h (.ite (.putReg h4) h4))

theorem State.Canonical.invctlWrite {v : Word} (h : s.Canonical) : (s.invctlWrite v).Canonical := by
  unfold State.invctlWrite
  extract_lets s1 s2
  have h1 : s1.Canonical := .putReg h
  have h2 : s2.Canonical := .ite (.putReg h1) h1
  exact .ite h2 (.ite (.putReg h2) (.setReg (.putReg (.putReg h2))))

theorem NextCanonical.execInvctlGo {value : Word} (h : s.Canonical) : NextCanonical (execInvctlGo value s) := .next (.invctlWrite h)

theorem NextCanonical.execInvalidationComplete (h : s.Canonical) : NextCanonical (execInvalidationComplete s) := .next (.ite h h)

theorem NextCanonical.execDtctlGo (h : s.Canonical) : NextCanonical (execDtctlGo s) := .next (.putReg h)

theorem NextCanonical.execFilterEmptied (h : s.Canonical) : NextCanonical (execFilterEmptied s) := .next (.ite h h)

theorem State.Canonical.spoil {store : Store} {addr : Nat} (h : s.Canonical) : (s.spoil store addr).Canonical := by
  unfold State.spoil
  split
  · exact .setMemP _ _ h
  · exact .setSpadP _ _ h
  · exact .setAccP _ _ h
  · exact .updTeam h
  · exact .updCore h
  · exact h
  · exact h

theorem SomeState.parityError {store : Store} {addr : Nat} (h : s.Canonical) : SomeState (s.parityError store addr) := by
  unfold State.parityError
  split
  · exact .some (.updPart h)
  · exact .some (.countSoft (.updCore h))
  · exact .none

theorem NextCanonical.execScrubRead {store : Store} {addr : Nat} {err : SoftErr} (h : s.Canonical) :
    NextCanonical (execScrubRead store addr err s) := by
  unfold Machine.execScrubRead
  extract_lets _ s1
  have h1 : s1.Canonical := .countSoft (.spoil h)
  refine .next ?_
  split
  · exact h
  · exact .getD (.parityError h) (.countSoft h)
  · exact .getD (.parityError h) (.ite h1 h1)

end Sys2Proof.Machine
end

section
/-!
PROOF. Messages, queues, launches and dispatchers keep the stores canonical.
-/
namespace Sys2Proof.Machine

variable {s : State}

theorem State.Canonical.arrive {b : Block} {m : Msg} (h : s.Canonical) : (s.arrive b m).Canonical := by
  unfold State.arrive
  extract_lets
  split
  · split
    · exact h
    · exact .updTeam h
  · split
    · exact h
    · split
      · exact .writeReceive (.updTeam h)
      · exact .ite (.updTeam h) (.count (.updCore h))

theorem State.Canonical.msgDrop {field : Nat} (h : s.Canonical) : (s.msgDrop field).Canonical := .satReg h

theorem State.Canonical.park {m : Msg} (h : s.Canonical) : (s.park m).Canonical := .ite (.msgDrop h) h

theorem State.Canonical.fate {m : Msg} (h : s.Canonical) : (s.fate m).Canonical := by
  unfold State.fate
  split
  · exact .msgDrop h
  · split
    · exact .arrive h
    · exact .ite (.msgDrop h) (.park h)

theorem State.Canonical.deliverParked {n lin : Nat} (h : s.Canonical) : (s.deliverParked n lin).Canonical := .foldl (fun _ _ h => .fate h) h

theorem State.Canonical.copies_ {m : Msg} {mem : List Nat} (h : s.Canonical) : (s.copies_ m mem).Canonical := .foldl (fun _ _ h => .fate h) h

theorem SomeState.enterRouter {m : Msg} {k router : Nat} {mem : List Nat} (h : s.Canonical) : SomeState (s.enterRouter m k router mem) := by
  induction k generalizing router mem with
  | zero => exact .none
  | succ k ih =>
    unfold State.enterRouter
    split
    · exact .some h
    · split
      · exact .some (.copies_ h)
      · exact ih
    · split
      · exact .none
      · exact .some h

theorem NextCanonical.execMulticastFork {router k room : Nat} (h : s.Canonical) : NextCanonical (execMulticastFork router k room s) := by
  unfold Machine.execMulticastFork
  extract_lets
  refine .next ?_
  split
  · exact h
  · split
    · exact h
    · extract_lets r
      have hr : r.1.Canonical := .foldl_fst (fun a x ha => by
        dsimp only
        split
        · exact ha
        · split
          · exact .copies_ ha
          · split
            · next hroute => exact .of_someState (.enterRouter ha) hroute
            · exact ha) h
      exact hr

theorem State.Canonical.sendMessage {node : Nat} {m : Msg} (h : s.Canonical) : (s.sendMessage node m).Canonical := .sendAsk h

theorem NextCanonical.execMessageDelivery {k : Nat} (h : s.Canonical) : NextCanonical (execMessageDelivery k s) := by
  unfold Machine.execMessageDelivery
  refine .next ?_
  split
  · exact h
  · split
    · exact h
    · extract_lets s1
      have h1 : s1.Canonical := h
      split
      · exact .sendMessage h1
      · split
        · exact .fate h1
        · split
          · exact .msgDrop h1
          · exact .getD (.enterRouter h1) h

theorem State.Canonical.payOwed {x : FarOwed} (h : s.Canonical) : (s.payOwed x).Canonical := .ite h (.sendNew h)

theorem State.Canonical.invalidateFar {x : DirEntry} (h : s.Canonical) : (s.invalidateFar x).Canonical := .ite h (.sendNew h)

theorem State.Canonical.linkTick (h : s.Canonical) : s.linkTick.Canonical := by
  unfold State.linkTick
  extract_lets s1 s2 s3
  have h1 : s1.Canonical := .foldl (fun _ _ h => .dropLost h) h
  have h2 : s2.Canonical := .foldl (fun _ _ h => .payOwed h) h1
  have h3 : s3.Canonical := .foldl (fun _ _ h => .invalidateFar h) h2
  exact .foldl (fun _ _ h => .sendFlits h) h3

theorem State.Canonical.useWindow {z : Nat} {asid : BitVec 16} {v : Variant} {base : Nat} (h : s.Canonical) : (s.useWindow z asid v base).Canonical :=
  .updPart h

theorem State.Canonical.askFuse {bench : Nat} {on : Bool} (h : s.Canonical) : (s.askFuse bench on).Canonical := .ite h h

theorem State.Canonical.layBlock {n lin vi core : Nat} {fit : CoreFit} {restart : Option Restart} (h : s.Canonical) :
    (s.layBlock n lin vi core fit restart).Canonical := by
  unfold State.layBlock
  split
  · exact h
  · split
    · exact h
    · extract_lets _ _ _ s1 s2 s3
      have h1 : s1.Canonical := .askFuse (.clearAllot h)
      have h2 : s2.Canonical := by
        dsimp only [s2]
        split
        · exact h1
        · exact .foldl (fun _ _ h => .writeSpad h) h1
      have h3 : s3.Canonical := .foldl (fun _ _ h => .setReg (.useWindow h)) h2
      exact h3

theorem State.Canonical.joinSave {n blk : Nat} (h : s.Canonical) : (s.joinSave n blk).Canonical := by
  unfold State.joinSave
  split
  · exact h
  · exact .ite h (.foldl (fun _ _ h => .updTeam h) (.updBlock h))

theorem State.Canonical.putBlock {n lin vi core : Nat} {fit : CoreFit} {restart : Option Restart} (h : s.Canonical) :
    (s.putBlock n lin vi core fit restart).Canonical := .ite (.joinSave (.deliverParked (.layBlock h))) (.deliverParked (.layBlock h))

theorem State.Canonical.qPut {q i lo n v : Nat} (h : s.Canonical) : (s.qPut q i lo n v).Canonical := .writeMem h

theorem State.Canonical.unmapQueue {slot : Nat} {x : QSlot} (h : s.Canonical) : (s.unmapQueue slot x).Canonical := .qPut (.qPut (.qPut (.qPut h)))

theorem State.Canonical.queueError {q code : Nat} (h : s.Canonical) : (s.queueError q code).Canonical := by
  unfold State.queueError
  extract_lets _ s1
  have h1 : s1.Canonical := by
    dsimp only [s1]
    split
    · exact .unmapQueue h
    · exact h
  exact .tenantIrq (.qPut (.qPut h1))

theorem State.Canonical.notify {q v : Nat} (h : s.Canonical) : (s.notify q v).Canonical := by
  unfold State.notify
  split
  · exact h
  · split
    · exact .ite (.queueError h) h
    · exact .ite (.queueError (.qPut (.qPut h))) (.qPut (.qPut h))

theorem NextCanonical.execNotifyWptr {q : Nat} {wptr : BitVec 16} (h : s.Canonical) : NextCanonical (execNotifyWptr q wptr s) := .next (.notify h)

theorem State.Canonical.qdisWrite {v : Word} (h : s.Canonical) : (s.qdisWrite v).Canonical := .ite (.putReg h) (.putReg (.putReg (.putReg h)))

theorem NextCanonical.execQdisGo {value : Word} (h : s.Canonical) : NextCanonical (execQdisGo value s) := .next (.qdisWrite h)

theorem NextCanonical.execQueueDisableComplete (h : s.Canonical) : NextCanonical (execQueueDisableComplete s) := by
  unfold Machine.execQueueDisableComplete
  refine .next ?_
  split
  · exact h
  · extract_lets _ s1
    have h1 : s1.Canonical := by
      dsimp only [s1]
      split
      · exact .unmapQueue h
      · exact h
    exact .putReg (.qPut h1)

theorem NextCanonical.execQueueMapping {slot : Nat} (h : s.Canonical) : NextCanonical (execQueueMapping slot s) := by
  unfold Machine.execQueueMapping
  refine .next ?_
  split
  · exact h
  · extract_lets _ s1 s2 _ _ s3
    have h1 : s1.Canonical := .qPut h
    have h2 : s2.Canonical := h1
    have h3 : s3.Canonical := .qPut (.qPut h2)
    split
    · split
      · exact .ite (.unmapQueue h) h
      · exact h
    · exact .ite h (.ite h2 h3)

theorem OkCanonical.readWords {asid : BitVec 16} {root va n : Nat} (h : s.Canonical) : OkCanonical (s.readWords asid root va n) := by
  unfold State.readWords
  split
  · exact .error
  · next hu => exact .ok (.of_ok (.readVa h) hu)

theorem SomeCanonical.readDeps {w lr : List Word} {met : List Bool} (h : s.Canonical) : SomeCanonical (s.readDeps w lr met) := by
  unfold State.readDeps
  refine .foldl_bind (fun p i hp => ?_) h
  dsimp only
  split
  · exact .some hp
  · split
    · exact .none
    · next hread => exact .some (.of_ok (.readWords hp) hread)

theorem NextCanonical.execDependenceRead {slot : Nat} (h : s.Canonical) : NextCanonical (execDependenceRead slot s) := by
  unfold Machine.execDependenceRead
  refine .next ?_
  split
  · exact h
  · split
    · exact h
    · split
      · exact .queueError h
      · next hread =>
        have h' := State.Canonical.of_some (.readDeps h) hread
        exact h'

theorem SomeCanonical.readImage {asid : BitVec 16} {root kimg : Nat} (h : s.Canonical) : SomeCanonical (s.readImage asid root kimg) := by
  unfold State.readImage
  split
  · exact .none
  next hhead =>
  have h1 := State.Canonical.of_ok (.readWords h) hhead
  split
  · exact .none
  extract_lets n any r
  have hr : SomeCanonical r := .foldl_bind (fun p v hp => by
    dsimp only
    split
    · exact .none
    next hdesc =>
    have h2 := State.Canonical.of_ok (.readWords hp) hdesc
    split
    · exact .none
    · split
      · exact .some h2
      · split
        · exact .none
        · next hsw => exact .some (.of_ok (.readWords h2) hsw)) h1
  clear_value r
  split
  · exact .none
  · extract_lets
    split
    · exact .some (hr _ rfl)
    · exact .none

theorem State.Canonical.claim {n leaf lin core : Nat} (h : s.Canonical) : (s.claim n leaf lin core).Canonical := h

theorem SomeState.postTasks {n : Nat} {recs : List (List Byte)} (h : s.Canonical) : SomeState (s.postTasks n recs) :=
  .foldl_bind (fun _ _ h => .taskPost h) h

theorem OkState.prepare {n : Nat} {x : QSlot} {lr : List Word} (h : s.Canonical) : OkState (s.prepare n x lr) := by
  unfold State.prepare
  split
  · exact .error
  next himg =>
  have h1 := State.Canonical.of_some (.readImage h) himg
  split
  · exact .error
  split
  · exact .error
  split
  · exact .error
  split
  · exact .error
  next u _ hparams =>
  have h2 : u.Canonical := .of_ok (.readWords h1) hparams
  extract_lets s3
  have h3 : s3.Canonical := h2
  split
  · exact .ok h3
  · split
    · exact .error
    · split
      · exact .error
      · next hread _ _ hpost => exact .ok (.of_someState (.postTasks (.of_ok (.readVa h3) hread)) hpost)

theorem OkCanonical.readRecord {slot : Nat} {x : QSlot} (h : s.Canonical) : OkCanonical (s.readRecord slot x) := by
  unfold State.readRecord
  split
  · exact .ok h
  · split
    · exact .error
    next hread =>
    split
    · exact .error
    · split
      · exact .error
      · next hdeps =>
        have h' := State.Canonical.of_some (.readDeps (.of_ok (.readWords h) hread)) hdeps
        exact .ok h'

theorem NextCanonical.execLaunchStart {slot : Nat} (h : s.Canonical) : NextCanonical (execLaunchStart slot s) := by
  unfold Machine.execLaunchStart
  refine .next ?_
  split
  · exact h
  split
  · exact h
  split
  · exact .queueError h
  next hread =>
  have h1 := State.Canonical.of_ok (.readRecord h) hread
  split
  · exact h1
  split
  · exact h1
  extract_lets
  split
  · exact .queueError h1
  · next hprep =>
    have h2 := State.Canonical.of_okState (.prepare h1) hprep
    exact h2

theorem SomeState.addCounter {l : Launch} {va : Nat} (h : s.Canonical) : SomeState (s.addCounter l va) := by
  unfold State.addCounter
  split
  · exact .none
  · exact .some (.writeAs (.dropViews (.useXlat h)))

theorem NextCanonical.execLaunchCompletion {launch : Nat} (h : s.Canonical) : NextCanonical (execLaunchCompletion launch s) := by
  unfold Machine.execLaunchCompletion
  refine .next ?_
  split
  · exact h
  · split
    · exact h
    · extract_lets _ _ s1 s2
      have h1 : s1.Canonical := by
        dsimp only [s1]
        split
        · exact h
        · split
          · exact .queueError h
          · next hadd =>
            have h' := State.Canonical.of_someState (.addCounter h) hadd
            exact h'
      have h2 : s2.Canonical := .ite (.tenantIrq h1) h1
      exact h2

theorem State.Canonical.dispPlaced {leaf : Nat} {w : Waiting} {core : Nat} (h : s.Canonical) : (s.dispPlaced leaf w core).Canonical := h

theorem SomeState.tryPlace {leaf : Nat} {w : Waiting} (h : s.Canonical) : SomeState (s.tryPlace leaf w) := by
  unfold State.tryPlace
  split
  · exact .none
  · split
    · extract_lets
      split
      · exact .none
      · exact .map (fun _ => h)
    · exact .map (fun _ => .dispPlaced (.claim (.putBlock h)))

theorem State.Canonical.placeGang {leaf : Nat} {p : Placing} {rest : List Placing} (h : s.Canonical) : (s.placeGang leaf p rest).Canonical := by
  unfold State.placeGang
  split
  · exact h
  · split
    · exact h
    · exact .putBlock h

theorem NextCanonical.execDrainHold {part : Nat} (h : s.Canonical) : NextCanonical (execDrainHold part s) := by
  unfold Machine.execDrainHold
  refine .next ?_
  split
  · exact h
  · split
    · exact .ite (.updPart h) h
    · split
      · exact h
      · split
        · exact h
        · exact .updPart h

theorem NextCanonical.execStarvationHold {leaf : Nat} (h : s.Canonical) : NextCanonical (execStarvationHold leaf s) := by
  unfold Machine.execStarvationHold
  extract_lets
  refine .next ?_
  split
  · exact .ite h h
  · exact h

theorem State.Canonical.waitTick {leaf : Nat} (h : s.Canonical) : (s.waitTick leaf).Canonical := .ite h h

theorem NextCanonical.execSwitchFlag {leaf : Nat} (h : s.Canonical) : NextCanonical (execSwitchFlag leaf s) := by
  unfold Machine.execSwitchFlag
  extract_lets
  refine .next ?_
  split
  · split
    · exact h
    · exact .ite h (.ite h h)
  · split <;> exact h

end Sys2Proof.Machine
end

section
/-!
PROOF. The context engine and the placement of blocks keep the stores canonical (R324, R326, R333, R334).
-/
namespace Sys2Proof.Machine

variable {s : State}

theorem State.Canonical.writeImage {base size : Nat} {l : List (Nat × Piece)} (h : s.Canonical) : (s.writeImage base size l).Canonical :=
  .foldl (fun _ _ h => .writeMem h) (.writeMem h)

theorem State.Canonical.startSave {kind target source seq : Nat} {win : Bool} (h : s.Canonical) :
    (s.startSave kind target source seq win).Canonical := by
  unfold State.startSave
  extract_lets _ _ _ s1
  have h1 : s1.Canonical := h
  refine .foldl (fun s x h => ?_) h1
  split
  · exact h
  · exact .foldl (fun _ _ h => .updTeam h) (.updBlock h)

theorem State.Canonical.cxcmdWrite {master : Master} {v : Word} (h : s.Canonical) : (s.cxcmdWrite master v).Canonical := by
  unfold State.cxcmdWrite
  extract_lets _ _ s1 _ s2 _ _
  have h1 : s1.Canonical := .setReg h
  have h2 : s2.Canonical := .putReg (.putReg (.putReg h1))
  exact .ite h1 (.ite (.putReg h1) (.ite (.startSave h2) h2))

theorem NextCanonical.execSave {master : Master} {value : Word} (h : s.Canonical) : NextCanonical (execSave master value s) := .next (.cxcmdWrite h)

theorem NextCanonical.execRestore {master : Master} {value : Word} (h : s.Canonical) : NextCanonical (execRestore master value s) :=
  .next (.cxcmdWrite h)

theorem NextCanonical.execTeamHalt {core : Nat} (h : s.Canonical) : NextCanonical (execTeamHalt core s) :=
  .next (.foldl (fun _ _ h => .ite (.stopTeam h) h) h)

theorem State.Canonical.settleCopies {blk : Nat} (h : s.Canonical) : (s.settleCopies blk).Canonical := h

theorem State.Canonical.settleCommands {b : Block} {blk : Nat} (h : s.Canonical) : (s.settleCommands b blk).Canonical :=
  .foldl (fun _ _ h => .updCmd (.runCommand h)) h

theorem State.Canonical.unstop {blk : Nat} {b : Block} (h : s.Canonical) : (s.unstop blk b).Canonical :=
  .resumeWhere (.foldl (fun _ _ h => .ite (.resumeCopies (.updTeam h)) (.updTeam h)) (.updBlock h))

theorem State.Canonical.nextBlock (h : s.Canonical) : s.nextBlock.Canonical := h

theorem State.Canonical.engineSees {s before : State} {b : Block} {acc : Nat} (h : s.Canonical) : (s.engineSees before b acc).Canonical := .watch h

theorem State.Canonical.cxDone {c : CxCmd} (h : s.Canonical) : (s.cxDone c).Canonical := h

theorem State.Canonical.cxEvent {held : AL (Option Nat)} {q : List CxEvent} {c : Option CxCmd} (h : s.Canonical) :
    State.Canonical { s with cxHeld := held, cxq := q, cx := c } := h

theorem State.Canonical.saveLaunch {c : CxCmd} {n : Nat} {l : Launch} (h : s.Canonical) : (s.saveLaunch c n l).Canonical := by
  unfold State.saveLaunch
  split
  · exact h
  · split
    · exact h
    · exact .cxEvent (.writeImage h)

theorem State.Canonical.saveRest {c : CxCmd} (h : s.Canonical) : (s.saveRest c).Canonical := by
  unfold State.saveRest
  split
  · split
    · exact h
    · exact .saveLaunch h
  · refine .cxDone (.foldl (fun s x h => ?_) h)
    split
    · exact .unmapQueue h
    · exact h

theorem State.Canonical.saveBlock {c : CxCmd} {blk : Nat} {b : Block} (h : s.Canonical) : (s.saveBlock c blk b).Canonical := by
  unfold State.saveBlock
  extract_lets
  split
  · exact .cxEvent (.nextBlock (.unstop h))
  · split
    · exact h
    · exact .cxEvent (.nextBlock (.writeImage (.engineSees h)))

theorem NextCanonical.execBlockSettle {blk : Nat} (h : s.Canonical) : NextCanonical (execBlockSettle blk s) := by
  unfold Machine.execBlockSettle
  refine .next ?_
  split
  · exact h
  · split
    · exact h
    · split
      · exact .saveRest h
      · split
        · exact .nextBlock h
        · split
          · exact h
          · extract_lets s1 s2
            have h1 : s1.Canonical := .settleCommands (.settleCopies h)
            have h2 : s2.Canonical := .updBlock h1
            exact .ite h1 (.ite h2 (.saveBlock h2))

theorem State.Canonical.restoreDone {r : RestoreReq} {code queue num : Nat} (h : s.Canonical) : (s.restoreDone r code queue num).Canonical := by
  unfold State.restoreDone
  extract_lets s1
  have h1 : s1.Canonical := h
  split
  · exact .cxDone h1
  · exact h1

theorem State.Canonical.restoreLaunch {r : RestoreReq} {n : Nat} {x : QSlot} {w : List Word} (h : s.Canonical) :
    (s.restoreLaunch r n x w).Canonical := by
  unfold State.restoreLaunch
  extract_lets
  split
  · exact .restoreDone h
  next u _ _ himg =>
  have hu : u.Canonical := .of_some (.readImage h) himg
  extract_lets s1
  have h1 : s1.Canonical := hu
  split
  · exact .cxDone h1
  · exact h1

theorem State.Canonical.reloadBlock {base blk : Nat} {b : Block} (h : s.Canonical) : (s.reloadBlock base blk b).Canonical :=
  .updBlock (.foldl (fun _ _ h => .setAccElem h) (.foldl (fun _ _ h => .writeSpad h) h))

theorem State.Canonical.reloadEngines {base ids blk core : Nat} {teams : List Nat} (h : s.Canonical) :
    (s.reloadEngines base ids blk core teams).Canonical := by
  unfold State.reloadEngines
  extract_lets _ _ _ _ _ _ _ s1 s2 s3
  have h2 : s2.Canonical := .foldl (fun _ _ h => .ite (.updTeam h) (.ite (.updTeam h) h)) h
  have h3 : s3.Canonical := by
    dsimp only [s3]
    refine .foldl (fun s x h => ?_) h2
    split
    · exact .ite (.updTeam h) (.updCore h)
    · exact .updTeam h
  exact .foldl (fun _ _ h => .updTeam h) h3

theorem State.Canonical.reloadMessages {base core n : Nat} (h : s.Canonical) : (s.reloadMessages base core n).Canonical := .updCore h

theorem State.Canonical.reloadTeams {base ids ended : Nat} {win : Bool} {teams : List Nat} (h : s.Canonical) :
    (s.reloadTeams base ids ended win teams).Canonical := by
  unfold State.reloadTeams
  refine .foldl_fst (fun a x ha => ?_) h
  obtain ⟨s', table⟩ := a
  dsimp -zeta only
  extract_lets
  split
  · exact .freeWindow (.updTeam ha)
  · split
    · exact ha
    · extract_lets _ _ s1 s2 s3 _ s4
      have h1 : s1.Canonical := .updTeam ha
      have h2 : s2.Canonical := .ite (.updBlock h1) h1
      have h3 : s3.Canonical := .ite h2 (.haltTeam h2)
      exact .updPart h3

theorem State.Canonical.restoreBlock {r : RestoreReq} {n lin vi leaf core : Nat} {l : Launch} {f : CoreFit} (h : s.Canonical) :
    (s.restoreBlock r n lin vi leaf core l f).Canonical := by
  unfold State.restoreBlock
  extract_lets _ _ _ _ _ _ s1 s2 s3 _
  have h1 : s1.Canonical := .layBlock h
  have h2 : s2.Canonical := .claim h1
  have h3 : s3.Canonical := h2
  split
  · exact h3
  · extract_lets s4 s5 s6
    have h4 : s4.Canonical := .reloadTeams (.reloadBlock h3)
    have h5 : s5.Canonical := .engineSees (.reloadMessages (.reloadEngines h4))
    have h6 : s6.Canonical := .deliverParked (.foldl (fun _ _ h => .resumeCopies h) h5)
    exact .restoreDone h6

theorem State.Canonical.restoreHere {leaf : Nat} (h : s.Canonical) : (s.restoreHere leaf).Canonical := by
  unfold State.restoreHere
  split
  · exact h
  · split
    · exact h
    · exact .ite h (.restoreBlock h)

theorem State.Canonical.restoreOldest {leaf : Nat} {r : RestoreReq} {x : CxImage} (h : s.Canonical) : (s.restoreOldest leaf r x).Canonical := by
  unfold State.restoreOldest
  split
  · exact .restoreDone h
  · exact .restoreLaunch h
  · exact .restoreHere h

theorem NextCanonical.execRestorePlacement {leaf : Nat} (h : s.Canonical) : NextCanonical (execRestorePlacement leaf s) := by
  unfold Machine.execRestorePlacement
  refine .next ?_
  split
  · exact h
  · exact .restoreOldest h

theorem State.Canonical.placeOne {leaf : Nat} {q : Waiting → Bool} (h : s.Canonical) : SomeState ((s.placeOne leaf q).map Prod.snd) := by
  intro u hu
  obtain ⟨⟨k, v⟩, hv, rfl⟩ := Option.map_eq_some_iff.1 hu
  obtain ⟨w, -, hw⟩ := List.exists_of_findSome?_eq_some hv
  split at hw
  · exact absurd hw nofun
  · obtain ⟨v', hv', hpair⟩ := Option.map_eq_some_iff.1 hw
    cases hpair
    exact .of_someState (.tryPlace h) hv'

theorem NextCanonical.execBlockPlacement {leaf : Nat} (h : s.Canonical) : NextCanonical (execBlockPlacement leaf s) := by
  unfold Machine.execBlockPlacement
  refine .next ?_
  split
  · exact h
  · split
    · exact .placeGang h
    · exact .getD (.placeOne h) h

theorem State.Canonical.postRecord {e : CxEvent} (h : s.Canonical) : (s.postRecord e).Canonical := by
  unfold State.postRecord
  extract_lets _ _ s1 s2 s3 s4
  have h1 : s1.Canonical := .ite h (.writeMem h)
  have h2 : s2.Canonical := .putReg h1
  have h3 : s3.Canonical := h2
  have h4 : s4.Canonical := .ite h3 h3
  split
  · split
    · exact .removeBlock (.dropQueued h4)
    · exact h4
  · exact .ite h4 h4

theorem NextCanonical.execContextEvent (h : s.Canonical) : NextCanonical (execContextEvent s) := by
  unfold Machine.execContextEvent
  refine .next ?_
  split
  · exact h
  · exact .ite (.postRecord h) h

theorem State.Canonical.cxevpWrite {v : Word} (h : s.Canonical) : (s.cxevpWrite v).Canonical := h

end Sys2Proof.Machine
end

section
/-!
PROOF. Debug, trace, counters and replay keep the stores canonical.
-/
namespace Sys2Proof.Machine

variable {s : State}

theorem State.Canonical.dbgResume {z at_ : Nat} (h : s.Canonical) : (s.dbgResume z at_).Canonical := .ite h (.traceResume (.updTeam (.putReg h)))

theorem State.Canonical.dbgStep {z : Nat} (h : s.Canonical) : (s.dbgStep z).Canonical := .ite h (.updTeam (.putReg (.putReg h)))

theorem State.Canonical.tdbgWrite {z : Nat} {v : Word} (h : s.Canonical) : (s.tdbgWrite z v).Canonical := by
  unfold State.tdbgWrite
  extract_lets s1 s2
  have h1 : s1.Canonical := .putReg h
  have h2 : s2.Canonical := .ite (.putReg h1) h1
  split
  · exact h2
  · extract_lets s3 s4
    have h3 : s3.Canonical := .ite (.updTeam h2) h2
    have h4 : s4.Canonical := .ite (.dbgResume h3) h3
    exact .ite (.dbgStep h4) h4

theorem NextCanonical.execTdbgStop {z : Nat} (h : s.Canonical) : NextCanonical (execTdbgStop z s) := by
  unfold Machine.execTdbgStop
  refine .next ?_
  split
  · exact h
  · exact .ite h (.updTeam h)

theorem NextCanonical.execTdbgResume {z : Nat} (h : s.Canonical) : NextCanonical (execTdbgResume z s) := by
  unfold Machine.execTdbgResume
  refine .next ?_
  split
  · exact h
  · exact .dbgResume h

theorem NextCanonical.execTdbgStepgo {z : Nat} (h : s.Canonical) : NextCanonical (execTdbgStepgo z s) := by
  unfold Machine.execTdbgStepgo
  refine .next ?_
  split
  · exact h
  · exact .dbgStep h

theorem NextCanonical.execDebugHalt {z : Nat} (h : s.Canonical) : NextCanonical (execDebugHalt z s) := by
  unfold Machine.execDebugHalt
  refine .next ?_
  split
  · exact h
  · split
    · exact h
    · exact .ite h (.debugHalt h)

theorem NextCanonical.execStepTimeout {z : Nat} (h : s.Canonical) : NextCanonical (execStepTimeout z s) := by
  unfold Machine.execStepTimeout
  refine .next ?_
  split
  · exact h
  · split
    · exact h
    · exact .ite h (.updTeam (.putReg (.stopTeam h)))

theorem State.Canonical.benchcmdWrite {bench : Nat} {v : Word} (h : s.Canonical) : (s.benchcmdWrite bench v).Canonical := by
  unfold State.benchcmdWrite
  extract_lets s1
  have h1 : s1.Canonical := .ite (.triggerBench h) h
  exact .ite (.putReg (.foldl (fun _ _ h => .ite (.dbgResume h) h) h1)) h1

theorem NextCanonical.execBenchcmdStop {bench : Nat} (h : s.Canonical) : NextCanonical (execBenchcmdStop bench s) := .next (.benchcmdWrite h)

theorem NextCanonical.execBenchcmdResume {bench : Nat} (h : s.Canonical) : NextCanonical (execBenchcmdResume bench s) := .next (.benchcmdWrite h)

theorem NextCanonical.execBenchStop {bench : Nat} (h : s.Canonical) : NextCanonical (execBenchStop bench s) := by
  unfold Machine.execBenchStop
  refine .next ?_
  split
  · exact h
  · exact .ite h h

theorem SomeState.loadTeam {base z : Nat} {t : Team} (h : s.Canonical) : SomeState (s.loadTeam base z t) := by
  unfold State.loadTeam
  extract_lets
  split
  · exact .none
  · exact .some (.updTeam h)

theorem State.Canonical.dbgGo {core op slot : Nat} (h : s.Canonical) : (s.dbgGo core op slot).Canonical := by
  unfold State.dbgGo
  extract_lets _ _ _ s1 _
  have h1 : s1.Canonical := .putReg h
  split
  · exact h1
  · exact .ite h1 (.ite (.writeImage h) (.getD (.loadTeam h) h1))

theorem State.Canonical.dbgcmdWrite {core : Nat} {v : Word} (h : s.Canonical) : (s.dbgcmdWrite core v).Canonical :=
  .ite (.dbgGo (.ite (.putReg (.putReg h)) (.putReg h))) (.ite (.putReg (.putReg h)) (.putReg h))

theorem NextCanonical.execDump {core slot : Nat} (h : s.Canonical) : NextCanonical (execDump core slot s) := .next (.dbgcmdWrite h)

theorem NextCanonical.execLoad {core slot : Nat} (h : s.Canonical) : NextCanonical (execLoad core slot s) := .next (.dbgcmdWrite h)

theorem State.Canonical.ringReset {core : Nat} (h : s.Canonical) : (s.ringReset core).Canonical := .putReg h

theorem State.Canonical.trbaseWrite {core : Nat} {v : Word} (h : s.Canonical) : (s.trbaseWrite core v).Canonical := .ringReset (.setReg h)

theorem NextCanonical.execTrbaseWrite {core : Nat} {value : Word} (h : s.Canonical) : NextCanonical (execTrbaseWrite core value s) :=
  .next (.trbaseWrite h)

theorem State.Canonical.trctlWrite {core : Nat} {v : Word} (h : s.Canonical) : (s.trctlWrite core v).Canonical :=
  .ite (.updCore (.ringReset (.setReg h))) (.ringReset (.setReg h))

theorem NextCanonical.execTraceSample {part : Nat} (h : s.Canonical) : NextCanonical (execTraceSample part s) := .next (.trace h)

theorem State.Canonical.cntWrite {core k : Nat} {sel : Bool} {v : Word} (h : s.Canonical) : (s.cntWrite core k sel v).Canonical :=
  .updCore (.ite (.setReg h) (.setReg h))

theorem NextCanonical.execCntWrite {core k : Nat} {sel : Bool} {value : Word} (h : s.Canonical) : NextCanonical (execCntWrite core k sel value s) :=
  .next (.cntWrite h)

theorem State.Canonical.addCount {core k n : Nat} (h : s.Canonical) : (s.addCount core k n).Canonical :=
  .ite h (.ite (.putReg h) (.ite (.trace (.putReg (.putReg h))) (.putReg (.putReg h))))

theorem State.Canonical.levelEvents {core : Nat} (h : s.Canonical) : (s.levelEvents core).Canonical := by
  unfold State.levelEvents
  extract_lets s1 s2 s3
  have h1 : s1.Canonical := .count h
  have h2 : s2.Canonical := .foldl (fun _ _ h => .ite h (.ite (.countTeam (.ite (.countTeam h) h)) (.ite (.countTeam h) h))) h1
  have h3 : s3.Canonical := .ite (.count h2) h2
  exact .ite (.count h3) h3

theorem State.Canonical.countCycle {core : Nat} (h : s.Canonical) : (s.countCycle core).Canonical := by
  unfold State.countCycle
  extract_lets s1
  have h1 : s1.Canonical := .levelEvents h
  split
  · exact h1
  · exact .updCore (.foldl (fun _ _ h => .ite h (.addCount h)) h1)

theorem State.Canonical.clockSteps (h : s.Canonical) : s.clockSteps.Canonical := .ite h (.foldl (fun _ _ h => .ite h h) h)

theorem State.Canonical.lostTick {core : Nat} (h : s.Canonical) : (s.lostTick core).Canonical := by
  unfold State.lostTick
  split
  · exact h
  · exact .updCore (.ite h (.foldl (fun _ _ h => .putReg h) h))

theorem State.Canonical.pageSeen {pa : Nat} (h : s.Canonical) : (s.pageSeen pa).Canonical := h

theorem State.Canonical.rplRestorePages (h : s.Canonical) : s.rplRestorePages.Canonical := .putReg (.foldl (fun _ _ h => .pageSeen (.writeMem h)) h)

theorem State.Canonical.coldCaches (h : s.Canonical) : s.coldCaches.Canonical := h

theorem State.Canonical.rplRun {op : Nat} (h : s.Canonical) : (s.rplRun op).Canonical := by
  unfold State.rplRun
  extract_lets _ _ s1 s2
  have h1 : s1.Canonical := .setReg (.setReg (.putReg (.putReg h)))
  have h2 : s2.Canonical := .ite (.putReg h) h
  split
  · exact .putReg h
  · split
    · exact h1
    · exact .rplRestorePages h
    · exact .coldCaches h
    · exact .ite (.setReg (.setReg h)) (.ite (.putReg h2) h2)

theorem State.Canonical.rplWrite {v : Word} (h : s.Canonical) : (s.rplWrite v).Canonical :=
  .ite (.rplRun (.ite (.putReg (.setReg h)) (.setReg h))) (.ite (.putReg (.setReg h)) (.setReg h))

theorem NextCanonical.execRplBegin (h : s.Canonical) : NextCanonical (execRplBegin s) := .next (.rplRun (.putReg h))

theorem NextCanonical.execRplRestore (h : s.Canonical) : NextCanonical (execRplRestore s) := .next (.rplRun (.putReg h))

theorem NextCanonical.execRplReset (h : s.Canonical) : NextCanonical (execRplReset s) := .next (.rplRun (.putReg h))

theorem NextCanonical.execRplEnd (h : s.Canonical) : NextCanonical (execRplEnd s) := .next (.rplRun (.putReg h))

end Sys2Proof.Machine
end

section
/-!
PROOF. The fabric, register writes, the host link and the platform keep the stores canonical.
-/
namespace Sys2Proof.Machine

variable {s : State}

theorem State.Canonical.takeProbe {set : BitVec 16} {va : Nat} {acc : AccKind} (h : s.Canonical) : (s.takeProbe set va acc).Canonical := h

theorem NextCanonical.execTranslationProbe {set : BitVec 16} {va : BitVec 64} {acc : AccKind} (h : s.Canonical) :
    NextCanonical (execTranslationProbe set va acc s) := .next (.takeProbe h)

theorem State.Canonical.unpin {hd : FabHead} (h : s.Canonical) : (s.unpin hd).Canonical := h

theorem State.Canonical.farReply {hd : FabHead} {kind : FabKind} {data : List Byte} {q : BitVec 64} {x : Option Nat} (h : s.Canonical) :
    (s.farReply hd kind data q x).Canonical := .sendNew h

theorem State.Canonical.serveRead {leaf : Nat} {hd : FabHead} (h : s.Canonical) : (s.serveRead leaf hd).Canonical := by
  unfold State.serveRead
  split
  · exact .farReply h
  · exact .ite (.farReply (.unpin h)) (.farReply (.unpin h))

theorem State.Canonical.agentPut {op pa : Nat} {asid : BitVec 16} {attr : PageAttr} {l : List Byte} {q : Bool} (h : s.Canonical) :
    (s.agentPut op pa asid attr l q).Canonical := .ite (.writeAs h) (.writeAs h)

theorem State.Canonical.serveWrite {hd : FabHead} {data : List Byte} (h : s.Canonical) : (s.serveWrite hd data).Canonical := by
  unfold State.serveWrite
  split
  · exact .foldl (fun _ _ h => .agentPut h) (.unpin h)
  · exact .farReply h

theorem State.Canonical.serveLane {hd : FabHead} {f : AtomFn} {p : Pin} {asid : BitVec 16} {i word : Nat} {data : List Byte} (h : s.Canonical) :
    (s.serveLane hd f p asid i word data).1.Canonical := .agentPut (.seeAll h)

theorem State.Canonical.serveAtomic {hd : FabHead} {f : AtomFn} {data : List Byte} (h : s.Canonical) : (s.serveAtomic hd f data).Canonical := by
  unfold State.serveAtomic
  split
  · exact .farReply (.performViews (.foldl_fst (fun _ _ h => .serveLane h) (.unpin h)))
  · exact .farReply h

theorem State.Canonical.takeMessage {hd : FabHead} {data : List Byte} (h : s.Canonical) : (s.takeMessage hd data).Canonical := by
  unfold State.takeMessage
  extract_lets _ _ s1
  have h1 : s1.Canonical := h
  split
  · exact .msgDrop h1
  · exact h1

theorem State.Canonical.servePacket {port : Nat} {hd : FabHead} {data : List Byte} (h : s.Canonical) : (s.servePacket port hd data).Canonical := by
  unfold State.servePacket
  split
  · exact .serveRead h
  · exact .serveWrite h
  · exact .serveAtomic h
  · exact .farReply (.takeProbe h)
  · exact .farAnswer h
  · exact .farAnswer h
  · exact .farAnswer h
  · exact .farAnswer h
  · exact .takeMessage h
  · exact h
  · exact h
  · exact h
  · exact h

theorem State.Canonical.takePacket {port : Nat} {hd : FabHead} {data : List Byte} (h : s.Canonical) : (s.takePacket port hd data).Canonical :=
  .ite (.sendFab h) (.ite h (.servePacket h))

theorem State.Canonical.takeFlit {p : Nat} {f : BitVec 512} (h : s.Canonical) : (s.takeFlit p f).Canonical := by
  unfold State.takeFlit
  extract_lets _ s1
  have h1 : s1.Canonical := .sendIdle (.updPort h)
  split
  · exact h1
  · exact .takePacket (.updPort h1)

theorem NextCanonical.execFlitReceive {port : Nat} {flit : BitVec 512} (h : s.Canonical) : NextCanonical (execFlitReceive port flit s) := by
  unfold Machine.execFlitReceive
  refine .next ?_
  split
  · exact .sendNak h
  · extract_lets _ s1
    have h1 : s1.Canonical := .updPort h
    exact .ite h1 (.ite (.replayFlits h1) (.ite (.takeFlit h1) (.ite h1 (.sendNak h1))))

theorem State.Canonical.sendReleases {e : Nat} (h : s.Canonical) : (s.sendReleases e).Canonical := .foldl (fun _ _ h => .sendBarrier h) h

theorem NextCanonical.execLevel4Arrival {e : Nat} (h : s.Canonical) : NextCanonical (execLevel4Arrival e s) :=
  .next (.ite h (.ite (.sendReleases (.putReg h)) (.putReg h)))

theorem NextCanonical.execLevel4Release {e : Nat} (h : s.Canonical) : NextCanonical (execLevel4Release e s) := by
  unfold Machine.execLevel4Release
  extract_lets _ s1 s2 s3
  have h1 : s1.Canonical := .putReg h
  have h2 : s2.Canonical := .ite (.putReg h1) h1
  have h3 : s3.Canonical := .putReg h2
  exact .next (.ite h (.foldl (fun _ _ h => .ite (.shareDone h) h) h3))

theorem State.Canonical.plainWrite {off : Nat} {r : RegRule} {v : Word} (h : s.Canonical) : (s.plainWrite off r v).Canonical := .setReg h

theorem State.Canonical.coreRegWrite {core o off : Nat} {r : RegRule} {v : Word} (h : s.Canonical) : (s.coreRegWrite core o off r v).Canonical := by
  unfold State.coreRegWrite
  split
  · exact .dbgcmdWrite h
  · split
    · exact .trbaseWrite h
    · split
      · exact .trctlWrite h
      · split
        · exact .tdbgWrite h
        · exact .cntWrite h
        · exact .cntWrite h
        · exact .plainWrite h

theorem State.Canonical.sessWrite {n off : Nat} {r : RegRule} {v : Word} (h : s.Canonical) : (s.sessWrite n off r v).Canonical :=
  .ite h (.plainWrite h)

theorem State.Canonical.fabWrite {off : Nat} {r : RegRule} {v : Word} (h : s.Canonical) : (s.fabWrite off r v).Canonical := by
  unfold State.fabWrite
  split
  · exact .sessWrite h
  · exact .plainWrite h

theorem State.Canonical.memRegWrite {off : Nat} {r : RegRule} {v : Word} (h : s.Canonical) : (s.memRegWrite off r v).Canonical := by
  unfold State.memRegWrite
  split
  · exact .artctlWrite h
  · split
    · exact .invctlWrite h
    · split
      · exact .ite (.putReg h) h
      · split
        · exact .wmaskWrite h
        · exact .plainWrite h

theorem State.Canonical.ctxRegWrite {m : Master} {off : Nat} {r : RegRule} {v : Word} (h : s.Canonical) : (s.ctxRegWrite m off r v).Canonical := by
  unfold State.ctxRegWrite
  split
  · exact .qdisWrite h
  · split
    · exact .cxcmdWrite h
    · split
      · exact .cxevpWrite h
      · split
        · exact .notify h
        · exact .plainWrite h

theorem SomeState.sysWrite {m : Master} {off : Nat} {v : Word} (h : s.Canonical) : SomeState (s.sysWrite m off v) := by
  unfold State.sysWrite
  split
  · exact .none
  · split
    · exact .none
    · split
      · exact .some (.plainWrite h)
      · split
        · exact .some (.memRegWrite h)
        · split
          · exact .some (.ctxRegWrite h)
          · split
            · exact .some (.fabWrite h)
            · split
              · exact .some (.coreRegWrite h)
              · exact .some (.ite (.benchcmdWrite h) h)
              · exact .some (.ite (.rplWrite h) (.plainWrite h))

theorem NextCanonical.execSystemRegisterWrite {master : Master} {off : Nat} {value : Word} (h : s.Canonical) :
    NextCanonical (execSystemRegisterWrite master off value s) := .next (.getD (.sysWrite h) h)

theorem State.Canonical.countBad (h : s.Canonical) : s.countBad.Canonical := .satReg h

theorem State.Canonical.countAuth (h : s.Canonical) : s.countAuth.Canonical := .satReg h

theorem State.Canonical.passNumber {p : Packet} (h : s.Canonical) : (s.passNumber p).Canonical := h

theorem State.Canonical.receive {p : Packet} {f : State → State} (h : s.Canonical) (hf : ∀ u, u.Canonical → (f u).Canonical) :
    (s.receive p f).Canonical := by
  unfold State.receive
  split
  · exact h
  split
  · exact .countBad h
  split
  · exact .countAuth h
  extract_lets _ s1
  have h1 : s1.Canonical := h
  split
  · exact hf _ (.passNumber h1)
  split
  · exact .ite h1 h1
  · exact .sendAck h1

theorem State.Canonical.refusePacket {p : Packet} {status : Nat} (h : s.Canonical) : (s.refusePacket p status).Canonical := .sendAck h

theorem State.Canonical.hostPut {n pa : Nat} {attr : PageAttr} {l : List Byte} (h : s.Canonical) : (s.hostPut n pa attr l).Canonical := .agentPut h

theorem State.Canonical.hostPerformed {n : Nat} (h : s.Canonical) : (s.hostPerformed n).Canonical := .performViews h

theorem State.Canonical.applyWrite {p : Packet} (h : s.Canonical) : (s.applyWrite p).Canonical := by
  unfold State.applyWrite
  extract_lets
  split
  · exact .refusePacket h
  · split
    · exact .refusePacket h
    · exact .foldl_fst (fun _ _ h => .hostPut (.useXlat h)) h

theorem State.Canonical.takeWrite {p : Packet} (h : s.Canonical) : (s.takeWrite p).Canonical := .ite h (.applyWrite h)

theorem State.Canonical.performLate {n i : Nat} (h : s.Canonical) : (s.performLate n i).Canonical := by
  unfold State.performLate
  extract_lets
  split
  · exact h
  · exact .applyWrite h

theorem State.Canonical.flushLate {n : Nat} (h : s.Canonical) : (s.flushLate n).Canonical :=
  .hostPerformed (.ite h (.foldl (fun _ _ h => .applyWrite h) h))

theorem State.Canonical.sendReplies {n seq : Nat} {data : List Byte} (h : s.Canonical) : (s.sendReplies n seq data).Canonical :=
  .foldl (fun _ _ h => .sendPkt h) h

theorem State.Canonical.applyRead {p : Packet} (h : s.Canonical) : (s.applyRead p).Canonical := by
  unfold State.applyRead
  extract_lets
  split
  · exact .refusePacket h
  · split
    · exact .refusePacket h
    · exact .ite (.refusePacket h) (.sendReplies (.foldl (fun _ _ h => .useXlat h) h))

theorem NextCanonical.execWrite {p : Packet} (h : s.Canonical) : NextCanonical (execWrite p s) := .next (.receive h (fun _ h => .takeWrite h))

theorem NextCanonical.execRead {p : Packet} (h : s.Canonical) : NextCanonical (execRead p s) :=
  .next (.receive h (fun _ h => .applyRead (.flushLate h)))

theorem State.Canonical.applyNotify {p : Packet} (h : s.Canonical) : (s.applyNotify p).Canonical := .ite (.refusePacket h) (.notify h)

theorem NextCanonical.execNotify {p : Packet} (h : s.Canonical) : NextCanonical (execNotify p s) :=
  .next (.receive h (fun _ h => .applyNotify (.flushLate h)))

theorem State.Canonical.applyCtrlRead {p : Packet} (h : s.Canonical) : (s.applyCtrlRead p).Canonical := by
  unfold State.applyCtrlRead
  extract_lets
  split
  · exact .refusePacket h
  · exact .sendPkt h

theorem NextCanonical.execCtrlRead {p : Packet} (h : s.Canonical) : NextCanonical (execCtrlRead p s) :=
  .next (.receive h (fun _ h => .applyCtrlRead (.flushLate h)))

theorem State.Canonical.applyCtrlWrite {p : Packet} (h : s.Canonical) : (s.applyCtrlWrite p).Canonical := by
  unfold State.applyCtrlWrite
  split
  · exact .refusePacket h
  · rename_i hu
    refine .of_someState ?_ hu
    split
    · exact .sysWrite h
    · exact .none

theorem NextCanonical.execCtrlWrite {p : Packet} (h : s.Canonical) : NextCanonical (execCtrlWrite p s) :=
  .next (.receive h (fun _ h => .applyCtrlWrite (.flushLate h)))

theorem NextCanonical.execAck {p : Packet} (h : s.Canonical) : NextCanonical (execAck p s) :=
  .next (.ite h (.ite (.countBad h) (.ite (.countAuth h) h)))

theorem NextCanonical.execRetransmissionTimeout {sess : Nat} (h : s.Canonical) : NextCanonical (execRetransmissionTimeout sess s) :=
  .next (.ite h (.ite (.platformEvent h) (.foldl (fun _ _ h => .emit h) h)))

theorem State.Canonical.anyLate {n : Nat} (h : s.Canonical) : (s.anyLate n).Canonical := by
  unfold State.anyLate
  split
  · exact h
  · exact .performLate h

theorem NextCanonical.execAckTimer {sess : Nat} (h : s.Canonical) : NextCanonical (execAckTimer sess s) := by
  unfold Machine.execAckTimer
  refine .next ?_
  split
  · exact .ite (.ite (.sendAck (.flushLate h)) h) (.anyLate h)
  · exact .anyLate h

theorem NextCanonical.execPriorityFlowControlFrame {paused : BitVec 8} (h : s.Canonical) : NextCanonical (execPriorityFlowControlFrame paused s) :=
  .next (.foldl (fun _ _ h => .emit h) h)

theorem NextCanonical.execEthernetLinkChange {up : Bool} (h : s.Canonical) : NextCanonical (execEthernetLinkChange up s) := .next (.putReg h)

theorem NextCanonical.execArpRequest {ip : BitVec 32} (h : s.Canonical) : NextCanonical (execArpRequest ip s) := .next (.ite (.emit h) h)

theorem NextCanonical.execNeighborSolicitation {ip6 : BitVec 128} (h : s.Canonical) : NextCanonical (execNeighborSolicitation ip6 s) :=
  .next (.ite (.emit h) h)

theorem NextCanonical.execNetcfgWrite {master : Master} {off : Nat} {value : Word} (h : s.Canonical) :
    NextCanonical (execNetcfgWrite master off value s) := .next (.ite (.getD (.sysWrite h) h) h)

theorem State.Canonical.hostRecall {i : Instr} (h : s.Canonical) : (s.hostRecall i).Canonical := .ite h h

theorem State.Canonical.hostServed (h : s.Canonical) : s.hostServed.Canonical := .foldl (fun _ _ h => .lineTurn h) h

theorem State.Canonical.powered {plat : Platform} : (s.powered plat).Canonical := State.reset_isCanonical

theorem State.Canonical.running {bank : Nat} {fall : Bool} (h : s.Canonical) : (s.running bank fall).Canonical := .writeMem h

theorem State.Canonical.recovery {step : Nat} (h : s.Canonical) : (s.recovery step).Canonical := .setReg h

theorem NextCanonical.execDeviceReset : NextCanonical (execDeviceReset s) := by
  unfold Machine.execDeviceReset
  extract_lets _ s1
  have h1 : s1.Canonical := .powered
  refine .next ?_
  split
  · exact .running h1
  · split
    · exact .platformEvent (.running h1)
    · exact .recovery h1

theorem State.Canonical.mgmtAnswer {code : BitVec 8} {data : List Byte} (h : s.Canonical) : (s.mgmtAnswer code data).Canonical := h

theorem State.Canonical.unlessRecovery {f : State → State} (h : s.Canonical) (hf : ∀ u, u.Canonical → (f u).Canonical) :
    (s.unlessRecovery f).Canonical := .ite (.mgmtAnswer h) (hf s h)

theorem NextCanonical.execRegisterRead {off : Nat} (h : s.Canonical) : NextCanonical (execRegisterRead off s) := by
  unfold Machine.execRegisterRead
  refine .next ?_
  split
  · exact .mgmtAnswer h
  · split
    · exact .mgmtAnswer h
    · exact .mgmtAnswer h

theorem NextCanonical.execRegisterWrite {off : Nat} {value : Word} (h : s.Canonical) : NextCanonical (execRegisterWrite off value s) := by
  unfold Machine.execRegisterWrite
  refine .next ?_
  split
  · exact .mgmtAnswer h
  · split
    · next hu => exact .mgmtAnswer (.of_someState (.sysWrite h) hu)
    · exact .mgmtAnswer h

theorem NextCanonical.execInstallSession {sess : Nat} {key : BitVec 256} {words : List Word} (h : s.Canonical) :
    NextCanonical (execInstallSession sess key words s) :=
  .next (.unlessRecovery h (fun _ h => .ite (.mgmtAnswer h) (.mgmtAnswer (.foldl (fun _ _ h => .getD (.sysWrite h) h) h))))

theorem NextCanonical.execWriteFirmwareImageChunk {off : Nat} {bytes : List Byte} (h : s.Canonical) :
    NextCanonical (execWriteFirmwareImageChunk off bytes s) := .next (.mgmtAnswer h)

theorem NextCanonical.execCommitImage (h : s.Canonical) : NextCanonical (execCommitImage s) := .next (.ite (.mgmtAnswer h) (.mgmtAnswer h))

theorem NextCanonical.execRaiseSvnMinimum (h : s.Canonical) : NextCanonical (execRaiseSvnMinimum s) :=
  .next (.unlessRecovery h (fun _ h => .mgmtAnswer h))

theorem NextCanonical.execResetDevice : NextCanonical (execResetDevice s) :=
  .next (.of_stores State.reset_isCanonical rfl rfl rfl rfl rfl rfl)

theorem NextCanonical.execReadPlatformEventLog (h : s.Canonical) : NextCanonical (execReadPlatformEventLog s) := .next (.mgmtAnswer h)

theorem State.Canonical.spdmAnswer {via : Via} {data : List Byte} (h : s.Canonical) : (s.spdmAnswer via data).Canonical := .ite h h

theorem NextCanonical.execGetDigests {via : Via} (h : s.Canonical) : NextCanonical (execGetDigests via s) := .next (.spdmAnswer h)

theorem NextCanonical.execGetCertificate {via : Via} {slot off len : Nat} (h : s.Canonical) : NextCanonical (execGetCertificate via slot off len s) :=
  .next (.spdmAnswer h)

theorem NextCanonical.execChallenge {via : Via} {slot : Nat} {nonce : BitVec 256} (h : s.Canonical) :
    NextCanonical (execChallenge via slot nonce s) := .next (.spdmAnswer h)

theorem NextCanonical.execGetMeasurements {via : Via} {index : Nat} {nonce : Option (BitVec 256)} (h : s.Canonical) :
    NextCanonical (execGetMeasurements via index nonce s) := by
  unfold Machine.execGetMeasurements
  refine .next ?_
  extract_lets m
  clear_value m
  split
  · exact .spdmAnswer h
  · exact .spdmAnswer h
  · exact .spdmAnswer h

theorem NextCanonical.execPcapWrite {value : Word} (h : s.Canonical) : NextCanonical (execPcapWrite value s) := .next (.putReg h)

theorem State.Canonical.setStep {leaf v : Nat} (h : s.Canonical) : (s.setStep leaf v).Canonical := h

theorem NextCanonical.execPowerCapStep {leaf watts : Nat} (h : s.Canonical) : NextCanonical (execPowerCapStep leaf watts s) :=
  .next (.ite h (.ite (.setStep h) (.setStep h)))

theorem NextCanonical.execThermalThrottling {leaf : Nat} (h : s.Canonical) : NextCanonical (execThermalThrottling leaf s) :=
  .next (.ite h (.platformEvent (.setStep h)))

theorem NextCanonical.execThermalShutdown : NextCanonical (execThermalShutdown s) :=
  .next (.of_stores State.reset_isCanonical rfl rfl rfl rfl rfl rfl)

theorem NextCanonical.execCoolantLimit (h : s.Canonical) : NextCanonical (execCoolantLimit s) := .next (.foldl (fun _ _ h => .setStep h) h)

theorem NextCanonical.execCoolantRecovery (h : s.Canonical) : NextCanonical (execCoolantRecovery s) := .next (.foldl (fun _ _ h => .setStep h) h)

/-- What the clock itself moves holds no store. -/
theorem State.Canonical.newClock {ck tk : Nat} {b : Bool} {tu : List (Nat × Nat)} {q : AL QSlot} {bl : AL Block} {te : AL Team}
    (h : s.Canonical) :
    State.Canonical { s with clock := ck, ticked := b, turns := tu, tick := tk, qslots := q, blocks := bl, teams := te } := h

theorem NextCanonical.execEventCounterIncrement (h : s.Canonical) : NextCanonical (execEventCounterIncrement s) := by
  unfold Machine.execEventCounterIncrement
  extract_lets s1 s2 s3
  have h1 : s1.Canonical := .foldl (fun _ _ h => .lostTick (.countCycle h)) h
  have h2 : s2.Canonical := .linkTick (.foldl (fun _ _ h => .waitTick h) h1)
  have h3 : s3.Canonical := .clockSteps (.newClock h2)
  clear_value s3
  exact .next h3

end Sys2Proof.Machine
end

section
/-!
PROOF. Every step keeps the canonical form of every store (R260, R288).
-/
namespace Sys2Proof.Machine

variable {s : State}

/-- A step of the device keeps the canonical form. -/
theorem NextCanonical.exec_device {i : Instr} (hk : i.kind = none) (h : s.Canonical) : NextCanonical (exec i s) := by
  cases i with
  | wordFetch => exact .execWordFetch h
  | dictRefill => exact .execDictRefill h
  | teamSelection => exact .execTeamSelection h
  | landing => exact .execLanding h
  | blockedSlotCommit => exact .execBlockedSlotCommit h
  | eretResume => exact .execEretResume h
  | loadReply => exact .execLoadReply h
  | missStatusRelease => exact .execMissStatusRelease h
  | translationWalk => exact .execTranslationWalk h
  | operationCompletion => exact .execOperationCompletion h
  | queueHandleUpdate => exact .execQueueHandleUpdate h
  | copyChunkComplete => exact .execCopyChunkComplete h
  | copyCompletion => exact .execCopyCompletion h
  | copyFaultSuspend => exact .execCopyFaultSuspend h
  | ownershipRecall => exact .execOwnershipRecall h
  | xuAcceptance => exact .execXuAcceptance h
  | matrixCommandBegin => exact .execMatrixCommandBegin h
  | matrixCommandCompletion => exact .execMatrixCommandCompletion h
  | trapEntry => exact .execTrapEntry h
  | blockEnd => exact .execBlockEnd h
  | launchCompletion => exact .execLaunchCompletion h
  | messageDelivery => exact .execMessageDelivery h
  | multicastFork => exact .execMulticastFork h
  | taskPostAccept => exact .execTaskPostAccept h
  | notifyWptr => exact .execNotifyWptr h
  | qdisGo => exact .execQdisGo h
  | queueMapping => exact .execQueueMapping h
  | launchStart => exact .execLaunchStart h
  | dependenceRead => exact .execDependenceRead h
  | blockPlacement => exact .execBlockPlacement h
  | drainHold => exact .execDrainHold h
  | starvationHold => exact .execStarvationHold h
  | switchFlag => exact .execSwitchFlag h
  | fusionChange => exact .execFusionChange h
  | save => exact .execSave h
  | restore => exact .execRestore h
  | teamHalt => exact .execTeamHalt h
  | blockSettle => exact .execBlockSettle h
  | restorePlacement => exact .execRestorePlacement h
  | contextEvent => exact .execContextEvent h
  | debugHalt => exact .execDebugHalt h
  | benchStop => exact .execBenchStop h
  | stepTimeout => exact .execStepTimeout h
  | traceSample => exact .execTraceSample h
  | bankArbitration => exact .execBankArbitration h
  | portSlotService => exact .execPortSlotService h
  | artctlGo => exact .execArtctlGo h
  | artCommitComplete => exact .execArtCommitComplete h
  | wmaskWrite => exact .execWmaskWrite h
  | wayConversionComplete => exact .execWayConversionComplete h
  | invctlGo => exact .execInvctlGo h
  | invalidationComplete => exact .execInvalidationComplete h
  | dtctlGo => exact .execDtctlGo h
  | filterEmptied => exact .execFilterEmptied h
  | scrubRead => exact .execScrubRead h
  | flitReceive => exact .execFlitReceive h
  | translationProbe => exact .execTranslationProbe h
  | level4Arrival => exact .execLevel4Arrival h
  | level4Release => exact .execLevel4Release h
  | write => exact .execWrite h
  | read => exact .execRead h
  | notify => exact .execNotify h
  | ack => exact .execAck h
  | ctrlRead => exact .execCtrlRead h
  | ctrlWrite => exact .execCtrlWrite h
  | retransmissionTimeout => exact .execRetransmissionTimeout h
  | ackTimer => exact .execAckTimer h
  | arpRequest => exact .execArpRequest h
  | neighborSolicitation => exact .execNeighborSolicitation h
  | netcfgWrite => exact .execNetcfgWrite h
  | deviceReset => exact .execDeviceReset
  | registerRead => exact .execRegisterRead h
  | registerWrite => exact .execRegisterWrite h
  | installSession => exact .execInstallSession h
  | writeFirmwareImageChunk => exact .execWriteFirmwareImageChunk h
  | commitImage => exact .execCommitImage h
  | raiseSvnMinimum => exact .execRaiseSvnMinimum h
  | resetDevice => exact .execResetDevice
  | readPlatformEventLog => exact .execReadPlatformEventLog h
  | getDigests => exact .execGetDigests h
  | getCertificate => exact .execGetCertificate h
  | challenge => exact .execChallenge h
  | getMeasurements => exact .execGetMeasurements h
  | pcapWrite => exact .execPcapWrite h
  | powerCapStep => exact .execPowerCapStep h
  | thermalThrottling => exact .execThermalThrottling h
  | thermalShutdown => exact .execThermalShutdown
  | coolantLimit => exact .execCoolantLimit h
  | systemRegisterWrite => exact .execSystemRegisterWrite h
  | queueDisableComplete => exact .execQueueDisableComplete h
  | ethernetLinkChange => exact .execEthernetLinkChange h
  | coolantRecovery => exact .execCoolantRecovery h
  | eventCounterIncrement => exact .execEventCounterIncrement h
  | priorityFlowControlFrame => exact .execPriorityFlowControlFrame h
  | tdbgStop => exact .execTdbgStop h
  | tdbgResume => exact .execTdbgResume h
  | tdbgStepgo => exact .execTdbgStepgo h
  | benchcmdStop => exact .execBenchcmdStop h
  | benchcmdResume => exact .execBenchcmdResume h
  | dump => exact .execDump h
  | load => exact .execLoad h
  | trbaseWrite => exact .execTrbaseWrite h
  | cntWrite => exact .execCntWrite h
  | rplBegin => exact .execRplBegin h
  | rplRestore => exact .execRplRestore h
  | rplReset => exact .execRplReset h
  | rplEnd => exact .execRplEnd h
  | _ => cases hk

/-- Every instruction keeps the canonical form: an operation of a slot, or a step of the device. -/
theorem NextCanonical.exec {i : Instr} (h : s.Canonical) : NextCanonical (exec i s) := by
  rcases hk : i.kind with _ | k
  · exact .exec_device hk h
  · exact .exec_slot hk h

/-- The step the device takes of its own. -/
theorem NextCanonical.ownStep (h : s.Canonical) : NextCanonical s.ownStep := by
  obtain ⟨i, hi, -⟩ := State.ownStep_eq s
  rw [hi]
  exact .exec h

theorem NextCanonical.step (h : s.Canonical) : NextCanonical (step s) := by
  cases hag : s.agenda with
  | nil =>
    rw [step_of_idle hag]
    exact .ownStep h
  | cons i rest =>
    rw [step_of_pending hag]
    split
    · exact .ownStep (.hostRecall h)
    · exact .exec (State.Canonical.hostServed h)

/-- Settles O60: every step is the meaning of an instruction, and every function the meanings are made of keeps the stores canonical. -/
theorem canonicalKept : Obligations.CanonicalKept := fun _ t h hst => NextCanonical.step h t hst

end Sys2Proof.Machine
end

section
/-!
PROOF. The queue scheduler (R293, R294, R296 to R298, R301, R302) and the dispatchers (R303, R304, R307, R309).
-/
namespace Sys2Proof.Machine

/-! ## Queue records (R291) -/

@[simp] theorem State.qPut_pendq (s : State) (q i lo n v : Nat) : (s.qPut q i lo n v).pendq = s.pendq := State.writeMem_pendq ..
@[simp] theorem State.qPut_qslots (s : State) (q i lo n v : Nat) : (s.qPut q i lo n v).qslots = s.qslots := State.writeMem_qslots ..
@[simp] theorem State.qPut_clock (s : State) (q i lo n v : Nat) : (s.qPut q i lo n v).clock = s.clock := State.writeMem_clock ..

/-! ## Notifies and disables (R293, R294) -/

/-- A notify of a mapped queue waits in its slot, and is a queue error past the ring's capacity. -/
theorem State.notify_mapped {s : State} {q slot v : Nat} {x : QSlot} (hq : q < 4096) (hx : s.slotOfQueue q = some (slot, x)) :
    s.notify q v =
      if ringMod x.qr / 2 < (v % ringMod x.qr + ringMod x.qr - x.rptr) % ringMod x.qr then
        State.queueError { s with qslots := s.qslots.put slot { x with next := some (v % ringMod x.qr), active := s.clock } } q 1
      else { s with qslots := s.qslots.put slot { x with next := some (v % ringMod x.qr), active := s.clock } } := by
  unfold State.notify
  rw [if_neg (Nat.not_le.mpr hq), hx]

/-- A notify of a queue in its record, within the ring's capacity, sets WPTR and PEND there. -/
theorem State.notify_unmapped {s : State} {q v : Nat} (hq : q < 4096) (hx : s.slotOfQueue q = none)
    (hcap : (v % ringMod (s.qRec q) + ringMod (s.qRec q) - wBits (s.qRec q) 5 16 16 % ringMod (s.qRec q)) % ringMod (s.qRec q)
      ≤ ringMod (s.qRec q) / 2) :
    s.notify q v = { ((s.qPut q 5 0 16 (v % ringMod (s.qRec q))).qPut q 5 32 1 1) with
      pendq := if s.pendq.contains q then s.pendq else s.pendq ++ [q] } := by
  unfold State.notify
  rw [if_neg (Nat.not_le.mpr hq), hx]
  dsimp only
  rw [if_neg (Nat.not_lt.mpr hcap)]
  simp only [State.qPut_pendq]

/-- A write of QDIS with GO set while no disable runs begins one. -/
theorem State.qdisWrite_go {s s' : State} {v : Word} (hs : s' = s.putReg qdisOff 0 12 v.toNat) (hgo : v.getLsbD 16 = true)
    (hbusy : (s'.reg qdisOff).getLsbD 17 = false) :
    s.qdisWrite v = (s'.putReg qdisOff 17 1 1).putReg qdisOff 32 12 v.toNat := by
  subst hs
  unfold State.qdisWrite
  dsimp only
  rw [hgo, hbusy]
  exact if_neg (by decide)

/-- A disable of a mapped queue unmaps it first. -/
theorem exec_queueDisableComplete {s : State} {q slot : Nat} {x : QSlot} (hbusy : (s.reg qdisOff).getLsbD 17 = true)
    (hq : q = s.regBits qdisOff 32 12) (hx : s.slotOfQueue q = some (slot, x)) :
    exec .queueDisableComplete s = .next (((s.unmapQueue slot x).qPut q 1 7 1 0).putReg qdisOff 17 1 0) := by
  subst hq
  show execQueueDisableComplete s = _
  unfold execQueueDisableComplete
  simp only [hbusy, hx, Bool.not_true, Bool.false_eq_true, if_false]

/-! ## Mapping (R296, R297) -/

/-- A free slot maps a candidate whose record may be mapped. -/
theorem exec_queueMapping_free {s s' : State} {q slot : Nat} {x : QSlot} (hc : s.candidate = some q) (hslot : slot < 256)
    (hfree : s.qslots.get? slot = none) (huse : qrUsable (s.qRec q) = true)
    (hs : s' = { s.qPut q 5 32 1 0 with pendq := s.pendq.filter fun x => x != q })
    (hx : x = ⟨q, (s.qRec q).take 6, wBits (s.qRec q) 5 0 16 % ringMod (s.qRec q), wBits (s.qRec q) 5 16 16 % ringMod (s.qRec q), none, [],
      s.clock, s.clock, false, s.clock, none, false⟩) :
    exec (.queueMapping slot) s = .next { ((s'.qPut q 5 33 1 1).qPut q 5 34 8 slot) with qslots := s.qslots.put slot x } := by
  subst hs hx
  show execQueueMapping slot s = _
  unfold execQueueMapping
  simp only [hc, hfree, huse, Nat.not_le.mpr hslot, State.qPut_qslots, State.qPut_clock, Bool.not_true, Bool.false_eq_true, if_false]

/-! ## Launches (R298, R301, R302) -/

/-- A slot whose record is read already keeps it. -/
theorem State.readRecord_read {s : State} {slot : Nat} {x : QSlot} {lr : List Word} (h : x.lr = some lr) :
    s.readRecord slot x = .ok (s, x) := by
  unfold State.readRecord
  rw [h]

/-- A record with its dependences met, which may start and which the checks pass, starts, and the slot moves on. -/
theorem exec_launchStart_prepared {s u : State} {slot : Nat} {x : QSlot} {lr : List Word} (hx : s.qslots.get? slot = some x)
    (hwork : x.rptr ≠ x.wptr) (hlr : x.lr = some lr) (hmet : ∀ m ∈ x.met, m = true) (hmay : s.mayStart x.queue lr = true)
    (hok : s.prepare s.launchNo x lr = .ok u) :
    exec (.launchStart slot) s = .next { u with
      launchNo := s.launchNo + 1,
      qslots := u.qslots.put slot { x with rptr := (x.rptr + 1) % ringMod x.qr, lr := none, met := [], active := s.clock } } := by
  have hdeps : (x.met.any fun m => !m) = false := List.any_eq_false.mpr fun m hm => by simp [hmet m hm]
  show execLaunchStart slot s = _
  unfold execLaunchStart
  simp only [hx, beq_eq_false_iff_ne.mpr hwork, State.readRecord_read hlr, hlr, hdeps, hmay, hok, Bool.not_true, Bool.or_self,
    Bool.false_eq_true, if_false]

/-- The dependences of a record that can be read are kept with the slot. -/
theorem exec_dependenceRead_some {s u : State} {slot : Nat} {x : QSlot} {lr : List Word} {met : List Bool}
    (hx : s.qslots.get? slot = some x) (hlr : x.lr = some lr) (hdeps : s.readDeps x.qr lr x.met = some (u, met)) :
    exec (.dependenceRead slot) s = .next { u with qslots := u.qslots.put slot { x with met := met, readAt := u.clock, due := false } } := by
  show execDependenceRead slot s = _
  unfold execDependenceRead
  simp only [hx, hlr, hdeps]

/-- A launch that is over and names no counter and no interrupt is dropped with its parked messages. -/
theorem exec_launchCompletion_quiet {s : State} {n : Nat} {l : Launch} (hl : s.launches.get? n = some l) (hover : l.over = true)
    (hcc : l.bits 0x30 0 57 = 0) (hirq : l.bits 0x18 16 1 = 0) :
    exec (.launchCompletion n) s =
      .next { s with launches := s.launches.del n, parks := s.parks.filter fun x => x.2.launch != n } := by
  show execLaunchCompletion n s = _
  unfold execLaunchCompletion
  simp only [hl, hover, hcc, hirq, Bool.not_true, Bool.false_eq_true, Nat.zero_ne_one, if_false, if_true]

/-! ## Placement (R303, R304) -/

/-- A leaf's cycle has come: its own last placement is 8 cycles ago, and no higher leaf has placed in this clock. -/
theorem State.placeCycle_of {s : State} {leaf : Nat} (hown : ∀ c, (s.dispOf leaf).lastAt = some c → c + 8 ≤ s.clock)
    (hother : ∀ y, leaf < y → y < 4 → (s.dispOf y).lastAt ≠ some s.clock) : s.placeCycle leaf = true := by
  have hothers : ((List.range 4).all fun y => decide (y ≤ leaf) || (s.dispOf y).lastAt != some s.clock) = true := by
    refine List.all_eq_true.mpr fun y hy => ?_
    rw [Bool.or_eq_true, decide_eq_true_iff, bne_iff_ne]
    exact (Nat.lt_or_ge leaf y).elim (fun hlt => .inr (hother y hlt (List.mem_range.mp hy))) .inl
  unfold State.placeCycle
  rw [hothers, Bool.and_true]
  split
  · rfl
  · exact decide_eq_true (hown _ ‹_›)

/-- With no RESTORE waiting, none would go on a leaf. -/
theorem State.restoreFit_none {s : State} (leaf : Nat) (h : s.restores = []) : s.restoreFit leaf = none := by
  unfold State.restoreFit
  rw [h]

/-- With no gang reserved and no RESTORE waiting, a leaf places the first waiting block that it can place. -/
theorem exec_blockPlacement_one {s u : State} {leaf n : Nat} (hcycle : s.placeCycle leaf = true) (hgang : (s.dispOf leaf).gang = [])
    (hres : s.restores = []) (hone : s.placeOne leaf (fun _ => true) = some (n, u)) : exec (.blockPlacement leaf) s = .next u := by
  show execBlockPlacement leaf s = _
  unfold execBlockPlacement
  simp only [hcycle, hgang, State.restoreFit_none leaf hres, hone, Option.filter_none, Option.map_none, Option.getD_none, Nat.zero_le,
    decide_true, Option.map_some, Option.getD_some, Bool.not_true, Bool.false_eq_true, if_false]

/-! ## Holds (R307) -/

/-- A partition whose FRAG has reached 50,000 is held for the variant that finds it fragmented. -/
theorem exec_drainHold_begin {s : State} {part : Nat} {p : Part} {h : Nat × Nat} (hp : s.parts.get? part = some p) (hhold : p.hold = none)
    (hfrag : 50000 ≤ p.frag) (hvar : s.fragVariant part = some h) :
    exec (.drainHold part) s = .next (s.updPart part fun p => { p with hold := some h }) := by
  show execDrainHold part s = _
  unfold execDrainHold
  simp only [hp, hhold, hvar, Nat.not_lt.mpr hfrag, if_false]

/-- A hold ends when a team of its variant would fit. -/
theorem exec_drainHold_end {s : State} {part : Nat} {p : Part} {h : Nat × Nat} (hp : s.parts.get? part = some p) (hhold : p.hold = some h)
    (hover : s.holdOver part h = true) :
    exec (.drainHold part) s = .next (s.updPart part fun p => { p with hold := none, frag := 0 }) := by
  show execDrainHold part s = _
  unfold execDrainHold
  simp only [hp, hhold, hover, if_true]

/-- The block at a leaf's head that has waited 1,000,000 cycles gets a hold. -/
theorem exec_starvationHold_begin {s : State} {leaf c : Nat} {h : Nat × Nat} (hhead : (s.dispOf leaf).head = some h)
    (hfree : (s.dispOf leaf).starve = none) (hsince : (s.dispOf leaf).since h = some c) (hlong : c + 1000000 ≤ s.clock) :
    exec (.starvationHold leaf) s = .next { s with disp := s.disp.put leaf { s.dispOf leaf with starve := some h } } := by
  have hwaited : (s.dispOf leaf).waited h 1000000 s.clock = true := by
    rw [Dispatcher.waited, hsince]
    exact decide_eq_true hlong
  show execStarvationHold leaf s = _
  unfold execStarvationHold
  simp only [hhead, hfree, hwaited, Option.isNone_none, Bool.and_self, if_true]

/-! ## Switch flags (R309) -/

/-- A leaf without a flag flags the first block, when it is the leaf's and has a cause. -/
theorem exec_switchFlag_first {s : State} {leaf k : Nat} {b : Block} {c : Option (Nat × Nat)} {rest : AL Block}
    (hfree : (s.dispOf leaf).flag = none) (hblocks : s.blocks = (k, b) :: rest) (hleaf : b.core / 128 = leaf)
    (hcause : s.flagCause leaf k b = some c) :
    exec (.switchFlag leaf) s = .next { (s.updBlock k fun b => { b with flagged := true, shrink := c }) with
      disp := s.disp.put leaf { s.dispOf leaf with flag := some k } } := by
  have hfirst : (s.blocks.findSome? fun x =>
      if x.2.core / 128 = leaf then (s.flagCause leaf x.1 x.2).map fun c => (x.1, c) else none) = some (k, c) := by
    rw [hblocks, List.findSome?_cons, if_pos hleaf, hcause]
    rfl
  show execSwitchFlag leaf s = _
  unfold execSwitchFlag
  simp only [hfree, hfirst]
  rfl

/-- Settles O53: one equation per step of the queue scheduler and of the dispatchers. -/
theorem schedulerSteps : Obligations.SchedulerSteps := by
  refine ⟨fun s q slot x v hq hx => ⟨fun hcap => congrArg Host.Outcome.next ?_, fun hpast => congrArg Host.Outcome.next ?_⟩,
    fun s q v hq hx hcap => congrArg Host.Outcome.next (State.notify_unmapped hq hx hcap),
    fun s s' v hs hgo hbusy => congrArg Host.Outcome.next (State.qdisWrite_go hs hgo hbusy),
    fun s q slot x => exec_queueDisableComplete,
    fun s s' q slot x => exec_queueMapping_free,
    fun s u slot x lr => exec_launchStart_prepared,
    fun s u slot x lr met => exec_dependenceRead_some,
    fun s n l => exec_launchCompletion_quiet,
    fun s u leaf n hown hother => exec_blockPlacement_one (State.placeCycle_of hown hother),
    fun s part p h hp => ⟨exec_drainHold_begin hp, exec_drainHold_end hp⟩,
    fun s leaf c h => exec_starvationHold_begin,
    fun s leaf k b c rest => exec_switchFlag_first⟩
  · rw [State.notify_mapped hq hx, if_neg (Nat.not_lt.mpr hcap)]
  · rw [State.notify_mapped hq hx, if_pos hpast]

end Sys2Proof.Machine
end

section
/-!
PROOF. The context engine (R324, R330): a settled block's image waits while a copy of the block waits for another device, and the
statement's clause for BLOCK_SETTLE speaks of remote accesses to the block only.
-/
namespace Sys2Proof.Machine

/-- BLOCK_SETTLE of the first block of a running SAVE, its teams stopped, its operations settled and no remote access to it on the way:
the image is written unless a copy of the block waits for another device. -/
theorem exec_blockSettle_settled {s s' u : State} {c : CxCmd} {k : Nat} {rest : List Nat} {b : Block} (hcx : s.cx = some c)
    (hsave : c.save = true) (hfirst : c.blocks = k :: rest) (hb : s.blocks.get? k = some b)
    (hstopped : ∀ z ∈ b.teams, ∀ t, s.teams.get? z = some t → t.halted = true ∨ t.ended = true)
    (hs : s' = (s.settleCopies k).settleCommands b k) (hops : s'.opsSettled b = true)
    (hu : u = s'.updBlock k fun b => { b with settled := true }) (hway : u.remoteOnWay b = false) :
    exec (.blockSettle k) s = .next (if u.copiesAsk k then u else u.saveBlock c k b) := by
  subst hs hu
  have hruns : b.teams.any (fun z => ((s.teams.get? z).map fun t => !(t.halted || t.ended)).getD false) = false := by
    refine List.any_eq_false.mpr fun z hz => ?_
    cases ht : s.teams.get? z with
    | none => simp
    | some t => simpa [or_iff_not_imp_left] using hstopped z hz t ht
  show execBlockSettle k s = _
  unfold execBlockSettle
  simp only [hcx, hsave, hfirst, hb, hruns, hops, hway, bne_self_eq_false, Bool.not_true, Bool.or_self, Bool.false_or, Bool.false_eq_true,
    if_false]

/-- With a slot free, dealing with a settled block leaves an event waiting: event 1, or event 12 for an image that is too large. -/
theorem State.saveBlock_cxq_ne_nil {s : State} {c : CxCmd} {k i : Nat} {b : Block} (hi : s.freeSlot = some i) :
    (s.saveBlock c k b).cxq ≠ [] := by
  unfold State.saveBlock
  extract_lets
  split
  · exact List.append_ne_nil_of_right_ne_nil _ (List.cons_ne_nil _ _)
  · simp only [hi]
    exact List.append_ne_nil_of_right_ne_nil _ (List.cons_ne_nil _ _)

/-- A lone team, halted for the SAVE of its block 0, whose copy 900 has asked another device for an element. The context engine has one
slot of 4 MiB, at 4 MiB. -/
def askingCopy : State :=
  let s := State.reset.withFetchWord 256 0
  { s with
    regs := s.regs.set (ctxBase + 0x10) (BitVec.ofNat 64 (2 ^ 22 + 2 ^ 52))
    teams := s.teams.map fun x => (x.1, { x.2 with
      stopReq := true, halted := true, ops := [{ doneOp 900 0 with kind := .copy, perf := 0, done := false }] })
    blocks := s.blocks.map fun x => (x.1, { x.2 with stop := true })
    copies := [⟨900, 0, 0, 0, 0, 0, 0, .core, 0, [], 0, [], [], .running, [], [0x200], [], false, 0, [], []⟩]
    far := { s.far with asked := [⟨7, 1, .read, none, 900, 0x200, [farAccess 1 0x200 4]⟩] }
    cx := some ⟨true, 1, 1, false, [0], [], []⟩ }

/-- askingCopy with its block settled. -/
def askingSettled (b : Block) : State :=
  ((askingCopy.settleCopies 0).settleCommands b 0).updBlock 0 fun b => { b with settled := true }

/-- The hypotheses of the clause for BLOCK_SETTLE, of the block of askingCopy; its copy still waits, and the slot is free. -/
def askingSettles : Bool :=
  (askingCopy.blocks.get? 0).any fun b =>
    b.teams.all (fun z => (askingCopy.teams.get? z).all fun t => t.halted || t.ended) &&
      ((askingCopy.settleCopies 0).settleCommands b 0).opsSettled b && !(askingSettled b).remoteOnWay b && (askingSettled b).copiesAsk 0 &&
      (askingSettled b).freeSlot == some 0 && (askingSettled b).cxq == []

theorem askingSettles_spec (h : askingSettles = true) : ∃ b, askingCopy.blocks.get? 0 = some b ∧
    (∀ z ∈ b.teams, ∀ t, askingCopy.teams.get? z = some t → t.halted = true ∨ t.ended = true) ∧
    ((askingCopy.settleCopies 0).settleCommands b 0).opsSettled b = true ∧ (askingSettled b).remoteOnWay b = false ∧
    (askingSettled b).copiesAsk 0 = true ∧ (askingSettled b).freeSlot = some 0 ∧ (askingSettled b).cxq = [] := by
  simp only [askingSettles, Option.any_eq_true, Bool.and_eq_true, Bool.not_eq_true', beq_iff_eq, List.all_eq_true, Option.all_eq_true,
    Bool.or_eq_true] at h
  obtain ⟨b, hb, ⟨⟨⟨⟨hstopped, hops⟩, hway⟩, hasks⟩, hslot⟩, hnone⟩ := h
  exact ⟨b, hb, hstopped, hops, hway, hasks, hslot, hnone⟩

/-- Refutes O54, in its clause for BLOCK_SETTLE: the copy of askingCopy still waits for another device, so no image is written and no event
waits, with every premise met. -/
theorem not_contextSteps : ¬ Obligations.ContextSteps := by
  rintro ⟨-, -, -, hsettle, -⟩
  obtain ⟨b, hb, hstopped, hops, hway, hasks, hslot, hnone⟩ := askingSettles_spec (by decide +kernel)
  have hwritten : exec (.blockSettle 0) askingCopy = .next ((askingSettled b).saveBlock ⟨true, 1, 1, false, [0], [], []⟩ 0 b) :=
    hsettle askingCopy _ _ 0 [] b rfl rfl rfl hb hstopped rfl hops hway
  have hwaits := exec_blockSettle_settled (u := askingSettled b) rfl rfl rfl hb hstopped rfl hops rfl hway
  rw [if_pos hasks, hwritten] at hwaits
  injection hwaits with heq
  exact State.saveBlock_cxq_ne_nil hslot (heq ▸ hnone)

end Sys2Proof.Machine
end

section
/-!
PROOF. The fabric and the host: messages and multicast (R340, R345, R347), flits (R349, R351), probes (R355), level-4 barriers (R357), the
sessions of the host transport (R359 to R363), and the Ethernet port (R358, R411, R415).
-/
namespace Sys2Proof.Machine

/-! ## Messages (R340, R345, R347) -/

section
variable {s : State} {k : Nat} {m : Msg} (hm : s.msgs[k]? = some m) (hmay : s.mayDeliver k m = true)
include hm hmay

theorem exec_messageDelivery_away {node : Nat} (hnode : s.messageNode m = some node) :
    exec (.messageDelivery k) s = .next (State.sendMessage { s with msgs := s.msgs.eraseIdx k } node m) := by
  show execMessageDelivery k s = _
  unfold execMessageDelivery
  simp only [hm, hmay, hnode, Bool.not_true, Bool.false_eq_true, if_false]

theorem exec_messageDelivery_unicast (hhere : s.messageNode m = none) (hcast : m.mcast = false) :
    exec (.messageDelivery k) s = .next (State.fate { s with msgs := s.msgs.eraseIdx k } m) := by
  show execMessageDelivery k s = _
  unfold execMessageDelivery
  simp only [hm, hmay, hhere, hcast, Bool.not_true, Bool.not_false, Bool.false_eq_true, if_false, if_true]

theorem exec_messageDelivery_multicast {mem : List Nat} {u : State} (hhere : s.messageNode m = none) (hcast : m.mcast = true)
    (hmem : s.members m = some mem) (hu : State.enterRouter { s with msgs := s.msgs.eraseIdx k } m 5 m.source mem = some u) :
    exec (.messageDelivery k) s = .next u := by
  show execMessageDelivery k s = _
  unfold execMessageDelivery
  simp only [hm, hmay, hhere, hcast, hmem, hu, Bool.not_true, Bool.false_eq_true, if_false, Option.getD_some]

end

/-- The only fork entry's only branch, toward a core, takes the packet, and the entry is freed. -/
theorem exec_multicastFork_last {s : State} {core : Nat} {f : Fork} {mem : List Nat} (hf : s.forks = [f])
    (hleft : f.left = [(68 + core, mem)]) (hkeep : (s.copies_ f.msg mem).forks = [f]) :
    exec (.multicastFork f.router 0 1) s = .next { s.copies_ f.msg mem with forks := [] } := by
  show execMulticastFork f.router 0 1 s = _
  simp [execMulticastFork, hf, hleft, hkeep, List.range_succ]

/-! ## Flits (R349, R351) -/

theorem exec_flitReceive_corrupt {x : BitVec 512} (h : flGood x = false) (s : State) (port : Nat) :
    exec (.flitReceive port x) s = .next (s.sendNak port) := by
  show execFlitReceive port x s = _
  unfold execFlitReceive
  simp only [h, Bool.not_false, if_true]

/-- A whole flit acknowledges, whatever its kind: an idle one does no more, a NAK has the port replay, and a numbered one is taken,
discarded, or answered by a NAK, by its number. -/
theorem exec_flitReceive_whole {x : BitVec 512} (h : flGood x = true) {s s' : State} {port : Nat}
    (hs : s' = s.updPort port fun y => y.acked (flBits x 44 12)) :
    exec (.flitReceive port x) s = .next (
      if flBits x 58 2 = 0 then s'
      else if flBits x 58 2 = 3 then s'.replayFlits port
      else if flBits x 32 12 = ((s'.portOf port).rxGood + 1) % 4096 then s'.takeFlit port x
      else if ((s'.portOf port).rxGood + 4096 - flBits x 32 12) % 4096 < 2048 then s'
      else s'.sendNak port) := by
  subst hs
  show execFlitReceive port x s = _
  unfold execFlitReceive State.flitNext
  simp only [h, Bool.not_true, Bool.false_eq_true, if_false, beq_iff_eq]

/-- A whole numbered flit acts by its number. -/
theorem exec_flitReceive_numbered {x : BitVec 512} (h : flGood x = true) {s s' : State} {port : Nat}
    (hs : s' = s.updPort port fun y => y.acked (flBits x 44 12)) (hlo : 1 ≤ flBits x 58 2) (hhi : flBits x 58 2 ≤ 2) :
    exec (.flitReceive port x) s = .next (
      if flBits x 32 12 = ((s'.portOf port).rxGood + 1) % 4096 then s'.takeFlit port x
      else if ((s'.portOf port).rxGood + 4096 - flBits x 32 12) % 4096 < 2048 then s'
      else s'.sendNak port) := by
  rw [exec_flitReceive_whole h hs, if_neg (by omega), if_neg (by omega)]

/-! ## Level-4 barriers (R357) -/

/-- An arrival at device index 0 of an enabled entry is counted, and the last one releases the set. -/
theorem exec_level4Arrival {s : State} {e n off : Nat} (he : e < 64) (hoff : off = fsOff e) (hon : (s.reg off).getLsbD 0 = true)
    (hidx : s.regBits (off + 8) 0 16 = 0) (hn : n = s.regBits (off + 24) 33 16 + 1) :
    exec (.level4Arrival e) s = .next (if n = (s.putReg (off + 24) 33 16 n).regBits off 48 16 then
      (s.putReg (off + 24) 33 16 n).sendReleases e else s.putReg (off + 24) 33 16 n) := by
  subst hoff hn
  show execLevel4Arrival e s = _
  unfold execLevel4Arrival
  simp only [Nat.not_le.mpr he, hon, hidx, decide_false, bne_self_eq_false, Bool.not_true, Bool.or_self, Bool.false_eq_true, if_false]

theorem State.setLaunches_nil {s : State} (h : s.launches = []) (e : Nat) : s.setLaunches e = [] := by
  rw [State.setLaunches, h, List.filter_nil]

/-- A release at a device of another index, without a launch, clears the counts of this device and inverts the generation. -/
theorem exec_level4Release {s s' : State} {e off : Nat} (he : e < 64) (hoff : off = fsOff e) (hon : (s.reg off).getLsbD 0 = true)
    (hs : s' = s.putReg (off + 24) 0 32 0) (hidx : s'.regBits (off + 8) 0 16 ≠ 0) (hl : s.launches = []) :
    exec (.level4Release e) s = .next (s'.putReg (off + 24) 32 1 (1 - s'.regBits (off + 24) 32 1)) := by
  subst hoff hs
  show execLevel4Release e s = _
  unfold execLevel4Release
  simp only [Nat.not_le.mpr he, hon, hidx, decide_false, Bool.not_true, Bool.or_self, Bool.false_eq_true, if_false]
  rw [State.setLaunches_nil, List.foldl_nil]
  exact hl

/-! ## Probes (R355) -/

theorem exec_translationProbe_pinned {s : State} {set : BitVec 16} {va : Word} {acc : AccKind} {pin : Pin}
    (h : s.probeLook set va.toNat acc = .ok pin) : exec (.translationProbe set va acc) s =
      .next { s with out := s.out ++ [.probe set va none], pins := s.pins ++ [pin] } := by
  show execTranslationProbe set va acc s = _
  unfold execTranslationProbe State.takeProbe State.probeAnswer
  simp only [h, BitVec.ofNat_toNat, BitVec.setWidth_eq]

theorem exec_translationProbe_refused {s : State} {set : BitVec 16} {va : Word} {acc : AccKind} {r : Nat}
    (h : s.probeLook set va.toNat acc = .error r) : exec (.translationProbe set va acc) s =
      .next { s with out := s.out ++ [.probe set va (some r)] } := by
  show execTranslationProbe set va acc s = _
  unfold execTranslationProbe State.takeProbe State.probeAnswer
  simp only [h, BitVec.ofNat_toNat, BitVec.setWidth_eq]

/-! ## Reception (R359, R361, R362) -/

/-- A session's record that has just been written. -/
@[simp] theorem State.sessSt_put (s : State) (n : Nat) (x : Sess) : State.sessSt { s with sess := s.sess.put n x } n = x := by
  rw [State.sessSt, AL.getD_put, if_pos rfl]

/-- A packet's acknowledgement taken by its session. -/
def State.ackTaken (s : State) (p : Packet) : State :=
  { s with sess := s.sess.put p.sess.toNat ((s.sessSt p.sess.toNat).acked p.ack.toNat) }

/-- How far a packet's number is ahead of the next one of its session. -/
def State.aheadBy (s : State) (p : Packet) : Nat := (p.seq.toNat + 2 ^ 32 - (s.sessSt p.sess.toNat).rxNext) % 2 ^ 32

section
variable {s : State} {p : Packet} (h : s.FromPeer p)
include h

/-- A type that is valid is neither 0 nor 10 or more. -/
theorem State.FromPeer.typ_valid : (decide (p.typ = 0) || decide (10 ≤ p.typ.toNat)) = false := by
  obtain ⟨-, -, -, hlo, hhi, -⟩ := h
  have hne : p.typ ≠ 0 := by
    rintro h0
    rw [h0] at hlo
    exact absurd hlo (by decide)
  rw [decide_eq_false hne, decide_eq_false (Nat.not_le.mpr hhi), Bool.or_self]

/-- Of a packet from its peer the acknowledgement is taken, and its number says the rest. -/
theorem State.FromPeer.receive (f : State → State) : s.receive p f =
    if s.aheadBy p = 0 then f ((s.ackTaken p).passNumber p)
    else if s.aheadBy p < 2 ^ 31 then
      if 256 ≤ (s.sessSt p.sess.toNat).ahead.length ∨ (s.sessSt p.sess.toNat).ahead.any (fun q => q.seq == p.seq) = true then s.ackTaken p
      else { s.ackTaken p with
        sess := (s.ackTaken p).sess.put p.sess.toNat { (s.sessSt p.sess.toNat).acked p.ack.toNat with
          ahead := (s.sessSt p.sess.toNat).ahead ++ [p] } }
    else (s.ackTaken p).sendAck p.sess.toNat 0 := by
  have htyp := h.typ_valid
  obtain ⟨hup, hframe, hver, -, -, hpeer⟩ := h
  unfold State.receive
  simp only [hup, hframe, hver, htyp, hpeer, bne_self_eq_false, Bool.not_true, Bool.or_self, Bool.false_eq_true, if_false, State.sessSt_put,
    Bool.or_eq_true, decide_eq_true_eq]
  rfl

/-- The next packet passes its number and is applied. -/
theorem State.FromPeer.receive_next (hseq : p.seq.toNat = (s.sessSt p.sess.toNat).rxNext) (f : State → State) :
    s.receive p f = f ((s.ackTaken p).passNumber p) := by
  have hd : s.aheadBy p = 0 := by
    rw [State.aheadBy, hseq]
    omega
  rw [h.receive, if_pos hd]

/-- A packet ahead, for which there is room and no other of its number, is held. -/
theorem State.FromPeer.receive_ahead (hlo : 1 ≤ s.aheadBy p) (hhi : s.aheadBy p < 2 ^ 31) (hroom : (s.sessSt p.sess.toNat).ahead.length < 256)
    (hnew : ∀ q ∈ (s.sessSt p.sess.toNat).ahead, q.seq ≠ p.seq) (f : State → State) :
    s.receive p f = { s.ackTaken p with
      sess := (s.ackTaken p).sess.put p.sess.toNat { (s.sessSt p.sess.toNat).acked p.ack.toNat with
        ahead := (s.sessSt p.sess.toNat).ahead ++ [p] } } := by
  have hheld : ¬(256 ≤ (s.sessSt p.sess.toNat).ahead.length ∨ (s.sessSt p.sess.toNat).ahead.any (fun q => q.seq == p.seq) = true) := by
    simpa [Nat.not_le.mpr hroom] using hnew
  rw [h.receive, if_neg (by omega), if_pos hhi, if_neg hheld]

/-- A duplicate is acknowledged again. -/
theorem State.FromPeer.receive_duplicate (hd : 2 ^ 31 ≤ s.aheadBy p) (f : State → State) :
    s.receive p f = (s.ackTaken p).sendAck p.sess.toNat 0 := by
  rw [h.receive, if_neg (by omega), if_neg (by omega)]

/-- An ACK forgets what it covers. -/
theorem State.FromPeer.exec_ack : exec (.ack p) s = .next (s.ackTaken p) := by
  have htyp := h.typ_valid
  obtain ⟨hup, hframe, hver, -, -, hpeer⟩ := h
  show execAck p s = _
  unfold execAck
  simp only [hup, hframe, hver, htyp, hpeer, bne_self_eq_false, Bool.not_true, Bool.or_self, Bool.false_eq_true, if_false]
  rfl

end

/-- Every numbered packet is received before it is applied. -/
theorem exec_numbered {i : Instr} {p : Packet} (hi : i ∈ [Instr.write p, .read p, .notify p, .ctrlRead p, .ctrlWrite p]) :
    ∃ f, ∀ s, exec i s = .next (s.receive p f) := by
  simp only [List.mem_cons, List.not_mem_nil, or_false] at hi
  obtain rfl | rfl | rfl | rfl | rfl := hi
  · exact ⟨fun s => s.takeWrite p, fun _ => rfl⟩
  · exact ⟨fun s => (s.flushLate p.sess.toNat).applyRead p, fun _ => rfl⟩
  · exact ⟨fun s => (s.flushLate p.sess.toNat).applyNotify p, fun _ => rfl⟩
  · exact ⟨fun s => (s.flushLate p.sess.toNat).applyCtrlRead p, fun _ => rfl⟩
  · exact ⟨fun s => (s.flushLate p.sess.toNat).applyCtrlWrite p, fun _ => rfl⟩

/-! ## What the packets do (R360, R363) -/

section
variable {s : State} {p : Packet}

/-- A WRITE of a length that fits, whose range is translated, puts its bytes piece by piece. -/
theorem State.applyWrite_pieces {l : List (WalkRes × Nat × Nat)} (hlo : 1 ≤ p.len.toNat) (hhi : p.len.toNat ≤ 8192)
    (hlen : p.payload.length = p.len.toNat) (hl : s.sessPieces p.sess.toNat p.addr.toNat p.len.toNat .write = .ok l) :
    s.applyWrite p = (l.foldl (fun (a : State × List Byte) x =>
      ((a.1.useXlat noCore x.1).hostPut p.sess.toNat x.2.1 x.1.e.attr (a.2.take x.2.2), a.2.drop x.2.2)) (s, s.crypt p)).1 := by
  have hfits : ¬(decide (p.len.toNat = 0) || decide (8192 < p.len.toNat) || p.payload.length != p.len.toNat) = true := by
    simp only [Bool.or_eq_true, decide_eq_true_eq, bne_iff_ne]
    omega
  unfold State.applyWrite
  dsimp only
  rw [if_neg hfits, hl]

/-- A WRITE is put off when the choice says so or a late one may have a byte in common, and else applied at once. -/
theorem State.takeWrite_eq (s : State) (p : Packet) : s.takeWrite p =
    if Config.freeChoice s.fresh % 2 = 0 ∨ (s.sessSt p.sess.toNat).late.any (fun q => s.writesMeet q p) = true then
      { s with
        fresh := s.fresh + 1,
        sess := s.sess.put p.sess.toNat { s.sessSt p.sess.toNat with late := (s.sessSt p.sess.toNat).late ++ [p] } }
    else State.applyWrite { s with fresh := s.fresh + 1 } p := by
  simp only [State.takeWrite, Bool.or_eq_true, decide_eq_true_eq]

/-- A READ of a length that fits, whose range is translated and holds no poison, is answered with what memory holds. -/
theorem State.applyRead_pieces {l : List (WalkRes × Nat × Nat)} (hlo : 1 ≤ p.len.toNat) (hhi : p.len.toNat ≤ 65536)
    (hl : s.sessPieces p.sess.toNat p.addr.toNat p.len.toNat .read = .ok l) (hclean : ∀ x ∈ l, s.memPoisoned x.2.1 x.2.2 = false)
    {u : State} (hu : u = l.foldl (fun s x => s.useXlat noCore x.1) s) :
    s.applyRead p = u.sendReplies p.sess.toNat p.seq.toNat (l.flatMap fun x => u.readMem x.2.1 x.2.2) := by
  subst hu
  have hfits : ¬(decide (p.len.toNat = 0) || decide (65536 < p.len.toNat)) = true := by
    simp only [Bool.or_eq_true, decide_eq_true_eq]
    omega
  have hpoison : ¬(l.any fun x => s.memPoisoned x.2.1 x.2.2) = true := by simpa using hclean
  unfold State.applyRead
  dsimp only
  rw [if_neg hfits, hl]
  exact if_neg hpoison

/-- A NOTIFY of a queue of the session's tenant is delivered. -/
theorem State.applyNotify_tenant (h : wBits (s.qRec (p.arg.toNat % 2 ^ 12)) 1 8 16 = s.regBits (sessOff p.sess.toNat) 16 16) :
    s.applyNotify p = s.notify (p.arg.toNat % 2 ^ 12) (p.arg.toNat / 2 ^ 16) := by
  unfold State.applyNotify
  simp only [h, bne_self_eq_false, Bool.false_eq_true, if_false]

/-- A system session reads a register that can be read. -/
theorem State.applyCtrlRead_sys {v : Word} (hsys : s.sessSys p.sess.toNat = true) (hv : s.sysRead p.addr.toNat = some v) :
    s.applyCtrlRead p = s.sendPkt p.sess.toNat 9 8 p.addr p.seq.toNat (leBytes 8 v) := by
  unfold State.applyCtrlRead
  simp only [hsys, hv, if_true]

/-- A system session writes a register that takes the value. -/
theorem State.applyCtrlWrite_sys {u : State} (hsys : s.sessSys p.sess.toNat = true) (hlen : p.payload.length = 8)
    (hu : s.sysWrite .host p.addr.toNat (BitVec.ofNat 64 (leNat (s.crypt p))) = some u) : s.applyCtrlWrite p = u := by
  unfold State.applyCtrlWrite
  simp only [hsys, hlen, hu, beq_self_eq_true, Bool.and_self, if_true]

end

/-! ## Acknowledgement and resending (R362, R363) -/

/-- A valid session sends an ACK with the next number, without taking it. -/
theorem State.sendAck_valid {s : State} {n : Nat} (h : s.sessValid n = true) (arg : Nat) :
    s.sendAck n arg = { s.emit (.packet (s.mkPacket n 6 (s.sessSt n).txNext 0 0 arg [])) with
      sess := s.sess.put n { s.sessSt n with ackDue := none } } := by
  unfold State.sendAck
  simp only [h, Bool.not_true, Bool.false_eq_true, if_false]

/-- With no WRITE late, those taken are performed, and nothing else. -/
theorem State.flushLate_nil {s : State} {n : Nat} (h : (s.sessSt n).late = []) : s.flushLate n = s.performViews noCore (hostOp n) 4 := by
  unfold State.flushLate State.hostPerformed
  simp only [h, List.isEmpty_nil, if_true]

/-- What has waited for the time given is sent again, while none of it has been sent 64 times. -/
theorem exec_retransmissionTimeout_resend {s : State} {n : Nat} {old : TxPkt → Bool} (hvalid : s.sessValid n = true)
    (hold : ∀ t, old t = decide (t.at_ + s.rto n ≤ s.ns)) (hsome : ∃ t ∈ (s.sessSt n).unacked, old t = true)
    (hfew : ∀ t ∈ (s.sessSt n).unacked, old t = true → t.tries < 64) :
    exec (.retransmissionTimeout n) s = .next
      { ((s.sessSt n).unacked.filter old).foldl (fun (s : State) t => s.emit (.packet (s.framed t.pkt))) s with
        sess := s.sess.put n { s.sessSt n with
          unacked := (s.sessSt n).unacked.map fun t => if old t then { t with at_ := s.ns, tries := t.tries + 1 } else t } } := by
  obtain rfl : old = fun t => decide (t.at_ + s.rto n ≤ s.ns) := funext hold
  have hany := List.any_eq_true.mpr hsome
  have hclose : ((s.sessSt n).unacked.any fun t => decide (t.at_ + s.rto n ≤ s.ns) && decide (64 ≤ t.tries)) = false := by
    refine List.any_eq_false.mpr fun t ht => ?_
    rw [Bool.and_eq_true, decide_eq_true_eq (p := 64 ≤ t.tries)]
    exact fun h => Nat.not_le.mpr (hfew t ht h.1) h.2
  show execRetransmissionTimeout n s = _
  unfold execRetransmissionTimeout
  simp only [hvalid, hany, hclose, Bool.not_true, Bool.or_self, Bool.false_eq_true, if_false]

/-- An acknowledgement that is due, no copy owning a line of a late WRITE, goes out after the late WRITEs. -/
theorem exec_ackTimer_due {s : State} {n d : Nat} (hdue : (s.sessSt n).ackDue = some d) (hnow : d ≤ s.ns)
    (hfree : ∀ p ∈ (s.sessSt n).late, s.linesFree p = true) : exec (.ackTimer n) s = .next ((s.flushLate n).sendAck n 0) := by
  have hall : (s.sessSt n).late.all s.linesFree = true := List.all_eq_true.mpr hfree
  show execAckTimer n s = _
  unfold execAckTimer
  simp only [hdue, hnow, hall, if_true]

/-- An acknowledgement that is due, no WRITE being late, goes out once those taken are performed. -/
theorem exec_ackTimer_none_late {s u : State} {n d : Nat} (hvalid : s.sessValid n = true) (hdue : (s.sessSt n).ackDue = some d)
    (hnow : d ≤ s.ns) (hlate : (s.sessSt n).late = []) (hu : u = s.performViews noCore (hostOp n) 4) :
    exec (.ackTimer n) s = .next { (u.emit (.packet (u.mkPacket n 6 (s.sessSt n).txNext 0 0 0 []))) with
      sess := s.sess.put n { s.sessSt n with ackDue := none } } := by
  subst hu
  have hfree : ∀ p ∈ (s.sessSt n).late, s.linesFree p = true := by simp [hlate]
  have hsame : (s.performViews noCore (hostOp n) 4).sessValid n = true := hvalid
  rw [exec_ackTimer_due hdue hnow hfree, State.flushLate_nil hlate, State.sendAck_valid hsame]
  rfl

/-- A free choice among some is one of them. -/
theorem freeBelow_lt (k : Nat) {n : Nat} (h : 0 < n) : freeBelow k n < n := by
  unfold freeBelow
  split
  · exact h
  · exact Nat.mod_lt _ h

/-- Of the late WRITEs that may be performed before the others, a free choice is performed. -/
theorem State.anyLate_of_ready {s : State} {n : Nat} (h : s.lateReady n ≠ []) : s.anyLate n =
    State.performLate { s with fresh := s.fresh + 1 } n ((s.lateReady n).getD (freeBelow s.fresh (s.lateReady n).length) 0) := by
  unfold State.anyLate
  split
  case h_1 hnil => exact absurd hnil h
  case h_2 => rfl

/-- With no acknowledgement due and a late WRITE that may be performed before the others, one such is performed. -/
theorem exec_ackTimer_late {s : State} {n : Nat} (hdue : (s.sessSt n).ackDue = none) (hready : s.lateReady n ≠ []) :
    ∃ i ∈ s.lateReady n, exec (.ackTimer n) s = .next (State.performLate { s with fresh := s.fresh + 1 } n i) := by
  have hlt := freeBelow_lt s.fresh (List.length_pos_iff.mpr hready)
  refine ⟨(s.lateReady n).getD (freeBelow s.fresh (s.lateReady n).length) 0, ?_, ?_⟩
  · rw [List.getD_eq_getElem _ _ hlt]
    exact List.getElem_mem hlt
  · show execAckTimer n s = _
    unfold execAckTimer
    simp only [hdue, State.anyLate_of_ready hready]

/-! ## The Ethernet port (R358, R411, R415) -/

/-- A field of a register fits its width. -/
theorem State.toNat_ofNat_regBits (s : State) (off lo n : Nat) : (BitVec.ofNat n (s.regBits off lo n)).toNat = s.regBits off lo n := by
  rw [BitVec.toNat_ofNat, State.regBits, Nat.mod_mod]

theorem exec_arpRequest_own {s : State} {ip : BitVec 32} (hup : (s.reg 0).getLsbD 16 = true) (hne : ip ≠ 0)
    (hip : ip.toNat = s.regBits 0x108 0 32) : exec (.arpRequest ip) s = .next (s.emit (.neighbor s.mac (ip.setWidth 128))) := by
  have hown : ((s.reg 0).getLsbD 16 && ip != 0 && ip.toNat == s.regBits 0x108 0 32) = true := by
    rw [hup, bne_iff_ne.mpr hne, beq_iff_eq.mpr hip, Bool.and_self, Bool.and_self]
  exact congrArg Host.Outcome.next (if_pos hown)

theorem exec_neighborSolicitation_own {s : State} {ip : BitVec 128} (hup : (s.reg 0).getLsbD 16 = true) (hne : ip ≠ 0)
    (hip : ip = (s.reg 0x110).append (s.reg 0x118)) : exec (.neighborSolicitation ip) s = .next (s.emit (.neighbor s.mac ip)) := by
  have hown : ((s.reg 0).getLsbD 16 && ip != 0 && ip == (s.reg 0x110).append (s.reg 0x118)) = true := by
    rw [hup, bne_iff_ne.mpr hne, beq_iff_eq.mpr hip, Bool.and_self, Bool.and_self]
  exact congrArg Host.Outcome.next (if_pos hown)

theorem exec_ethernetLinkChange (s : State) (up : Bool) : exec (.ethernetLinkChange up) s =
    .next (s.putReg 0 16 1 (if up = true ∧ (s.reg 0).getLsbD 0 = true then 1 else 0)) := by
  show execEthernetLinkChange up s = _
  simp only [execEthernetLinkChange, Bool.and_eq_true]

/-- The VLAN tag of a frame that the device sends: there where NET.TAG asks for it, with NET.VID and the priority. -/
theorem State.framed_tag (s : State) (p : Packet) :
    (s.regBits 0x100 63 1 = 1 → (s.framed p).vlans = 1 ∧ (s.framed p).vid.toNat = s.regBits 0x100 48 12 ∧
      (s.framed p).pcp.toNat = s.regBits 0x100 60 3) ∧
    (s.regBits 0x100 63 1 = 0 → (s.framed p).vlans = 0) := by
  refine ⟨fun htag => ?_, fun htag => ?_⟩
  · simp only [State.framed, htag, beq_self_eq_true, if_true, State.toNat_ofNat_regBits, and_self]
  · simp only [State.framed, htag, Nat.zero_ne_one, beq_iff_eq, if_false]

/-- A frame of a family that is not disabled goes out, or waits while its priority is paused. -/
theorem State.emit_family {s : State} {o : Out} (h : ∀ p, o = .packet p → s.familyOn p.peer = true) :
    s.emit o = if s.paused ≠ 0 ∧ s.paused.getLsbD Config.priority = true then { s with txWait := s.txWait ++ [o] }
      else { s with out := s.out ++ [o] } := by
  cases o with
  | packet p => simp only [State.emit, h p rfl, Bool.not_true, Bool.false_eq_true, if_false, Bool.and_eq_true, bne_iff_ne]
  | _ => simp only [State.emit, Bool.false_eq_true, if_false, Bool.and_eq_true, bne_iff_ne]

/-- The lowest eight bits of all ones. -/
theorem getLsbD_paused_all {k : Nat} (h : k < 8) : (0xFF : BitVec 8).getLsbD k = true := by
  interval_cases k <;> rfl

/-- Settles O56: one equation per step of the fabric, of the host transport and of the Ethernet port; a packet from its peer acts by how far
its number is ahead, and what the next one does is said apart from its reception. -/
theorem fabricAndHostSteps : Obligations.FabricAndHostSteps := by
  refine ⟨fun s k node m hm hmay => exec_messageDelivery_away hm hmay,
    fun s k m hm hmay hhere => ⟨exec_messageDelivery_unicast hm hmay hhere,
      fun hcast mem u => exec_messageDelivery_multicast hm hmay hhere hcast⟩,
    ?_,
    fun s s' port x hx hs => ⟨fun hlo hhi => ⟨fun hnext => ?_, fun hother => ⟨fun hold => ?_, fun hgap => ?_⟩⟩,
      fun hidle => ?_, fun hnak => ?_⟩,
    fun s port x hx => exec_flitReceive_corrupt hx s port,
    fun s e n off he hoff hon hidx hn => ⟨fun hmore => ?_, fun hlast => ?_⟩,
    fun s s' e off => exec_level4Release,
    fun s set va acc => ⟨fun pin => exec_translationProbe_pinned, fun r => exec_translationProbe_refused⟩,
    ?_, ?_, fun s p n hn h => ?_, ?_,
    fun s hup => ⟨fun ip => exec_arpRequest_own hup, fun ip => exec_neighborSolicitation_own hup⟩,
    fun s p => ⟨?_, s.toNat_ofNat_regBits .., s.toNat_ofNat_regBits .., ?_, s.framed_tag p⟩,
    fun s o h => ⟨fun hoff => ?_, fun hall hprio => ?_⟩,
    fun s up q => ⟨exec_ethernetLinkChange s up, rfl⟩⟩
  · rintro s router core f mem hf rfl hleft u rfl
    exact exec_multicastFork_last hf hleft
  · rw [exec_flitReceive_numbered hx hs hlo hhi, if_pos hnext]
  · rw [exec_flitReceive_numbered hx hs hlo hhi, if_neg hother, if_pos hold]
  · rw [exec_flitReceive_numbered hx hs hlo hhi, if_neg hother, if_neg (Nat.not_lt.mpr hgap)]
  · rw [exec_flitReceive_whole hx hs, if_pos hidle]
  · rw [exec_flitReceive_whole hx hs, if_neg (by omega), if_pos hnak]
  · rw [exec_level4Arrival he hoff hon hidx hn, if_neg hmore]
  · rw [exec_level4Arrival he hoff hon hidx hn, if_pos hlast]
  · rintro s u v w p n rfl h hseq - rfl rfl rfl
    have hnext (f : State → State) : s.receive p f = f ((s.ackTaken p).passNumber p) := h.receive_next hseq f
    refine ⟨fun l hlo hhi hlen hl => ?_, fun l hlo hhi hl hclean w hw => ?_, fun htenant => ?_, fun x hsys hx => ?_,
      fun w hsys hlen hw => ?_⟩ <;> refine congrArg Host.Outcome.next ((hnext _).trans ?_)
    · exact (State.takeWrite_eq _ p).trans (if_congr Iff.rfl rfl (State.applyWrite_pieces hlo hhi hlen hl))
    · exact State.applyRead_pieces hlo hhi hl hclean hw
    · exact State.applyNotify_tenant htenant
    · exact State.applyCtrlRead_sys hsys hx
    · exact State.applyCtrlWrite_sys hsys hlen hw
  · rintro s p i n d hi rfl h rfl
    obtain ⟨f, hf⟩ := exec_numbered hi
    refine ⟨fun hlo hhi hroom hnew => ?_, fun hd => ?_⟩
    · have hheld := (hf s).trans (congrArg Host.Outcome.next (h.receive_ahead hlo hhi hroom hnew f))
      exact ⟨_, rfl, _, hheld, rfl, AL.get?_put_eq ..⟩
    · exact (hf s).trans (congrArg _ (h.receive_duplicate hd f))
  · subst hn
    exact h.exec_ack
  · rintro s n x old rfl hvalid hold
    exact ⟨exec_retransmissionTimeout_resend hvalid hold, fun d u hdue hnow hlate => exec_ackTimer_none_late hvalid hdue hnow hlate,
      fun d => exec_ackTimer_due, exec_ackTimer_late⟩
  · rintro n rfl
    exact ⟨rfl, s.toNat_ofNat_regBits ..⟩
  · intro httl
    simp [State.framed, httl]
  · rw [State.emit_family h, if_neg (by simp [hoff])]
  · rw [State.emit_family h, if_pos ⟨by simp [hall], by rw [hall]; exact getLsbD_paused_all hprio⟩]

end Sys2Proof.Machine
end

section
/-!
PROOF. The word in progress runs the decoded instruction (R57, R391).
-/
namespace Sys2Proof.Machine

/-- Settles O2: the words' table of meanings and exec agree on slot operations, so execOp is exec with its commit counted. -/
theorem wordRunsDecodedInstruction : Obligations.WordRunsDecodedInstruction := by
  intro s u z k t c o ht hc ho hkind hexec
  have hop : ((s.teams.get? z).bind Team.ctx).bind (fun c => c.ops[k]?) = some o := by
    rw [ht, Option.bind_some, hc, Option.bind_some, ho]
  have hslot : slotExec o.op.ins { s with cur := some z } = .next u := by
    rw [slotExec_eq, if_pos hkind, hexec]
  unfold State.execOp
  simp only [hop, hslot]

end Sys2Proof.Machine
end

section
/-!
PROOF. Debug halts, steps and bench stops (R367 to R372), dumps (R381), trace and counter registers (R383, R390) and replay measurement
(R393 to R396).
-/
namespace Sys2Proof.Machine

variable {s : State} {z : Nat} {t : Team}

/-! ## Halting and resuming one team (R367, R368, R370 to R372) -/

/-- A team with no halt on its way, and not halted, takes the trigger's clock. -/
theorem Team.haltSoon_running (hskid : t.skid = none) (hhalt : t.halted = false) (clock : Nat) :
    t.haltSoon clock = { t with skid := some (clock, 0) } := by
  simp only [Team.haltSoon, hskid, hhalt, Option.isSome_none, Bool.or_self, Bool.false_eq_true, if_false]

theorem exec_tdbgStop (ht : s.teams.get? z = some t) (hend : t.ended = false) :
    exec (.tdbgStop z) s = .next (s.updTeam z fun t => t.haltSoon s.clock) := by
  show execTdbgStop z s = _
  simp only [execTdbgStop, ht, hend, Bool.false_eq_true, if_false]

theorem exec_tdbgResume (ht : s.teams.get? z = some t) : exec (.tdbgResume z) s = .next (s.dbgResume z (s.clock + 1)) := by
  show execTdbgResume z s = _
  simp only [execTdbgResume, ht]

theorem exec_tdbgStepgo (ht : s.teams.get? z = some t) : exec (.tdbgStepgo z) s = .next (s.dbgStep z) := by
  show execTdbgStepgo z s = _
  simp only [execTdbgStepgo, ht]

theorem State.dbgResume_halted (h : (s.reg (tdbgOff z)).getLsbD 2 = true) (at_ : Nat) :
    s.dbgResume z at_ = ((s.putReg (tdbgOff z) 2 1 0).updTeam z fun t => { t with
      halted := false, haltFrame := none, nobp := true, startAt := max t.startAt at_, skid := none }).traceResume z := by
  simp only [State.dbgResume, State.dbgHalted, h, Bool.not_true, Bool.false_eq_true, if_false]

theorem State.dbgStep_halted (h : (s.reg (tdbgOff z)).getLsbD 2 = true) :
    s.dbgStep z = ((s.putReg (tdbgOff z) 2 2 0).putReg (tdbgOff z) 7 1 0).updTeam z fun t => { t with
      halted := false, haltFrame := none, nobp := true, startAt := max t.startAt (s.clock + 1), skid := none,
      stepping := some s.clock } := by
  simp only [State.dbgStep, State.dbgHalted, h, Bool.not_true, Bool.false_eq_true, if_false]

/-- A halt triggered nine clocks ago has reached its team. -/
theorem exec_debugHalt_arrived {c n : Nat} (ht : s.teams.get? z = some t) (hskid : t.skid = some (c, n)) (hhalt : t.halted = false)
    (hend : t.ended = false) (hdue : c + 9 ≤ s.clock) (hrows : s.rowsDue (partOf z) = false) :
    exec (.debugHalt z) s = .next (s.debugHalt z n (s.clock - (c + 1))) := by
  show execDebugHalt z s = _
  simp only [execDebugHalt, ht, hskid, hhalt, hend, hrows, decide_eq_false (Nat.not_lt.mpr hdue), Bool.or_self, Bool.false_eq_true, if_false]

/-- A step begun 1,024 clocks ago ends with SBLK set. -/
theorem exec_stepTimeout_late {c : Nat} (ht : s.teams.get? z = some t) (hstep : t.stepping = some c) (hhalt : t.halted = false)
    (hend : t.ended = false) (hdue : c + 1024 ≤ s.clock) (hrows : s.rowsDue (partOf z) = false) :
    exec (.stepTimeout z) s = .next (((s.stopTeam z 0).putReg (tdbgOff z) 2 6 3).updTeam z fun t => { t with stepping := none }) := by
  show execStepTimeout z s = _
  simp only [execStepTimeout, ht, hstep, hhalt, hend, hrows, decide_eq_false (Nat.not_lt.mpr hdue), Bool.or_self, Bool.false_eq_true, if_false]

/-! ## Bench stops (R369, R371) -/

/-- With no bench stop in force or on its way, one is triggered for every team of the bench. -/
theorem exec_benchcmdStop_idle {b : Nat} (hway : s.bstop.get? b = none) (hforce : (s.reg (bstatOff b)).getLsbD 0 = false) :
    exec (.benchcmdStop b) s = .next { (s.putReg (bstatOff b) 1 3 1) with
      bstop := s.bstop.put b (s.clock, 1),
      teams := s.teams.map fun x => if coreOf x.1 / 8 = b then (x.1, x.2.haltSoon s.clock) else x } := by
  show Host.Outcome.next (s.triggerBench b 1) = _
  exact congrArg Host.Outcome.next (if_neg (by rw [hway, hforce]; decide))

/-- A bench stop triggered nine clocks ago is in force and halts its teams. -/
theorem exec_benchStop_arrived {b c k : Nat} (hstop : s.bstop.get? b = some (c, k)) (hdue : c + 9 ≤ s.clock) :
    exec (.benchStop b) s = .next { (s.putReg (bstatOff b) 0 1 1) with
      bstop := s.bstop.del b,
      teams := s.teams.map fun x => if coreOf x.1 / 8 = b ∧ x.2.ended = false then (x.1, x.2.haltSoon c) else x } := by
  show execBenchStop b s = _
  simp only [execBenchStop, hstop, Nat.not_lt.mpr hdue, if_false, Bool.and_eq_true, decide_eq_true_eq, Bool.not_eq_true']
  rfl

/-! ## Dumps (R381) -/

/-- A DBGCMD with GO and no CLR writes its fields, then runs. -/
theorem State.dbgcmdWrite_go {op slot : Nat} (s : State) (core : Nat) (hop : op < 16) (hslot : slot < 64) :
    s.dbgcmdWrite core (BitVec.ofNat 64 (op + 16 * (slot % 64) + 2 ^ 10)) =
      (s.putReg (coreDbg core) 0 10 (op + 16 * slot)).dbgGo core op slot := by
  have hval : (BitVec.ofNat 64 (op + 16 * (slot % 64) + 2 ^ 10)).toNat = op + 16 * slot + 1024 := by
    rw [BitVec.toNat_ofNat]
    omega
  have hgo : (BitVec.ofNat 64 (op + 16 * (slot % 64) + 2 ^ 10)).getLsbD 10 = true := by
    rw [BitVec.getLsbD, hval, Nat.testBit_eq_decide_div_mod_eq, decide_eq_true_eq]
    omega
  have hclear : (BitVec.ofNat 64 (op + 16 * (slot % 64) + 2 ^ 10)).getLsbD 12 = false := by
    rw [BitVec.getLsbD, hval, Nat.testBit_eq_decide_div_mod_eq, decide_eq_false_iff_not]
    omega
  have hfields : (op + 16 * slot + 1024) % 2 ^ 10 = op + 16 * slot := by omega
  have hcode : (op + 16 * slot + 1024) % 16 = op := by omega
  have hteam : (op + 16 * slot + 1024) / 16 % 64 = slot := by omega
  simp only [State.dbgcmdWrite, hgo, hclear, hval, hfields, hcode, hteam, Bool.false_eq_true, if_false, if_true]

section
variable {core slot : Nat}

/-- A DUMP or LOAD of a halted team, while none is under way. -/
theorem State.dbgGo_halted {op : Nat} (ht : s.teams.get? (64 * core + slot) = some t) (hbusy : (s.reg (coreDbg core)).getLsbD 11 = false)
    (hhalt : (s.reg (tdbgOff (64 * core + slot))).getLsbD 2 = true) (hop : op = 1 ∨ op = 2) :
    s.dbgGo core op slot =
      if op = 1 then s.writeImage (s.regBits (coreDbg core + 8) 6 46 * 64) (pieceLen (s.teamSection false 0 (64 * core + slot)))
        (flatPieces (s.teamSection false 0 (64 * core + slot)))
      else (s.loadTeam (s.regBits (coreDbg core + 8) 6 46 * 64) (64 * core + slot) t).getD (s.putReg (coreDbg core) 12 1 1) := by
  have hcode : (op != 1 && op != 2) = false := by rcases hop with rfl | rfl <;> rfl
  simp only [State.dbgGo, State.dbgHalted, ht, hbusy, hhalt, hcode, Bool.not_true, Bool.or_self, Bool.false_eq_true, if_false]

theorem exec_dump_halted {u : State} (hslot : slot < 64) (hu : u = s.putReg (coreDbg core) 0 10 (1 + 16 * slot))
    (ht : u.teams.get? (64 * core + slot) = some t) (hbusy : (u.reg (coreDbg core)).getLsbD 11 = false)
    (hhalt : (u.reg (tdbgOff (64 * core + slot))).getLsbD 2 = true) :
    exec (.dump core slot) s = .next (u.writeImage (u.regBits (coreDbg core + 8) 6 46 * 64)
      (pieceLen (u.teamSection false 0 (64 * core + slot))) (flatPieces (u.teamSection false 0 (64 * core + slot)))) := by
  show Host.Outcome.next (s.dbgcmdWrite core (BitVec.ofNat 64 (1 + 16 * (slot % 64) + 2 ^ 10))) = _
  rw [State.dbgcmdWrite_go s core (by decide) hslot, ← hu, State.dbgGo_halted ht hbusy hhalt (.inl rfl), if_pos rfl]

theorem exec_load_halted {u v : State} (hslot : slot < 64) (hu : u = s.putReg (coreDbg core) 0 10 (2 + 16 * slot))
    (ht : u.teams.get? (64 * core + slot) = some t) (hbusy : (u.reg (coreDbg core)).getLsbD 11 = false)
    (hhalt : (u.reg (tdbgOff (64 * core + slot))).getLsbD 2 = true)
    (hv : u.loadTeam (u.regBits (coreDbg core + 8) 6 46 * 64) (64 * core + slot) t = some v) :
    exec (.load core slot) s = .next v := by
  show Host.Outcome.next (s.dbgcmdWrite core (BitVec.ofNat 64 (2 + 16 * (slot % 64) + 2 ^ 10))) = _
  rw [State.dbgcmdWrite_go s core (by decide) hslot, ← hu, State.dbgGo_halted ht hbusy hhalt (.inr rfl), if_neg (by decide), hv,
    Option.getD_some]

end

/-! ## Counters (R390) -/

theorem cntOff_eq {k : Nat} (core : Nat) (hk : k < 4) : cntOff core k = coreDbg core + 0x400 + 8 * k := by
  rw [cntOff, Nat.mod_eq_of_lt hk]

/-- The low bits of a word. -/
theorem and_lowMask (a : Word) (w : Nat) {m : Word} (hm : m.toNat = 2 ^ w - 1) : a &&& m = BitVec.ofNat 64 (a.toNat % 2 ^ w) := by
  simpa using and_field_eq a 0 w (m := m) (by simpa using hm)

theorem exec_cntWrite_sel {k : Nat} (s : State) (core : Nat) (v : Word) (hk : k < 4) :
    exec (.cntWrite core k true v) s = .next ((s.setReg (coreDbg core + 0x400 + 8 * k) (BitVec.ofNat 64 (v.toNat % 2 ^ 16))).updCore core
      fun c => { c with events := c.events.set (cntWritten k) 1 }) := by
  show Host.Outcome.next (s.cntWrite core k true v) = _
  simp only [State.cntWrite, cntOff_eq core hk, and_lowMask v 16 (m := 0xFFFF#64) rfl, if_true]

/-- A write of a counter that clears OV leaves the count alone in it. -/
theorem exec_cntWrite_count {k : Nat} {v : Word} (s : State) (core : Nat) (hk : k < 4) (hov : v.getLsbD 48 = true) :
    exec (.cntWrite core k false v) s = .next ((s.setReg (coreDbg core + 0x420 + 8 * k) (BitVec.ofNat 64 (v.toNat % 2 ^ 48))).updCore core
      fun c => { c with events := c.events.set (cntWritten k) 1 }) := by
  have hoff : coreDbg core + 0x400 + 8 * k + 0x20 = coreDbg core + 0x420 + 8 * k := by omega
  show Host.Outcome.next (s.cntWrite core k false v) = _
  simp only [State.cntWrite, cntOff_eq core hk, hoff, hov, and_lowMask v 48 (m := 0xFFFFFFFFFFFF#64) rfl, BitVec.or_zero,
    Bool.false_eq_true, if_false, if_true]

/-! ## Replay measurement (R393 to R396) -/

section
variable (hbusy : (s.reg rplBase).getLsbD 5 = false)
include hbusy

theorem State.rplRun_begin : s.rplRun 1 = { ((((s.putReg rplBase 7 3 0).putReg (rplBase + 0x18) 0 24 0).setReg (rplBase + 0x20) 0).setReg
    (rplBase + 0x28) 0) with captured := [] } := by
  unfold State.rplRun
  rw [hbusy]
  simp

/-- With no team of the address space resident, RESTORE and RESET run. -/
theorem State.rplRun_absent {op : Nat} (hop : op = 2 ∨ op = 3) (hnone : ∀ x ∈ s.teams, x.2.asid.toNat ≠ s.regBits rplBase 24 16) :
    s.rplRun op = if op = 2 then s.rplRestorePages else s.coldCaches := by
  have hres : (s.teams.any fun x => x.2.asid.toNat == s.regBits rplBase 24 16) = false :=
    List.any_eq_false.mpr fun x hx => by simp [hnone x hx]
  unfold State.rplRun
  rw [hbusy]
  rcases hop with rfl | rfl <;> simp [hres]

/-- The first pass's signatures become the reference. -/
theorem State.rplRun_end_first (hpass : s.regBits rplBase 16 8 = 0) : s.rplRun 4 =
    (s.setReg (rplBase + 0x30) (s.reg (rplBase + 0x20))).setReg (rplBase + 0x38)
      ((s.setReg (rplBase + 0x30) (s.reg (rplBase + 0x20))).reg (rplBase + 0x28)) := by
  have hother : (s.setReg (rplBase + 0x30) (s.reg (rplBase + 0x20))).reg (rplBase + 0x28) = s.reg (rplBase + 0x28) :=
    State.setReg_other _ _ _ (by omega)
  unfold State.rplRun
  rw [hbusy]
  simp [hpass, hother]

end

end Sys2Proof.Machine
end

section
/-!
PROOF. The end of a clock (R382): what comes before TIME's advance leaves the clock, TIME and PSTAT, so that TIME advances by the length
of the clock that ends.
-/
namespace Sys2Proof.Machine

/-- A state has the clock, TIME and PSTAT of another. -/
def State.SameTime (s u : State) : Prop := u.clock = s.clock ∧ u.tick = s.tick ∧ u.reg 0 = s.reg 0

variable {s u : State}

theorem State.SameTime.refl (s : State) : s.SameTime s := ⟨rfl, rfl, rfl⟩

theorem State.SameTime.tickParts_eq (h : s.SameTime u) : u.tickParts = s.tickParts := by
  obtain ⟨-, -, hreg⟩ := h
  unfold State.tickParts State.pclk State.regBits
  rw [hreg]

theorem State.SameTime.ite {v : State} {c : Prop} [Decidable c] (hu : s.SameTime u) (hv : s.SameTime v) :
    s.SameTime (if c then u else v) := by
  split
  · exact hu
  · exact hv

theorem State.SameTime.foldl {β : Type} {f : State → β → State} {l : List β} (hf : ∀ u b, s.SameTime u → s.SameTime (f u b))
    (h : s.SameTime u) : s.SameTime (l.foldl f u) := foldl_keeps (s.SameTime ·) f hf l u h

/-! ## Registers, counters and trace records -/

/-- PSTAT is register 0. -/
theorem State.SameTime.setReg {off : Nat} {v : Word} (h : s.SameTime u) (hoff : 0 < off) : s.SameTime (u.setReg off v) := by
  obtain ⟨hclock, htick, hreg⟩ := h
  exact ⟨hclock, htick, (State.setReg_other u off v (Nat.ne_of_lt hoff)).trans hreg⟩

theorem State.SameTime.putReg {off lo n v : Nat} (h : s.SameTime u) (hoff : 0 < off) : s.SameTime (u.putReg off lo n v) := .setReg h hoff

theorem State.SameTime.satReg {off lo n k : Nat} (h : s.SameTime u) (hoff : 0 < off) : s.SameTime (u.satReg off lo n k) := .putReg h hoff

theorem State.SameTime.writeMem {pa : Nat} {l : List Byte} {p : Bool} (h : s.SameTime u) : s.SameTime (u.writeMem pa l p) := by
  unfold State.SameTime State.reg
  rw [State.writeMem_clock, State.writeMem_tick, State.writeMem_regs]
  exact h

theorem State.SameTime.updTeam {z : Nat} {f : Team → Team} (h : s.SameTime u) : s.SameTime (u.updTeam z f) := h

theorem State.SameTime.updCore {k : Nat} {f : CoreSt → CoreSt} (h : s.SameTime u) : s.SameTime (u.updCore k f) := h

theorem coreDbg_pos (core : Nat) : 0 < coreDbg core := by
  unfold coreDbg dbgBase
  omega

/-- No register of a core's debug region is register 0. -/
theorem coreDbg_add_pos (core k : Nat) : 0 < coreDbg core + k := Nat.add_pos_left (coreDbg_pos core) k

theorem cntOff_pos (core k : Nat) : 0 < cntOff core k := Nat.add_pos_left (coreDbg_add_pos core _) _

theorem State.SameTime.ringPut {core : Nat} {l : List (List Byte)} (h : s.SameTime u) : s.SameTime (u.ringPut core l) :=
  .foldl (fun _ _ h => .putReg (.writeMem h) (coreDbg_add_pos ..)) h

theorem State.SameTime.trace {core typ part slot extra : Nat} {soa : Word} (h : s.SameTime u) :
    s.SameTime (u.trace core typ part slot extra soa) := by
  unfold State.trace
  extract_lets
  split
  · exact h
  · exact .ite h (.ite (.updCore (.satReg h (coreDbg_add_pos ..))) (.updCore (.ringPut h)))

theorem State.SameTime.count {core code part : Nat} {tmode : Bool} {n : Nat} (h : s.SameTime u) : s.SameTime (u.count core code part tmode n) :=
  .updCore h

theorem State.SameTime.countTeam {z code n : Nat} (h : s.SameTime u) : s.SameTime (u.countTeam z code n) := .count h

theorem State.SameTime.addCount {core k n : Nat} (h : s.SameTime u) : s.SameTime (u.addCount core k n) := by
  have hoff : 0 < cntOff core k + 0x20 := Nat.add_pos_left (cntOff_pos core k) _
  exact .ite h (.ite (.putReg h hoff) (.ite (.trace (.putReg (.putReg h hoff) hoff)) (.putReg (.putReg h hoff) hoff)))

theorem State.SameTime.levelEvents {core : Nat} (h : s.SameTime u) : s.SameTime (u.levelEvents core) := by
  unfold State.levelEvents
  extract_lets s1 s2 s3
  have h1 : s.SameTime s1 := .count h
  have h2 : s.SameTime s2 := .foldl (fun _ _ h => .ite h (.ite (.countTeam (.ite (.countTeam h) h)) (.ite (.countTeam h) h))) h1
  have h3 : s.SameTime s3 := .ite (.count h2) h2
  exact .ite (.count h3) h3

theorem State.SameTime.countCycle {core : Nat} (h : s.SameTime u) : s.SameTime (u.countCycle core) := by
  unfold State.countCycle
  extract_lets s1
  have h1 : s.SameTime s1 := .levelEvents h
  split
  · exact h1
  · exact .updCore (.foldl (fun _ _ h => .ite h (.addCount h)) h1)

theorem State.SameTime.lostTick {core : Nat} (h : s.SameTime u) : s.SameTime (u.lostTick core) := by
  unfold State.lostTick
  split
  · exact h
  · exact .updCore (.ite h (.foldl (fun _ _ h => .putReg h (Nat.add_pos_left (coreDbg_add_pos ..) _)) h))

/-! ## Dispatchers and links -/

theorem State.SameTime.waitTick {leaf : Nat} (h : s.SameTime u) : s.SameTime (u.waitTick leaf) := by
  unfold State.waitTick
  extract_lets _ _ _ _ _ s1
  have h1 : s.SameTime s1 := .ite h h
  exact h1

theorem State.SameTime.emit {o : Out} (h : s.SameTime u) : s.SameTime (u.emit o) := .ite h (.ite h h)

theorem State.SameTime.sendPkt {n typ len : Nat} {addr : Word} {arg : Nat} {payload : List Byte} (h : s.SameTime u) :
    s.SameTime (u.sendPkt n typ len addr arg payload) := .ite h (.emit h)

theorem State.SameTime.sendIrq {n vec : Nat} (h : s.SameTime u) : s.SameTime (u.sendIrq n vec) := .ite h (.sendPkt h)

theorem State.SameTime.platformEvent {bit : Nat} (h : s.SameTime u) : s.SameTime (u.platformEvent bit) := by
  have hreg : s.SameTime (u.setReg 0x10 (u.reg 0x10 ||| (1#64 <<< bit))) := .setReg h (by decide)
  exact .ite h (.foldl (fun _ _ h => .ite (.sendIrq h) h) hreg)

theorem State.SameTime.farAnswer {num : Nat} {x : Option Nat} {data : List Byte} {q : BitVec 64} (h : s.SameTime u) :
    s.SameTime (u.farAnswer num x data q) := by
  unfold State.farAnswer
  split
  · exact h
  · extract_lets _ s1 _
    have h1 : s.SameTime s1 := h
    split
    · exact .updTeam h1
    · exact h1
    · exact h1
    · exact .updTeam h1
    · exact h1
    · exact h1

theorem State.SameTime.dropLost {r : FarReq} (h : s.SameTime u) : s.SameTime (u.dropLost r) := .ite (.farAnswer (.platformEvent h)) h

theorem State.SameTime.lostPacket {hd : FabHead} (h : s.SameTime u) : s.SameTime (u.lostPacket hd) :=
  .ite (.farAnswer (.platformEvent h)) (.platformEvent h)

theorem State.SameTime.updPort {p : Nat} {f : Port → Port} (h : s.SameTime u) : s.SameTime (u.updPort p f) := h

theorem State.SameTime.sendFab {k : FabPkt} {front : Bool} (h : s.SameTime u) : s.SameTime (u.sendFab k front) := by
  unfold State.sendFab
  extract_lets
  split
  · exact .updPort h
  · exact .lostPacket h

theorem State.SameTime.sendNew {hd : FabHead} {data : List Byte} {k : Nat} (h : s.SameTime u) : s.SameTime (u.sendNew hd data k) := .sendFab h

theorem State.SameTime.payOwed {x : FarOwed} (h : s.SameTime u) : s.SameTime (u.payOwed x) := .ite h (.sendNew h)

theorem State.SameTime.invalidateFar {x : DirEntry} (h : s.SameTime u) : s.SameTime (u.invalidateFar x) := .ite h (.sendNew h)

theorem State.SameTime.sendFlits {p : Nat} (h : s.SameTime u) : s.SameTime (u.sendFlits p) :=
  .ite h (.foldl (fun _ _ h => .ite h (.updPort h)) h)

theorem State.SameTime.linkTick (h : s.SameTime u) : s.SameTime u.linkTick := by
  unfold State.linkTick
  extract_lets s1 s2 s3
  have h1 : s.SameTime s1 := .foldl (fun _ _ h => .dropLost h) h
  have h2 : s.SameTime s2 := .foldl (fun _ _ h => .payOwed h) h1
  have h3 : s.SameTime s3 := .foldl (fun _ _ h => .invalidateFar h) h2
  exact .foldl (fun _ _ h => .sendFlits h) h3

/-! ## The clock's end -/

/-- A clock step changes PSTAT, what the trace records of its cores must say, and the steps that wait. -/
theorem State.clockSteps_frame (s : State) : { s.clockSteps with regs := s.regs, cores := s.cores, plat := s.plat } = s := by
  unfold State.clockSteps
  split
  · rfl
  · refine foldl_keeps (fun u : State => { u with regs := s.regs, cores := s.cores, plat := s.plat } = s) _ (fun u x hu => ?_) _ _ rfl
    split <;> exact hu

@[simp] theorem State.clockSteps_clock (s : State) : s.clockSteps.clock = s.clock := (congrArg State.clock s.clockSteps_frame :)
@[simp] theorem State.clockSteps_ticked (s : State) : s.clockSteps.ticked = s.ticked := (congrArg State.ticked s.clockSteps_frame :)
@[simp] theorem State.clockSteps_turns (s : State) : s.clockSteps.turns = s.turns := (congrArg State.turns s.clockSteps_frame :)
@[simp] theorem State.clockSteps_tick (s : State) : s.clockSteps.tick = s.tick := (congrArg State.tick s.clockSteps_frame :)

/-- A clock ends: the next one begins with no turn taken, and TIME has advanced by the length of the clock that ended. -/
theorem exec_eventCounterIncrement (s : State) : ∃ u, exec .eventCounterIncrement s = .next u ∧ u.clock = s.clock + 1 ∧ u.ticked = true ∧
    u.turns = [] ∧ u.tick = s.tick + s.tickParts := by
  show ∃ u, execEventCounterIncrement s = .next u ∧ _
  unfold execEventCounterIncrement
  extract_lets s1 s2 s3
  have h1 : s.SameTime s1 := .foldl (fun _ _ h => .lostTick (.countCycle h)) (.refl s)
  have h2 : s.SameTime s2 := .linkTick (.foldl (fun _ _ h => .waitTick h) h1)
  clear_value s2
  have hparts := h2.tickParts_eq
  obtain ⟨hclock, htick, -⟩ := h2
  refine ⟨_, rfl, (State.clockSteps_clock _).trans ?_, State.clockSteps_ticked _, State.clockSteps_turns _, (State.clockSteps_tick _).trans ?_⟩
  · exact congrArg (· + 1) hclock
  · exact congrArg₂ (· + ·) htick hparts

end Sys2Proof.Machine
end

section
/-!
PROOF. Debugging, tracing, counting and replay (R367 to R372, R381 to R383, R389 to R396).
-/
namespace Sys2Proof.Machine

/-- Settles O55: one equation per step of the debug, trace and counter registers, the end of a clock, and the replay operations. -/
theorem debugSteps : Obligations.DebugSteps := by
  refine ⟨fun s z t ht => ⟨fun hend hskid hhalt => ⟨exec_tdbgStop ht hend, Team.haltSoon_running hskid hhalt _⟩, fun hhalt => ⟨?_, ?_⟩,
      fun c n => exec_debugHalt_arrived ht, fun c => exec_stepTimeout_late ht⟩,
    fun s b => ⟨exec_benchcmdStop_idle, rfl, fun c k => exec_benchStop_arrived⟩,
    ?_,
    fun s s' core k v hs hk => ⟨?_, exec_cntWrite_sel s core v hk, exec_cntWrite_count s core hk⟩,
    fun s part => rfl, exec_eventCounterIncrement,
    fun s op u hu hbusy => ⟨?_, ?_, ?_, ?_⟩⟩
  · rw [exec_tdbgResume ht, State.dbgResume_halted hhalt]
  · rw [exec_tdbgStepgo ht, State.dbgStep_halted hhalt]
  · rintro s u core slot z t hslot rfl ht hbusy hhalt
    exact ⟨fun hu => exec_dump_halted hslot hu ht hbusy hhalt, fun v hu => exec_load_halted hslot hu ht hbusy hhalt⟩
  · rw [hs]
    rfl
  · rintro rfl
    subst hu
    exact congrArg Host.Outcome.next (State.rplRun_begin hbusy)
  · rintro rfl hnone
    subst hu
    exact congrArg Host.Outcome.next (State.rplRun_absent hbusy (.inl rfl) hnone)
  · rintro rfl hnone
    subst hu
    exact congrArg Host.Outcome.next (State.rplRun_absent hbusy (.inr rfl) hnone)
  · rintro rfl hpass
    subst hu
    exact congrArg Host.Outcome.next (State.rplRun_end_first hbusy hpass)

end Sys2Proof.Machine
end
